-- ==== Sys2Proof/Word.lean ====
section
/-! DEFINITION. The word types of the W2: 64-bit registers, bytes of memory, 32-bit thread masks (R26, R33). -/

namespace Sys2Proof

/-- A register of the machine (R33). -/
abbrev Word := BitVec 64

/-- One byte of memory; multi-byte values are little-endian (R3). -/
abbrev Byte := BitVec 8

/-- One bit per thread of a gang, bit i for thread i (R26). -/
abbrev Mask := BitVec 32

end Sys2Proof
end

