-- ==== Sys2Proof/Machine/Maps.lean ====
section
/-! DEFINITION. Sparse maps in one canonical form: keys strictly rising, no entry equal to what an unlisted key reads as.
Registers, memories and tables of the machine are such lists, so that equal contents are equal data. -/

namespace Sys2Proof.Machine

/-- A table of `α` by number; an unlisted number holds nothing. -/
abbrev AMap (α : Type) := List (Nat × α)

/-- A table of words of `w` bits by number; an unlisted number holds zero. -/
abbrev Sparse (w : Nat) := List (Nat × BitVec w)

/-- The entry of a key. -/
def mapGet {α : Type} : AMap α → Nat → Option α
  | [], _ => none
  | (j, a) :: r, k => if j = k then some a else mapGet r k

/-- Removes a key. -/
def mapErase {α : Type} : AMap α → Nat → AMap α
  | [], _ => []
  | (j, a) :: r, k => if j = k then mapErase r k else (j, a) :: mapErase r k

/-- Puts an entry before the first larger key. -/
def mapPlace {α : Type} : AMap α → Nat → α → AMap α
  | [], k, v => [(k, v)]
  | (j, a) :: r, k, v => if k < j then (k, v) :: (j, a) :: r else (j, a) :: mapPlace r k v

/-- Sets the entry of a key. -/
def mapSet {α : Type} (m : AMap α) (k : Nat) (v : α) : AMap α := mapPlace (mapErase m k) k v

/-- Changes the entry of a key, where it has one. -/
def mapUpdate {α : Type} (m : AMap α) (k : Nat) (f : α → α) : AMap α :=
  match mapGet m k with
  | none => m
  | some a => mapSet m k (f a)

/-- Keeps the entries that satisfy a test. -/
def mapFilter {α : Type} (p : Nat → α → Bool) (m : AMap α) : AMap α := m.filter fun e => p e.1 e.2

/-- Changes every entry. -/
def mapAll {α : Type} (f : Nat → α → α) (m : AMap α) : AMap α := m.map fun e => (e.1, f e.1 e.2)

/-- The least number of a list of candidates that is not a key. -/
def mapFree {α : Type} (m : AMap α) : List Nat → Option Nat
  | [] => none
  | k :: r => if (mapGet m k).isNone then some k else mapFree m r

/-- The word of a key. -/
def wordGet {w : Nat} (m : Sparse w) (k : Nat) : BitVec w := (mapGet m k).getD 0

/-- Writes the word of a key; a zero word is not listed. -/
def wordSet {w : Nat} (m : Sparse w) (k : Nat) (v : BitVec w) : Sparse w :=
  if v = 0 then mapErase m k else mapSet m k v

/-- Keys strictly rising. -/
def mapSorted {α : Type} : AMap α → Bool
  | [] => true
  | [_] => true
  | (j, _) :: (k, b) :: r => decide (j < k) && mapSorted ((k, b) :: r)

/-- The canonical form of a table of words. -/
def wordWf {w : Nat} (m : Sparse w) : Bool := mapSorted m && m.all fun e => !(e.2 == 0)

/-- Writes the words of consecutive keys. -/
def wordSetList {w : Nat} (m : Sparse w) (k : Nat) : List (BitVec w) → Sparse w
  | [] => m
  | v :: r => wordSetList (wordSet m k v) (k + 1) r

/-- The words of `n` consecutive keys. -/
def wordGetList {w : Nat} (m : Sparse w) (k : Nat) : Nat → List (BitVec w)
  | 0 => []
  | n + 1 => wordGet m k :: wordGetList m (k + 1) n

/-- A little-endian number from its bytes (R3). -/
def bytesToNat : List (BitVec 8) → Nat
  | [] => 0
  | b :: r => b.toNat + 256 * bytesToNat r

/-- The `n` little-endian bytes of a number (R3). -/
def natToBytes : Nat → Nat → List (BitVec 8)
  | 0, _ => []
  | n + 1, x => BitVec.ofNat 8 x :: natToBytes n (x / 256)

/-- Bits `lo` up to `lo + n - 1` of a number (R8). -/
def bits (x lo n : Nat) : Nat := (x >>> lo) % 2 ^ n

/-- The threads of a mask in ascending order (R26). -/
def threadsOf (m : BitVec 32) : List Nat := (List.range 32).filter fun t => m.getLsbD t

/-- The mask of the threads that satisfy a test. -/
def maskOf (ts : List Nat) (p : Nat → Bool) : BitVec 32 :=
  ts.foldl (fun m t => if p t then m ||| (1 <<< t) else m) 0

/-- The position of a value in a list. -/
def indexOf? (l : List Nat) (x : Nat) : Option Nat :=
  match l with
  | [] => none
  | y :: r => if y = x then some 0 else (indexOf? r x).map (· + 1)

/-- Changes entry `i` of a list. -/
def listUpdate {α : Type} : List α → Nat → (α → α) → List α
  | [], _, _ => []
  | a :: r, 0, f => f a :: r
  | a :: r, i + 1, f => a :: listUpdate r i f

end Sys2Proof.Machine
end

