-- ==== Sys2Proof/Syntax.lean ====
section
/-! DEFINITION. The steps of the W2, one constructor per row of the opcode table: encoded instructions carry the fields
of their internal word (R93) or of their short form (R97); device, host and environment steps carry what names them. -/

namespace Sys2Proof

/-- The stored form of an instruction (R89); its number is the LEN field of R93. -/
inductive Form where
  | short
  | medium
  | long
  deriving DecidableEq, Repr

/-- The fields of the 96-bit internal word other than OPC (R93); OPC is the constructor of `Instr`. -/
structure Fields where
  len : Form
  typ : BitVec 5
  rnd : BitVec 3
  grd : BitVec 5
  d : BitVec 10
  a : BitVec 10
  b : BitVec 10
  c : BitVec 10
  imm : BitVec 31
  deriving DecidableEq, Repr

/-- The fields of a short form other than OPC (R97). -/
structure ShortFields where
  d : BitVec 5
  a : BitVec 5
  b : BitVec 5
  imm6 : BitVec 6
  deriving DecidableEq, Repr

/-- What stops a copy while it is performed (R293). -/
inductive CopyFailure where
  | translation (cause : Nat)
  | poison
  | fabricLoss
  deriving DecidableEq, Repr

/-- The operations of an incoming UALink access (R405, R407). -/
inductive RemoteOp where
  | load
  | store
  | add
  | min
  | max
  | and
  | or
  | xor
  | exch
  | cas
  deriving DecidableEq, Repr

/-- An incoming remote load, store or atomic (R405, R407): the station it arrives on, the sender's chip and TENANT,
the virtual address at the destination, its size in bytes, whether min and max are signed, and its data. -/
structure RemoteAccess where
  station : Nat
  source : Nat
  tenant : Nat
  op : RemoteOp
  signed : Bool
  va : Nat
  size : Nat
  data : List (BitVec 8)
  compare : List (BitVec 8)
  deriving DecidableEq, Repr

/-- A PCIe ATS translation completion (R351, R352): a translated 64 KiB range with its permissions, or a denial. -/
inductive AtsAnswer where
  | granted (host : Nat) (read write : Bool)
  | denied
  | unsupported
  deriving DecidableEq, Repr

/-- One request of an arbitration round: its VF, its tokens and the cycle it became ready (R366, R367). -/
structure BucketRequest where
  vf : Nat
  tokens : Nat
  since : Nat
  deriving DecidableEq, Repr

/-- The SCOPE of DRAINCTL (R404). -/
inductive DrainScope where
  | vf
  | partition
  | device
  deriving DecidableEq, Repr

/-- LSTATE of a link record (R403). -/
inductive LinkState where
  | down
  | training
  | up
  | failed
  | duplicate
  deriving DecidableEq, Repr

/-- What the sensors report (R412): the temperature of a die, and whether the power stands above its limit. -/
structure SensorReport where
  die : Nat
  temp : Nat
  high : Bool
  deriving DecidableEq, Repr

/-- What a host access through an aperture does (R394, R396, R397): a read, a write, or a PCIe AtomicOp of the device as
completer, which is FetchAdd (`add`), Swap (`exch`) or CAS (`cas`). The size stands beside it. -/
inductive BarOp where
  | read
  | write (data : List (BitVec 8))
  | atomic (op : RemoteOp) (data compare : List (BitVec 8))
  deriving DecidableEq, Repr

/-- The signed manifest as far as the spec names its content (R23, R24, R408). -/
structure Manifest where
  stepping : BitVec 8
  pod : BitVec 11
  member : BitVec 10
  rollback : Nat
  /-- The digests of every firmware image (R408). -/
  digests : List (BitVec 512)
  signatureValid : Bool
  deriving DecidableEq, Repr

/-- One step of the device for each row of the opcode table. -/
inductive Instr where
  /-- SMOV (R154). Uniform move of a into an s or b register. -/
  | smov (f : Fields)
  /-- SMOVI (R154). Uniform move of a sign-extended family-K constant. -/
  | smovi (f : Fields)
  /-- SADD (R154). Uniform integer addition a + b, truncated to w bits. -/
  | sadd (f : Fields)
  /-- SSUB (R154). Uniform integer subtraction a - b. -/
  | ssub (f : Fields)
  /-- SMUL (R154). Uniform integer multiplication, low w bits. -/
  | smul (f : Fields)
  /-- SMULH (R154). Uniform integer multiplication, high w bits. -/
  | smulh (f : Fields)
  /-- SDIV (R158). Uniform integer division rounded toward zero; faults with INT_DIVIDE on b = 0. -/
  | sdiv (f : Fields)
  /-- SREM (R158). Uniform integer remainder; faults with INT_DIVIDE on b = 0. -/
  | srem (f : Fields)
  /-- SAND (R154). Uniform bitwise AND. -/
  | sand (f : Fields)
  /-- SOR (R154). Uniform bitwise OR. -/
  | sor (f : Fields)
  /-- SXOR (R154). Uniform bitwise XOR. -/
  | sxor (f : Fields)
  /-- SNOT (R154). Uniform bitwise NOT. -/
  | snot (f : Fields)
  /-- SSHL (R155). Uniform logical shift left by b[7:0]. -/
  | sshl (f : Fields)
  /-- SSHR (R155). Uniform logical shift right by b[7:0]. -/
  | sshr (f : Fields)
  /-- SSAR (R155). Uniform arithmetic shift right by b[7:0]. -/
  | ssar (f : Fields)
  /-- SMIN (R154). Uniform minimum of a and b. -/
  | smin (f : Fields)
  /-- SMAX (R154). Uniform maximum of a and b. -/
  | smax (f : Fields)
  /-- SCMP (R157). Uniform comparison that writes a condition under the CC code. -/
  | scmp (f : Fields)
  /-- SSEL (R157). Uniform select of a or b by a condition or predicate in C. -/
  | ssel (f : Fields)
  /-- SCLZ (R154). Uniform count of leading zeros. -/
  | sclz (f : Fields)
  /-- SPOPC (R154). Uniform population count. -/
  | spopc (f : Fields)
  /-- SBFX (R156). Uniform bit-field extract. -/
  | sbfx (f : Fields)
  /-- SBFI (R156). Uniform bit-field insert. -/
  | sbfi (f : Fields)
  /-- IMOV (R154). Lane move. -/
  | imov (f : Fields)
  /-- IMOV_SHORT (R154). Lane move in the 32-bit short form. -/
  | imovShort (f : ShortFields)
  /-- IMOVI (R154). Lane move of a constant. -/
  | imovi (f : Fields)
  /-- IMOVI_SHORT (R154). Lane move of a 6-bit signed constant in the short form. -/
  | imoviShort (f : ShortFields)
  /-- IADD (R154). Lane integer addition. -/
  | iadd (f : Fields)
  /-- IADD_SHORT (R154). Lane integer addition in the short form. -/
  | iaddShort (f : ShortFields)
  /-- ISUB (R154). Lane integer subtraction. -/
  | isub (f : Fields)
  /-- ISUB_SHORT (R154). Lane integer subtraction in the short form. -/
  | isubShort (f : ShortFields)
  /-- IMUL (R154). Lane integer multiplication. -/
  | imul (f : Fields)
  /-- IMUL_SHORT (R154). Lane integer multiplication in the short form. -/
  | imulShort (f : ShortFields)
  /-- IMULH (R154). Lane integer multiplication, high w bits. -/
  | imulh (f : Fields)
  /-- IDIV (R158). Lane integer division; faults with INT_DIVIDE when any participating thread has b = 0. -/
  | idiv (f : Fields)
  /-- IREM (R158). Lane integer remainder; faults with INT_DIVIDE on b = 0. -/
  | irem (f : Fields)
  /-- IAND (R154). Lane bitwise AND. -/
  | iand (f : Fields)
  /-- IAND_SHORT (R154). Lane bitwise AND in the short form. -/
  | iandShort (f : ShortFields)
  /-- IOR (R154). Lane bitwise OR. -/
  | ior (f : Fields)
  /-- IOR_SHORT (R154). Lane bitwise OR in the short form. -/
  | iorShort (f : ShortFields)
  /-- IXOR (R154). Lane bitwise XOR. -/
  | ixor (f : Fields)
  /-- IXOR_SHORT (R154). Lane bitwise XOR in the short form. -/
  | ixorShort (f : ShortFields)
  /-- INOT (R154). Lane bitwise NOT. -/
  | inot (f : Fields)
  /-- INOT_SHORT (R154). Lane bitwise NOT in the short form. -/
  | inotShort (f : ShortFields)
  /-- ISHL (R155). Lane shift left. -/
  | ishl (f : Fields)
  /-- ISHL_SHORT (R155). Lane shift left in the short form. -/
  | ishlShort (f : ShortFields)
  /-- ISHR (R155). Lane logical shift right. -/
  | ishr (f : Fields)
  /-- ISHR_SHORT (R155). Lane logical shift right in the short form. -/
  | ishrShort (f : ShortFields)
  /-- ISAR (R155). Lane arithmetic shift right. -/
  | isar (f : Fields)
  /-- ISAR_SHORT (R155). Lane arithmetic shift right in the short form. -/
  | isarShort (f : ShortFields)
  /-- IMIN (R154). Lane minimum. -/
  | imin (f : Fields)
  /-- IMIN_SHORT (R154). Lane minimum in the short form. -/
  | iminShort (f : ShortFields)
  /-- IMAX (R154). Lane maximum. -/
  | imax (f : Fields)
  /-- IMAX_SHORT (R154). Lane maximum in the short form. -/
  | imaxShort (f : ShortFields)
  /-- ICMP (R157). Lane comparison that writes a two-valued predicate. -/
  | icmp (f : Fields)
  /-- ISEL (R157). Lane select of a or b by C. -/
  | isel (f : Fields)
  /-- ICLZ (R154). Lane count of leading zeros. -/
  | iclz (f : Fields)
  /-- ICLZ_SHORT (R154). Lane count of leading zeros in the short form. -/
  | iclzShort (f : ShortFields)
  /-- IPOPC (R154). Lane population count. -/
  | ipopc (f : Fields)
  /-- IPOPC_SHORT (R154). Lane population count in the short form. -/
  | ipopcShort (f : ShortFields)
  /-- IBFX (R156). Lane bit-field extract. -/
  | ibfx (f : Fields)
  /-- IBFI (R156). Lane bit-field insert. -/
  | ibfi (f : Fields)
  /-- IMAD (R154). Lane integer multiply-add a * b + c. -/
  | imad (f : Fields)
  /-- IABS (R154). Lane absolute value. -/
  | iabs (f : Fields)
  /-- IABS_SHORT (R154). Lane absolute value in the short form. -/
  | iabsShort (f : ShortFields)
  /-- INEG (R154). Lane negation. -/
  | ineg (f : Fields)
  /-- INEG_SHORT (R154). Lane negation in the short form. -/
  | inegShort (f : ShortFields)
  /-- IROT (R155). Lane rotate left. -/
  | irot (f : Fields)
  /-- SFROM (R160). Copies one selected thread's register into an s or b register. -/
  | sfrom (f : Fields)
  /-- PSET (R162). Sets a predicate to a constant false, true or undecided value. -/
  | pset (f : Fields)
  /-- PMOV (R162). Copies a predicate source. -/
  | pmov (f : Fields)
  /-- PAND (R161). Three-valued AND of predicates. -/
  | pand (f : Fields)
  /-- POR (R161). Three-valued OR of predicates. -/
  | por (f : Fields)
  /-- PXOR (R161). Three-valued XOR of predicates. -/
  | pxor (f : Fields)
  /-- PNOT (R161). Three-valued NOT of a predicate. -/
  | pnot (f : Fields)
  /-- PDEC (R162). Replaces undecided predicate values with a second source. -/
  | pdec (f : Fields)
  /-- PTOI (R162). Converts a predicate to the integer 0, 1 or 2. -/
  | ptoi (f : Fields)
  /-- VOTE (R163). Reduces a predicate over the participating threads in any, all, ballot or count mode. -/
  | vote (f : Fields)
  /-- BRA (R165). Uniform relative branch of the running path. -/
  | bra (f : Fields)
  /-- BRA_SHORT (R165). Uniform relative branch with a 6-bit offset in the short form. -/
  | braShort (f : ShortFields)
  /-- BRV (R44). Per-thread branch that may diverge and push a reconvergence entry. -/
  | brv (f : Fields)
  /-- JMPI (R167). Indirect jump to the code base plus a register offset. -/
  | jmpi (f : Fields)
  /-- CALL (R168). Writes the return offset and branches. -/
  | call (f : Fields)
  /-- RET (R167). Returns to the code offset held in a register. -/
  | ret (f : Fields)
  /-- SLOOP (R169). Decrements a counter and branches while it is non-zero. -/
  | sloop (f : Fields)
  /-- RCV (R46). Reconvergence point: parks the running path or completes reconvergence of the top entry. -/
  | rcv (f : Fields)
  /-- RCV_SHORT (R170). Reconvergence point without a report, with a 6-bit timeout, in the short form. -/
  | rcvShort (f : ShortFields)
  /-- EXIT (R171). Ends every participating thread. -/
  | exit (f : Fields)
  /-- EXIT_SHORT (R171). Ends every thread in EM, in the unguarded short form. -/
  | exitShort (f : ShortFields)
  /-- QUIT (R172). Ends every thread of the gang and discards the reconvergence stack. -/
  | quit (f : Fields)
  /-- QUIT_SHORT (R172). QUIT in the short form. -/
  | quitShort (f : ShortFields)
  /-- NOP (R174). Issues and counts toward distances only. -/
  | nop (f : Fields)
  /-- NOP_SHORT (R174). NOP in the short form. -/
  | nopShort (f : ShortFields)
  /-- EMSET (R175). Sets EM to a register AND PM. -/
  | emset (f : Fields)
  /-- EMGET (R175). Reads EM and PM into a register. -/
  | emget (f : Fields)
  /-- FMOV (R240). Floating-point move, bit for bit. -/
  | fmov (f : Fields)
  /-- FMOV_SHORT (R240). Floating-point move in the short form. -/
  | fmovShort (f : ShortFields)
  /-- FADD (R240). Rounded floating-point addition. -/
  | fadd (f : Fields)
  /-- FADD_SHORT (R240). FP32 addition under rne in the short form. -/
  | faddShort (f : ShortFields)
  /-- FSUB (R240). Rounded floating-point subtraction. -/
  | fsub (f : Fields)
  /-- FSUB_SHORT (R240). FP32 subtraction in the short form. -/
  | fsubShort (f : ShortFields)
  /-- FMUL (R240). Rounded floating-point multiplication. -/
  | fmul (f : Fields)
  /-- FMUL_SHORT (R240). FP32 multiplication in the short form. -/
  | fmulShort (f : ShortFields)
  /-- FFMA (R240). Fused multiply-add with one rounding. -/
  | ffma (f : Fields)
  /-- FDIV (R240). Correctly rounded floating-point division. -/
  | fdiv (f : Fields)
  /-- FSQRT (R240). Correctly rounded square root. -/
  | fsqrt (f : Fields)
  /-- FMIN (R241). Floating-point minimum. -/
  | fmin (f : Fields)
  /-- FMIN_SHORT (R241). FP32 minimum in the short form. -/
  | fminShort (f : ShortFields)
  /-- FMAX (R241). Floating-point maximum. -/
  | fmax (f : Fields)
  /-- FMAX_SHORT (R241). FP32 maximum in the short form. -/
  | fmaxShort (f : ShortFields)
  /-- FABS (R240). Clears the sign bit. -/
  | fabs (f : Fields)
  /-- FABS_SHORT (R240). FP32 absolute value in the short form. -/
  | fabsShort (f : ShortFields)
  /-- FNEG (R240). Inverts the sign bit. -/
  | fneg (f : Fields)
  /-- FNEG_SHORT (R240). FP32 negation in the short form. -/
  | fnegShort (f : ShortFields)
  /-- FCMP (R243). Floating-point comparison that writes a three-valued predicate. -/
  | fcmp (f : Fields)
  /-- FCLASS (R244). Writes a one-hot class of the operand. -/
  | fclass (f : Fields)
  /-- FRND (R242). Rounds to an integral value under RND. -/
  | frnd (f : Fields)
  /-- FSCALE (R240). Multiplies by 2^n and rounds. -/
  | fscale (f : Fields)
  /-- FEXP2 (R240). Rounded 2^a. -/
  | fexp2 (f : Fields)
  /-- FLOG2 (R240). Rounded log2 a. -/
  | flog2 (f : Fields)
  /-- FRCPA (R242). Approximate reciprocal to at most 12 significand bits. -/
  | frcpa (f : Fields)
  /-- FMOV_IV (R246). Interval move, bit for bit with no check. -/
  | fmovIv (f : Fields)
  /-- FADD_IV (R247). Outward-rounded interval addition. -/
  | faddIv (f : Fields)
  /-- FSUB_IV (R247). Outward-rounded interval subtraction. -/
  | fsubIv (f : Fields)
  /-- FMUL_IV (R247). Outward-rounded interval multiplication. -/
  | fmulIv (f : Fields)
  /-- FFMA_IV (R247). Outward-rounded interval multiply-add. -/
  | ffmaIv (f : Fields)
  /-- FDIV_IV (R248). Interval division giving the hull of the quotient set. -/
  | fdivIv (f : Fields)
  /-- FSQRT_IV (R248). Interval square root over the non-negative part. -/
  | fsqrtIv (f : Fields)
  /-- FMIN_IV (R247). Interval minimum. -/
  | fminIv (f : Fields)
  /-- FMAX_IV (R247). Interval maximum. -/
  | fmaxIv (f : Fields)
  /-- FABS_IV (R247). Interval absolute value. -/
  | fabsIv (f : Fields)
  /-- FNEG_IV (R247). Interval negation. -/
  | fnegIv (f : Fields)
  /-- FCMP_IV (R249). Interval comparison that writes true, false or undecided. -/
  | fcmpIv (f : Fields)
  /-- IVMK (R252). Builds an interval from two plain bounds. -/
  | ivmk (f : Fields)
  /-- IVLO (R251). Reads the lower bound. -/
  | ivlo (f : Fields)
  /-- IVHI (R251). Reads the upper bound. -/
  | ivhi (f : Fields)
  /-- IVMID (R253). Computes the midpoint of an interval. -/
  | ivmid (f : Fields)
  /-- IVWID (R251). Computes the upward-rounded width of an interval. -/
  | ivwid (f : Fields)
  /-- IVHULL (R251). Forms the hull of two intervals. -/
  | ivhull (f : Fields)
  /-- IVMEET (R254). Intersects two intervals, faulting or reporting emptiness under .e. -/
  | ivmeet (f : Fields)
  /-- IVIN (R251). Three-valued containment test of A in B. -/
  | ivin (f : Fields)
  /-- IVSPLIT (R251). Splits an interval at its midpoint into two. -/
  | ivsplit (f : Fields)
  /-- IVCHK (R251). Tests whether an interval is proper and finite. -/
  | ivchk (f : Fields)
  /-- BISECT (R256). Splits each thread's interval and emits both halves as records. -/
  | bisect (f : Fields)
  /-- CVT (R259). Converts between integer, float, FP8 and interval types. -/
  | cvt (f : Fields)
  /-- BXPK (R260). Packs 16 binary64 values into one BX block. -/
  | bxpk (f : Fields)
  /-- BXUPK (R261). Unpacks a BX block into 16 binary64 registers. -/
  | bxupk (f : Fields)
  /-- LDT (R219). Loads one tensor element per participating thread. -/
  | ldt (f : Fields)
  /-- STT (R219). Stores one tensor element per participating thread. -/
  | stt (f : Fields)
  /-- LDU (R221). Uniform load of one element into an s or b register. -/
  | ldu (f : Fields)
  /-- STU (R221). Uniform store of one element from an s or b register. -/
  | stu (f : Fields)
  /-- LINE (R222). Loads a whole 128-byte line, 4 bytes to each thread. -/
  | line (f : Fields)
  /-- SHFX (R225). Exchanges register values among threads through the shuffle network. -/
  | shfx (f : Fields)
  /-- GATH (R223). Gathers one or two elements per thread by flat index. -/
  | gath (f : Fields)
  /-- SCAT (R223). Scatters one or two elements per thread by flat index. -/
  | scat (f : Fields)
  /-- REBAL (R226). Deals per-thread item counts out over the gang in map, scan or total mode. -/
  | rebal (f : Fields)
  /-- PREF (R230). Prefetches the named lines into L2. -/
  | pref (f : Fields)
  /-- CFLUSH (R230). Writes dirty copies of the named lines back and leaves them clean. -/
  | cflush (f : Fields)
  /-- CINV (R230). Writes back and invalidates the named lines. -/
  | cinv (f : Fields)
  /-- TDSET (R231). Writes descriptor words to the cell copy and the table. -/
  | tdset (f : Fields)
  /-- TDGET (R231). Reads descriptor words into s registers. -/
  | tdget (f : Fields)
  /-- TDINV (R231). Drops the cell's cached copy of one or all descriptors. -/
  | tdinv (f : Fields)
  /-- ATOM_ADD (R227). Atomic add that returns the old value. -/
  | atomAdd (f : Fields)
  /-- ATOM_MIN (R227). Atomic minimum that returns the old value. -/
  | atomMin (f : Fields)
  /-- ATOM_MAX (R227). Atomic maximum that returns the old value. -/
  | atomMax (f : Fields)
  /-- ATOM_AND (R227). Atomic AND that returns the old value. -/
  | atomAnd (f : Fields)
  /-- ATOM_OR (R227). Atomic OR that returns the old value. -/
  | atomOr (f : Fields)
  /-- ATOM_XOR (R227). Atomic XOR that returns the old value. -/
  | atomXor (f : Fields)
  /-- ATOM_EXCH (R227). Atomic exchange that returns the old value. -/
  | atomExch (f : Fields)
  /-- ACAS (R228). Atomic compare and swap. -/
  | acas (f : Fields)
  /-- FENCE (R232). Forms release, acquire or sc ordering at a scope. -/
  | fence (f : Fields)
  /-- WAIT (R233). Holds the gang until outstanding loads, stores, batches and tokens fall within the allowed counts, then retires and acquires them. -/
  | wait (f : Fields)
  /-- MLDS (R271). Loads the bay's shadow plane, one column per thread. -/
  | mlds (f : Fields)
  /-- MSWAP (R272). Interlocks on earlier MLDS and exchanges the active and shadow planes. -/
  | mswap (f : Fields)
  /-- MSWAP_SHORT (R272). MSWAP in the short form. -/
  | mswapShort (f : ShortFields)
  /-- MACCZ (R273). Binds a fresh tile and accumulates one chunk. -/
  | maccz (f : Fields)
  /-- MACC (R273). Accumulates one chunk into the bound plain chain. -/
  | macc (f : Fields)
  /-- MDRN (R275). Drains eight columns of each thread's row to registers. -/
  | mdrn (f : Fields)
  /-- MSTO (R276). Stores each thread's accumulator row to a tensor. -/
  | msto (f : Fields)
  /-- MRD (R275). Reads one column of each thread's row to a register. -/
  | mrd (f : Fields)
  /-- MFENCE (R268). Closes the open matrix batch. -/
  | mfence (f : Fields)
  /-- MFENCE_SHORT (R268). MFENCE in the short form. -/
  | mfenceShort (f : ShortFields)
  /-- MREL (R267). Unbinds an accumulator name and retires its tile. -/
  | mrel (f : Fields)
  /-- VACCZ_SIGN (R280). Starts a SIGN verdict chain and streams its first chunk. -/
  | vacczSign (f : Fields)
  /-- VACCZ_GT (R280). Starts a GT verdict chain and streams its first chunk. -/
  | vacczGt (f : Fields)
  /-- VACCZ_TOPK (R280). Starts a TOPK verdict chain and streams its first chunk. -/
  | vacczTopk (f : Fields)
  /-- VACC_SIGN (R280). Streams one chunk of a SIGN verdict chain with bound tests. -/
  | vaccSign (f : Fields)
  /-- VACC_GT (R280). Streams one chunk of a GT verdict chain with bound tests. -/
  | vaccGt (f : Fields)
  /-- VACC_TOPK (R280). Streams one chunk of a TOPK verdict chain against the threshold cell. -/
  | vaccTopk (f : Fields)
  /-- VTEST (R281). Writes the verdict of one column to a predicate. -/
  | vtest (f : Fields)
  /-- TKINS (R283). Inserts scores into a top-k structure and raises the threshold cell. -/
  | tkins (f : Fields)
  /-- CPY (R289). Hands one tile copy to the cell's copy engine. -/
  | cpy (f : Fields)
  /-- CPYM (R291). Multicasts one tile into the scratchpads of the masked cells. -/
  | cpym (f : Fields)
  /-- BINIT (R294). Initialises a barrier object. -/
  | binit (f : Fields)
  /-- BEXP (R296). Adds expected bytes to a barrier. -/
  | bexp (f : Fields)
  /-- BARV (R296). Arrives at a barrier and returns the phase before the arrival. -/
  | barv (f : Fields)
  /-- BWAIT (R296). Holds until the barrier phase differs from the given one, then acquires. -/
  | bwait (f : Fields)
  /-- BTRY (R296). Tests whether the barrier phase has moved on. -/
  | btry (f : Fields)
  /-- RRES_INIT (R300). Initialises a ring and gives it to the issuing workgroup. -/
  | rresInit (f : Fields)
  /-- RRES (R302). Reserves the ring slot at RP, holding or failing under .q. -/
  | rres (f : Fields)
  /-- RCMT (R302). Commits a reserved ring slot as filled. -/
  | rcmt (f : Fields)
  /-- RACQ (R302). Acquires the filled ring slot at AP. -/
  | racq (f : Fields)
  /-- RREL (R302). Releases an acquired ring slot as free. -/
  | rrel (f : Fields)
  /-- GBAR (R303). Gang barrier over the workgroup at bay or cell level. -/
  | gbar (f : Fields)
  /-- GBAR_SHORT (R303). GBAR in the short form, with LEVEL in bit 26. -/
  | gbarShort (f : ShortFields)
  /-- EMIT (R309). Checks and places one record per participating thread. -/
  | emit (f : Fields)
  /-- EMITH (R311). Emits records carrying a built tile handle. -/
  | emith (f : Fields)
  /-- EMITR (R314). Sends records to a remote chip, launch tag and node. -/
  | emitr (f : Fields)
  /-- JINIT (R315). Creates a join entry with a count and a continuation record. -/
  | jinit (f : Fields)
  /-- JARR (R316). Makes now the join arrival of each thread's record. -/
  | jarr (f : Fields)
  /-- FBM (R321). Flashback mark: captures the mark state into the shelf and unseals the gang. -/
  | fbm (f : Fields)
  /-- FBM_SHORT (R321). FBM for marks 0 to 63 in the short form. -/
  | fbmShort (f : ShortFields)
  /-- TRAP (R331). Raises a precise software trap with code 0xF0 + n. -/
  | trap (f : Fields)
  /-- TRAP_SHORT (R331). TRAP without a register operand in the short form. -/
  | trapShort (f : ShortFields)
  /-- TRET (R330). Returns from the trap handler. -/
  | tret (f : Fields)
  /-- TRET_SHORT (R330). TRET in the short form. -/
  | tretShort (f : ShortFields)
  /-- RDSR (R332). Reads a system register. -/
  | rdsr (f : Fields)
  /-- WRSR (R332). Writes a system register. -/
  | wrsr (f : Fields)
  /-- PLATE (R333). Raises the plate trigger when the policy allows. -/
  | plate (f : Fields)
  /-- PLATE_SHORT (R333). PLATE in the short form. -/
  | plateShort (f : ShortFields)
  /-- BRK (R333). Writes a watch event and holds the gang when debug halt is enabled. -/
  | brk (f : Fields)
  /-- BRK_SHORT (R333). BRK with a 6-bit code in the short form. -/
  | brkShort (f : ShortFields)
  /-- RCV_TIMEOUT (R47). An RCV count expires and the gang switches paths at the next boundary. -/
  | rcvTimeout (slot : Nat)
  /-- LOAD_COMPLETE (R216). All elements of an outstanding load return, which may release a held WAIT. -/
  | loadComplete (slot : Nat)
  /-- STORE_COMPLETE (R216). An outstanding store completes and its counter falls. -/
  | storeComplete (slot : Nat)
  /-- MATRIX_OP_COMPLETE (R269). The matrix unit finishes an operation in the background, completing batches and freeing retiring tiles. -/
  | matrixOpComplete (bay slot : Nat)
  /-- MARK_OVERDUE_COUNT (R323). A sealed gang would issue its 4,097th instruction after its last mark and faults. -/
  | markOverdueCount (slot : Nat)
  /-- MARK_OVERDUE_HELD (R380). A sealed gang under pending pre-emption reaches 65,536 held cycles and faults. -/
  | markOverdueHeld (slot : Nat)
  /-- COPY_COMPLETE (R292). A copy's writes are all performed; its barrier is counted and its ring slot committed. -/
  | copyComplete (copy : Nat)
  /-- COPY_FAULT (R293). A copy meets a translation failure, poison or fabric loss and stops. -/
  | copyFault (copy : Nat) (why : CopyFailure) (source : Bool)
  /-- BARRIER_ROOT_ARRIVAL (R296). A leaf's arrival is applied at its root barrier. -/
  | barrierRootArrival
  /-- BARRIER_BROADCAST (R296). A root's flip broadcast is applied at a leaf barrier. -/
  | barrierBroadcast (cell : Nat)
  /-- BARRIER_OVERRUN (R297). The barrier logic reports an overrun and the fault is raised on the responsible gang. -/
  | barrierOverrun (slot : Nat)
  /-- DOORBELL (R400). A write of QDB is checked and advances the queue's write pointer. -/
  | doorbell (vf q : Nat) (w : BitVec 32)
  /-- LAUNCH_START (R56). Each fabric cycle the start arbiter starts the best start candidate. -/
  | launchStart (vf : Nat)
  /-- ENTRY_ENQUEUE (R58). An entry record is placed in its shard once room exists. -/
  | entryEnqueue (vf lslot : Nat)
  /-- LAUNCH_COMPLETION (R60). An idle launch frees joins, publishes effects, sets events and writes its completion entry. -/
  | launchCompletion (vf lslot : Nat)
  /-- WORKGROUP_GATHER (R75). A shard yields a workgroup under the Full, Upstream idle or Drain trigger. -/
  | workgroupGather (vf lslot node stack cell : Nat)
  /-- FLUSH_TIMEOUT (R75). The oldest record of a shard has waited FLUSH cycles and a partial workgroup is gathered. -/
  | flushTimeout (vf lslot node stack cell : Nat)
  /-- SHADOW_PREFETCH_COMPLETE (R76). The declared tile prefetches of a shadow-slot workgroup complete and it becomes runnable. -/
  | shadowPrefetchComplete (wg : Nat)
  /-- WORKGROUP_LAUNCH (R78). A runnable workgroup is placed into free gang slots under the reserve check. -/
  | workgroupLaunch (wg : Nat) (slots : List Nat)
  /-- GOVERNOR_REASSIGN (R79). The governor reassigns a cell's shadow slots to a node. -/
  | governorReassign (cell vf lslot node : Nat)
  /-- EMISSION_REPLACE (R81). A blocked emission or JINIT is placed as room appears. -/
  | emissionReplace (slot : Nat)
  /-- WORKGROUP_END (R173). All gangs of a workgroup have ended and their slots are freed. -/
  | workgroupEnd (wg : Nat)
  /-- REMOTE_RECORD_ARRIVAL (R85). A remote record arrives and is accepted into the inbox or rejected. -/
  | remoteRecordArrival (link source tag : Nat) (words : List (BitVec 64))
  /-- INBOX_TRANSFER (R85). A record moves from the inbox to a shard and is acknowledged. -/
  | inboxTransfer (vf lslot index : Nat)
  /-- REMOTE_ACK (R86). An acknowledgement or rejection reaches the sender and reopens a send-window slot. -/
  | remoteAck (vf lslot chip : Nat) (accepted : Bool)
  /-- REMOTE_ACCESS_ARRIVAL (R407). An incoming remote load, store or atomic is matched to a remote window and served or rejected. -/
  | remoteAccessArrival (acc : RemoteAccess)
  /-- UET_WRITE_ARRIVAL (R406). A bulk copy arrives as a UET write from another pod. -/
  | uetWriteArrival (port tenant va : Nat) (bytes : List (BitVec 8))
  /-- TRANSLATION_WALK (R339). A walker starts a two-stage walk for a translation miss. -/
  | translationWalk (miss : Nat)
  /-- WALK_COMPLETE (R344). A walk ends and the elements it covers are performed or fault. -/
  | walkComplete (miss : Nat)
  /-- PRREPLY (R349). The physical function answers a page request, resolving or failing its requesters. -/
  | prreply (value : BitVec 64)
  /-- ATS_COMPLETION (R351). A PCIe ATS translation completion arrives for a host-space access. -/
  | atsCompletion (vf page : Nat) (answer : AtsAnswer)
  /-- ATS_INVALIDATE_REQUEST (R351). An ATS Invalidate Request drops matching entries before it is answered. -/
  | atsInvalidateRequest (vf page count : Nat)
  /-- PRI_RESPONSE (R352). A PRI page response arrives and ATS is retried or the elements fail. -/
  | priResponse (vf page : Nat) (success : Bool)
  /-- TLBINV_STAGE1_RANGE (R346). TLBINV OP 00 invalidates a stage-1 range by VA. -/
  | tlbinvStage1Range (vf : Nat) (physical : Bool) (page count : Nat)
  /-- TLBINV_STAGE1_ALL (R346). TLBINV OP 01 invalidates every stage-1 entry of the VF. -/
  | tlbinvStage1All (vf : Nat) (physical : Bool)
  /-- TLBINV_STAGE2_RANGE (R346). TLBINV OP 10 invalidates a stage-2 range by IPA. -/
  | tlbinvStage2Range (vf : Nat) (physical : Bool) (page count : Nat)
  /-- TLBINV_ALL (R346). TLBINV OP 11 invalidates every entry of the VF. -/
  | tlbinvAll (vf : Nat) (physical : Bool)
  /-- TLBINV_COMPLETE (R346). An invalidation finishes and TLBSTAT.BUSY returns to 0. -/
  | tlbinvComplete (vf : Nat)
  /-- S1ROOT_WRITE (R338). Writes the stage-1 root of a context. -/
  | s1rootWrite (vf : Nat) (value : BitVec 64)
  /-- S2ROOT_WRITE (R338). Writes the stage-2 root of a VF. -/
  | s2rootWrite (vf : Nat) (value : BitVec 64)
  /-- PRQBASE_WRITE (R348). Places the page-request queue, ignored while requests are outstanding. -/
  | prqbaseWrite (vf : Nat) (value : BitVec 64)
  /-- PARTCMD_DEFINE (R356). PARTCMD OP 00 defines or replaces a partition from PARTDESC. -/
  | partcmdDefine (part : Nat)
  /-- PARTCMD_DELETE (R356). PARTCMD OP 01 frees every unit of a partition. -/
  | partcmdDelete (part : Nat)
  /-- CELLRES_WRITE (R361). Reserves a cell for a VF or returns it to the pool. -/
  | cellresWrite (cell : Nat) (value : BitVec 64)
  /-- BKT_PROFILE_WRITE (R365). Writes a VF's bucket profile, checked against capacity. -/
  | bktProfileWrite (vf kind : Nat) (value : BitVec 64)
  /-- POLICY_WRITE (R359). Writes a VF's policy register, with TENANT and CEIL deferred to the next drain. -/
  | policyWrite (vf : Nat) (value : BitVec 64)
  /-- QASSIGN_WRITE (R397). Assigns a package launch queue to a VF queue slot. -/
  | qassignWrite (vf q : Nat) (value : BitVec 64)
  /-- BUCKET_ACCRUAL (R366). Each fabric cycle every bucket accrues its rate and overflow feeds the lend pool. -/
  | bucketAccrual
  /-- ARBITRATION_ROUND (R367). An arbiter grants owner requests and then borrowed requests. -/
  | arbitrationRound (kind unit : Nat) (requests : List BucketRequest)
  /-- CELL_RECLAIM (R369). An owner's runnable workgroup reclaims a lent cell and makes borrower pre-emption pending. -/
  | cellReclaim (cell : Nat)
  /-- SLICE_EXPIRY (R379). A VF's slice expires while another VF waits, making pre-emption pending. -/
  | sliceExpiry (wg : Nat)
  /-- PREEMPT_VF (R379). PREEMPT OP 00 makes pre-emption pending for every workgroup of a VF. -/
  | preemptVf (vf : Nat)
  /-- PREEMPT_PARTITION (R379). PREEMPT OP 01 makes pre-emption pending for every workgroup of a partition. -/
  | preemptPartition (part : Nat)
  /-- SAVE_COMPLETE (R381). A workgroup's shelves are written to the save area. -/
  | saveComplete (wg : Nat)
  /-- WORKGROUP_RESUME (R383). A pre-empted workgroup is restored on an entitled cell and resumes at its marks. -/
  | workgroupResume (wg cell : Nat) (slots : List Nat)
  /-- HANG_RUNTIME (R376). A launch stays in flight for LIMIT ms and HANG is raised. -/
  | hangRuntime (vf lslot : Nat)
  /-- HANG_UNIT_TIMEOUT (R376). An owned unit leaves a request unanswered for 1 ms and HANG is raised. -/
  | hangUnitTimeout (part : Nat)
  /-- LINK_FAILURE (R405). A link exhausts replay or retries and its outstanding accesses end with FABRIC_LOSS. -/
  | linkFailure (link : Nat)
  /-- SRAM_UNCORRECTABLE (R392). An uncorrectable SRAM error raises UNCORRECTABLE. -/
  | sramUncorrectable (part : Option Nat) (die detail : Nat)
  /-- SOFT_ERROR_CORRECTED (R389). A corrected SECDED error is counted in the health records. -/
  | softErrorCorrected (die kind : Nat)
  /-- L2_LINE_REPAIR (R389). An uncorrectable error in a clean L2 line invalidates and refetches it. -/
  | l2LineRepair (line : Nat)
  /-- LINE_POISON (R390). A line with no valid copy is poisoned and its page quarantined. -/
  | linePoison (line : Nat)
  /-- THERMAL_TRIP (R412). A die reaches 115 °C and every partition is reset. -/
  | thermalTrip
  /-- THROTTLE_CHANGE (R17). A die's sensor and the power monitor report, and the arithmetic clock changes frequency between two
  cycles. -/
  | throttleChange (report : SensorReport)
  /-- WATCH_EVENT_WRITE (R386). An imprecise copy or matrix-unit watch match writes its event. -/
  | watchEventWrite
  /-- WEQSTAT_CLEAR (R386). Writing 1 to OVF clears it and zeroes DROPPED. -/
  | weqstatClear (vf : Nat)
  /-- PLATE_FIRE (R387). Writing FIRE is the management plate trigger. -/
  | plateFire
  /-- QRING_ENABLE (R398). Setting QRING.EN starts the queue afresh at packet 0. -/
  | qringEnable (vf q : Nat) (value : BitVec 64)
  /-- QRING_DISABLE (R399). Clearing QRING.EN withdraws unstarted packets and lets started launches finish. -/
  | qringDisable (vf q : Nat) (value : BitVec 64)
  /-- QUEUE_RESUME (R378). Writing QCTL.RESUME clears STOPPED and lets the queue proceed. -/
  | queueResume (vf q : Nat)
  /-- EVENT_SET (R396). EVSET sets event bits of the context. -/
  | eventSet (vf word : Nat) (mask : BitVec 64)
  /-- EVENT_CLEAR (R396). EVCLR clears event bits of the context. -/
  | eventClear (vf word : Nat) (mask : BitVec 64)
  /-- DRAIN_ENTER (R404). DRAINCTL OP 00 puts a VF, partition or device into DRAINING. -/
  | drainEnter (scope : DrainScope) (target : Nat)
  /-- DRAIN_RETURN (R404). DRAINCTL OP 01 returns a scope to RUNNING. -/
  | drainReturn (scope : DrainScope) (target : Nat)
  /-- DRAIN_COMPLETE (R404). A draining scope has no accepted packet left and becomes DRAINED. -/
  | drainComplete (scope : DrainScope) (target : Nat)
  /-- BAR2_ACCESS (R396). A host access through a VF's BAR2 aperture, translated by stage 2. -/
  | bar2Access (vf addr size : Nat) (op : BarOp)
  /-- PF_BAR2_ACCESS (R397). A host access through the PF aperture to the selected partition's memory. -/
  | pfBar2Access (addr size : Nat) (op : BarOp)
  /-- SURVEY_REFRESH (R401). The device updates a survey page and its generation word. -/
  | surveyRefresh (page : Nat)
  /-- LINK_STATE_CHANGE (R403). A station or port trains, comes up, fails or detects a duplicate chip identifier. -/
  | linkStateChange (link : Nat) (state : LinkState) (peer : Nat)
  /-- SPDM_REQUEST (R409). An SPDM message arrives through a DOE mailbox. -/
  | spdmRequest (function block : Nat)
  /-- MANIFEST_UPDATE (R408). A new manifest is written through firmware update for the next cold reset. -/
  | manifestUpdate (manifest : Manifest)
  /-- COLD_RESET (R410). Cold reset verifies the manifest and brings the survey window live. -/
  | coldReset
  /-- STACK_GROUP_READY (R410). A stack group finishes training and zeroing and sets its READY bit. -/
  | stackGroupReady (stack : Nat)
  /-- REGISTER_WRITE (R5). A write to a register that has no row of its own, under its access codes. -/
  | registerWrite (function : Option Nat) (offset : Nat) (value : BitVec 64)
  /-- BRK_RELEASE (R333). A management write through the physical function releases a gang held by BRK under debug halt. -/
  | brkRelease (slot : Nat)
  /-- THERMAL_TRIP_RELEASE (R412). After a thermal trip, every die falls below 95 °C and the device leaves its reset hold. -/
  | thermalTripRelease
  deriving DecidableEq, Repr

end Sys2Proof
end

