-- ==== Sys2Proof/Machine/Codes.lean ====
section
/-! DEFINITION. Names and their codes: fault codes (R373), element types (R100), rounding modes (R101), registers (R95). -/

namespace Sys2Proof.Machine

/-- The gang and device faults of R373, TRAP n aside. -/
inductive FaultCode where
  | illegalOpcode | reservedField | illegalEncoding | badRegister | hazard
  | emptyInterval | malformedInterval | abandonedOperand | intDivide
  | coordRange | tdInvalid | align | translation | protection | poison | watch
  | recursionLimit | nodeInvalid | recordSize | joinUnderflow
  | copyRights | barrierOverrun | ringOrder | accName | planeFormat
  | fabricLoss | remoteReject | markOverdue | uncorrectable | hang
  | trap (n : BitVec 4)
  deriving DecidableEq, Repr

/-- The 8-bit code of a fault (R373, R331). -/
def FaultCode.code : FaultCode → BitVec 8
  | .illegalOpcode => 0x00 | .reservedField => 0x01 | .illegalEncoding => 0x02 | .badRegister => 0x03 | .hazard => 0x04
  | .emptyInterval => 0x10 | .malformedInterval => 0x11 | .abandonedOperand => 0x12 | .intDivide => 0x13
  | .coordRange => 0x20 | .tdInvalid => 0x21 | .align => 0x22 | .translation => 0x23 | .protection => 0x24
  | .poison => 0x25 | .watch => 0x26
  | .recursionLimit => 0x30 | .nodeInvalid => 0x31 | .recordSize => 0x32 | .joinUnderflow => 0x33
  | .copyRights => 0x40 | .barrierOverrun => 0x41 | .ringOrder => 0x42 | .accName => 0x50 | .planeFormat => 0x51
  | .fabricLoss => 0x60 | .remoteReject => 0x61 | .markOverdue => 0x70 | .uncorrectable => 0xE0 | .hang => 0xE1
  | .trap n => 0xF0 ||| n.zeroExtend 8

/-- The faults that reset the partition (R373, R377). -/
def FaultCode.uncontained : FaultCode → Bool
  | .fabricLoss | .uncorrectable | .hang => true
  | _ => false

/-- The element types (R100). -/
inductive Ty where
  | s8 | s16 | s32 | s64 | n8 | n16 | n32 | n64 | b32 | b64
  | f64 | f32 | f16 | bf16 | e4m3 | e5m2 | bx3 | bx5 | bx8 | iv32 | iv64
  deriving DecidableEq, Repr

/-- TYP codes (R100); 0x15 to 0x1F are unassigned. -/
def Ty.ofCode : Nat → Option Ty
  | 0x00 => some .s8 | 0x01 => some .s16 | 0x02 => some .s32 | 0x03 => some .s64
  | 0x04 => some .n8 | 0x05 => some .n16 | 0x06 => some .n32 | 0x07 => some .n64
  | 0x08 => some .b32 | 0x09 => some .b64 | 0x0A => some .f64 | 0x0B => some .f32
  | 0x0C => some .f16 | 0x0D => some .bf16 | 0x0E => some .e4m3 | 0x0F => some .e5m2
  | 0x10 => some .bx3 | 0x11 => some .bx5 | 0x12 => some .bx8 | 0x13 => some .iv32 | 0x14 => some .iv64
  | _ => none

/-- Integer and bit types (R122). -/
def Ty.isInt : Ty → Bool
  | .s8 | .s16 | .s32 | .s64 | .n8 | .n16 | .n32 | .n64 | .b32 | .b64 => true
  | _ => false

/-- Signed integer types: two's complement (R122). -/
def Ty.isSigned : Ty → Bool
  | .s8 | .s16 | .s32 | .s64 => true
  | _ => false

/-- The plain floating-point types of class 0x3 (R124, R237). -/
def Ty.isFloat : Ty → Bool
  | .f64 | .f32 | .f16 | .bf16 => true
  | _ => false

/-- The FP8 types (R127). -/
def Ty.isFp8 : Ty → Bool
  | .e4m3 | .e5m2 => true
  | _ => false

/-- The BX block types (R129). -/
def Ty.isBx : Ty → Bool
  | .bx3 | .bx5 | .bx8 => true
  | _ => false

/-- The interval types (R140). -/
def Ty.isIv : Ty → Bool
  | .iv32 | .iv64 => true
  | _ => false

/-- The width in bits of a scalar element or interval (R122, R124, R127, R140); of a BX type, of its block (R129). -/
def Ty.width : Ty → Nat
  | .s8 | .n8 | .e4m3 | .e5m2 => 8
  | .s16 | .n16 | .f16 | .bf16 => 16
  | .s32 | .n32 | .b32 | .f32 => 32
  | .s64 | .n64 | .b64 | .f64 | .iv32 => 64
  | .iv64 => 128
  | .bx3 => 64 | .bx5 => 96 | .bx8 => 144

/-- Registers one operand of a type covers (R96): two for `.iv64`, otherwise one. -/
def Ty.regs : Ty → Nat
  | .iv64 => 2
  | _ => 1

/-- The rounding modes (R101, R126). -/
inductive Rounding where
  | rne | rz | ru | rd | ro
  deriving DecidableEq, Repr

/-- RND codes (R101); 0b101 to 0b111 are reserved. -/
def Rounding.ofCode : Nat → Option Rounding
  | 0 => some .rne | 1 => some .rz | 2 => some .ru | 3 => some .rd | 4 => some .ro
  | _ => none

/-- A register named by a specifier (R95). -/
inductive RegName where
  | v (n : Nat) | y (n : Nat) | z (n : Nat) | s (n : Nat) | b (n : Nat) | special (n : Nat)
  deriving DecidableEq, Repr

/-- Register specifiers (R95): file in [9:8], index in [7:0]. -/
def RegName.ofSpec (x : BitVec 10) : Option RegName :=
  let n := x.toNat
  if n < 0x080 then some (.v n)
  else if 0x100 ≤ n ∧ n < 0x108 then some (.y (n - 0x100))
  else if 0x200 ≤ n ∧ n < 0x202 then some (.z (n - 0x200))
  else if 0x300 ≤ n ∧ n < 0x340 then some (.s (n - 0x300))
  else if 0x340 ≤ n ∧ n < 0x350 then some (.b (n - 0x340))
  else if 0x350 ≤ n ∧ n < 0x363 then some (.special (n - 0x300))
  else none

/-- The specifier of a register: the inverse of `ofSpec` on registers that exist. -/
def RegName.spec : RegName → BitVec 10
  | .v n => BitVec.ofNat 10 n
  | .y n => BitVec.ofNat 10 (0x100 + n)
  | .z n => BitVec.ofNat 10 (0x200 + n)
  | .s n => BitVec.ofNat 10 (0x300 + n)
  | .b n => BitVec.ofNat 10 (0x340 + n)
  | .special n => BitVec.ofNat 10 (0x300 + n)

/-- A sense of a guard or predicate source (R34, R94). -/
inductive Sense where
  | none | t | f | u
  deriving DecidableEq, Repr

/-- Sense codes (R34). -/
def Sense.ofCode (x : BitVec 2) : Sense :=
  if x = 0 then .none else if x = 1 then .t else if x = 2 then .f else .u

/-- Memory orders (R105, R193). -/
inductive Order where
  | plain | relaxed | acquire | release | acqRel | sc
  deriving DecidableEq, Repr

/-- ORDER codes (R105); 110 and 111 are reserved. -/
def Order.ofCode : Nat → Option Order
  | 0 => some .plain | 1 => some .relaxed | 2 => some .acquire | 3 => some .release | 4 => some .acqRel | 5 => some .sc
  | _ => none

end Sys2Proof.Machine
end

