-- ==== Sys2Proof/Machine/Opcodes.lean ====
section
/-! DEFINITION. The opcode map (R106 to R110), the operand each specifier field names (R94 to R96 and the fields tables of
the chapters), the immediate families (R102 to R105), and the decoding checks of R111, steps 2 to 5, with their TVAL (R112). -/

namespace Sys2Proof.Machine

/-- Immediate families (R102). -/
inductive Family where
  | n | k | bi | cc | fl | br | bv | rt | mem | fn | wt | td | cv | cp | md
  deriving DecidableEq, Repr

/-- What a guard field may hold (R34, R164, R306, R326): a predicate, a condition, or nothing. -/
inductive GuardKind where
  | predicate | condition | none
  deriving DecidableEq, Repr

/-- One row of the opcode map. -/
structure OpInfo where
  uniform : Bool
  guard : GuardKind
  short : Bool
  medium : Bool
  dflt : BitVec 5
  family : Family
  rounds : Bool
  deriving DecidableEq, Repr

/-- Sets of register files a position may name (R30); `spl` are the lane-valued special values THREAD, DEPTH, RECIDX. -/
structure FileSet where
  v : Bool
  y : Bool
  z : Bool
  s : Bool
  b : Bool
  sp : Bool
  spl : Bool
  deriving DecidableEq, Repr

/-- Any source register of a lane instruction (R95, R152). -/
def FileSet.lane : FileSet := ⟨true, true, true, true, true, true, true⟩
/-- A lane destination, or a register named in its own file: v, y or z. -/
def FileSet.vyz : FileSet := ⟨true, true, true, false, false, false, false⟩
/-- A source of a uniform instruction: s, b or a gang-valued special value (R152). -/
def FileSet.uniform : FileSet := ⟨false, false, false, true, true, true, false⟩
/-- s or b. -/
def FileSet.sb : FileSet := ⟨false, false, false, true, true, false, false⟩
/-- s only. -/
def FileSet.s_ : FileSet := ⟨false, false, false, true, false, false, false⟩
/-- A record operand: v, y, z or s (R308). -/
def FileSet.record : FileSet := ⟨true, true, true, true, false, false, false⟩

/-- The special values that differ between threads (R35): THREAD, DEPTH, RECIDX. -/
def laneSpecial (n : Nat) : Bool := n == 80 || n == 88 || n == 89

/-- Whether the set holds the register. -/
def FileSet.has (fs : FileSet) : RegName → Bool
  | .v _ => fs.v
  | .y _ => fs.y
  | .z _ => fs.z
  | .s _ => fs.s
  | .b _ => fs.b
  | .special n => if laneSpecial n then fs.spl else fs.sp

/-- The `k`-th register from `r` in the same file (R96); none past the end of the file, or from s into b registers. -/
def RegName.step (r : RegName) (k : Nat) : Option RegName :=
  match r with
  | .v n => if n + k < 128 then some (.v (n + k)) else none
  | .y n => if n + k < 8 then some (.y (n + k)) else none
  | .z n => if n + k < 2 then some (.z (n + k)) else none
  | .s n => if n + k < 64 then some (.s (n + k)) else none
  | .b n => if n + k < 16 then some (.b (n + k)) else none
  | .special n => if n + k < 99 then some (.special (n + k)) else none

/-- The registers a span of `n` covers, in order (R96); none when it leaves its file. -/
def RegName.span (r : RegName) : Nat → Option (List RegName)
  | 0 => some []
  | k + 1 => do
      let rest ← r.span k
      let x ← r.step k
      some (rest ++ [x])

/-- The index of a register in its file (R96). -/
def RegName.index : RegName → Nat
  | .v n | .y n | .z n | .s n | .b n | .special n => n

/-- What a specifier field of an instruction names. -/
inductive Role where
  | unused
  /-- `n` registers from the one named, in the files `fs`; `even` for an interval pair (R96). -/
  | reg (fs : FileSet) (n : Nat) (even : Bool)
  /-- A predicate destination p0 to p7, sense 00. -/
  | predDst
  /-- A condition destination c0 to c3, sense 00. -/
  | condDst
  /-- A predicate or condition source (R151). -/
  | predSrc
  /-- A condition source of a uniform instruction. -/
  | condSrc
  /-- An accumulator name. -/
  | acc
  /-- A descriptor index (R94). -/
  | desc
  /-- The report of RCV: 0x000 none, or c0 to c3 (R170). -/
  | report
  /-- The operand of TRAP: 0x000 none, or an s or b register (R326). -/
  | optSb
  deriving DecidableEq, Repr

/-- One register of a set. -/
def Role.one (fs : FileSet) : Role := .reg fs 1 false

/-- An operand of type `ty` in a set of files: a pair under `.iv64` (R96, R236). -/
def Role.typed (fs : FileSet) (ty : Option Ty) : Role :=
  if ty = some .iv64 then .reg fs 2 true else .reg fs 1 false

/-- The names a specifier field touches. -/
inductive Name where
  | reg (r : RegName)
  | pred (n : Nat)
  | cond (n : Nat)
  deriving DecidableEq, Repr

/-- Bits `hi` down to `lo` of a number (R8). -/
def field (x hi lo : Nat) : Nat := (x >>> lo) % 2 ^ (hi + 1 - lo)

/-- The names of one field, in ascending order, or none where the specifier is invalid for its role (R94 to R96, R111
step 5). -/
def Role.names (r : Role) (x : BitVec 10) : Option (List Name) :=
  let n := x.toNat
  let sense := field n 5 4
  let idx := field n 2 0
  let isC := field n 3 3 = 1
  let okp := field n 9 6 = 0 ∧ ¬ (isC ∧ idx ≥ 4)
  match r with
  | .unused => some []
  | .desc => some []
  | .acc => if n < 4 then some [] else none
  | .predDst => if okp ∧ sense = 0 ∧ ¬ isC then some [.pred idx] else none
  | .condDst => if okp ∧ sense = 0 ∧ isC then some [.cond idx] else none
  | .predSrc => if okp ∧ ¬ (isC ∧ sense = 3) then some [if isC then .cond idx else .pred idx] else none
  | .condSrc => if okp ∧ isC ∧ sense ≠ 3 then some [.cond idx] else none
  | .report => if n = 0 then some [] else if 8 ≤ n ∧ n < 12 then some [.cond (n - 8)] else none
  | .optSb =>
    if n = 0 then some []
    else match RegName.ofSpec x with
      | some q => if FileSet.sb.has q then some [.reg q] else none
      | none => none
  | .reg fs k even =>
    match RegName.ofSpec x with
    | none => none
    | some q =>
      if even ∧ q.index % 2 = 1 then none
      else match q.span k with
        | none => none
        | some l => if l.all fs.has then some (l.map .reg) else none

/-! ## The opcode map -/

/-- Class 0x0 and 0x1 default types (R108), by function. -/
def intDefault (cls fn : Nat) : BitVec 5 :=
  let b : BitVec 5 := if cls = 0 then 9 else 8
  let n : BitVec 5 := if cls = 0 then 7 else 6
  let s : BitVec 5 := if cls = 0 then 3 else 2
  if fn = 0x1B then 9
  else if fn = 0x00 ∨ (0x08 ≤ fn ∧ fn ≤ 0x0C) ∨ (0x12 ≤ fn ∧ fn ≤ 0x16) ∨ fn = 0x1A then b
  else if fn = 0x0D then n
  else s

/-- Class 0x0 and 0x1 families (R108), by function. -/
def intFamily (fn : Nat) : Family :=
  if fn = 0x01 then .k
  else if (0x02 ≤ fn ∧ fn ≤ 0x0A) ∨ (0x0C ≤ fn ∧ fn ≤ 0x10) ∨ fn = 0x1A then .bi
  else if fn = 0x11 then .cc
  else if fn = 0x15 ∨ fn = 0x16 then .fl
  else if fn = 0x1B then .md
  else .n

/-- Class 0x1 functions that have a short form (R108). -/
def intShort (fn : Nat) : Bool :=
  fn ≤ 0x04 || (0x08 ≤ fn && fn ≤ 0x10) || fn == 0x13 || fn == 0x14 || fn == 0x18 || fn == 0x19

/-- A row of the opcode map of an uniform instruction. -/
def uni (g : GuardKind) (short : Bool) (dflt : BitVec 5) (fam : Family) : Option OpInfo :=
  some ⟨true, g, short, true, dflt, fam, false⟩

/-- A row of the opcode map of a lane instruction. -/
def lane (short : Bool) (dflt : BitVec 5) (fam : Family) (rounds : Bool) : Option OpInfo :=
  some ⟨false, .predicate, short, true, dflt, fam, rounds⟩

/-- The opcode map (R107 to R110). -/
def opInfo (opc : Nat) : Option OpInfo :=
  let fn := opc % 64
  match opc / 64 with
  | 0x0 => if fn ≤ 0x16 then uni .condition false (intDefault 0 fn) (intFamily fn) else none
  | 0x1 => if fn ≤ 0x1B then lane (intShort fn) (intDefault 1 fn) (intFamily fn) false else none
  | 0x2 =>
    match fn with
    | 0x00 => lane false 0 .md false
    | 0x01 | 0x02 | 0x03 | 0x04 | 0x05 | 0x06 => lane false 0 .n false
    | 0x07 => lane false 6 .n false
    | 0x08 => lane false 0 .md false
    | 0x10 => uni .condition true 0 .br
    | 0x11 => lane false 0 .bv false
    | 0x12 => uni .condition false 0 .n
    | 0x13 => uni .condition false 0 .br
    | 0x14 => uni .condition false 0 .n
    | 0x15 => uni .condition false 0 .br
    | 0x16 => uni .none true 0 .rt
    | 0x17 => lane true 0 .n false
    | 0x18 => uni .condition true 0 .n
    | 0x19 => uni .none true 0 .n
    | 0x1A | 0x1B => uni .condition false 0 .n
    | _ => none
  | 0x3 =>
    if fn ≤ 0x11 then
      lane (fn ≤ 0x03 || (0x07 ≤ fn && fn ≤ 0x0A)) 11 (if fn = 0x0B then .cc else .n)
        ((0x01 ≤ fn && fn ≤ 0x06) || (0x0D ≤ fn && fn ≤ 0x10))
    else none
  | 0x4 =>
    if fn ≤ 0x0B then lane false 20 (if fn = 0x0B then .cc else .n) false
    else if 0x20 ≤ fn ∧ fn ≤ 0x2A then lane false 20 (if fn = 0x26 ∨ fn = 0x2A then .md else .n) false
    else none
  | 0x5 =>
    match fn with
    | 0x00 => lane false 0 .cv true
    | 0x01 => lane false 18 .n true
    | 0x02 => lane false 18 .n false
    | _ => none
  | 0x6 =>
    match fn with
    | 0x00 | 0x01 => lane false 8 .mem false
    | 0x02 | 0x03 => uni .condition false 9 .mem
    | 0x04 => lane false 0 .mem false
    | 0x05 => lane false 8 .md false
    | 0x06 | 0x07 => lane false 8 .mem false
    | 0x08 => lane false 8 .md false
    | 0x09 | 0x0A | 0x0B => lane false 0 .mem false
    | 0x0C | 0x0D | 0x0E => uni .condition false 0 .td
    | _ => none
  | 0x7 =>
    match fn with
    | 0x00 | 0x01 | 0x02 | 0x03 | 0x04 | 0x05 | 0x06 | 0x10 => lane false 6 .mem false
    | 0x11 => some ⟨true, .condition, false, false, 0, .fn, false⟩
    | 0x12 => uni .condition false 0 .wt
    | _ => none
  | 0x8 =>
    match fn with
    | 0x00 | 0x02 | 0x03 => lane false 12 .mem false
    | 0x01 => uni .condition true 0 .n
    | 0x04 => lane false 11 .md true
    | 0x05 => lane false 12 .mem true
    | 0x06 => lane false 10 .md true
    | 0x07 => uni .condition true 0 .n
    | 0x08 => uni .condition false 0 .n
    | _ => none
  | 0x9 =>
    match fn with
    | 0x00 | 0x01 | 0x02 | 0x04 | 0x05 | 0x06 => lane false 12 .mem false
    | 0x08 => lane false 0 .n false
    | 0x09 => lane false 11 .mem false
    | _ => none
  | 0xA =>
    match fn with
    | 0x00 | 0x01 => some ⟨false, .predicate, false, false, 0, .cp, false⟩
    | 0x02 | 0x03 | 0x04 | 0x05 | 0x06 => lane false 0 .mem false
    | 0x07 | 0x08 | 0x09 | 0x0A => lane false 0 .md false
    | 0x0B => uni .condition true 0 .md
    | _ => none
  | 0xB =>
    match fn with
    | 0x00 | 0x01 | 0x02 | 0x03 | 0x04 => lane false 0 .md false
    | 0x05 => uni .none true 0 .md
    | _ => none
  | 0xC =>
    match fn with
    | 0x00 => uni .condition true 0 .md
    | 0x01 => uni .none true 0 .n
    | 0x02 | 0x03 => uni .condition false 0 .md
    | 0x04 => uni .condition true 0 .n
    | 0x05 => uni .condition true 0 .md
    | _ => none
  | _ => none

/-! ## Types an opcode accepts -/

/-- The matrix types (R264). -/
def Ty.isMatrix (t : Ty) : Bool := t.isFloat || t.isFp8 || t.isBx

/-- Whether an opcode accepts a type; an untyped opcode requires code 0x00 (R100, R109, R153, R160, R162, R210, R227,
R228, R237, R258, R260, R261, R264). -/
def accepts (opc : Nat) (ty : Ty) : Bool :=
  let fn := opc % 64
  match opc / 64 with
  | 0x0 => ty.isInt
  | 0x1 => if fn = 0x1B then ty == .b32 || ty == .b64 else ty.isInt
  | 0x2 => if fn = 0x07 then ty == .n32 || ty == .n64 else ty == .s8
  | 0x3 => ty.isFloat
  | 0x4 => ty.isIv
  | 0x5 => if fn = 0x00 then !(ty == .b32 || ty == .b64 || ty.isBx) else ty.isBx
  | 0x6 =>
    match fn with
    | 0x00 | 0x01 => true
    | 0x02 | 0x03 => ty.isInt || ty.isFloat || ty.isIv
    | 0x05 => ty == .b32 || ty == .b64 || ty == .iv64
    | 0x06 | 0x07 => !ty.isBx
    | 0x08 => ty == .b32 || ty == .n32
    | _ => ty == .s8
  | 0x7 =>
    match fn with
    | 0x00 | 0x01 | 0x02 | 0x06 =>
      ty == .s32 || ty == .s64 || ty == .n32 || ty == .n64 || ty == .b32 || ty == .b64 || ty == .f32 || ty == .f64
    | 0x03 | 0x04 | 0x05 | 0x10 =>
      ty == .s32 || ty == .s64 || ty == .n32 || ty == .n64 || ty == .b32 || ty == .b64
    | _ => ty == .s8
  | 0x8 =>
    match fn with
    | 0x00 | 0x02 | 0x03 | 0x05 => ty.isMatrix
    | 0x04 | 0x06 => ty.isFloat
    | _ => ty == .s8
  | 0x9 =>
    if fn = 0x08 then ty == .s8
    else if fn = 0x09 then ty == .f32
    else ty.isMatrix && !(ty == .f64)
  | _ => ty == .s8

/-- CVT alone has a second type, in IMM[4:0] (R258): an assigned source type is accepted with the target. -/
def acceptsSource (opc : Nat) (ty : Ty) (imm : Nat) : Bool :=
  if opc = 0x140 then
    match Ty.ofCode (field imm 4 0) with
    | none => true
    | some src => !(src == .b32 || src == .b64 || src.isBx) && !(src.isIv && !ty.isIv)
  else true

/-! ## What each field names -/

/-- Registers of a record of SIZE code `k` (R255, R307). -/
def recordWords (k : Nat) : Nat := if k = 0 then 2 else if k = 1 then 4 else 8

/-- The displacement registers of a MEM operand: DRANK of them from B (R104, R116). -/
def dispRole (imm : Nat) : Role :=
  let k := field imm 20 18
  if k = 0 then .unused else .reg .vyz k false

/-- The roles of D, A, B and C (the fields tables of R152, R164, R221 to R231, R264, R285, R299, R306, R318, R326). An
origin is checked here for its first register only: its length is the rank of the descriptor (R116). -/
def roles (opc : Nat) (ty : Option Ty) (imm : Nat) : Role × Role × Role × Role :=
  let fn := opc % 64
  let L := Role.one .lane
  let V := Role.one .vyz
  let S := Role.one .s_
  let SB := Role.one .sb
  let U := Role.one .uniform
  let no := Role.unused
  let disp := dispRole imm
  let sel := field imm 30 30 = 1
  match opc / 64 with
  | 0x0 =>
    if fn = 0x01 then (SB, no, no, no)
    else if fn = 0x11 then (.condDst, U, U, no)
    else if fn = 0x12 then (SB, U, U, .condSrc)
    else if fn = 0x16 then (SB, U, U, no)
    else match intFamily fn with
      | .bi => (SB, U, if sel then no else U, no)
      | _ => (SB, U, no, no)
  | 0x1 =>
    if fn = 0x01 then (V, no, no, no)
    else if fn = 0x11 then (.predDst, L, L, no)
    else if fn = 0x12 then (V, L, L, .predSrc)
    else if fn = 0x16 then (V, L, L, no)
    else if fn = 0x17 then (V, L, L, L)
    else if fn = 0x1B then (SB, L, if field imm 7 5 = 3 then S else no, no)
    else match intFamily fn with
      | .bi => (V, L, if sel then no else L, no)
      | _ => (V, L, no, no)
  | 0x2 =>
    match fn with
    | 0x00 => (.predDst, no, no, no)
    | 0x01 | 0x05 => (.predDst, .predSrc, no, no)
    | 0x02 | 0x03 | 0x04 | 0x06 => (.predDst, .predSrc, .predSrc, no)
    | 0x07 => (V, .predSrc, no, no)
    | 0x08 => (if field imm 2 0 ≤ 1 then .condDst else S, .predSrc, no, no)
    | 0x12 => (no, S, no, no)
    | 0x13 => (S, no, no, no)
    | 0x14 => (no, S, no, no)
    | 0x15 => (S, no, no, no)
    | 0x16 => (.report, no, no, no)
    | 0x1A => (no, SB, no, no)
    | 0x1B => (SB, no, no, no)
    | _ => (no, no, no, no)
  | 0x3 =>
    if fn = 0x0B then (.predDst, L, L, no)
    else if fn = 0x04 then (V, L, L, L)
    else if (0x01 ≤ fn ∧ fn ≤ 0x03) ∨ fn = 0x05 ∨ fn = 0x07 ∨ fn = 0x08 ∨ fn = 0x0E then (V, L, L, no)
    else (V, L, no, no)
  | 0x4 =>
    let IV := Role.typed .lane ty
    let DV := Role.typed .vyz ty
    let n := if ty = some .iv64 then 2 else 1
    match fn with
    | 0x0B => (.predDst, IV, IV, no)
    | 0x04 => (DV, IV, IV, IV)
    | 0x01 | 0x02 | 0x03 | 0x05 | 0x07 | 0x08 | 0x25 => (DV, IV, IV, no)
    | 0x20 => (DV, L, L, no)
    | 0x21 | 0x22 | 0x23 | 0x24 => (V, IV, no, no)
    | 0x26 => (DV, IV, IV, if field imm 0 0 = 1 then .predDst else no)
    | 0x27 => (.predDst, IV, IV, no)
    | 0x28 => (.reg .vyz (2 * n) (n == 2), IV, no, no)
    | 0x29 => (.predDst, IV, no, no)
    | 0x2A =>
      (no, IV, .reg .lane (recordWords (field imm 4 3)) false, if field imm 5 5 = 1 then .predDst else no)
    | _ => (DV, IV, no, no)
  | 0x5 =>
    let blk := if ty = some .bx3 then 1 else if ty = some .bx5 then 2 else 3
    match fn with
    | 0x00 => (Role.typed .vyz ty, Role.typed .lane (Ty.ofCode (field imm 4 0)), no, no)
    | 0x01 => (.reg .vyz blk false, .reg .lane 16 false, no, no)
    | _ => (.reg .vyz 16 false, .reg .lane blk false, no, no)
  | 0x6 =>
    let n := if ty = some .iv64 then 2 else 1
    let x := if field imm 20 18 = 2 then 2 * n else n
    let words := if field imm 3 3 = 1 then 1 else 8 - field imm 2 0
    match fn with
    | 0x00 => (Role.typed .vyz ty, S, disp, no)
    | 0x01 => (no, S, disp, Role.typed .vyz ty)
    | 0x02 => (Role.typed .sb ty, S, no, no)
    | 0x03 => (no, S, no, Role.typed .sb ty)
    | 0x04 => (V, S, no, no)
    | 0x05 => (Role.typed .vyz ty, Role.typed .vyz ty, if field imm 2 0 = 0 then L else no, no)
    | 0x06 => (.reg .vyz x (n == 2), S, V, no)
    | 0x07 => (no, S, V, .reg .vyz x (n == 2))
    | 0x08 => (V, L, S, .predDst)
    | 0x09 | 0x0A | 0x0B => (no, S, disp, no)
    | 0x0C => (no, .reg .sb words false, no, no)
    | 0x0D => (.reg .sb words false, no, no, no)
    | _ => (no, no, no, no)
  | 0x7 =>
    match fn with
    | 0x10 => (V, S, disp, .reg .lane 2 false)
    | 0x11 | 0x12 => (no, no, no, no)
    | _ => (V, S, disp, L)
  | 0x8 =>
    match fn with
    | 0x00 => (no, S, disp, no)
    | 0x02 | 0x03 => (.acc, S, disp, no)
    | 0x04 => (.reg .vyz 8 false, .acc, no, no)
    | 0x05 => (no, S, disp, .acc)
    | 0x06 => (V, .acc, no, no)
    | 0x08 => (no, .acc, no, no)
    | _ => (no, no, no, no)
  | 0x9 =>
    match fn with
    | 0x00 | 0x04 => (.acc, S, disp, no)
    | 0x01 | 0x05 => (.acc, S, disp, SB)
    | 0x02 | 0x06 => (.acc, S, disp, .desc)
    | 0x08 => (.predDst, .acc, L, no)
    | _ => (.desc, S, no, V)
  | 0xA =>
    let q := field imm 4 4 = 1
    match fn with
    | 0x00 => (no, S, S, if field imm 7 7 = 1 then S else no)
    | 0x01 => (no, S, S, S)
    | 0x02 | 0x03 | 0x05 => (no, S, no, S)
    | 0x04 => (V, S, no, no)
    | 0x06 => (.predDst, S, no, S)
    | 0x07 =>
      if field imm 5 5 = 1 then (no, S, no, no) else (V, no, no, if q then .predDst else no)
    | 0x08 | 0x0A => (no, L, no, no)
    | 0x09 => (V, no, no, if q then .predDst else no)
    | _ => (no, no, no, no)
  | 0xB =>
    let rec_ := Role.reg .record (recordWords (field imm 4 3)) false
    let c := if field imm 5 5 = 1 then Role.predDst else no
    match fn with
    | 0x00 => (no, rec_, no, c)
    | 0x01 | 0x02 => (no, rec_, L, c)
    | 0x03 => (V, rec_, L, c)
    | _ => (no, no, no, no)
  | 0xC =>
    match fn with
    | 0x00 => (no, .optSb, no, no)
    | 0x02 => (SB, no, no, no)
    | 0x03 => (no, SB, no, no)
    | _ => (no, no, no, no)
  | _ => (no, no, no, no)

/-! ## Reserved values (R111 step 4) -/

/-- One reserved-value check: the lowest internal-word bit of the field it checks (R112), and whether the field is clear. -/
abbrev Check := Nat × Bool

/-- Orders the opcodes of classes 0x6 and 0x7 accept (R193, R230, R232). -/
def orderAccepted (opc : Nat) (o : Order) : Bool :=
  match opc with
  | 0x180 | 0x182 | 0x184 | 0x186 => o == .plain || o == .relaxed || o == .acquire || o == .sc
  | 0x181 | 0x183 | 0x187 => o == .plain || o == .relaxed || o == .release || o == .sc
  | 0x189 | 0x18A | 0x18B => o == .plain || o == .relaxed
  | 0x1D1 => o == .acquire || o == .release || o == .acqRel || o == .sc
  | _ => true

/-- The checks of a MEM immediate (R104, R105, R221 to R223, R264, R285). -/
def memChecks (opc rnd imm : Nat) : List Check :=
  let cls := opc / 64
  let ord := Order.ofCode (field imm 14 12)
  let drank := field imm 20 18
  let ordOk :=
    match ord with
    | none => false
    | some o => if cls = 6 ∨ cls = 7 then orderAccepted opc o else o == .plain
  let drankOk :=
    if opc = 0x182 ∨ opc = 0x183 ∨ opc = 0x184 ∨ opc = 0x249 ∨ cls = 0xA then drank == 0
    else if opc = 0x186 ∨ opc = 0x187 then drank == 1 || drank == 2
    else decide (drank ≤ 5)
  let hintOk := if cls = 0xA then field imm 17 15 == 0 else field imm 17 17 == 0
  [(12, ordOk), (15, hintOk), (18, drankOk)]
    ++ (if cls = 6 ∨ cls = 7 then [(76, !(ord == some .plain) || rnd == 0)] else [])

/-- The numbers of the system registers (R332). -/
def systemRegister (n : Nat) : Bool := n < 8

/-- The checks of an MD immediate, whose bits [30:16] the family leaves unnamed (R102; R160, R162, R163, R225, R226, R254, R255, R264, R285, R299, R307, R318, R326). -/
def mdChecks (opc : Nat) (ty : Option Ty) (imm : Nat) : List Check :=
  let zero := fun lo => (((lo, field imm 15 lo == 0) : Check))
  [((16, imm >>> 16 == 0) : Check)] ++
  match opc with
  | 0x05B =>
    [(0, field imm 7 5 == 0 || field imm 4 0 == 0), (5, decide (field imm 7 5 ≤ 3)), zero 8]
  | 0x080 => [(0, !(field imm 1 0 == 3)), zero 2]
  | 0x088 => [(0, decide (field imm 2 0 ≤ 3)), zero 3]
  | 0x126 => [zero 1]
  | 0x12A =>
    let k := field imm 2 0
    let n := if ty = some .iv64 then 2 else 1
    [(0, k != 0 && (field imm 4 3 == 3 || decide (k + n ≤ recordWords (field imm 4 3)))),
     (3, field imm 4 3 != 3), zero 6]
  | 0x185 =>
    [(0, decide (field imm 2 0 ≤ 4)), (3, !(field imm 2 0 == 0) || field imm 7 3 == 0),
     (8, decide (field imm 10 8 ≤ 4)), zero 11]
  | 0x188 => [(0, field imm 1 0 != 3), zero 2]
  | 0x204 => [zero 2]
  | 0x206 => [zero 5]
  | 0x287 => [(4, !(field imm 5 5 == 1 && field imm 4 4 == 1)), zero 6]
  | 0x288 | 0x28A => [(4, field imm 4 4 == 0), (5, field imm 5 5 == 0), zero 6]
  | 0x289 => [(5, field imm 5 5 == 0), zero 6]
  | 0x28B => [zero 1]
  | 0x2C0 | 0x2C3 => [(0, field imm 1 0 == 0), (3, field imm 4 3 != 3), zero 6]
  | 0x2C1 => [(0, field imm 1 0 == 0), (3, field imm 4 3 != 3 && field imm 4 3 != 0)]
  | 0x2C2 => [(0, field imm 1 0 == 0), (2, field imm 2 2 == 0), (3, field imm 4 3 != 3), zero 6]
  | 0x2C4 => [zero 0]
  | 0x2C5 | 0x305 => [zero 8]
  | 0x300 => [zero 4]
  | 0x302 | 0x303 => [(0, systemRegister (field imm 7 0)), zero 8]
  | _ => []

/-- The checks of an immediate under its family (R102 to R105, R231, R258, R287). -/
def immChecks (opc rnd : Nat) (ty : Option Ty) (imm : Nat) (fam : Family) : List Check :=
  let zero := fun lo => ((lo, imm >>> lo == 0) : Check)
  match fam with
  | .n => [zero 0]
  | .k | .br => []
  | .bi => [(0, field imm 30 30 == 1 || field imm 29 0 == 0)]
  | .cc => [(0, decide (field imm 3 0 ≤ 5)), zero 4]
  | .fl => [(6, decide (1 ≤ field imm 12 6 ∧ field imm 12 6 ≤ 64)), zero 13]
  | .bv => [(0, field imm 14 0 != 0)]
  | .rt => [zero 16]
  | .mem => memChecks opc rnd imm
  | .fn =>
    let o := Order.ofCode (field imm 14 12)
    [(0, field imm 11 0 == 0), (12, match o with | none => false | some o => orderAccepted opc o), zero 15]
  | .wt => [zero 24]
  | .td =>
    let inv := opc = 0x18E
    let one := field imm 3 3 = 1
    [(0, decide (¬ inv ∨ field imm 2 0 = 0)), (4, field imm 20 4 == 0),
     (21, decide (¬ (inv ∧ one) ∨ field imm 30 21 = 0))]
  | .cv =>
    let src := field imm 4 0
    let srcTy := Ty.ofCode src
    let sat := field imm 5 5 = 1
    let satOk := match ty, srcTy with
      | some t, some s => t.isFp8 || (t.isInt && s.isInt)
      | _, _ => true
    [(0, srcTy.isSome), (5, decide (¬ sat) || satOk), zero 6]
  | .cp =>
    let m := opc = 0x281
    let ring := field imm 6 6 = 1
    [(0, field imm 1 0 == 0), (2, decide ring || field imm 5 2 == 0), (6, decide (¬ (m ∧ ring))),
     (7, decide (¬ m) || field imm 7 7 == 1)]
  | .md => mdChecks opc ty imm

/-- The checks on RND (R101, R105, R142, R242, R258, R285). -/
def rndChecks (opc rnd : Nat) (ty : Option Ty) (info : OpInfo) : List Check :=
  if info.family = .mem ∧ (opc / 64 = 6 ∨ opc / 64 = 7) then []
  else if opc = 0x1D1 then []
  else if info.rounds then
    [(76, decide (rnd ≤ 4) && !((match ty with | some t => t.isIv | none => false) && rnd != 0))]
  else [(76, rnd == 0)]

/-- The checks on GRD (R34, R164, R318, R326). -/
def grdChecks (grd : Nat) (info : OpInfo) : List Check :=
  match info.guard with
  | .predicate => []
  | .condition => [(71, field grd 4 4 == 0 && !(field grd 1 0 == 3))]
  | .none => [(71, grd == 0)]

/-- An unused specifier field must be zero (R94). -/
def unusedChecks (r : Role × Role × Role × Role) (f : Fields) : List Check :=
  [(31, r.2.2.2 != .unused || f.c == 0), (41, r.2.2.1 != .unused || f.b == 0),
   (51, r.2.1 != .unused || f.a == 0), (61, r.1 != .unused || f.d == 0)]

/-- Every check of step 4 of R111. -/
def reservedChecks (opc : Nat) (f : Fields) (info : OpInfo) : List Check :=
  let ty := Ty.ofCode f.typ.toNat
  immChecks opc f.rnd.toNat ty f.imm.toNat info.family
    ++ unusedChecks (roles opc ty f.imm.toNat) f
    ++ grdChecks f.grd.toNat info
    ++ rndChecks opc f.rnd.toNat ty info
    ++ [(79, ty.isSome)]

/-- The lowest bit among the failing checks. -/
def lowestFailing : List Check → Option Nat
  | [] => none
  | (lo, ok) :: rest =>
    match ok, lowestFailing rest with
    | true, r => r
    | false, none => some lo
    | false, some m => some (min lo m)

/-! ## The checks of R111, steps 2 to 5 -/

/-- A fault found while decoding, with its TVAL (R112). -/
structure DecodeFault where
  code : FaultCode
  tval : BitVec 64
  deriving DecidableEq, Repr

/-- The LEN number of a form (R93). -/
def formNum : Form → Nat
  | .short => 0 | .medium => 1 | .long => 2

/-- Bytes of a form (R89). -/
def formBytes : Form → Nat
  | .short => 4 | .medium => 8 | .long => 12

/-- TVAL of ILLEGAL_OPCODE and ILLEGAL_ENCODING (R112). -/
def encodingTval (opc : Nat) (len : Form) (cause : Nat) : BitVec 64 :=
  BitVec.ofNat 64 (opc % 1024 + formNum len * 2 ^ 10 + cause * 2 ^ 12)

/-- Whether a form is eligible (R99, R108 to R110). -/
def eligible (info : OpInfo) : Form → Bool
  | .short => info.short
  | .medium => info.medium
  | .long => true

/-- The first field, in the order D, A, B, C, whose specifier is invalid (R111 step 5), with its number in R112. -/
def badField (r : Role × Role × Role × Role) (f : Fields) : Option (Nat × BitVec 10) :=
  if (r.1.names f.d).isNone then some (0, f.d)
  else if (r.2.1.names f.a).isNone then some (1, f.a)
  else if (r.2.2.1.names f.b).isNone then some (2, f.b)
  else if (r.2.2.2.names f.c).isNone then some (3, f.c)
  else none

/-- TVAL of BAD_REGISTER (R112). -/
def badRegisterTval (spec : BitVec 10) (len : Form) (fld : Nat) : BitVec 64 :=
  BitVec.ofNat 64 (spec.toNat + formNum len * 2 ^ 10 + fld * 2 ^ 12)

/-- Steps 2 to 5 of R111 on an internal word: the first check that fails. -/
def checkWord (opc : Nat) (f : Fields) : Option DecodeFault :=
  match opInfo opc with
  | none => some ⟨.illegalOpcode, encodingTval opc f.len 0⟩
  | some info =>
    let ty := Ty.ofCode f.typ.toNat
    if eligible info f.len = false then some ⟨.illegalEncoding, encodingTval opc f.len 0⟩
    else if (match ty with | some t => accepts opc t && acceptsSource opc t f.imm.toNat | none => true) = false then
      some ⟨.illegalEncoding, encodingTval opc f.len 1⟩
    else match lowestFailing (reservedChecks opc f info) with
      | some bit => some ⟨.reservedField, BitVec.ofNat 64 (bit + formNum f.len * 2 ^ 10)⟩
      | none =>
        match badField (roles opc ty f.imm.toNat) f with
        | some (fld, spec) => some ⟨.badRegister, badRegisterTval spec f.len fld⟩
        | none => none

end Sys2Proof.Machine
end

