-- ==== Sys2Proof/Machine/Expand.lean ====
section
/-! DEFINITION. The expander: compact specifiers and immediates to the internal word (R98, R102 to R104), and the inverse that
an encoder needs. -/

namespace Sys2Proof.Machine

/-- Sign extension of an `n`-bit number to `m` bits, as a number (R102). -/
def signExtend (n m x : Nat) : Nat := (BitVec.signExtend m (BitVec.ofNat n x)).toNat

/-- ShortSpec (R98). -/
def shortSpec (n : Nat) : BitVec 10 :=
  if n < 22 then BitVec.ofNat 10 n
  else if n < 30 then BitVec.ofNat 10 (0x100 + (n - 22))
  else BitVec.ofNat 10 (0x200 + (n - 30))

/-- MediumSpec (R98). -/
def mediumSpec (n : Nat) : BitVec 10 :=
  if n < 96 then BitVec.ofNat 10 n
  else if n < 104 then BitVec.ofNat 10 (0x100 + (n - 96))
  else if n < 106 then BitVec.ofNat 10 (0x200 + (n - 104))
  else BitVec.ofNat 10 (0x300 + (n - 106))

/-- The compact number of a medium register specifier, where it has one (R98). -/
def mediumOf (x : BitVec 10) : Option Nat :=
  let n := x.toNat
  if n < 96 then some n
  else if 0x100 ≤ n ∧ n < 0x108 then some (96 + (n - 0x100))
  else if 0x200 ≤ n ∧ n < 0x202 then some (104 + (n - 0x200))
  else if 0x300 ≤ n ∧ n < 0x316 then some (106 + (n - 0x300))
  else none

/-- ShortImm (R98, R102). -/
def shortImm (fam : Family) (x : Nat) : Nat :=
  match fam with
  | .k | .br => signExtend 6 31 x
  | .bi => bits x 5 1 * 2 ^ 30 + signExtend 5 30 (bits x 0 5)
  | _ => x

/-- MediumImm (R98, R102 to R104). -/
def mediumImm (fam : Family) (x : Nat) : Nat :=
  match fam with
  | .k | .br => signExtend 14 31 x
  | .bi => bits x 13 1 * 2 ^ 30 + signExtend 13 30 (bits x 0 13)
  | .bv => signExtend 7 16 (bits x 7 7) * 2 ^ 15 + bits x 0 7
  | .mem => bits x 4 10 * 2 ^ 21 + bits x 1 3 * 2 ^ 18 + bits x 0 1 * 2 ^ 17
  | .wt => bits x 8 6 * 2 ^ 18 + bits x 2 6 * 2 ^ 12 + 0xF * 2 ^ 8 + bits x 0 2 * 2 ^ 24
  | .td => bits x 4 10 * 2 ^ 21 + bits x 0 4
  | _ => x

/-- The 14 bits that expand to an immediate, where some do: the inverse of `mediumImm`. -/
def mediumImmOf (fam : Family) (imm : Nat) : Option Nat :=
  let c := match fam with
    | .k | .br => bits imm 0 14
    | .bi => bits imm 30 1 * 2 ^ 13 + bits imm 0 13
    | .bv => bits imm 15 7 * 2 ^ 7 + bits imm 0 7
    | .mem => bits imm 21 10 * 2 ^ 4 + bits imm 18 3 * 2 + bits imm 17 1
    | .wt => bits imm 18 6 * 2 ^ 8 + bits imm 12 6 * 2 ^ 2 + bits imm 24 2
    | .td => bits imm 21 10 * 2 ^ 4 + bits imm 0 4
    | _ => bits imm 0 14
  if mediumImm fam c = imm then some c else none

/-- Whether a role is of register kind for the expander (R94, R98): a field an opcode leaves unused or uses as a predicate,
accumulator or descriptor is zero-extended. `init` cases whose kind depends on the immediate follow the register case. -/
def isRegisterRole : Role → Bool
  | .reg _ _ _ => true
  | .optSb => true
  | _ => false

/-- The kinds of the four fields as the expander takes them (R94, R98): whether D, A, B, C are register fields in some form
of the opcode. -/
def registerFields (opc : Nat) : Bool × Bool × Bool × Bool :=
  match opc with
  | 0x280 | 0x281 => (false, true, true, true)
  | 0x088 => (true, false, false, false)
  | 0x287 => (true, true, false, false)
  | 0x05B => (true, true, true, false)
  | _ =>
    match opInfo opc with
    | none => (true, true, true, true)
    | some i =>
      let imm := match i.family with
        | .mem => 2 ^ 18
        | _ => 0
      let r := roles opc (Ty.ofCode i.dflt.toNat) imm
      (isRegisterRole r.1, isRegisterRole r.2.1, isRegisterRole r.2.2.1, isRegisterRole r.2.2.2)

/-- One specifier of a medium form (R98). -/
def mediumField (isReg : Bool) (n : Nat) : BitVec 10 := if isReg then mediumSpec n else BitVec.ofNat 10 n

/-- The internal word of a short form (R98). -/
def expandShort (opc : Nat) (f : ShortFields) : Fields :=
  match opInfo opc with
  | none => ⟨.short, 0, 0, 0, shortSpec f.d.toNat, shortSpec f.a.toNat, shortSpec f.b.toNat, 0, 0⟩
  | some i => ⟨.short, i.dflt, 0, 0, shortSpec f.d.toNat, shortSpec f.a.toNat, shortSpec f.b.toNat, 0,
      BitVec.ofNat 31 (shortImm i.family f.imm6.toNat)⟩

/-- The internal word of a medium form (R97, R98). -/
def expandMedium (opc w : Nat) : Fields :=
  let k := registerFields opc
  let imm := match opInfo opc with
    | none => 0
    | some i => mediumImm i.family (bits w 50 14)
  ⟨.medium, match opInfo opc with
    | none => 0
    | some _ => BitVec.ofNat 5 (bits w 12 5), 0, BitVec.ofNat 5 (bits w 17 5),
    mediumField k.1 (bits w 22 7), mediumField k.2.1 (bits w 29 7), mediumField k.2.2.1 (bits w 36 7),
    mediumField k.2.2.2 (bits w 43 7), BitVec.ofNat 31 imm⟩

/-- The internal word of a long form: bits [93:0] above 0b11 (R97, R98). -/
def expandLong (w : Nat) : Fields :=
  ⟨.long, BitVec.ofNat 5 (bits w 81 5), BitVec.ofNat 3 (bits w 78 3), BitVec.ofNat 5 (bits w 73 5),
    BitVec.ofNat 10 (bits w 63 10), BitVec.ofNat 10 (bits w 53 10), BitVec.ofNat 10 (bits w 43 10),
    BitVec.ofNat 10 (bits w 33 10), BitVec.ofNat 31 (bits w 2 31)⟩

end Sys2Proof.Machine
end

