-- ==== Sys2Proof/Config.lean ====
section
/-! DEFINITION. What the spec leaves open: values that nothing in the model fixes. None of them has a body, so a statement
about a free value holds for every value of it. -/

namespace Sys2Proof.Config

/-- The n-th free value: a value the spec does not state, taken in order by the counter `State.free` (log 1). -/
opaque freeWord : Nat → BitVec 64

/-- Bytes of a scratchpad after the reset number `gen` of its cell, which R377 leaves undefined: what an unwritten byte
differs by from its last content (log 2). -/
opaque resetByte : (gen cell offset : Nat) → BitVec 8

/-- Bits of the health, temperature and diagnostic words whose format or value the spec does not give (R388, R401). -/
opaque diagnostic : (unit word clock : Nat) → BitVec 64

/-- Bytes of device memory that the scheduler leaves undefined: what a byte of a line differs by from its last content (R73;
log 2). -/
opaque voidByte : (gen key : Nat) → BitVec 8

/-- The digest of a measurement block of R409. -/
opaque digest : (block : Nat) → (data : Nat) → BitVec 512

/-- The log2 of the size of a VF's BAR2 aperture above 1 GiB: 0 to 9 (R396). -/
opaque aperture : (vf : Nat) → Fin 10

/-- Whether a UALink station (0 to 23) or an Ethernet port (24 to 27) reaches a chip that is not its PEER: the fabric beyond the
link is not part of the package, and the spec says no more than "reaches" (R25; log 64). -/
opaque reaches : (link chip : Nat) → Bool

/-- Whether the package at the other end rejects the n-th remote access: its windows, rights and translation are its own (R342,
R407; log 38). -/
opaque rejects : Nat → Bool

/-- Whether the line that the n-th remote read reads is poisoned in the package that owns it (R390; log 38). -/
opaque farPoison : Nat → Bool

end Sys2Proof.Config
end

