-- ==== Sys2Proof/Machine/State.lean ====
section
/-! DEFINITION. The state of the package as plain data (INVENTORY.md, '## State'), the reasons a step can stop, and the
state right after reset. -/

namespace Sys2Proof.Machine

/-! ## Gangs -/

/-- One entry of the reconvergence stack (R44, R46, R47). -/
structure StackEntry where
  rcv : Nat
  pendPc : Nat
  pendPm : Mask
  pendEm : Mask
  arrPm : Mask
  arrEm : Mask
  /-- The arithmetic cycle at which the parked path parked. -/
  parkedAt : Option Nat
  timeout : Nat
  /-- Where the parked path goes on: the instruction after its RCV. -/
  resume : Nat
  /-- The condition that a timeout writes (R170). -/
  report : Option Nat
  deriving DecidableEq, Repr

/-- What makes a name pending (R41): a result distance, a load, or a matrix batch. -/
inductive PendKind where
  | distance (left : Nat)
  | load (id : Nat)
  | batch (n : Nat)
  deriving DecidableEq, Repr

/-- One entry of the pending scoreboard (R26, R41). -/
structure Pending where
  name : Name
  kind : PendKind
  deriving DecidableEq, Repr

/-- A register write of an element that has yet to arrive from another package: its bit, its thread, the register, and the
value (R217). -/
structure Late where
  mask : BitVec 64
  thread : Nat
  reg : BitVec 10
  value : Word
  deriving DecidableEq, Repr

/-- A load, atomic, LINE, GATH, LDU or TDGET that is outstanding (R216, R218). -/
structure OutLoad where
  id : Nat
  /-- It is an atomic, which completes even where its gang ends (R173). -/
  atomic : Bool
  complete : Bool
  poison : Mask
  td : Nat
  addr : Nat
  /-- The link on which remote elements are still outstanding, with their mask, and what they write as they arrive (R217). -/
  remote : Option (Nat × BitVec 64)
  late : List Late
  deriving DecidableEq, Repr

/-- A store that is outstanding (R216): its instruction, and the link that carries it with the mask of its elements (R405). -/
structure OutStore where
  id : Nat
  addr : Nat
  remote : Option (Nat × BitVec 64)
  deriving DecidableEq, Repr

/-- A fault of a gang with what its report carries (R327, R375). -/
structure GFault where
  code : FaultCode
  tval : Word
  kind : BitVec 2
  escalates : Bool
  /-- The address the fault log records (R375), where it is not the instruction's own. -/
  logAddr : Option Nat
  detail : Nat
  deriving DecidableEq, Repr

/-- Where a deferred fault is raised (R270, R293, R297). -/
inductive DeferredAt where
  | batch (n : Nat)
  /-- The token of the copy, and the marks its gang had passed when it issued it (R293, R381). -/
  | copy (token marks : Nat)
  | next
  /-- Not yet reported by the barrier logic (R297). -/
  | report
  deriving DecidableEq, Repr

/-- A fault that waits for the instruction that raises it. -/
structure Deferred where
  site : DeferredAt
  fault : GFault
  deriving DecidableEq, Repr

/-- Why a gang is held (R31, R47, R215, R216, R265 to R268, R290, R292, R295, R302, R303, R310, R314, R315, R321, R333). -/
inductive Hold where
  | wait | interlock | claim | miss | token | emission | join | window | ring (cell num : Nat) | barrier | gbar | brk
  deriving DecidableEq, Repr

/-- A matrix batch not yet retired, by the number of batches closed before it, with the changes to FPSTAT and VSTAT that its
retirement makes readable (R268, R280). -/
structure Batch where
  n : Nat
  flags : BitVec 6
  abandoned : Nat
  skipped : Nat
  order : Bool
  deriving DecidableEq, Repr

/-- The control state of a ring slot (R300). -/
inductive RingSlot where
  | free | reserved | filled | acquired
  deriving DecidableEq, Repr

/-- A ring of a cell (R300, R301). `waiters` are the gang slots held on it, in issue order (R302). -/
structure Ring where
  wg : Nat
  base : Nat
  size : Nat
  slots : List RingSlot
  rp : Nat
  ap : Nat
  waiters : List Nat
  deriving DecidableEq, Repr

/-- The kind of a verdict chain (R267, R278). -/
inductive ChainKind where
  | plain | sign | gt | topk
  deriving DecidableEq, Repr

/-- A physical accumulator tile with its chain state (R267). Elements are numbered 32·row + column. -/
structure Tile where
  elems : Sparse 64
  kind : ChainKind
  orderOff : Bool
  complete : Bool
  threshold : Word
  lastEa : AMap Nat
  lastEb : AMap Nat
  chunks : AMap Nat
  emax : AMap Nat
  /-- The gang slot whose name is bound to it, or none while it retires. -/
  owner : Option Nat
  deriving DecidableEq, Repr

/-- A tensor descriptor (R179). -/
structure Desc where
  budget : Nat
  tile1 : Nat
  tile0 : Nat
  strides : List Nat
  extents : List Nat
  chip : Nat
  perm : Nat
  scale : Int
  valid : Bool
  bmode : Bool
  layout : Nat
  rank : Nat
  ty : Nat
  space : Nat
  base : Nat
  /-- A reserved field is non-zero. -/
  reserved : Bool
  deriving DecidableEq, Repr

/-- What a write or atomic matched (R385, R386): the lowest byte, the watchpoints, the bytes of its granule. -/
structure Match where
  va : Nat
  wps : BitVec 4
  bytes : BitVec 16
  deriving DecidableEq, Repr

/-- Who is responsible for an operation on a barrier (R297): the gang, the token of its copy, its instruction. -/
structure Doer where
  vf : Nat
  lslot : Nat
  wg : Nat
  slot : Nat
  idx : Nat
  copy : Option Nat
  addr : Nat
  deriving DecidableEq, Repr

/-- A copy in flight (R289 to R293). -/
structure Copy where
  slot : Nat
  vf : Nat
  lslot : Nat
  wg : Nat
  idx : Nat
  cell : Nat
  token : Nat
  dst : Desc
  src : Desc
  dstTd : Nat
  srcTd : Nat
  dstAt : List Int
  srcAt : List Int
  bar : Option Nat
  mask : Option (BitVec 8)
  ring : Option (Nat × Nat)
  addr : Nat
  /-- Marks its gang had passed when it issued it (R381). -/
  marks : Nat
  /-- Its units that another package has still to answer, and the link that carries each: those it reads, and from 2^32 those it
  writes (R293); the units it has read (R289). -/
  sent : AMap Nat
  fetched : AMap (List Byte)
  /-- Its tile, once every unit has been read (R289, R291), and the cells that have received it whole (R291). -/
  data : Option (List Byte)
  counted : List Nat
  /-- Its units already written, which are not written again (R289); the watchpoints that they matched (R385), and the bytes of
  device memory among them, by their dram numbers (R390). -/
  written : List Nat
  hit : Option Match
  keys : List Nat
  deriving DecidableEq, Repr

/-- The state a mark captures into the gang's shelf (R321), and the recipe it names (R319). -/
structure Shelf where
  resume : Nat
  inputs : List Nat
  regs : Sparse 64
  tiles : List (Nat × Tile)
  sregs : Sparse 64
  preds : Sparse 2
  conds : BitVec 4
  em : Mask
  pm : Mask
  fpstat : Word
  vstat : Word
  batchClosed : BitVec 16
  batchRetired : BitVec 16
  /-- The counts of R303 at the mark. -/
  gbar : Nat × Nat
  spads : List (Nat × List Byte)
  bars : List (Nat × List Byte)
  rings : List (Nat × Ring)
  copies : List Copy
  deriving DecidableEq, Repr

/-- A record or join entry that a record instruction has still to place (R310, R314, R315): its words, the join it inherits
(0 for none), and the destination of a remote record, or the count of a join entry in [31:0] with D in [41:32]. -/
structure Emission where
  words : List Word
  join : Nat
  arg : Word
  deriving DecidableEq, Repr

/-- What a held instruction read when it issued (R215, R231): the v, y and z registers, the b registers of its bay, and the
descriptor of its accesses. -/
structure Operands where
  regs : Sparse 64
  bregs : List Word
  desc : Desc
  deriving DecidableEq, Repr

/-- A gang resident in a slot (R26). -/
structure Gang where
  vf : Nat
  lslot : Nat
  wg : Nat
  idx : Nat
  pc : Nat
  em : Mask
  pm : Mask
  stack : List StackEntry
  /-- v, y and z registers, numbered 1024·thread + specifier (R33, R95). -/
  regs : Sparse 64
  sregs : Sparse 64
  /-- Predicates, numbered 8·thread + index (R34). -/
  preds : Sparse 2
  conds : BitVec 4
  /-- Accumulator names bound to physical tiles of the bay (R267). -/
  accs : AMap Nat
  fpstat : Word
  vstat : Word
  pending : List Pending
  tcause : Word
  tpc : Word
  tval : Word
  tmask : Word
  /-- The TPC that trap entry wrote (R330). -/
  tpcEntry : Word
  batchClosed : BitVec 16
  batchRetired : BitVec 16
  /-- The number of batches closed since launch: the open batch is this one. -/
  openBatch : Nat
  batches : List Batch
  /-- Elements of the held or trapped instruction that are complete (R215). -/
  done : BitVec 64
  /-- Elements whose translation, permission or reach failed, by kind (R215). -/
  failed : List (FaultCode × Nat × BitVec 64)
  /-- Poison found among the elements already performed (R218). -/
  poisoned : Mask
  /-- The completion mask and poison of the instruction at TPC, kept by trap entry (R328). -/
  trapDone : BitVec 64
  trapPoison : Mask
  loads : List OutLoad
  stores : List OutStore
  hold : Option Hold
  /-- The held instruction has taken its issue cycles (R29). -/
  charged : Bool
  /-- The operands of the held instruction, once it has performed accesses (R215). -/
  operands : Option Operands
  /-- The next identity when the instruction issued: what was issued before it bears a lower one (R272). -/
  issuedAt : Nat
  /-- What the held record instruction has still to place, by thread; none where no record instruction has issued (R310). -/
  emit : Option (AMap (List Emission))
  deferred : List Deferred
  sealed : Bool
  noMark : Bool
  lastMark : BitVec 8
  markCount : Nat
  marks : Nat
  shelf : Shelf
  /-- Arrivals at GBAR.bay and GBAR.cell (R303). -/
  gbar : Nat × Nat
  /-- The gang has issued the GBAR it is held in; and the one it was held in as it took a trap, to which a TRET may return. -/
  gbarIn : Bool
  trapGbar : Bool
  /-- A TRET asked that the stores of the instruction at TPC skip watchpoint matching (R330). -/
  skipWatch : Bool
  heldCycles : Nat
  /-- Its last thread has exited (R173). -/
  ended : Bool
  /-- The arithmetic cycle from which it is ready for its next instruction (R31). -/
  ready : Nat
  /-- It has stopped under a pending pre-emption (R380). -/
  stopped : Bool
  /-- The kept tiles that its restore still waits to bind, by name (R383). -/
  restoring : List (Nat × Tile)
  /-- A fault of its prefetch that it takes at its first instruction (R76). -/
  launchFault : Option GFault
  deriving DecidableEq, Repr

/-! ## Bays and cells -/

/-- A stationary plane (R265, R272). Elements are numbered 512·column + position, as binary64. -/
structure Plane where
  filled : Bool
  ty : Nat
  layout : Nat
  scale : Int
  depth : Nat
  elems : Sparse 64
  bounds : AMap Nat
  wg : Nat
  /-- The slot of the gang whose faulting MLDS left it undefined (R272). -/
  spoilt : Option Nat
  deriving DecidableEq, Repr

/-- The operations of the matrix unit (R264). -/
inductive MatKind where
  | mlds | macc | vacc | mdrn | msto | mrd | vtest | tkins
  deriving DecidableEq, Repr

/-- An operation queued in a matrix unit (R269), with everything it bound at issue. -/
structure MatOp where
  slot : Nat
  batch : Nat
  kind : MatKind
  ty : Nat
  rnd : Nat
  threads : Mask
  desc : Desc
  td : Nat
  coords : AMap (List Int)
  plane : Nat
  tile : Nat
  dst : BitVec 10
  column : Nat
  chain : ChainKind
  threshold : Word
  cell : Option (Desc × Nat)
  data : AMap Word
  hint : Nat
  addr : Nat
  /-- Its place in the order of identities, which copies take too (R204). -/
  seq : Nat
  /-- It waits on a translation miss, and lets later operations of other gangs proceed (R269). -/
  held : Bool
  /-- The ranges it has fetched, numbered 32·stage + thread: rows, lines of sparse rows, the threshold cell (R270). -/
  fetched : AMap (List Byte)
  /-- Its ranges that were sent to another package, and the link that carries each (R217). -/
  sent : AMap Nat
  /-- Its threads whose ranges have failed, by kind (R215). -/
  failed : List (FaultCode × Nat × BitVec 64)
  deriving DecidableEq, Repr

/-- A bay's matrix unit: which plane is active, who claims the pair, and the queue of operations (R265, R269). -/
structure Matrix where
  active : Nat
  planes : List Plane
  claim : Option Nat
  tiles : AMap Tile
  queue : List MatOp
  deriving DecidableEq, Repr

/-- A broadcast from a barrier root to a leaf that arrived in the phase that flipped (R296). -/
structure Broadcast where
  cell : Nat
  offset : Nat
  doer : Doer
  deriving DecidableEq, Repr

/-- An arrival of a leaf at its root (R296): the leaf, the root, and who completed the leaf's phase. -/
structure RootArrival where
  leafCell : Nat
  leafOffset : Nat
  rootCell : Nat
  rootOffset : Nat
  doer : Doer
  deriving DecidableEq, Repr

/-! ## The graph scheduler -/

/-- A node descriptor (R64), with the entries of its recipe table as read at the start of the launch (R319). -/
structure Node where
  rsize : Nat
  binding : Nat
  gangs : Nat
  producer : Nat
  rlimit : Nat
  priority : Nat
  succs : List Nat
  lquota : Nat
  cquota : Nat
  low : Nat
  high : Nat
  flush : Nat
  recipe : Nat
  pf0 : Nat
  pf1 : Nat
  trap : Nat
  entry : Nat
  recipes : List Nat
  deriving DecidableEq, Repr

/-- A record in a queue (R66, R74): its words, the cycle it was enqueued, and its number in the order of enqueueing. -/
structure Rec where
  words : List Word
  since : Nat
  seq : Nat
  deriving DecidableEq, Repr

/-- A larder line that holds records of a shard (R71). -/
structure Line where
  line : Nat
  recs : List Rec
  deriving DecidableEq, Repr

/-- A cellar line that holds records of a shard: its number among the lines after the inbox, and what the scheduler wrote there,
whose layout is not architectural (R71, R73). -/
structure CellarLine where
  line : Nat
  image : List (BitVec 8)
  recs : List Rec
  deriving DecidableEq, Repr

/-- A shard: one node's queue in one stack group (R71, R79). -/
structure Shard where
  larder : List Line
  cellar : List CellarLine
  hot : Bool
  deriving DecidableEq, Repr

/-- A record bound to a workgroup (R69, R70, R316): its words, its record-window slot, and whether it has arrived. -/
structure WgRec where
  words : List Word
  index : Nat
  arrived : Bool
  deriving DecidableEq, Repr

/-- Where a workgroup is in its life (R75 to R78, R379 to R383). -/
inductive WgPhase where
  | shadow | runnable | running | saving | saved
  deriving DecidableEq, Repr

/-- A workgroup (R68, R69, R75). -/
structure Workgroup where
  vf : Nat
  lslot : Nat
  node : Nat
  stack : Nat
  cell : Nat
  phase : WgPhase
  records : List WgRec
  /-- The slot of each gang, by index; after its end, the slot it held. -/
  slots : List Nat
  /-- Gangs, by index, that have ended and whose slots are free (R173). -/
  gone : List Nat
  drain : Bool
  oldest : Nat
  /-- A fault of its prefetch (R76). -/
  launchFault : Option GFault
  /-- Pre-emption is pending, and whether it is acted on (R379, R382). -/
  preempt : Bool
  acted : Bool
  borrower : Bool
  /-- The save slots set aside or in use for it, and their resume-latency class (R371, R382). -/
  saveSlots : List Nat
  saveClass : Nat
  /-- The save slots of its gangs that have still to be restored: gang, class and slot (R382). -/
  keptSlots : List (Nat × Nat × Nat)
  started : Nat
  preempted : Nat
  /-- What its gangs left when they were saved (R381), and the contents of its record-window slots, by record (R70, R382). -/
  saved : List (Nat × Gang)
  window : List (List (BitVec 8))
  /-- What its prefetches have read so far: 2^32 for each tile, plus the number of a unit, or 2^31 for its descriptor (R76). -/
  fetched : AMap (List (BitVec 8))
  deriving DecidableEq, Repr

/-- A remote record that waits in an inbox for a shard (R85): the chip to acknowledge and the link, or the launch of this
package that sent it (R25); the 16-byte parts of the inbox that hold it, and what the scheduler wrote there (R73). -/
structure InRec where
  words : List Word
  source : Nat
  link : Nat
  sender : Option Nat
  spots : List Nat
  image : List (BitVec 8)
  deriving DecidableEq, Repr

/-- The phase of a launch (R56 to R62): `starting` until its checks are made, `invalid` where one
failed, with its status (R57, R61). -/
inductive LaunchPhase where
  | starting | running | completing | aborted | invalid (status : Nat)
  deriving DecidableEq, Repr

/-- A launch in a launch slot (R52 to R62). -/
structure Launch where
  queue : Nat
  packet : Nat
  fence : Nat
  sets : BitVec 256
  registered : Bool
  tag : Nat
  close : Nat
  priority : Nat
  stackGroups : List Nat
  cellar : Nat
  cellarLines : Nat
  image : Nat
  codeBase : Nat
  codeSize : Nat
  nodes : List Node
  phase : LaunchPhase
  /-- The entry record list; the records not yet enqueued, and the number of the next (R54, R58). -/
  entryBase : Nat
  entryCount : Nat
  entries : List (List Word)
  nextEntry : Nat
  shards : AMap Shard
  inbox : List InRec
  escaped : Bool
  wrote : Bool
  leaked : Nat
  rejected : Nat
  unacked : Nat
  started : Nat
  /-- The fault of an aborted launch: code, grade, node and gang slot (R61, R62). -/
  faultCode : BitVec 8
  faultGrade : Nat
  faultNode : Nat
  faultSlot : Nat
  /-- Steps 1 and 3 of R60 are done: the completion entry alone remains. -/
  published : Bool
  deriving DecidableEq, Repr

/-- A live join entry (R83). -/
structure Join where
  vf : Nat
  lslot : Nat
  gen : Nat
  count : Nat
  words : List Word
  deriving DecidableEq, Repr

/-- A packet that ended without a launch and whose completion entry waits its turn (R55, R57, R60). -/
structure Ended where
  packet : Nat
  status : Nat
  fence : Nat
  lslot : Nat
  deriving DecidableEq, Repr

/-- A launch queue of a context (R53, R398). -/
structure Queue where
  qring : Word
  qlog : Word
  rp : BitVec 32
  wp : BitVec 32
  /-- Packets that have started or ended, counted as RP counts. -/
  sp : BitVec 32
  stopped : Bool
  dbstat : Nat
  ended : List Ended
  /-- When each accepted doorbell moved WP, newest last: (WP after it, its order). -/
  bells : List (Nat × Nat)
  deriving DecidableEq, Repr

/-! ## Translation -/

/-- The accesses of R340. -/
inductive Access where
  | read | write | atomic | fetch
  deriving DecidableEq, Repr

/-- A combined TLB entry (R343): the cache that holds it (cell e is e, cluster c is 512 + c), its VF and page, with its size, the
size of the stage-1 page it was formed from (0 with stage 1 off), its output page and the permissions of each stage: bit 0 R,
bit 1 W, bit 2 X (R337). -/
structure TlbEntry where
  place : Nat
  vf : Nat
  va : Nat
  size : Nat
  page1 : Nat
  pa : Nat
  perm1 : BitVec 3
  perm2 : BitVec 3
  deriving DecidableEq, Repr

/-- A walk-cache entry of a stack group's walker (R343): a table entry of either stage that covers an input address of a VF at
a level, `page` the address divided by what one entry of the level covers, and its value. -/
structure WalkEntry where
  stack : Nat
  vf : Nat
  second : Bool
  level : Nat
  page : Nat
  value : Nat
  deriving DecidableEq, Repr

/-- Who waits for a translation miss (R347 SRC). A copy or a prefetch waits as the copy engine of its cell, or as the fabric
engine that carries it out of the package; the matrix unit waits once for each gang it works for, the scheduler once for each
launch, packet or queue it acts for; `shadow` is the descriptor fetch of a workgroup's prefetch (R76). -/
inductive Source where
  | gang (slot : Nat) | copy (id : Nat) | matrix (slot : Nat) | fabric (id : Nat) | scheduler (task : Nat)
  | descriptor (slot : Nat) | fetch (slot : Nat) | shadow (wg : Nat)
  deriving DecidableEq, Repr

/-- Where a miss is (R344, R347, R350): the last phase has its result, of which somebody has still to hear. -/
inductive MissPhase where
  | queued | walking | requested (id : Nat) | failed
  deriving DecidableEq, Repr

/-- How a walk ends (R339): an entry, a failure with its cause (R341), an access denied at a stage, poison in a table, a
stage-2 entry that is not present, or a failure after a leaf's permissions were checked. -/
inductive WalkResult where
  | none
  | ok (e : TlbEntry)
  | cause (n : Nat)
  | denied (stage : Nat)
  | poison
  | absent (ipa level : Nat) (table : Bool)
  | checked (stage : Nat) (perm : BitVec 3) (r : WalkResult)
  deriving DecidableEq, Repr

/-- A pending translation miss: VF, page, first requester and union of accesses (R344, R347). `result` is what its walk read
while it is in flight. -/
structure Miss where
  vf : Nat
  page : Nat
  va : Nat
  source : Source
  cell : Nat
  acc : BitVec 4
  phase : MissPhase
  result : WalkResult
  /-- Everyone merged into the miss (R344), and the cells whose TLBs its entry fills, of those who left it too (R343, R353). -/
  waiters : List Source
  cells : List Nat
  deriving DecidableEq, Repr

/-- An outstanding page request (R347, R349). -/
structure PageRequest where
  vf : Nat
  id : Nat
  seq : Nat
  ipa : Nat
  deriving DecidableEq, Repr

/-- A cached host translation (R351), in the cluster TLB of the number of `TlbEntry.place`. -/
structure AtsEntry where
  place : Nat
  vf : Nat
  page : Nat
  host : Nat
  r : Bool
  w : Bool
  deriving DecidableEq, Repr

/-- A host translation in progress: the ATS request, or the page request under PRI, with the union of its accesses (R351,
R352). `queued` says that the page request waits for the allocation of the function. -/
structure AtsMiss where
  vf : Nat
  page : Nat
  acc : BitVec 4
  pri : Bool
  queued : Bool
  failed : Bool
  waiters : List Source
  /-- The cluster TLBs that its answer fills, of requesters that have left it too (R343, R353). -/
  places : List Nat
  deriving DecidableEq, Repr

/-! ## Partitions, faults and the outside -/

/-- A partition's ownership (R354). -/
structure Partition where
  clusters : List Nat
  banks : List Nat
  channels : List Nat
  larder : List Nat
  copy : List Nat
  fabric : List Nat
  stations : List Nat
  ports : List Nat
  vfs : List Nat
  deriving DecidableEq, Repr

/-- The states of a drain (R360, R404). -/
inductive Drain where
  | running | draining | drained
  deriving DecidableEq, Repr

/-- A fault-log entry (R375). -/
structure LogEntry where
  kind : Nat
  code : BitVec 8
  grade : Nat
  detail : Nat
  vf : Nat
  part : Nat
  lslot : Nat
  gslot : Nat
  node : Nat
  queue : Nat
  fence : Nat
  addr : Nat
  tval : Word
  time : Nat
  seq : Nat
  deriving DecidableEq, Repr

/-- An MSI-X message that left the device (R395): the function (none for the physical function) and its vector. -/
structure Message where
  function : Option Nat
  vector : Nat
  deriving DecidableEq, Repr

/-- What the device sends to other packages and to its hosts (R85, R86, R217, R352, R406, R407); an access carries the TENANT
of its VF. -/
inductive Outgoing where
  | record (chip tag : Nat) (words : List Word)
  | ack (link chip : Nat) (accepted : Bool)
  | load (tenant chip va size : Nat)
  | store (tenant chip va : Nat) (data : List Byte)
  | atomic (tenant chip va : Nat) (op : RemoteOp) (width : Nat) (signed : Bool) (data compare : List Byte)
  | copy (tenant chip va : Nat) (data : List Byte)
  | response (link source : Nat) (ok poison : Bool) (data : List Byte)
  | ats (vf page : Nat)
  | pri (vf page : Nat)
  | atsInvalidated (vf page : Nat)
  | bar (function : Option Nat) (data : List Byte)
  | spdm (function block : Nat) (data : BitVec 512)
  deriving DecidableEq, Repr

/-- A watch event that the device still has to write (R385, R386). -/
structure WatchEvent where
  vf : Nat
  kind : Nat
  source : Nat
  va : Nat
  bytes : BitVec 16
  wps : BitVec 4
  time : Nat
  deriving DecidableEq, Repr

/-- A line held in an L2 slice (R19, R190, R368): its bank, who filled it, whether it is dirty, when it was last used, whether a
hint marks it for early eviction, and the workgroup whose saved shelf locks it (R371). -/
structure L2Line where
  bank : Nat
  vf : Nat
  dirty : Bool
  used : Nat
  early : Bool
  locked : Option Nat
  deriving DecidableEq, Repr

/-- One entry of the quarantine list (R391). -/
structure Quarantine where
  part : Nat
  base : Nat
  size : Nat
  deriving DecidableEq, Repr

/-- A link record (R403). -/
structure Link where
  state : LinkState
  peer : Nat
  deriving DecidableEq, Repr

/-- A captured plate record: unit kind, unit number and its words (R388). -/
structure PlateRec where
  kind : Nat
  number : Nat
  words : List Word
  deriving DecidableEq, Repr

/-- Tokens that a transfer has still to be granted (R366): the arbiter, the VF it acts for, how many. -/
structure Owed where
  kind : Nat
  unit : Nat
  vf : Nat
  tokens : Nat
  deriving DecidableEq, Repr

/-- Who moves next: an event of the table, or the gang of a slot. -/
inductive Turn where
  | event (i : Instr)
  | issue (slot : Nat)
  deriving DecidableEq, Repr

/-! ## The package -/

/-- The package. Maps are keyed as each field says. -/
structure State where
  /-- The model's own: the moves to come, the slot whose instruction runs, the counter of free values, the next identity
  (log 1). -/
  agenda : List Turn
  cur : Nat
  free : Nat
  nextId : Nat
  /-- Fabric cycles since cold reset (R35), arithmetic cycles, phase between them, arithmetic clock in MHz (R16, R17). -/
  clock : Nat
  acycle : Nat
  aphase : Nat
  freq : Nat
  /-- Bring-up (R403, R408, R410, R412). -/
  bringup : Nat
  ready : BitVec 8
  manifest : Manifest
  staged : Option Manifest
  rollback : Nat
  trip : Bool
  /-- Sensors (R412): the temperature of each die in °C, compute dies 0 to 3, I/O dies 4 and 5, HBM4E stacks 6 to 13; whether the
  power is above its limit; and whether the thresholds of 95 and 105 °C are engaged. -/
  temps : AMap Nat
  overPower : Bool
  warm : Bool
  deep : Bool
  /-- Gangs by package slot number (R14, R26). -/
  gangs : AMap Gang
  /-- b registers, numbered 16·bay + index (R33). -/
  bregs : Sparse 64
  /-- The last write of each b register, by the same number: its arithmetic cycle and the slot that made it (R38). -/
  bTurn : AMap (Nat × Nat)
  /-- The arithmetic cycle from which a bay's issue slot is free again (R29). -/
  busy : AMap Nat
  /-- The last barrier operation of each cell: its arithmetic cycle and the slot that issued it (R295). -/
  barTurn : AMap (Nat × Nat)
  /-- Matrix units by bay (R264 to R284). -/
  matrix : AMap Matrix
  /-- HBM4E contents, numbered 2^31·channel + offset (R358). -/
  dram : List Host.Cell
  /-- Lines of device memory whose content became undefined, by dram number divided by 128, with the free number of when (R73);
  there `dram` holds differences, as `spad` does. -/
  voids : AMap Nat
  /-- Scratchpads, numbered 2^20·cell + offset (R18), as differences from what an unwritten byte reads as. -/
  spad : List Host.Cell
  /-- Partition resets a cell's scratchpad has been through (R377). -/
  spadGen : AMap Nat
  /-- Host memory by bus address (R180). -/
  host : List Host.Cell
  /-- Poisoned 128-byte lines of device memory, by dram number divided by 128 (R390). -/
  poison : List Nat
  /-- L2 lines, numbered 2^36·cluster + dram number divided by 128 (R19, R190). -/
  l2 : AMap L2Line
  /-- Lines whose repair has been logged (R389). -/
  repaired : List Nat
  /-- Rings, numbered 16·cell + ring (R299 to R302). -/
  rings : AMap Ring
  copies : AMap Copy
  broadcasts : List Broadcast
  rootArrivals : List RootArrival
  /-- Leaves that arrived in the phase a root is in, by 2^20·cell + offset of the root (R296). -/
  leaves : AMap (List (Nat × Nat))
  /-- Descriptor copies, numbered 2^20·cell + 1024·vf + index (R189). -/
  descs : AMap (List Word)
  /-- Record-window slots in use, numbered 1536·cell + index, with their workgroup (R70). -/
  window : AMap Nat
  /-- Nodes assigned to cells: VF, launch slot and node (R79). -/
  governor : AMap (Nat × Nat × Nat)
  workgroups : AMap Workgroup
  /-- Launches, numbered 64·vf + slot (R52). -/
  launches : AMap Launch
  /-- Larder lines in use, numbered 32768·stack + line, with their VF (R71); generations of lines (R83); join entries. -/
  larder : AMap Nat
  larderGen : AMap Nat
  joins : AMap Join
  /-- Emitters blocked, in the order they blocked (R81): slot, launch and node. -/
  blocked : List (Nat × Nat × Nat)
  /-- Send windows in use, numbered 2^21·vf + chip (R86), and the records in them: the sending launch, the chip, the link. -/
  windows : AMap Nat
  sends : List (Nat × Nat × Nat)
  /-- Event vectors by VF (R52). -/
  events : Sparse 256
  /-- Events that completions set in this fabric cycle, by VF (R56, R400), and the cycle of each context's last start (R56). -/
  fresh : Sparse 256
  startCycle : AMap Nat
  /-- Queues, numbered 64·vf + q (R398). -/
  queues : AMap Queue
  bellOrder : Nat
  /-- Registers of the BARs that hold what was written: VF registers at 2^21·(vf + 1) + offset of R396; registers of the
  physical function and of its VF pages at 2^40 + offset of R397. -/
  hreg : Sparse 64
  /-- Translation: cached entries, misses, page requests, SEQ of each VF, invalidations in progress (R343 to R350). -/
  tlb : List TlbEntry
  /-- Code lines as the launches in flight have fetched them: 2^50·launch + VA divided by 128, with each content seen (R92). -/
  icache : AMap (List (List Byte))
  walkCache : List WalkEntry
  misses : AMap Miss
  requests : List PageRequest
  prqSeq : AMap Nat
  tlbBusy : AMap (List Nat)
  tlbErr : List Nat
  /-- Host translations (R351, R352): who may use ATS and PRI, and the page requests each function may have outstanding. -/
  atsEnabled : List Nat
  priEnabled : List Nat
  priLimit : AMap Nat
  ats : List AtsEntry
  atsMisses : List AtsMiss
  /-- Partitions (R354), command results (R355), policies in effect (R359): TENANT and CEIL. -/
  parts : AMap Partition
  partstat : Word
  policy : AMap (Nat × Bool)
  clamped : List Nat
  drainVf : AMap Drain
  drainPart : AMap Drain
  drainDevice : Drain
  /-- Measurement block 4 of each VF, as taken when it was last DRAINED (R409). -/
  measured : AMap (BitVec 512)
  /-- Token buckets, numbered 2^24·kind + 1024·unit + vf, in 1/1,024 token; pools, numbered 2^14·kind + unit (R366). -/
  buckets : AMap Int
  pools : AMap Nat
  /-- Transfers that wait for a grant, oldest first (R366, R367), and the buckets, by VF and kind, that a profile write fills at the
  next fabric cycle (R365, R372). -/
  owed : List Owed
  refills : List (Nat × Nat)
  /-- Fault logs by partition (R375). -/
  log : AMap (List LogEntry)
  logSeq : AMap Nat
  watch : List WatchEvent
  watchSeq : AMap Nat
  platestat : Word
  plates : List PlateRec
  /-- Health counters, by the model's own number of each (R349, R389, R396, R401). -/
  health : AMap Nat
  quarantine : List Quarantine
  quarantined : Nat
  quarantinedPages : List (Nat × Nat)
  /-- Survey pages as last refreshed, by the words of each, and their generations (R401). -/
  survey : AMap (Sparse 64)
  surveyGen : AMap Nat
  links : AMap Link
  messages : List Message
  outbox : List Outgoing
  deriving DecidableEq, Repr

/-! ## Why a step stops -/

/-- Reasons the machine stops with a fault. The faults of the W2 itself are taken and give a next state. -/
inductive Fault where
  /-- Raised by every meaning of an encoded instruction when the slot `State.cur` holds no gang: no agent executes it. Safe:
  the model stops where the hardware has nothing to do, and `step` never runs an instruction so. -/
  | noGang
  deriving DecidableEq, Repr

/-- Reasons a step has no meaning. -/
inductive Refusal where
  /-- Raised by the arms of `exec` for an instruction that has no meaning in the model yet. Safe. -/
  | notModelled (mnemonic : String)
  deriving DecidableEq, Repr

/-! ## Reset -/

/-- The manifest before one has been installed: every field zero (R408; log 5). -/
def Manifest.none : Manifest := ⟨0, 0, 0, 0, [], true⟩

/-- The package right after a cold reset: every register at its Reset value (R7), STATE 0 (R403), the reduced clock of
bring-up (R17), no partition (R356), nothing resident, memory with nothing listed. -/
def State.reset : State where
  agenda := []
  cur := 0
  free := 0
  nextId := 0
  clock := 0
  acycle := 0
  aphase := 0
  freq := 350
  bringup := 0
  ready := 0
  manifest := Manifest.none
  staged := none
  rollback := 0
  trip := false
  temps := []
  overPower := false
  warm := false
  deep := false
  gangs := []
  bregs := []
  bTurn := []
  busy := []
  barTurn := []
  matrix := []
  dram := []
  voids := []
  spad := []
  spadGen := []
  host := []
  poison := []
  l2 := []
  repaired := []
  rings := []
  copies := []
  broadcasts := []
  rootArrivals := []
  leaves := []
  descs := []
  window := []
  governor := []
  workgroups := []
  launches := []
  larder := []
  larderGen := []
  joins := []
  blocked := []
  windows := []
  sends := []
  events := []
  fresh := []
  startCycle := []
  queues := []
  bellOrder := 0
  hreg := []
  tlb := []
  icache := []
  walkCache := []
  misses := []
  requests := []
  prqSeq := []
  tlbBusy := []
  tlbErr := []
  atsEnabled := []
  priEnabled := []
  priLimit := []
  ats := []
  atsMisses := []
  parts := []
  partstat := 0
  policy := []
  clamped := []
  drainVf := []
  drainPart := []
  drainDevice := .running
  measured := []
  buckets := []
  pools := []
  owed := []
  refills := []
  log := []
  logSeq := []
  watch := []
  watchSeq := []
  platestat := 0
  plates := []
  health := []
  quarantine := []
  quarantined := 0
  quarantinedPages := []
  survey := []
  surveyGen := []
  links := []
  messages := []
  outbox := []

end Sys2Proof.Machine
end

