-- ==== Sys2Proof/Machine/Physical.lean ====
section
/-! DEFINITION. Memories of the package: HBM4E behind the partition interleave (R358), scratchpads (R18), host memory (R180),
and the registers that hold what software wrote (R396, R397). -/

namespace Sys2Proof.Machine

/-! ## Registers of the BARs -/

/-- The number of a register of VF `vf` at an offset of its BAR0 (R396). -/
def vfReg (vf offset : Nat) : Nat := 2 ^ 21 * (vf + 1) + offset

/-- The number of a register of the physical function at an offset of its BAR0 (R397). -/
def pfReg (offset : Nat) : Nat := 2 ^ 40 + offset

/-- The number of a register in the page of VF `vf` of the physical function (R397). -/
def pageReg (vf offset : Nat) : Nat := pfReg (0x4000000 + 0x10000 * vf + offset)

/-- The value of a register. -/
def regGet (s : State) (r : Nat) : Nat := (wordGet s.hreg r).toNat

/-- Writes a register. -/
def regPut (s : State) (r v : Nat) : State := { s with hreg := wordSet s.hreg r (BitVec.ofNat 64 v) }

/-- The descriptor table of a context (R178, R396). -/
def tdbase (s : State) (vf : Nat) : Nat := bits (regGet s (vfReg vf 0)) 16 41 * 2 ^ 16

/-! ## Partitions -/

/-- The partition that owns a VF (R354, R356). -/
def partOf (s : State) (vf : Nat) : Option (Nat × Partition) := s.parts.find? fun e => e.2.vfs.contains vf

/-- The number of the partition that owns a VF, 0 where none does. -/
def partNo (s : State) (vf : Nat) : Nat := ((partOf s vf).map (·.1)).getD 0

/-- The size of a partition's memory: 2 GiB for each channel (R358). -/
def memorySize (p : Partition) : Nat := p.channels.length * 2 ^ 31

/-- The channel, the offset in it and the home bank of a partition physical address (R358). -/
def mapPA (p : Partition) (pa : Nat) : Nat × Nat × Nat :=
  let g := pa / 512
  let n := p.channels.length
  let ch := (p.channels[(g + g / 4096) % n]?).getD 0
  let off := (g / n) * 512 + pa % 512
  let st := ch / 32
  let own := p.banks.filter fun b => b / 128 == st
  let bs := if own.isEmpty then p.banks else own
  (ch, off, (bs[(g / n) % bs.length]?).getD 0)

/-- The number of the byte of HBM4E at a partition physical address. -/
def dramKey (p : Partition) (pa : Nat) : Nat :=
  let m := mapPA p pa
  m.1 * 2 ^ 31 + m.2.1

/-- What a byte of device memory differs by from its stored difference: nothing, unless its line became undefined (R73; log 2). -/
def dramMask (s : State) (key : Nat) : Byte :=
  match mapGet s.voids (key / 128) with
  | none => 0
  | some g => Config.voidByte g key

/-- A byte of device memory. -/
def dramByte (s : State) (key : Nat) : Byte := wordGet s.dram key ^^^ dramMask s key

/-- Writes a byte of device memory. -/
def dramPut (s : State) (key : Nat) (b : Byte) : State := { s with dram := wordSet s.dram key (b ^^^ dramMask s key) }

/-- Lines of device memory become undefined (R73). -/
def voidLines (s : State) (l : List Nat) : State :=
  if l.isEmpty then s else { s with voids := l.foldl (fun m k => mapSet m k s.free) s.voids, free := s.free + 1 }

/-- The bytes at consecutive partition physical addresses. -/
def paRead (s : State) (p : Partition) (pa : Nat) : Nat → List Byte
  | 0 => []
  | n + 1 => dramByte s (dramKey p pa) :: paRead s p (pa + 1) n

/-- Writes bytes at consecutive partition physical addresses. -/
def paWrite (s : State) (p : Partition) (pa : Nat) : List Byte → State
  | [] => s
  | b :: r => paWrite (dramPut s (dramKey p pa) b) p (pa + 1) r

/-- Whether the line of a byte of HBM4E is poisoned (R390). -/
def isPoisoned (s : State) (key : Nat) : Bool := s.poison.contains (key / 128)

/-- Whether any of `n` bytes at a partition physical address is poisoned. -/
def paPoisoned (s : State) (p : Partition) (pa : Nat) : Nat → Bool
  | 0 => false
  | n + 1 => isPoisoned s (dramKey p pa) || paPoisoned s p (pa + 1) n

/-- A whole-line write clears the poison of its line (R390). -/
def clearPoison (s : State) (key : Nat) : State := { s with poison := s.poison.filter fun l => l != key / 128 }

/-- Lines of which every byte is among those written lose their poison (R390); bytes by their dram numbers. -/
def clearWhole (s : State) (keys : List Nat) : State :=
  if s.poison.isEmpty then s
  else (keys.filter fun k => k % 128 == 0 && (List.range 128).all fun i => keys.contains (k + i)).foldl clearPoison s

/-- Consecutive addresses. -/
def consecutive (a n : Nat) : List Nat := (List.range n).map (a + ·)

/-- The parts of `n` bytes that lie in one page of 64 KiB each; `fuel` bounds their number. -/
def pageParts (va n : Nat) : Nat → List (Nat × Nat)
  | 0 => []
  | fuel + 1 =>
    if n = 0 then []
    else
      let m := min n (2 ^ 16 - va % 2 ^ 16)
      (va, m) :: pageParts (va + m) (n - m) fuel

/-- The pages that `n` bytes touch, with the bytes in each. -/
def pagesOf (va n : Nat) : List (Nat × Nat) := pageParts va n (n / 2 ^ 16 + 2)

/-! ## Scratchpads -/

/-- What a byte of a scratchpad differs by from its stored difference (R377; log 2). -/
def spadMask (s : State) (cell off : Nat) : Byte :=
  match mapGet s.spadGen cell with
  | none => 0
  | some g => Config.resetByte g cell off

/-- A byte of a cell's scratchpad. -/
def spadByte (s : State) (cell off : Nat) : Byte := wordGet s.spad (2 ^ 20 * cell + off) ^^^ spadMask s cell off

/-- Writes a byte of a cell's scratchpad. -/
def spadPut (s : State) (cell off : Nat) (b : Byte) : State :=
  { s with spad := wordSet s.spad (2 ^ 20 * cell + off) (b ^^^ spadMask s cell off) }

/-- Consecutive bytes of a cell's scratchpad. -/
def spadRead (s : State) (cell off : Nat) : Nat → List Byte
  | 0 => []
  | n + 1 => spadByte s cell off :: spadRead s cell (off + 1) n

/-- Writes consecutive bytes of a cell's scratchpad. -/
def spadWrite (s : State) (cell off : Nat) : List Byte → State
  | [] => s
  | b :: r => spadWrite (spadPut s cell off b) cell (off + 1) r

/-! ## Host memory -/

/-- Consecutive bytes of host memory. -/
def hostRead (s : State) (a : Nat) : Nat → List Byte
  | 0 => []
  | n + 1 => wordGet s.host a :: hostRead s (a + 1) n

/-- Writes consecutive bytes of host memory. -/
def hostWrite (s : State) (a : Nat) : List Byte → State
  | [] => s
  | b :: r => hostWrite { s with host := wordSet s.host a b } (a + 1) r

/-! ## The canonical form -/

/-- The canonical form of the three memories: addresses strictly rising, and no entry equal to what an unlisted address reads
as. -/
def Memory.wf (s : State) : Bool := wordWf s.dram && wordWf s.spad && wordWf s.host

/-! ## Token buckets (R363, R366) -/

/-- The number of a bucket (R363). -/
def bucketKey (kind unit vf : Nat) : Nat := 2 ^ 24 * kind + 1024 * unit + vf

/-- The number of a pool (R366). -/
def poolKey (kind unit : Nat) : Nat := 2 ^ 14 * kind + unit

/-- What the bucket of a VF holds at an arbiter. -/
def bucketOf (s : State) (kind unit vf : Nat) : Int := (mapGet s.buckets (bucketKey kind unit vf)).getD 0

/-- What the pool of an arbiter holds. -/
def poolOf (s : State) (kind unit : Nat) : Nat := (mapGet s.pools (poolKey kind unit)).getD 0

/-- Grant of `n` tokens at an arbiter: on one token of the owner, or from the pool (R366). -/
def grant (s : State) (kind unit vf n : Nat) : Option State :=
  if bucketOf s kind unit vf ≥ 1024 then
    some { s with buckets := mapSet s.buckets (bucketKey kind unit vf) (bucketOf s kind unit vf - 1024 * n) }
  else if poolOf s kind unit ≥ 1024 * n then
    some { s with pools := mapSet s.pools (poolKey kind unit) (poolOf s kind unit - 1024 * n) }
  else none

/-- The tokens of a transfer that the model performs at once (R363): granted, or, where neither the bucket nor the pool serves
it in this round, asked for again in each round until one does (R366, R367; log 59). -/
def charge (s : State) (kind unit vf n : Nat) : State :=
  if n = 0 then s
  else match grant s kind unit vf n with
    | some s => s
    | none => { s with owed := s.owed ++ [⟨kind, unit, vf, n⟩] }

/-! ## L2 lines -/

/-- The bank of a slice that holds a line: the home bank in the home slice; in another slice, of the banks there that the
partition owns, the one that the interleave of R358 picks (R357; log 11). -/
def bankIn (p : Partition) (cluster pa : Nat) : Nat :=
  let home := (mapPA p pa).2.2
  if home / 16 = cluster then home
  else
    let own := p.banks.filter fun b => b / 16 == cluster
    (own[(pa / 512 / p.channels.length) % own.length]?).getD (16 * cluster)

/-- The set a line lies in, within a bank: one of 128, so that a slice of 16 banks has 2,048 (R19; log 11). -/
def l2Set (line : Nat) : Nat := line % 128

/-- The lines of a set of a bank, with their numbers (R368). -/
def l2InSet (s : State) (cluster bank set : Nat) : List (Nat × L2Line) :=
  s.l2.filter fun e => e.1 / 2 ^ 36 == cluster && e.2.bank == bank && l2Set (e.1 % 2 ^ 36) == set

/-- The WAYS of a VF (R364). -/
def waysOf (s : State) (vf : Nat) : Nat := bits (regGet s (pageReg vf 0x88)) 16 5

/-- The first of some lines by a test of two: the earlier stands where neither is before the other. -/
def l2First (before : L2Line → L2Line → Bool) : List (Nat × L2Line) → Option (Nat × L2Line)
  | [] => none
  | e :: r =>
    match l2First before r with
    | none => some e
    | some x => if before x.2 e.2 then some x else some e

/-- The victim among a VF's own lines: one marked for early eviction first, then the least recently used (R190, R368). -/
def l2Own : List (Nat × L2Line) → Option (Nat × L2Line) :=
  l2First fun a b => (a.early && !b.early) || (a.early == b.early && decide (a.used < b.used))

/-- The least recently used of lines of other VFs, whatever their hints (R368). -/
def l2Borrowed : List (Nat × L2Line) → Option (Nat × L2Line) := l2First fun a b => decide (a.used < b.used)

/-- Whether some VF of the partition of `vf` lends part of a quota that it has not filled in a set (R364, R368). -/
def quotaLent (s : State) (lines : List (Nat × L2Line)) (vf : Nat) : Bool :=
  (((partOf s vf).map (·.2.vfs)).getD []).any fun o =>
    bits (regGet s (pageReg o 0x88)) 31 1 == 1 && decide ((lines.filter fun e => e.2.vf == o).length < waysOf s o)

/-- Where a fill goes in a set of 16 ways (R368): an invalid way, over a victim, or nowhere. -/
inductive FillPlace where
  | invalid | over (line : Nat) | nowhere
  deriving DecidableEq, Repr

/-- The place over a line, where there is one. -/
def FillPlace.ofLine : Option (Nat × L2Line) → FillPlace
  | some e => .over e.1
  | none => .nowhere

/-- The place of a fill by a VF into a set (R368); a locked line is no victim (R371). -/
def l2Place (s : State) (lines : List (Nat × L2Line)) (vf : Nat) : FillPlace :=
  let open_ := lines.filter fun e => e.2.locked.isNone
  let mine := open_.filter fun e => e.2.vf == vf
  let count := fun v => (lines.filter fun e => e.2.vf == v).length
  let borrowed := open_.filter fun e => e.2.vf != vf && decide (count e.2.vf > waysOf s e.2.vf)
  let free := decide (lines.length < 16)
  if count vf < waysOf s vf then
    if !borrowed.isEmpty then .ofLine (l2Borrowed borrowed)
    else if free then .invalid else .ofLine (l2Own mine)
  else if free then .invalid
  else if !mine.isEmpty then .ofLine (l2Own mine)
  else if quotaLent s lines vf then .ofLine (l2Borrowed borrowed)
  else .nowhere

/-- The transfers of a channel for a VF, in tokens of 64 bytes (R363). -/
def chargeChannel (s : State) (line vf n : Nat) : State := charge s 2 (line % 2 ^ 36 / 2 ^ 24) vf n

/-- A line leaves a slice: a dirty one is written back (R190). -/
def l2Evict (s : State) (k : Nat) : State :=
  match mapGet s.l2 k with
  | none => s
  | some e =>
    let s := if e.dirty then chargeChannel s k e.vf 2 else s
    { s with l2 := mapErase s.l2 k }

/-- What an access needs to know of a line: the slice that serves it, the line's bank there, its number, and the VF. -/
structure LineAt where
  cluster : Nat
  bank : Nat
  line : Nat
  vf : Nat
  deriving DecidableEq, Repr

/-- The number of a line in the slices' table. -/
def LineAt.key (x : LineAt) : Nat := 2 ^ 36 * x.cluster + x.line

/-- A line that is served without a place in the slice: 64 bytes of its channel (R190). -/
def l2Through (s : State) (x : LineAt) : State := chargeChannel s x.line x.vf 1

/-- Puts a line into a slice, with a fill at its bank and 128 bytes of its channel (R363). -/
def l2Put (s : State) (x : LineAt) (dirty early : Bool) : State :=
  let s := chargeChannel (charge s 1 x.bank x.vf 1) x.line x.vf 2
  { s with l2 := mapSet s.l2 x.key ⟨x.bank, x.vf, dirty, s.clock, early, none⟩ }

/-- Brings a line into a slice for a VF (R19, R190, R368). -/
def l2Fill (s : State) (x : LineAt) (dirty early : Bool) : State :=
  match l2Place s (l2InSet s x.cluster x.bank (l2Set x.line)) x.vf with
  | .invalid => l2Put s x dirty early
  | .over v => l2Put (l2Evict s v) x dirty early
  | .nowhere => l2Through s x

/-- A load of a line under a hint (R190): a normal hit promotes the line. -/
def l2Load (s : State) (x : LineAt) (hint : Nat) : State :=
  match mapGet s.l2 x.key with
  | some e =>
    if hint = 0 then { s with l2 := mapSet s.l2 x.key { e with used := s.clock, early := false } }
    else if hint = 2 ∧ e.dirty = false then l2Through s x else s
  | none =>
    if hint = 0 then l2Fill s x false false
    else if hint = 3 then l2Fill s x false true else l2Through s x

/-- A store to a line under a hint (R190). -/
def l2Store (s : State) (x : LineAt) (hint : Nat) : State :=
  match mapGet s.l2 x.key with
  | some e =>
    if hint = 0 then { s with l2 := mapSet s.l2 x.key { e with dirty := true, used := s.clock, early := false } }
    else if hint = 2 ∧ e.dirty = false then l2Through { s with l2 := mapErase s.l2 x.key } x
    else { s with l2 := mapSet s.l2 x.key { e with dirty := true, early := true } }
  | none =>
    if hint = 0 then l2Fill s x true false
    else if hint = 3 then l2Fill s x true true else l2Through s x

/-- The slice that serves an access of a cluster: its own, or the home slice where the partition owns no bank of it (R19,
R357). -/
def sliceFor (p : Partition) (cluster pa : Nat) : Nat :=
  if p.banks.any fun b => b / 16 == cluster then cluster else (mapPA p pa).2.2 / 16

/-- The line of a partition physical address in the slice of a cluster. -/
def lineIn (p : Partition) (cluster vf pa : Nat) : LineAt := ⟨cluster, bankIn p cluster pa, dramKey p pa / 128, vf⟩

/-- The first of some physical addresses on each line of 128 bytes; the interleave of R358 keeps a line together. -/
def lineHeads : List Nat → List Nat
  | [] => []
  | a :: r => a :: (lineHeads r).filter fun b => b / 128 != a / 128

/-- Every line that some physical addresses touch is loaded or stored in a slice, by a rule that picks the slice (R190). -/
def touchIn (s : State) (p : Partition) (slice : Nat → Nat) (vf hint : Nat) (store : Bool) (pas : List Nat) : State :=
  (lineHeads pas).foldl (fun s a =>
    let x := lineIn p (slice a) vf a
    if store then l2Store s x hint else l2Load s x hint) s

/-- The home slice of an address (R19), which serves what no cluster asks for: the walkers, the scheduler, the device's own
writes, other packages (log 58). -/
def homeSlice (p : Partition) (pa : Nat) : Nat := (mapPA p pa).2.2 / 16

/-- An address on each line that `n` bytes touch. -/
def lineStarts (a n : Nat) : List Nat :=
  (List.range ((a % 128 + n + 127) / 128)).map fun i => if i = 0 then a else a - a % 128 + 128 * i

/-- A write of the device's own for a VF: through the home slice of each line (R190, R363); a line written whole loses its poison
(R390). -/
def paStore (s : State) (p : Partition) (vf pa : Nat) (l : List Byte) : State :=
  touchIn (clearWhole (paWrite s p pa l) ((consecutive pa l.length).map (dramKey p))) p (homeSlice p) vf 0 true
    (lineStarts pa l.length)

/-- Locks a line in a slice for a workgroup's shelf (R371). A line that R368 gives no place takes that of the least recently used
line that nothing locks (DESIGN CHOICE between the two; log 73); in a set that shelves have locked whole it finds none. -/
def l2Lock (s : State) (x : LineAt) (wg : Nat) : State :=
  let lock := fun (s : State) => { s with l2 := mapUpdate s.l2 x.key fun e => { e with locked := some wg } }
  if (mapGet s.l2 x.key).isSome then lock s
  else match l2Borrowed ((l2InSet s x.cluster x.bank (l2Set x.line)).filter fun e => e.2.locked.isNone) with
    | some v => lock (l2Put (l2Evict s v.1) x true false)
    | none => s

end Sys2Proof.Machine
end

