-- ==== Sys2Proof/Machine/Walk.lean ====
section
/-! DEFINITION. The two-stage walk (R336 to R341), the TLB (R343), and misses with their page requests (R344, R347). -/

namespace Sys2Proof.Machine

/-- The bay, cell, cluster and stack group of a gang slot (R14). -/
def bayOf (slot : Nat) : Nat := slot / 4
/-- The cell of a gang slot (R14). -/
def cellOf (slot : Nat) : Nat := slot / 16
/-- The cluster of a cell (R14). -/
def clusterOf (cell : Nat) : Nat := cell / 8
/-- The stack group of a cell (R14). -/
def stackOf (cell : Nat) : Nat := cell / 64

/-- The lowest bit of the index of a level, its number of bits, and the log2 of its table's size (R336). -/
def levelLow : Nat → Nat
  | 0 => 46 | 1 => 34 | 2 => 24 | _ => 16
/-- The number of index bits of a level (R336). -/
def levelBits : Nat → Nat
  | 0 => 11 | 1 => 12 | 2 => 10 | _ => 8

/-- The index of an address at a level (R336). -/
def levelIndex (a level : Nat) : Nat := bits a (levelLow level) (levelBits level)

/-- What one entry of a level covers: the size of its page (R336). -/
def levelSize (level : Nat) : Nat := 2 ^ levelLow level

/-- A present table entry that is malformed (R337). -/
def malformed (e level : Nat) : Bool :=
  let leaf := bits e 1 1 == 1
  let addr := bits e 11 41 * 2 ^ 11
  bits e 52 12 != 0 || bits e 5 6 != 0 || (leaf && level == 0) || (!leaf && level == 3)
    || (leaf && addr % levelSize level != 0)
    || (!leaf && addr % (2 ^ (levelBits (level + 1) + 3)) != 0)

/-- What a stage-2 walk gives: an address with the page it lies in, or how it failed. -/
inductive Stage2 where
  | ok (pa size : Nat) (perm : BitVec 3)
  | fail (r : WalkResult)
  deriving DecidableEq, Repr

/-! ## Walk caches (R343) -/

/-- The cell, or 512 and the cluster, of the two TLBs that serve a cell (R343). -/
def tlbPlaces (cell : Nat) : List Nat := [cell, 512 + cell / 8]

/-- Removes the `n`-th of the elements that satisfy a test. -/
def dropNth {α : Type} (mine : α → Bool) : Nat → List α → List α
  | _, [] => []
  | n, x :: r => if mine x then (match n with
      | 0 => r
      | n + 1 => x :: dropNth mine n r)
    else x :: dropNth mine n r

/-- Puts an entry into a cache of `cap` entries, in the place of the entries `same` as it; where the cache is full, the entry
that leaves is a free choice (R343: the contents are not architectural; log 1). Answers the cache and whether one left. -/
def cachePut {α : Type} (free cap : Nat) (mine same : α → Bool) (x : α) (l : List α) : List α × Bool :=
  let l := l.filter fun y => !same y
  let n := (l.filter mine).length
  if n < cap then (x :: l, false) else (x :: dropNth mine ((Config.freeWord free).toNat % n) l, true)

/-- The value of a table entry in the walk cache of a stack group (R343). -/
def walkFind (s : State) (stack vf : Nat) (second : Bool) (level a : Nat) : Option Nat :=
  (s.walkCache.find? fun e => e.stack == stack && e.vf == vf && e.second == second && e.level == level
    && e.page == a / levelSize level).map (·.value)

/-- Puts an entry into the walk cache of its stack group: 512 entries (R343). -/
def cacheEntry (s : State) (x : WalkEntry) : State :=
  let same := fun (e : WalkEntry) => e.stack == x.stack && e.vf == x.vf && e.second == x.second && e.level == x.level
    && e.page == x.page
  let c := cachePut s.free 512 (fun e => e.stack == x.stack) same x s.walkCache
  { s with walkCache := c.1, free := if c.2 then s.free + 1 else s.free }

/-- What a walk does as it goes: it reads a table entry at a physical address, or finds an entry that its cache keeps. -/
inductive WalkStep where
  | read (pa : Nat)
  | entry (e : WalkEntry)
  deriving DecidableEq, Repr

/-- The entry that a step of a walk finds. -/
def WalkStep.found : WalkStep → Option WalkEntry
  | .entry e => some e
  | .read _ => none

/-- What the steps of a walk for a VF, the last of them first, leave: table entries are read through their home slices (R19,
R363; log 58), and the walk cache keeps what was found (R343). -/
def cacheWalk (s : State) (vf : Nat) : List WalkStep → State
  | [] => s
  | .entry x :: r => cacheEntry (cacheWalk s vf r) x
  | .read a :: r =>
    let s := cacheWalk s vf r
    match partOf s vf with
    | none => s
    | some (_, p) => touchIn s p (homeSlice p) vf 0 false [a]

/-! ## The walk (R339) -/

/-- How a table entry reads: from the walk cache where it is there, else from memory; and the steps of the walk after. -/
def tableWord (s : State) (p : Partition) (a : Nat) (cached : Option Nat) (tr : List WalkStep) :
    (WalkResult ⊕ Nat) × List WalkStep :=
  match cached with
  | some e => (.inr e, tr)
  | none =>
    if a + 8 > memorySize p then (.inl (.cause 0x4), tr)
    else if paPoisoned s p a 8 then (.inl .poison, .read a :: tr)
    else (.inr (bytesToNat (paRead s p a 8)), .read a :: tr)

/-- What a stage-2 leaf gives for an address (R339); `table` marks the read of a stage-1 table entry. -/
def stage2Leaf (p : Partition) (ipa : Nat) (table : Bool) (level e : Nat) : Stage2 :=
  let perm := BitVec.ofNat 3 (bits e 2 3)
  if table && !perm.getLsbD 0 then .fail (.denied 1)
  else
    let pa := bits e 11 41 * 2 ^ 11 + ipa % levelSize level
    if pa ≥ memorySize p then .fail (if table then .cause 0x4 else .checked 1 perm (.cause 0x4))
    else .ok pa (levelSize level) perm

/-- The levels of a stage-2 walk from table `t` (R339), with the steps of the walk. -/
def stage2From (s : State) (stack vf : Nat) (p : Partition) (ipa : Nat) (table : Bool) :
    List Nat → Nat → List WalkStep → Stage2 × List WalkStep
  | [], _, tr => (.fail (.cause 0x3), tr)
  | level :: rest, t, tr =>
    match tableWord s p (t + 8 * levelIndex ipa level) (walkFind s stack vf true level ipa) tr with
    | (.inl r, tr) => (.fail r, tr)
    | (.inr e, tr) =>
      if bits e 0 1 = 0 then (.fail (.absent ipa level table), tr)
      else if malformed e level then (.fail (.cause 0x3), tr)
      else
        let tr := .entry ⟨stack, vf, true, level, ipa / levelSize level, e⟩ :: tr
        if bits e 1 1 = 1 then (stage2Leaf p ipa table level e, tr)
        else stage2From s stack vf p ipa table rest (bits e 11 41 * 2 ^ 11) tr

/-- The stage-2 leaf of an address in the walk cache, with its level (R343). -/
def cachedLeaf (s : State) (stack vf ipa : Nat) : List Nat → Option (Nat × Nat)
  | [] => none
  | level :: r =>
    match walkFind s stack vf true level ipa with
    | some e => if bits e 1 1 = 1 then some (level, e) else cachedLeaf s stack vf ipa r
    | none => cachedLeaf s stack vf ipa r

/-- Stage 2 of a VF at the walker of a stack group (R339, R343). -/
def stage2 (s : State) (stack vf : Nat) (p : Partition) (ipa : Nat) (table : Bool) (tr : List WalkStep) :
    Stage2 × List WalkStep :=
  let root := regGet s (pageReg vf 0x8)
  if bits root 63 1 = 0 then (.fail (.cause 0x7), tr)
  else match cachedLeaf s stack vf ipa [3, 2, 1] with
    | some (level, e) => (stage2Leaf p ipa table level e, tr)
    | none => stage2From s stack vf p ipa table [0, 1, 2, 3] (bits root 14 38 * 2 ^ 14) tr

/-- The combined entry of the two stages (R343); the cache that holds it is set when it is filled. -/
def combine (vf va size1 pa size2 : Nat) (perm1 perm2 : BitVec 3) : WalkResult :=
  let size := min size1 size2
  .ok ⟨0, vf, va - va % size, size, size1, pa - va % size, perm1, perm2⟩

/-- The levels of a stage-1 walk from table `t` (R339), with the steps of the walk. -/
def stage1From (s : State) (stack vf : Nat) (p : Partition) (va : Nat) :
    List Nat → Nat → List WalkStep → WalkResult × List WalkStep
  | [], _, tr => (.cause 0x1, tr)
  | level :: rest, t, tr =>
    match walkFind s stack vf false level va with
    | some e => stage1From s stack vf p va rest (bits e 11 41 * 2 ^ 11) tr
    | none =>
      match stage2 s stack vf p (t + 8 * levelIndex va level) true tr with
      | (.fail r, tr) => (r, tr)
      | (.ok a _ _, tr) =>
        match tableWord s p a none tr with
        | (.inl r, tr) => (r, tr)
        | (.inr e, tr) =>
          if bits e 0 1 = 0 then (.cause 0x0, tr)
          else if malformed e level then (.cause 0x1, tr)
          else if bits e 1 1 = 1 then
            match stage2 s stack vf p (bits e 11 41 * 2 ^ 11 + va % levelSize level) false tr with
            | (.fail r, tr) => (.checked 0 (BitVec.ofNat 3 (bits e 2 3)) r, tr)
            | (.ok pa size perm, tr) => (combine vf va (levelSize level) pa size (BitVec.ofNat 3 (bits e 2 3)) perm, tr)
          else
            stage1From s stack vf p va rest (bits e 11 41 * 2 ^ 11)
              (.entry ⟨stack, vf, false, level, va / levelSize level, e⟩ :: tr)

/-- The walk of a virtual address at the walker of a stack group (R339), with its steps (R343). Permissions of
the final access are checked by each requester (R344). -/
def walkFull (s : State) (stack vf va : Nat) : WalkResult × List WalkStep :=
  match partOf s vf with
  | none => (.cause 0x7, [])
  | some (_, p) =>
    let root := regGet s (vfReg vf 0x8)
    if bits root 63 1 = 0 then
      match stage2 s stack vf p va false [] with
      | (.fail r, tr) => (r, tr)
      | (.ok pa size perm, tr) => (.ok ⟨0, vf, va - va % size, size, 0, pa - va % size, 7, perm⟩, tr)
    else stage1From s stack vf p va [0, 1, 2, 3] (bits root 14 38 * 2 ^ 14) []

/-- How the walk of a virtual address ends (R339). -/
def walk (s : State) (stack vf va : Nat) : WalkResult := (walkFull s stack vf va).1

/-- The entries that a walk may cache (R343). -/
def walkTrace (s : State) (stack vf va : Nat) : List WalkEntry := (walkFull s stack vf va).2.filterMap WalkStep.found

/-! ## TLBs (R343) -/

/-- The entry that covers an address in the TLBs that serve a cell (R343). -/
def tlbFind (s : State) (cell vf va : Nat) : Option TlbEntry :=
  s.tlb.find? fun e => (tlbPlaces cell).contains e.place && e.vf == vf && decide (e.va ≤ va) && decide (va < e.va + e.size)

/-- Makes room in a TLB: 64 entries in a cell, 4,096 in a cluster, where host translations count too. The entry that leaves a
full one is a free choice (R343; log 1). -/
def makeRoom (s : State) (place : Nat) : State :=
  let own := (s.tlb.filter fun x => x.place == place).length
  let all := own + (s.ats.filter fun x => x.place == place).length
  if all < (if place < 512 then 64 else 4096) then s
  else
    let i := (Config.freeWord s.free).toNat % all
    if i < own then { s with tlb := dropNth (fun x => x.place == place) i s.tlb, free := s.free + 1 }
    else { s with ats := dropNth (fun x => x.place == place) (i - own) s.ats, free := s.free + 1 }

/-- Fills one TLB (R343), in the place of the entry that covers the same page. -/
def fillPlace (e : TlbEntry) (s : State) (place : Nat) : State :=
  let same := fun (x : TlbEntry) => x.place == place && x.vf == e.vf && x.va == e.va && x.size == e.size
  let s := makeRoom { s with tlb := s.tlb.filter fun x => !same x } place
  { s with tlb := { e with place := place } :: s.tlb }

/-- Caches a host translation in a cluster's TLB (R343, R351). -/
def fillAts (e : AtsEntry) (s : State) (place : Nat) : State :=
  let same := fun (x : AtsEntry) => x.place == place && x.vf == e.vf && x.page == e.page
  let s := makeRoom { s with ats := s.ats.filter fun x => !same x } place
  { s with ats := { e with place := place } :: s.ats }

/-- Fills the TLBs of a cell and of its cluster (R343). -/
def fillTlb (s : State) (e : TlbEntry) (cell : Nat) : State := (tlbPlaces cell).foldl (fillPlace e) s

/-- What an access requires (R340): bit 0 R, bit 1 W, bit 2 X. -/
def needed : Access → BitVec 3
  | .read => 1 | .write => 2 | .atomic => 3 | .fetch => 4

/-- The stage that denies an access, or none (R340). -/
def deniedBy (e : TlbEntry) (acc : Access) : Option Nat :=
  if e.perm1 &&& needed acc != needed acc then some 0
  else if e.perm2 &&& needed acc != needed acc then some 1
  else none

/-- How a walk ends for one access: a check that came before the failure may deny it (R339, R340). -/
def WalkResult.for (acc : Access) : WalkResult → WalkResult
  | .checked st perm r => if perm &&& needed acc != needed acc then .denied st else r.for acc
  | r => r

/-- A walk whose page request failed: cause 0x2 (R350). -/
def WalkResult.unanswered : WalkResult → WalkResult
  | .checked st perm r => .checked st perm r.unanswered
  | .absent _ _ _ => .cause 0x2
  | r => r

/-- The bit of ACC of an access (R347). -/
def accBit : Access → BitVec 4
  | .read => 1 | .write => 2 | .fetch => 4 | .atomic => 8

/-- How one translation stands now. -/
inductive Translated where
  | pa (a : Nat)
  | miss
  | fail (r : WalkResult)
  deriving DecidableEq, Repr

/-- Looks an access up in the TLBs of a cell (R343): the permissions of each stage (R340), and the partition's memory size,
which a large page may pass (R339, R358). -/
def lookup (s : State) (cell vf va : Nat) (acc : Access) : Translated :=
  match tlbFind s cell vf va with
  | none => .miss
  | some e =>
    match deniedBy e acc with
    | some st => .fail (.denied st)
    | none =>
      let a := e.pa + (va - e.va)
      if a ≥ ((partOf s vf).map fun x => memorySize x.2).getD 0 then .fail (.cause 0x4) else .pa a

/-- The pending miss of a page, if there is one (R344). -/
def missOf (s : State) (vf va : Nat) : Option (Nat × Miss) :=
  s.misses.find? fun e => e.2.vf == vf && e.2.page == va / 2 ^ 16 && e.2.phase != .failed

/-- The ended miss of a page of which a requester has still to hear: a failure (R350), or an entry found for the scheduler, which has
no TLB (R343). -/
def failedMiss (s : State) (vf va : Nat) (src : Source) : Option (Nat × Miss) :=
  s.misses.find? fun e => e.2.vf == vf && e.2.page == va / 2 ^ 16 && e.2.phase == .failed && e.2.waiters.contains src

/-- A requester leaves a failed miss, which goes when nobody waits on it. -/
def leaveMiss (s : State) (k : Nat) (m : Miss) (src : Source) : State :=
  let w := m.waiters.filter fun x => x != src
  { s with misses := if w.isEmpty then mapErase s.misses k else mapSet s.misses k { m with waiters := w } }

/-- Requesters that are discarded leave every miss; a failed one that nobody waits on goes. -/
def dropWaiters (gone : Source → Bool) (l : AMap Miss) : AMap Miss :=
  mapFilter (fun _ m => !(m.phase == .failed && m.waiters.isEmpty))
    (mapAll (fun _ m => { m with waiters := m.waiters.filter fun x => !gone x }) l)

/-- Requesters that are discarded leave every host translation. -/
def dropAts (gone : Source → Bool) (l : List AtsMiss) : List AtsMiss :=
  (l.map fun m => { m with waiters := m.waiters.filter fun x => !gone x }).filter fun m => !(m.failed && m.waiters.isEmpty)

/-- A requester that has heard of every failure leaves the failed misses it waited on (R350, R352). -/
def leaveFailed (s : State) (src : Source) : State :=
  { s with
    misses := mapFilter (fun _ m => !(m.phase == .failed && m.waiters.isEmpty))
      (mapAll (fun _ m => if m.phase = .failed then { m with waiters := m.waiters.filter fun x => x != src } else m) s.misses)
    atsMisses := ((s.atsMisses.map fun m => if m.failed then { m with waiters := m.waiters.filter fun x => x != src } else m)
      ).filter fun m => !(m.failed && m.waiters.isEmpty) }

/-- The walks of a stack group's walker (R344). -/
def walksOf (s : State) (stack : Nat) : Nat :=
  (s.misses.filter fun e => e.2.phase == .walking && stackOf e.2.cell == stack).length

/-- Misses pending in the package (R344). -/
def pendingMisses (s : State) : Nat := (s.misses.filter fun e => e.2.phase != .failed).length

/-- The cells whose TLBs serve a requester; the scheduler has none (R343). -/
def cellsServed (src : Source) (cell : Nat) : List Nat :=
  match src with
  | .scheduler _ => []
  | _ => [cell]

/-- Adds a requester to the pending miss of its page, or makes one (R344). -/
def addMiss (s : State) (vf va : Nat) (src : Source) (cell : Nat) (acc : Access) : State :=
  match missOf s vf va with
  | some (k, m) =>
    { s with misses := mapSet s.misses k { m with
        acc := if m.phase = .queued ∨ m.phase = .walking then m.acc ||| accBit acc else m.acc
        waiters := if m.waiters.contains src then m.waiters else m.waiters ++ [src]
        cells := m.cells ++ (cellsServed src cell).filter fun c => !m.cells.contains c } }
  | none =>
    if pendingMisses s ≥ 4096 then s
    else { s with nextId := s.nextId + 1,
                  misses := mapSet s.misses s.nextId ⟨vf, va / 2 ^ 16, va, src, cell, accBit acc, .queued, .none, [src],
                    cellsServed src cell⟩ }

/-- How a pending miss whose walk has ended stands for one access: denied, where a check that came before the missing entry
denies it (R340, R344). An access outside those of the walk waits for the reply and then checks (R353; log 58). -/
def missDenies (m : Miss) (acc : Access) : Option Nat :=
  match m.phase, m.result.for acc with
  | .requested _, .denied st => if m.acc &&& accBit acc = 0 then none else some st
  | _, _ => none

/-- What a requester whose access misses the TLBs does: it hears a failure, or waits (R340, R341, R344, R350). -/
inductive Missed where
  | fail (r : WalkResult)
  | wait (s : State)
  deriving DecidableEq, Repr

/-- A requester with a miss: it hears the failed miss it waited on, or that a check denies its access while the others wait on a
page request; otherwise it joins the pending miss of the page, or makes one (R344, R350, R353). -/
def missAccess (s : State) (vf va : Nat) (src : Source) (cell : Nat) (acc : Access) : Missed :=
  match failedMiss s vf va src with
  | some (_, m) => .fail (m.result.for acc)
  | none =>
    match (missOf s vf va).bind fun e => missDenies e.2 acc with
    | some st => .fail (.denied st)
    | none => .wait (addMiss s vf va src cell acc)

/-- A requester leaves the failed miss of a page. -/
def leavePage (s : State) (vf va : Nat) (src : Source) : State :=
  match failedMiss s vf va src with
  | some (k, m) => leaveMiss s k m src
  | none => s

/-! ## Host space (R351, R352) -/

/-- How an address of host space stands for a requester. -/
inductive HostAt where
  | bus (a : Nat)
  | miss (s : State)
  | fail
  deriving DecidableEq, Repr

/-- The cluster TLB that caches host translations for a requester: that of its cell's cluster; the scheduler takes that of the first
cluster of the VF's partition (R351; log 58). -/
def atsPlace (s : State) (vf : Nat) (src : Source) : Nat :=
  match src with
  | .gang k | .descriptor k | .fetch k | .matrix k => 512 + k / 128
  | .copy id | .fabric id => match mapGet s.copies id with
    | some c => 512 + c.cell / 8
    | none => 512 + ((mapGet s.workgroups id).map (·.cell)).getD 0 / 8
  | .shadow wg => 512 + ((mapGet s.workgroups wg).map (·.cell)).getD 0 / 8
  | .scheduler _ => 512 + ((partOf s vf).bind fun x => x.2.clusters.head?).getD 0

/-- The host translation cached in a TLB that serves an access to a page (R351). -/
def atsHit (s : State) (place vf page : Nat) (acc : Access) : Option AtsEntry :=
  s.ats.find? fun e => e.place == place && e.vf == vf && e.page == page && ((needed acc).getLsbD 0 == false || e.r)
    && ((needed acc).getLsbD 1 == false || e.w)

/-- Adds a requester to the host translation of a page that is in progress, or asks for one (R351). -/
def atsAsk (s : State) (vf page : Nat) (src : Source) (acc : Access) : State :=
  let place := atsPlace s vf src
  match s.atsMisses.find? fun m => m.vf == vf && m.page == page && !m.failed with
  | some m =>
    { s with atsMisses := s.atsMisses.map fun x => if x = m then
        { m with
          acc := m.acc ||| accBit acc
          waiters := if m.waiters.contains src then m.waiters else m.waiters ++ [src]
          places := if m.places.contains place then m.places else m.places ++ [place] } else x }
  | none =>
    { s with atsMisses := s.atsMisses ++ [⟨vf, page, accBit acc, false, false, false, [src], [place]⟩]
             outbox := s.outbox ++ [.ats vf page] }

/-- The bus address of an address of host space: the address itself while ATS is disabled, otherwise through a cached
translation (R351, R352). -/
def hostAt (s : State) (vf va : Nat) (acc : Access) (src : Source) : HostAt :=
  if !s.atsEnabled.contains vf then .bus va
  else match atsHit s (atsPlace s vf src) vf (va / 2 ^ 16) acc with
    | some e => .bus (e.host * 2 ^ 16 + va % 2 ^ 16)
    | none =>
      if s.atsMisses.any fun m => m.vf == vf && m.page == va / 2 ^ 16 && m.failed && m.waiters.contains src then .fail
      else .miss (atsAsk s vf (va / 2 ^ 16) src acc)

/-! ## Page requests -/

/-- The number of SRC (R347). -/
def sourceNo : Source → Nat
  | .gang _ => 0 | .copy _ => 1 | .matrix _ => 2 | .fabric _ => 3 | .scheduler _ => 4 | .descriptor _ | .shadow _ => 5
  | .fetch _ => 6

/-- CELL of a page request: 0 for the fabric engines and the scheduler (R347). -/
def sourceCell (src : Source) (cell : Nat) : Nat :=
  match src with
  | .fabric _ | .scheduler _ => 0
  | _ => cell

/-- SEQ after the VF's last posted request; it skips 0 (R347). -/
def nextSeq (m : AMap Nat) (vf : Nat) : Nat :=
  let n := ((mapGet m vf).getD 0 + 1) % 2 ^ 16
  if n = 0 then 1 else n

/-- Sends an MSI-X message (R395). -/
def notify (s : State) (f : Option Nat) (v : Nat) : State := { s with messages := s.messages ++ [⟨f, v⟩] }

/-- What a page request answers. -/
inductive Posted where
  | posted (id : Nat) (s : State)
  | full
  | off
  deriving DecidableEq, Repr

/-- Posts a page request for a missing IPA, or joins the outstanding one (R347, R348). -/
def postRequest (s : State) (vf va ipa level : Nat) (table : Bool) (acc : BitVec 4) (src : Source) (cell : Nat) : Posted :=
  match partOf s vf with
  | none => .off
  | some (_, p) =>
    let prq := regGet s (pageReg vf 0x10)
    let base := bits prq 11 46 * 2 ^ 11
    if bits prq 63 1 = 0 ∨ base + 2048 > memorySize p then .off
    else
      match s.requests.find? fun r => r.vf == vf && r.ipa / 2 ^ 16 == ipa / 2 ^ 16 with
      | some r => .posted r.id s
      | none =>
        let used := (s.requests.filter fun r => r.vf == vf).map (·.id)
        match (List.range 64).find? fun i => !used.contains i with
        | none => .full
        | some id =>
          let seq := nextSeq s.prqSeq vf
          let w0 := (if table then 2 ^ 28 else 0) + level * 2 ^ 26 + acc.toNat * 2 ^ 22 + sourceNo src * 2 ^ 18
            + sourceCell src cell * 2 ^ 9 + id * 2 ^ 32 + vf * 2 ^ 38 + seq * 2 ^ 48
          let words := natToBytes 8 w0 ++ natToBytes 8 (ipa - ipa % 2 ^ 16) ++ natToBytes 8 va ++ natToBytes 8 s.clock
          let s := paStore s p vf (base + 32 * id) words
          .posted id (notify { s with requests := s.requests ++ [⟨vf, id, seq, ipa - ipa % 2 ^ 16⟩], prqSeq := mapSet s.prqSeq vf seq }
            none 0)

end Sys2Proof.Machine
end

