-- ==== Sys2Proof/Machine/Report.lean ====
section
/-! DEFINITION. What the device reports: plates (R387, R388), the fault log (R375), grades (R374), health counters. -/

namespace Sys2Proof.Machine

/-- The node of the launch of a workgroup, as its number. -/
def nodeOfWg (s : State) (wg : Nat) : Nat := ((mapGet s.workgroups wg).map (·.node)).getD 0

/-- The number of a launch (R52). -/
def launchKey (vf lslot : Nat) : Nat := 64 * vf + lslot

/-! ## Plates -/

/-- A number for a hold reason in a plate record (R388; log 12). -/
def holdNo : Option Hold → Nat
  | none => 0
  | some .wait => 1 | some .interlock => 2 | some .claim => 3 | some .miss => 4 | some .token => 5 | some .emission => 6
  | some .join => 7 | some .window => 8 | some (.ring _ _) => 9 | some .barrier => 10 | some .gbar => 11 | some .brk => 12

/-- The first word of a plate record: unit kind in [7:0], unit number in [31:16] (R388). -/
def plateHead (kind number : Nat) : Word := BitVec.ofNat 64 (kind + number * 2 ^ 16)

/-- The registers that are pending, as a mask by specifier (R41, R388). -/
def pendingMask (g : Gang) : Nat :=
  g.pending.foldl (fun m p => match p.name with
    | .reg r => m ||| 2 ^ r.spec.toNat
    | .pred _ | .cond _ => m) 0

/-- What a plate captures of a gang (R388). -/
def plateGang (s : State) (slot : Nat) (g : Gang) : PlateRec :=
  ⟨0, slot, [plateHead 0 slot, BitVec.ofNat 64 g.pc, g.em.zeroExtend 64, g.pm.zeroExtend 64, BitVec.ofNat 64 g.stack.length,
    BitVec.ofNat 64 (holdNo g.hold), if g.sealed then 1 else 0, BitVec.ofNat 64 g.markCount, BitVec.ofNat 64 g.vf,
    BitVec.ofNat 64 g.lslot, BitVec.ofNat 64 (nodeOfWg s g.wg)]
    ++ (List.range 16).map fun i => BitVec.ofNat 64 (bits (pendingMask g) (64 * i) 64)⟩

/-- What a plate captures of a gang slot (R388); one without a gang has the head of its record alone. -/
def plateSlot (s : State) (slot : Nat) : PlateRec :=
  match mapGet s.gangs slot with
  | some g => plateGang s slot g
  | none => ⟨0, slot, [plateHead 0 slot]⟩

/-- What a plate captures of a cell (R388): copies in flight per token, shadow-slot occupancy, ring pointers. -/
def plateCell (s : State) (cell : Nat) : PlateRec :=
  let perToken := (List.range 8).map fun k =>
    BitVec.ofNat 64 (s.copies.filter fun e => e.2.cell == cell && e.2.token == k).length
  let shadow := (s.workgroups.filter fun e => e.2.cell == cell && (e.2.phase == .shadow || e.2.phase == .runnable)).length
  let rings := (List.range 16).map fun r =>
    match mapGet s.rings (16 * cell + r) with
    | none => (0 : Word)
    | some x => BitVec.ofNat 64 (x.rp + x.ap * 2 ^ 32)
  ⟨1, cell, plateHead 1 cell :: perToken ++ [BitVec.ofNat 64 shadow] ++ rings⟩

/-- Records held in a shard's larder and cellar. -/
def shardCount (h : Shard) : Nat :=
  h.larder.foldl (fun n l => n + l.recs.length) 0 + h.cellar.foldl (fun n l => n + l.recs.length) 0

/-- What a plate captures of a larder shard (R388): records per launch slot and node. -/
def plateShard (s : State) (stack : Nat) : PlateRec :=
  ⟨2, stack, plateHead 2 stack :: s.launches.flatMap fun l =>
    (l.2.shards.filter fun e => e.1 % 8 == stack).map fun e =>
      BitVec.ofNat 64 (shardCount e.2 + (e.1 / 8) * 2 ^ 32 + l.1 * 2 ^ 44)⟩

/-- The page requests that a stack group's walker waits on (R347, R388). -/
def walkerRequests (s : State) (stack : Nat) : List PageRequest :=
  s.requests.filter fun r => s.misses.any fun e =>
    e.2.vf == r.vf && e.2.phase == .requested r.id && stackOf e.2.cell == stack

/-- What a plate captures of a walker (R388): walks in flight and pending page-request IDs. -/
def plateWalker (s : State) (stack : Nat) : PlateRec :=
  ⟨3, stack, [plateHead 3 stack, BitVec.ofNat 64 (walksOf s stack)]
    ++ (walkerRequests s stack).map fun r => BitVec.ofNat 64 (r.id + r.vf * 2 ^ 38)⟩

/-- The first arbiter of a kind, in one numbering of all arbiters by kind and unit (R363; log 12). -/
def arbiterBase : Nat → Nat
  | 0 => 0 | 1 => 2048 | 2 => 3072 | 3 => 3328 | 4 => 3352 | 5 => 3356 | 6 => 3868 | _ => 3996

/-- The arbiters of the package, as kind and unit (R363). -/
def allArbiters : List (Nat × Nat) :=
  [2048, 1024, 256, 24, 4, 512, 128, 8].zipIdx.flatMap fun e => (List.range e.1).map fun u => (e.2, u)

/-- What a plate captures of an arbiter (R388): its pool and the bucket of each VF, with the VF in [63:48]. -/
def plateArbiter (s : State) (a : Nat × Nat) : PlateRec :=
  let number := arbiterBase a.1 + a.2
  let mine := s.buckets.filter fun e => e.1 / 2 ^ 24 == a.1 && e.1 % 2 ^ 24 / 1024 == a.2
  ⟨4, number, [plateHead 4 number, BitVec.ofNat 64 (poolOf s a.1 a.2)]
    ++ mine.map fun e => BitVec.ofNat 64 (e.1 % 1024 * 2 ^ 48 + (e.2 % 2 ^ 48).toNat)⟩

/-- What a plate captures of every arbiter (R388). -/
def plateArbiters (s : State) : List PlateRec := allArbiters.map (plateArbiter s)

/-- The snapshot of every block (R387, R388). -/
def plateAll (s : State) : List PlateRec :=
  ((List.range 8192).map fun k => plateSlot s k) ++ ((List.range 512).map fun c => plateCell s c)
    ++ ((List.range 8).map fun k => plateShard s k) ++ ((List.range 8).map fun k => plateWalker s k) ++ plateArbiters s

/-- PLATECTL (R387). -/
def platectl (s : State) : Nat := regGet s (pfReg 0x220)

/-- A trigger from a source, by its bit in PLATECTL [3:0] (R387). -/
def plateTrigger (s : State) (src : Nat) : State :=
  if bits (platectl s) 7 1 = 1 ∧ bits (platectl s) src 1 = 1 then
    regPut { s with plates := plateAll s, platestat := BitVec.ofNat 64 (2 ^ (60 + src) + s.clock % 2 ^ 57) }
      (pfReg 0x220) (platectl s - 2 ^ 7)
  else s

/-! ## The fault log -/

/-- Appends an entry to a partition's fault log: SEQ counts from 1 and skips 0; the functions concerned are signalled; an
entry of KIND 000 or 001 triggers a plate (R375, R387, R395). -/
def logAppend (s : State) (e : LogEntry) : State :=
  let seq := nextSeq s.logSeq e.part
  let old := (mapGet s.log e.part).getD []
  let s := { s with log := mapSet s.log e.part (old ++ [{ e with seq := seq, time := s.clock }]),
                    logSeq := mapSet s.logSeq e.part seq }
  let s := notify s none 2
  let s := if e.kind = 3 ∨ e.kind = 4 then s else notify s (some e.vf) 3
  if e.kind = 0 ∨ e.kind = 1 then plateTrigger s 3 else s

/-- The grade of a launch that ends by a fault (R374). -/
def grade (l : Launch) (code : BitVec 8) (detail : Nat) : Nat :=
  if code = FaultCode.poison.code ∨ code = FaultCode.uncorrectable.code then 3
  else if code = FaultCode.hang.code ∧ detail = 1 then 3
  else if l.escaped then 2
  else if l.wrote then 1
  else 0

/-- The package number of a queue of a context (R397). -/
def packageQueue (s : State) (vf q : Nat) : Nat := bits (regGet s (pageReg vf (0x100 + 8 * q))) 0 12

/-- Counts an event in a health counter (R349, R389, R396). -/
def healthAdd (s : State) (k : Nat) : State := { s with health := mapSet s.health k ((mapGet s.health k).getD 0 + 1) }

/-- The counter of replies that match no request, of a VF (R349). -/
def healthReply (vf : Nat) : Nat := 2 * vf
/-- The counter of failed BAR2 accesses, of a VF (R396). -/
def healthBar2 (vf : Nat) : Nat := 2 * vf + 1
/-- The counters of corrected errors per die and structure kind (R401). -/
def healthCorrected (die kind : Nat) : Nat := 4096 + 16 * die + kind
/-- The counters of uncorrected errors per die and structure kind (R401). -/
def healthUncorrected (die kind : Nat) : Nat := 8192 + 16 * die + kind

/-- Whether some die stands at a temperature or above it (R412). -/
def anyDie (s : State) (t : Nat) : Bool := s.temps.any fun e => decide (t ≤ e.2)

/-- The arithmetic clock in MHz under the thresholds that are engaged (R17, R412). -/
def clockFor (s : State) : Nat := if s.deep then 350 else if s.warm || s.overPower then 525 else 700

end Sys2Proof.Machine
end

