-- ==== Sys2Proof/Machine/Launches.lean ====
section
/-! DEFINITION. The end of launches: completion entries in queue order (R59 to R61), the abort of a launch (R62), the discard
of its work (R88), and the reset of a partition (R377, R378). -/

namespace Sys2Proof.Machine

/-! ## Accesses of the graph scheduler (R342) -/

/-- The number of a queue (R398). -/
def queueKey (vf q : Nat) : Nat := 64 * vf + q

/-- What the scheduler waits for as, when it acts for a queue; for a launch it is the number of the launch (R342). -/
def queueTask (vf q : Nat) : Nat := 2 ^ 20 + queueKey vf q

/-- The stack group whose walker serves the scheduler for a VF: the first in which its partition owns a cluster (log 58). -/
def schedStack (s : State) (vf : Nat) : Nat :=
  (((partOf s vf).bind fun x => x.2.clusters.head?).getD 0) / 8

/-- How a scheduler access stands: the physical address, a failure, or a stall. -/
inductive Sched where
  | pa (a : Nat) (s : State)
  | fail (r : WalkResult) (s : State)
  | stall (s : State)
  deriving DecidableEq, Repr

/-- A scheduler access that has its translation waits on no miss of the page any more. -/
def schedLeave (s : State) (vf page task : Nat) : State :=
  { s with misses := mapAll (fun _ m => if m.vf = vf ∧ m.page = page then
      { m with waiters := m.waiters.filter fun x => x != .scheduler task } else m) s.misses }

/-- A stage-2 entry that is not present: the access posts a page request (R347, R348). -/
def schedAbsent (s : State) (task vf va ipa level : Nat) (table : Bool) (acc : Access) : Sched :=
  let cell := 64 * schedStack s vf
  match postRequest s vf va ipa level table (accBit acc) (.scheduler task) cell with
  | .off => .fail (.cause 0x2) s
  | .full => .stall s
  | .posted id s =>
    .stall { s with nextId := s.nextId + 1,
                    misses := mapSet s.misses s.nextId ⟨vf, va / 2 ^ 16, va, .scheduler task, cell, accBit acc, .requested id,
                      .absent ipa level table, [.scheduler task], []⟩ }

/-- What an ended walk gives the scheduler for one access (R339, R340). -/
def schedEnds (s : State) (va : Nat) (acc : Access) (r : WalkResult) : Sched :=
  match r.for acc with
  | .ok e =>
    match deniedBy e acc with
    | some st => .fail (.denied st) s
    | none => .pa (e.pa + (va - e.va)) s
  | r => .fail r s

/-- The scheduler's walk for one address whose page nobody waits for, at a walker that has room for it (R342 to R344, R363); the
model makes it at once (log 58). With no room it is queued as any other (R344). -/
def schedWalk (s : State) (task vf va : Nat) (acc : Access) : Sched :=
  let stack := schedStack s vf
  if walksOf s stack ≥ 32 then .stall (addMiss s vf va (.scheduler task) (64 * stack) acc)
  else if pendingMisses s ≥ 4096 then .stall s
  else
    let r := walkFull s stack vf va
    let s := cacheWalk (charge s 7 stack vf 1) vf r.2
    match r.1.for acc with
    | .absent ipa level table => schedAbsent s task vf va ipa level table acc
    | _ => schedEnds s va acc r.1

/-- Translates one address for the scheduler (R342). It hears the miss it waited on where that has ended (R350); while the page
has a pending miss it waits with the others (R339, R344), unless a check denies its access (R353). -/
def schedTranslate (s : State) (task vf va : Nat) (acc : Access) : Sched :=
  if va ≥ 2 ^ 57 then .fail (.cause 0x5) s
  else match failedMiss s vf va (.scheduler task), missOf s vf va with
    | some (k, m), _ => schedEnds (leaveMiss s k m (.scheduler task)) va acc m.result
    | none, some (_, m) =>
      match missDenies m acc with
      | some st => .fail (.denied st) (schedLeave s vf (va / 2 ^ 16) task)
      | none => .stall (addMiss s vf va (.scheduler task) (64 * schedStack s vf) acc)
    | none, none => schedWalk s task vf va acc

/-- What a scheduler read gives. -/
inductive SchedRead where
  | bytes (l : List Byte) (s : State)
  | fail (r : WalkResult) (s : State)
  | stall (s : State)
  deriving DecidableEq, Repr

/-- Reads bytes of device space for the scheduler; `known` is the page translated last, with its physical address. -/
def schedReadFrom (s : State) (task vf : Nat) (p : Partition) (va : Nat) (known : Option (Nat × Nat)) :
    Nat → List Byte → SchedRead
  | 0, out => .bytes out.reverse s
  | n + 1, out =>
    let page := va / 2 ^ 16
    let tr := match known with
      | some (pg, a) => if pg = page then Sched.pa (a + va % 2 ^ 16) s else schedTranslate s task vf va .read
      | none => schedTranslate s task vf va .read
    match tr with
    | .fail r s => .fail r s
    | .stall s => .stall s
    | .pa a s =>
      if isPoisoned s (dramKey p a) then .fail .poison s
      else
        let s := if known.isNone ∨ a % 128 = 0 then l2Load s (lineIn p (homeSlice p a) vf a) 0 else s
        schedReadFrom s task vf p (va + 1) (some (page, a - va % 2 ^ 16)) n (dramByte s (dramKey p a) :: out)

/-- The bus address of a scheduler access to host space (R351, R398). -/
def schedHost (s : State) (task vf va : Nat) (acc : Access) : Sched :=
  match hostAt s vf va acc (.scheduler task) with
  | .bus a => .pa a s
  | .miss s => .stall s
  | .fail => .fail (.cause 0x6) (leaveFailed s (.scheduler task))

/-- Reads `n` bytes for the scheduler, in device space or, where `host` holds, within a page of host space (R342, R398). -/
def schedRead (s : State) (task vf : Nat) (host : Bool) (va n : Nat) : SchedRead :=
  if host then
    match schedHost s task vf va .read with
    | .pa a s => .bytes (hostRead s a n) s
    | .fail r s => .fail r s
    | .stall s => .stall s
  else match partOf s vf with
    | none => .fail (.cause 0x7) s
    | some (_, p) => schedReadFrom s task vf p va none n []

/-- What a scheduler write gives. -/
inductive SchedWrite where
  | done (s : State)
  | fail (r : WalkResult) (s : State)
  | stall (s : State)
  deriving DecidableEq, Repr

/-- Writes bytes, none of which crosses a line, for the scheduler (R342, R398). -/
def schedWrite (s : State) (task vf : Nat) (host : Bool) (va : Nat) (l : List Byte) : SchedWrite :=
  if host then
    match schedHost s task vf va .write with
    | .pa a s => .done (hostWrite s a l)
    | .fail r s => .fail r s
    | .stall s => .stall s
  else match partOf s vf with
    | none => .fail (.cause 0x7) s
    | some (_, p) =>
      match schedTranslate s task vf va .write with
      | .fail r s => .fail r s
      | .stall s => .stall s
      | .pa a s => .done (paStore s p vf a l)

/-- The fault of a scheduler access on a started launch (R342); a poisoned line gives POISON (R390). -/
def schedFault (r : WalkResult) : GFault :=
  match r with
  | .poison => ⟨.poison, 0, 0, true, none, 0⟩
  | .cause c => ⟨.translation, 0, 0, true, none, c⟩
  | _ => ⟨.translation, 0, 0, true, none, 0⟩

/-! ## Discarding work -/

/-- A plane that nothing has filled. -/
def Plane.blank : Plane where
  filled := false
  ty := 0
  layout := 0
  scale := 0
  depth := 0
  elems := []
  bounds := []
  wg := 0
  spoilt := none

/-- A bay's unit before its first use. -/
def Matrix.blank : Matrix where
  active := 0
  planes := [Plane.blank, Plane.blank]
  claim := none
  tiles := []
  queue := []

/-- The unit of a bay. -/
def unitOf (s : State) (bay : Nat) : Matrix := (mapGet s.matrix bay).getD Matrix.blank

/-- Puts a unit in its bay. -/
def setUnit (s : State) (bay : Nat) (m : Matrix) : State := { s with matrix := mapSet s.matrix bay m }

/-- A retiring tile returns to the free pool once no queued operation reads it (R267). -/
def sweepTiles (m : Matrix) : Matrix :=
  { m with tiles := mapFilter (fun k t => t.owner.isSome || m.queue.any fun o => o.tile == k) m.tiles }

/-- A unit without the work of some gang slots and workgroups (R62, R381). -/
def purgeUnit (goneSlot goneWg : Nat → Bool) (m : Matrix) : Matrix :=
  sweepTiles { m with
    claim := match m.claim with
      | some w => if goneWg w then none else some w
      | none => none
    tiles := mapFilter (fun _ t => match t.owner with
      | some o => !goneSlot o
      | none => true) m.tiles
    queue := m.queue.filter fun o => !goneSlot o.slot }

/-- L2 lines that the saved shelves of some workgroups locked are locked no more (R371). -/
def unlockLines (mine : Nat → Bool) (m : AMap L2Line) : AMap L2Line :=
  mapAll (fun _ e => match e.locked with
    | some w => if mine w then { e with locked := none } else e
    | none => e) m

/-- Frees what belongs to a set of workgroups: their gangs, record-window slots, rings, copies, matrix operations, tiles and
claims, join entries aside (R62, R88, R377). -/
def discardWorkgroups (s : State) (mine : Nat → Bool) : State :=
  let slots := (s.gangs.filter fun e => mine e.2.wg).map (·.1)
  let gone := fun slot => slots.contains slot
  let drop : Source → Bool := fun
    | .gang k | .descriptor k | .fetch k | .matrix k => gone k
    | .shadow wg => mine wg
    | .copy id | .fabric id => match mapGet s.copies id with
      | some c => mine c.wg
      | none => mine id
    | _ => false
  { s with
    atsMisses := dropAts drop s.atsMisses
    l2 := unlockLines mine s.l2
    gangs := mapFilter (fun _ g => !mine g.wg) s.gangs
    workgroups := mapFilter (fun k _ => !mine k) s.workgroups
    window := mapFilter (fun _ w => !mine w) s.window
    rings := mapFilter (fun _ r => !mine r.wg) s.rings
    copies := mapFilter (fun _ c => !mine c.wg) s.copies
    blocked := s.blocked.filter fun b => !gone b.1
    misses := dropWaiters drop s.misses
    matrix := mapAll (fun _ m => purgeUnit gone mine m) s.matrix }

/-- Frees the records and join entries of a launch; answers how many join entries were live (R60, R62, R88). Records of its
inbox are discarded unacknowledged (R86): the spec names no answer to their senders, and the model sends none (DESIGN CHOICE;
log 20). -/
def freeQueues (s : State) (vf lslot : Nat) : State × Nat :=
  let mine := fun (j : Join) => j.vf == vf && j.lslot == lslot
  let live := (s.joins.filter fun e => mine e.2).map (·.1)
  let lines := match mapGet s.launches (launchKey vf lslot) with
    | none => []
    | some l => l.shards.flatMap fun (e : Nat × Shard) => e.2.larder.map fun (x : Line) => 32768 * (e.1 % 8) + x.line
  ({ s with
      joins := mapFilter (fun _ j => !mine j) s.joins
      larder := mapFilter (fun k _ => !(lines.contains k) && !(live.contains k)) s.larder
      blocked := s.blocked.filter fun b => b.2.1 != launchKey vf lslot
      launches := mapUpdate s.launches (launchKey vf lslot) fun l => { l with shards := [], inbox := [] } },
    live.length)

/-- Discards every workgroup, record and join entry of a launch (R62). -/
def discardLaunch (s : State) (vf lslot : Nat) : State × Nat :=
  let wgs := (s.workgroups.filter fun e => e.2.vf == vf && e.2.lslot == lslot).map (·.1)
  let waits := fun (x : Source) => x == .scheduler (launchKey vf lslot)
  let s := discardWorkgroups s fun w => wgs.contains w
  freeQueues { s with misses := dropWaiters waits s.misses, atsMisses := dropAts waits s.atsMisses } vf lslot

/-! ## Completion entries -/

/-- A completion entry (R61) as its two 8-byte words. -/
structure Entry where
  fence : Nat
  lslot : Nat
  status : Nat
  fault : Nat
  grade : Nat
  node : Nat
  gslot : Nat
  leaked : Nat
  rejected : Nat
  deriving DecidableEq, Repr

/-- Bytes 0 to 7 of a completion entry (R61). -/
def Entry.low (e : Entry) : Nat :=
  e.fence % 2 ^ 32 + e.lslot * 2 ^ 32 + e.status * 2 ^ 40 + e.fault * 2 ^ 48 + e.grade * 2 ^ 56

/-- Bytes 8 to 15 of a completion entry (R61). -/
def Entry.high (e : Entry) : Nat :=
  e.node * 2 ^ 7 + e.gslot * 2 ^ 19 + min e.leaked 0xFFFF * 2 ^ 32 + min e.rejected 0xFFFF * 2 ^ 48

/-- The space of a queue's ring and fence log (R398). -/
def queueHost (q : Queue) : Bool := q.qring.getLsbD 63

/-- The slots of a queue's ring: 2^N (R398). -/
def queueSlots (q : Queue) : Nat := 2 ^ bits q.qring.toNat 0 5

/-- The address of the completion entry of a packet (R53, R398). -/
def entryAddress (q : Queue) (packet : Nat) : Nat := bits q.qlog.toNat 4 53 * 16 + 16 * (packet % queueSlots q)

/-- Writes the completion entry of the packet at RP: bytes 8 to 15, then 0 to 7; RP advances and VF vector 0 is raised where
IRQ is 1 (R60, R395, R398). On a failed write the fault log gets an entry of KIND 000 with grade `gr` and the queue stops
(R342). -/
def writeEntry (s : State) (vf qn packet gr : Nat) (e : Entry) : State × Bool :=
  match mapGet s.queues (queueKey vf qn) with
  | none => (s, false)
  | some q =>
    match schedWrite s (queueTask vf qn) vf (queueHost q) (entryAddress q packet) (natToBytes 8 e.low ++ natToBytes 8 e.high) with
    | .done s =>
      let s := { s with queues := mapUpdate s.queues (queueKey vf qn) fun q => { q with rp := q.rp + 1 } }
      (if q.qring.getLsbD 62 then notify s (some vf) 0 else s, true)
    | .stall s => (s, false)
    | .fail r s =>
      let cause := match r with
        | .cause c => c
        | _ => 0
      let s := logAppend s ⟨0, FaultCode.translation.code, gr, cause, vf, partNo s vf, e.lslot, 0, 0,
        packageQueue s vf qn, e.fence, 0, 0, 0, 0⟩
      ({ s with queues := mapUpdate s.queues (queueKey vf qn) fun q => { q with stopped := true } }, false)

/-- The completion entry of a launch (R57, R60 to R62). -/
def launchEntry (lslot : Nat) (l : Launch) : Entry :=
  match l.phase with
  | .aborted => ⟨l.fence, lslot, 0x01, l.faultCode.toNat, l.faultGrade, l.faultNode, l.faultSlot, l.leaked, l.rejected⟩
  | .invalid status => ⟨l.fence, lslot, status, 0, 0, 0, 0, 0, 0⟩
  | _ => ⟨l.fence, lslot, 0x00, 0, 0, 0, 0, l.leaked, l.rejected⟩

/-- Step 2 of R60 makes effects visible at system scope; under a scope ceiling of ten it is clamped (R208). -/
def publishMemory (s : State) (vf : Nat) : State :=
  if ((mapGet s.policy vf).map (·.2)).getD false ∧ !s.clamped.contains vf then { s with clamped := s.clamped ++ [vf] } else s

/-- Steps 2 and 3 of R60: ORs SET into E; an aborted launch sets none (R62). -/
def publishEvents (s : State) (vf lslot : Nat) (l : Launch) : State :=
  if l.published then s
  else
    let s := publishMemory s vf
    let s := { s with launches := mapUpdate s.launches (launchKey vf lslot) fun l => { l with published := true } }
    if l.phase = .completing then
      { s with events := wordSet s.events vf (wordGet s.events vf ||| l.sets)
               fresh := wordSet s.fresh vf (wordGet s.fresh vf ||| (l.sets &&& ~~~wordGet s.events vf)) }
    else s

/-- A launch leaves its slot; what was fetched for it is forgotten (R60, R92). -/
def eraseLaunch (s : State) (k : Nat) : State :=
  { s with launches := mapErase s.launches k, icache := mapFilter (fun i _ => i / 2 ^ 50 != k) s.icache }

/-- Lines of device memory that hold a launch's cellar region, where the scheduler could write it. -/
def regionLines (s : State) (vf : Nat) (l : Launch) : List Nat :=
  match partOf s vf with
  | none => []
  | some (_, p) => (pagesOf l.cellar (128 * l.cellarLines)).flatMap fun e =>
    match walk s (schedStack s vf) vf e.1 with
    | .ok x =>
      let a := x.pa + (e.1 - x.va)
      if (deniedBy x .write).isSome ∨ a + e.2 > memorySize p then []
      else (List.range (e.2 / 128)).map fun i => dramKey p (a + 128 * i) / 128
    | _ => []

/-- The content of a launch's cellar region is undefined once the launch has completed (R73). -/
def voidRegion (s : State) (vf : Nat) (l : Launch) : State := voidLines s (regionLines s vf l)

/-- The grade that a log entry about the completion entry of a launch carries (R374, R375): that of the launch, and of the fault
that aborted it where that is higher (log 74). -/
def entryGrade (l : Launch) : Nat :=
  max (grade l FaultCode.translation.code 0) (if l.phase = .aborted then l.faultGrade else 0)

/-- Writes the completion entry whose packet stands at RP, if that packet has ended (R60, R62, R55, R57). -/
def retireOne (s : State) (vf qn : Nat) : State × Bool :=
  match mapGet s.queues (queueKey vf qn) with
  | none => (s, false)
  | some q =>
    if q.stopped then (s, false)
    else match q.ended.find? fun e => e.packet == q.rp.toNat with
      | some e =>
        let (s, ok) := writeEntry s vf qn e.packet 0 ⟨e.fence, e.lslot, e.status, 0, 0, 0, 0, 0, 0⟩
        if ok then
          ({ s with queues := mapUpdate s.queues (queueKey vf qn) fun q =>
              { q with ended := q.ended.filter fun x => x.packet != e.packet } }, true)
        else (s, false)
      | none =>
        match s.launches.find? fun e => e.1 / 64 == vf && e.2.queue == qn && e.2.packet == q.rp.toNat
            && e.2.phase != .running && e.2.phase != .starting with
        | none => (s, false)
        | some (k, l) =>
          let s := publishEvents s vf (k % 64) l
          let (s, ok) := writeEntry s vf qn l.packet (entryGrade l) (launchEntry (k % 64) l)
          if ok then (eraseLaunch (voidRegion s vf l) k, true) else (s, false)

/-- Writes completion entries in queue order as far as they go (R60); `fuel` bounds the entries of one step. -/
def retireQueue (s : State) (vf qn : Nat) : Nat → State
  | 0 => s
  | n + 1 =>
    match retireOne s vf qn with
    | (s, true) => retireQueue s vf qn n
    | (s, false) => s

/-- Packets a queue can hold, which bounds the entries written in one step (R53). -/
def retireAll (s : State) (vf qn : Nat) : State :=
  retireQueue s vf qn (s.launches.length + (((mapGet s.queues (queueKey vf qn)).map (·.ended.length)).getD 0))

/-! ## Aborting a launch -/

/-- The number under which the records stand that an aborted launch has sent and that nobody has acknowledged yet: they hold their
window slots, and concern no later launch of the slot (R86). -/
def orphanKey (k : Nat) : Nat := 65536 + k

/-- Aborts a launch by an escalating fault: one log entry of KIND 000, the work discarded, then the completion entry in queue
order (R62, R329, R375). `before` is the grade of a fault that was being handled (R329). -/
def abortLaunch (s : State) (vf lslot node gslot : Nat) (addr : Nat) (f : GFault) (before : Nat) : State :=
  match mapGet s.launches (launchKey vf lslot) with
  | none => s
  | some l =>
    let gr := max (grade l f.code.code f.detail) before
    let s := logAppend s ⟨0, f.code.code, gr, f.detail, vf, partNo s vf, lslot, gslot, node,
      packageQueue s vf l.queue, l.fence, f.logAddr.getD addr, f.tval, 0, 0⟩
    let (s, leaked) := discardLaunch s vf lslot
    let orphan := fun (k : Nat) => if k = launchKey vf lslot then orphanKey k else k
    let s := { s with sends := s.sends.map fun (x : Nat × Nat × Nat) => (orphan x.1, x.2) }
    let s := { s with launches := mapUpdate s.launches (launchKey vf lslot) fun l =>
      { l with phase := .aborted, leaked := l.leaked + leaked, faultCode := f.code.code, faultGrade := gr,
               faultNode := node, faultSlot := gslot } }
    retireAll s vf l.queue

/-! ## Partition reset -/

/-- The cells of a partition (R357). -/
def partCells (p : Partition) : List Nat := p.clusters.flatMap fun c => (List.range 8).map fun i => 8 * c + i

/-- Who met an uncontained fault: its launch, node, gang slot, the address of its instruction, and TVAL (R375, R377). -/
structure Met where
  launch : Nat
  node : Nat
  gslot : Nat
  addr : Nat
  tval : Word
  deriving DecidableEq, Repr

/-- One log entry for a launch that a reset discards: KIND 001 for the launch that met the fault, KIND 010 for every other
(R377 step 4). -/
def logDiscarded (s : State) (part : Nat) (code : BitVec 8) (detail : Nat) (met : Option Met) (k : Nat) : State :=
  match mapGet s.launches k with
  | none => s
  | some l =>
    let other : LogEntry := ⟨2, code, grade l code detail, detail, k / 64, part, k % 64, 0, 0, packageQueue s (k / 64) l.queue,
      l.fence, 0, 0, 0, 0⟩
    logAppend s (match met with
      | some m => if m.launch = k then
          { other with kind := 1, gslot := m.gslot, node := m.node, addr := m.addr, tval := m.tval } else other
      | none => other)

/-- A queue whose registers stand at Reset (R398). -/
def Queue.fresh : Queue := ⟨0, 0, 0, 0, 0, false, 0, [], []⟩

/-- A queue rewinds to RP and stops (R378). -/
def rewindQueue (q : Queue) : Queue := { q with sp := q.rp, stopped := true, ended := [] }

/-- Whether a queue of a context is assigned: V of its QASSIGN (R397). -/
def queueAssigned (s : State) (k : Nat) : Bool := bits (regGet s (pageReg (k / 64) (0x100 + 8 * (k % 64)))) 63 1 == 1

/-- Every queue of some VFs rewinds and stops, those that nothing has been written to among them (R378). -/
def rewindQueues (s : State) (vfs : List Nat) : State :=
  let fresh := ((vfs.flatMap fun v => (List.range 64).map (queueKey v)).filter fun k =>
    queueAssigned s k && (mapGet s.queues k).isNone)
  let listed := mapAll (fun k q => if vfs.contains (k / 64) then rewindQueue q else q) s.queues
  { s with queues := fresh.foldl (fun m k => mapSet m k { Queue.fresh with stopped := true }) listed }

/-- The registers of a VF that a partition reset returns to their Reset value (R377 step 6): SLICE (R379) and the save areas
(R382); the others that software writes are named as kept. -/
def resetRegs (s : State) (vfs : List Nat) : State :=
  vfs.foldl (fun s v => [0x30, 0x40, 0x48, 0x50, 0x58].foldl (fun s o => regPut s (pageReg v o) 0) s) s

/-- The translation state that a partition reset empties: every cache, the outstanding requests, and TLBSTAT (R377). -/
def resetTranslation (s : State) (vfs : List Nat) : State :=
  { s with
    tlb := s.tlb.filter fun e => !vfs.contains e.vf
    walkCache := s.walkCache.filter fun e => !vfs.contains e.vf
    misses := mapFilter (fun _ m => !vfs.contains m.vf) s.misses
    requests := s.requests.filter fun r => !vfs.contains r.vf
    tlbBusy := mapFilter (fun v _ => !vfs.contains v) s.tlbBusy
    tlbErr := s.tlbErr.filter fun v => !vfs.contains v
    ats := s.ats.filter fun e => !vfs.contains e.vf
    atsMisses := s.atsMisses.filter fun e => !vfs.contains e.vf }

/-- The units of a partition's cells after a reset: nothing resident, scratchpads undefined (R377). -/
def resetCells (s : State) (cells : List Nat) : State :=
  let inCell := fun c => cells.contains c
  { s with
    matrix := mapFilter (fun b _ => !inCell (b / 4)) s.matrix
    bregs := s.bregs.filter fun e => !inCell (e.1 / 64)
    bTurn := mapFilter (fun b _ => !inCell (b / 64)) s.bTurn
    busy := mapFilter (fun b _ => !inCell (b / 4)) s.busy
    spad := s.spad.filter fun e => !inCell (e.1 / 2 ^ 20)
    spadGen := cells.foldl (fun m c => mapSet m c ((mapGet m c).getD 0 + 1)) s.spadGen
    rings := mapFilter (fun k _ => !inCell (k / 16)) s.rings
    copies := mapFilter (fun _ c => !inCell c.cell) s.copies
    broadcasts := s.broadcasts.filter fun b => !inCell b.cell
    rootArrivals := s.rootArrivals.filter fun a => !inCell a.rootCell
    leaves := mapFilter (fun k _ => !inCell (k / 2 ^ 20)) s.leaves
    descs := mapFilter (fun k _ => !inCell (k / 2 ^ 20)) s.descs
    window := mapFilter (fun k _ => !inCell (k / 1536)) s.window
    governor := mapFilter (fun c _ => !inCell c) s.governor }

/-- The reset of one partition by an uncontained fault (R377, R378, R88). `met` says who met the fault. -/
def partitionReset (s : State) (part : Nat) (code : BitVec 8) (detail : Nat) (met : Option Met) : State :=
  match mapGet s.parts part with
  | none => s
  | some p =>
    let keys := (s.launches.filter fun e => p.vfs.contains (e.1 / 64)).map (·.1)
    let known := (met.map fun m => keys.contains m.launch).getD false
    let s := if known then s else
      logAppend s ⟨1, code, if code = FaultCode.uncorrectable.code ∨ detail = 1 then 3 else 0, detail, 0, part, 0, 0,
        0, 0, 0, 0, (met.map (·.tval)).getD 0, 0, 0⟩
    let s := keys.foldl (fun s k => logDiscarded s part code detail met k) s
    let s := keys.foldl (fun s k => (discardLaunch s (k / 64) (k % 64)).1) s
    let s := { keys.foldl eraseLaunch s with
                      windows := mapFilter (fun k _ => !p.vfs.contains (k / 2 ^ 21)) s.windows,
                      sends := s.sends.filter fun x => !keys.contains (x.1 % 65536),
                      l2 := mapAll (fun _ e => if p.banks.contains e.bank then { e with dirty := false } else e) s.l2 }
    let s := resetCells (resetTranslation (resetRegs (rewindQueues s p.vfs) p.vfs) p.vfs) (partCells p)
    p.vfs.foldl (fun s v => notify s (some v) 2) (notify s none 1)

/-- The reset of every partition, where no partition owns the failing unit (R377). -/
def resetAll (s : State) (code : BitVec 8) (detail : Nat) : State :=
  (s.parts.map (·.1)).foldl (fun s p => partitionReset s p code detail none) s

end Sys2Proof.Machine
end

