-- ==== Sys2Proof/Machine/Operands.lean ====
section
/-! DEFINITION. Register files, special values, predicates and guards (R30, R33 to R35, R151), the values of operands by type
(R123, R154), and the pending scoreboard (R40, R41). -/

namespace Sys2Proof.Machine

/-! ## Register files -/

/-- The number of a per-thread register (R33). -/
def regKey (t : Nat) (x : BitVec 10) : Nat := 1024 * t + x.toNat

/-- The launch of a gang. -/
def launchOf (s : State) (g : Gang) : Option Launch := mapGet s.launches (launchKey g.vf g.lslot)

/-- The node a gang runs (R64). -/
def nodeOf (s : State) (g : Gang) : Option Node :=
  match launchOf s g with
  | none => none
  | some l => l.nodes[nodeOfWg s g.wg]?

/-- The code base of a gang's image (R63, R90). -/
def codeBaseOf (s : State) (g : Gang) : Nat := ((launchOf s g).map (·.codeBase)).getD 0

/-- The position, among its workgroup's records, of the record bound to a thread (R69). -/
def recordNo (s : State) (g : Gang) (t : Nat) : Nat :=
  match ((nodeOf s g).map (·.binding)).getD 0 with
  | 0 => 32 * g.idx + t
  | 1 => g.idx
  | _ => 0

/-- The record bound to a thread (R69). -/
def recordOf (s : State) (g : Gang) (t : Nat) : Option WgRec :=
  match mapGet s.workgroups g.wg with
  | none => none
  | some w => w.records[recordNo s g t]?

/-- The identity word (R23). -/
def identity (s : State) : Nat :=
  0x5732 * 2 ^ 48 + s.manifest.stepping.toNat * 2 ^ 40 + s.manifest.pod.toNat * 2 ^ 10 + s.manifest.member.toNat

/-- The chip identifier of this package (R23). -/
def chipId (s : State) : Nat := s.manifest.pod.toNat * 2 ^ 10 + s.manifest.member.toNat

/-- DEPTH of a thread: bits [15:12] of its record's header (R35, R66, R69). -/
def depthOf (s : State) (g : Gang) (t : Nat) : Nat :=
  match recordOf s g t with
  | none => 0
  | some r => bits ((r.words[0]?).getD 0).toNat 12 4

/-- The special values (R35). -/
def special (s : State) (slot : Nat) (g : Gang) (t n : Nat) : Word :=
  match n with
  | 80 => BitVec.ofNat 64 t
  | 81 => BitVec.ofNat 64 (slot + g.idx * 2 ^ 16 + (((nodeOf s g).map (·.gangs)).getD 0) * 2 ^ 20)
  | 82 => BitVec.ofNat 64 (bayOf slot)
  | 83 => BitVec.ofNat 64 (cellOf slot)
  | 84 => BitVec.ofNat 64 (clusterOf (cellOf slot))
  | 85 => BitVec.ofNat 64 (stackOf (cellOf slot))
  | 86 => BitVec.ofNat 64 (identity s)
  | 87 => BitVec.ofNat 64 (nodeOfWg s g.wg)
  | 88 => BitVec.ofNat 64 (depthOf s g t)
  | 89 => match recordOf s g t with
    | none => BitVec.allOnes 64
    | some r => BitVec.ofNat 64 r.index
  | 90 => BitVec.ofNat 64 (g.lslot + (((launchOf s g).map (·.fence)).getD 0) * 2 ^ 32)
  | 91 => BitVec.ofNat 64 s.clock
  | 92 => g.fpstat
  | 93 => g.vstat
  | 94 => g.batchClosed.zeroExtend 64 ||| (g.batchRetired.zeroExtend 64 <<< 16)
  | 95 => g.tcause
  | 96 => g.tpc
  | 97 => g.tval
  | 98 => g.tmask
  | _ => 0

/-- The value of a register as a source of thread `t` (R30, R33, R35, R95). -/
def readReg (s : State) (slot : Nat) (g : Gang) (t : Nat) (x : BitVec 10) : Word :=
  match RegName.ofSpec x with
  | none => 0
  | some (.s n) => wordGet g.sregs n
  | some (.b n) => wordGet s.bregs (16 * bayOf slot + n)
  | some (.special n) => special s slot g t n
  | some _ => wordGet g.regs (regKey t x)

/-- Writes one register of thread `t` in the v, y or z file (R33). -/
def putReg (g : Gang) (t : Nat) (x : BitVec 10) (v : Word) : Gang := { g with regs := wordSet g.regs (regKey t x) v }

/-- Writes one register in each of some threads; the values are all taken before (R9, R225). -/
def putLanes (g : Gang) (x : BitVec 10) (val : Nat → Word) : List Nat → Gang
  | [] => g
  | t :: r => putReg (putLanes g x val r) t x (val t)

/-- Puts a gang in its slot. -/
def setGang (s : State) (slot : Nat) (g : Gang) : State := { s with gangs := mapSet s.gangs slot g }

/-- The place of a slot in the order of an arithmetic cycle, from slot (n mod 4) in cycle n (R31, R38). -/
def turnOf (s : State) (slot : Nat) : Nat := (slot + 4 - s.acycle % 4) % 4

/-- Whether a slot that comes later in the order of this arithmetic cycle has already written a b register: its value stands
(R38). -/
def overtaken (s : State) (slot n : Nat) : Bool :=
  match mapGet s.bTurn (16 * bayOf slot + n) with
  | some (c, k) => c == s.acycle && decide (turnOf s slot < turnOf s k)
  | none => false

/-- Writes a b register of a slot's bay, in the order of R38. -/
def putShared (s : State) (slot n : Nat) (v : Word) : State :=
  if overtaken s slot n then s
  else { s with bregs := wordSet s.bregs (16 * bayOf slot + n) v
                bTurn := mapSet s.bTurn (16 * bayOf slot + n) (s.acycle, slot) }

/-- Writes an s or b register (R33, R38). -/
def putUniform (s : State) (slot : Nat) (g : Gang) (x : BitVec 10) (v : Word) : State × Gang :=
  match RegName.ofSpec x with
  | some (.s n) => (s, { g with sregs := wordSet g.sregs n v })
  | some (.b n) => (putShared s slot n v, g)
  | _ => (s, g)

/-! ## Predicates, conditions and guards -/

/-- The number of a predicate (R34). -/
def predKey (t n : Nat) : Nat := 8 * t + n

/-- A predicate: 00 false, 01 true, 10 undecided (R34). -/
def getPred (g : Gang) (t n : Nat) : BitVec 2 := wordGet g.preds (predKey t n)

/-- Writes a predicate (R34). -/
def putPred (g : Gang) (t n : Nat) (v : BitVec 2) : Gang := { g with preds := wordSet g.preds (predKey t n) v }

/-- Writes the predicate that a specifier names in each of some threads. -/
def putPreds (g : Gang) (x : BitVec 10) (val : Nat → BitVec 2) : List Nat → Gang
  | [] => g
  | t :: r => putPred (putPreds g x val r) t (bits x.toNat 0 3) (val t)

/-- A condition (R34). -/
def getCond (g : Gang) (n : Nat) : Bool := g.conds.getLsbD n

/-- Writes a condition (R34). -/
def putCond (g : Gang) (n : Nat) (v : Bool) : Gang :=
  let m : BitVec 4 := 1 <<< n
  { g with conds := if v then g.conds ||| m else g.conds &&& ~~~ m }

/-- The three values as predicates hold them (R34). -/
def triF : BitVec 2 := 0
/-- True. -/
def triT : BitVec 2 := 1
/-- Undecided. -/
def triU : BitVec 2 := 2
/-- A two-valued result. -/
def triOf (b : Bool) : BitVec 2 := if b then triT else triF

/-- A predicate or condition as a source of thread `t` (R151). -/
def readPred (g : Gang) (t : Nat) (x : BitVec 10) : BitVec 2 :=
  let n := bits x.toNat 0 3
  let sense := bits x.toNat 4 2
  if x.getLsbD 3 then
    triOf (if sense = 2 then !getCond g n else getCond g n)
  else
    let p := getPred g t n
    match sense with
    | 0 => p
    | 1 => triOf (p == triT)
    | 2 => triOf (p == triF)
    | _ => triOf (p == triU)

/-- Whether a predicate value passes a sense (R34). -/
def passes (sense : Nat) (p : BitVec 2) : Bool :=
  match sense with
  | 0 => true
  | 1 => p == triT
  | 2 => p == triF
  | _ => p == triU

/-- Whether a thread passes the guard of a lane instruction (R34). -/
def guardPasses (g : Gang) (grd : BitVec 5) (t : Nat) : Bool :=
  passes (bits grd.toNat 0 2) (getPred g t (bits grd.toNat 2 3))

/-- The participating threads of a lane instruction: those in EM that pass its guard (R28, R160, R213). -/
def participants (g : Gang) (grd : BitVec 5) : Mask := maskOf (threadsOf g.em) fun t => guardPasses g grd t

/-- Whether a uniform instruction executes under its guard (R34). -/
def condPasses (g : Gang) (grd : BitVec 5) : Bool :=
  match bits grd.toNat 0 2 with
  | 0 => true
  | 1 => getCond g (bits grd.toNat 2 3)
  | _ => !getCond g (bits grd.toNat 2 3)

/-! ## Integer values -/

/-- A source as an integer: signed under an .s type, unsigned otherwise (R123, R153). -/
def intValue (ty : Ty) (x : Word) : Int :=
  let n := x.toNat % 2 ^ ty.width
  if ty.isSigned ∧ n ≥ 2 ^ (ty.width - 1) then (n : Int) - 2 ^ ty.width else n

/-- The low `w` bits of a source as a number. -/
def lowNat (w : Nat) (x : Word) : Nat := x.toNat % 2 ^ w

/-- The low `w` bits of an exact result, zero above (R33, R153). -/
def narrow (w : Nat) (i : Int) : Word := BitVec.ofNat 64 (i % (2 ^ w : Nat)).toNat

/-- The type of an instruction (R100). -/
def tyOf (f : Fields) : Ty := (Ty.ofCode f.typ.toNat).getD .s8

/-- The constant of family K, sign-extended to 64 bits (R102, R154). -/
def constK (f : Fields) : Word := f.imm.signExtend 64

/-- The constant of family BI, sign-extended to 64 bits (R102, R154). -/
def constBI (f : Fields) : Word := (BitVec.ofNat 30 f.imm.toNat).signExtend 64

/-- Source B of a BI instruction: the register, or the constant when SEL = 1 (R102). -/
def readB (s : State) (slot : Nat) (g : Gang) (t : Nat) (f : Fields) : Word :=
  if f.imm.getLsbD 30 then constBI f else readReg s slot g t f.b

/-! ## The pending scoreboard -/

/-- The four roles of an opcode's fields. -/
abbrev Roles := Role × Role × Role × Role

/-- The names the fields of an instruction touch, in the order D, A, B, C (R41). -/
def fieldNames (r : Roles) (f : Fields) : List (Nat × List Name) :=
  [(0, (r.1.names f.d).getD []), (1, (r.2.1.names f.a).getD []), (2, (r.2.2.1.names f.b).getD []),
    (3, (r.2.2.2.names f.c).getD [])]

/-- The name in the guard (R34, R41). -/
def guardNames (opc : Nat) (f : Fields) : List Name :=
  if bits f.grd.toNat 0 2 = 0 then []
  else match opInfo opc with
    | some i => if i.guard = .condition then [.cond (bits f.grd.toNat 2 3)] else [.pred (bits f.grd.toNat 2 3)]
    | none => []

/-- TVAL[9:0] of HAZARD for a name (R41). -/
def nameCode : Name → Nat
  | .reg r => r.spec.toNat
  | .pred n => n
  | .cond n => 8 + n

/-- Whether a name is pending (R41). -/
def isPending (g : Gang) (n : Name) : Bool := g.pending.any fun p => p.name == n

/-- The first pending name of one field. -/
def firstPending (g : Gang) : List Name → Option Name
  | [] => none
  | n :: r => if isPending g n then some n else firstPending g r

/-- TVAL of the first pending name, in the order of the places given (R41). -/
def hazardIn (g : Gang) : List (Nat × List Name) → Option Word
  | [] => none
  | (place, ns) :: r =>
    match firstPending g ns with
    | some n => some (BitVec.ofNat 64 (nameCode n + place * 2 ^ 12))
    | none => hazardIn g r

/-- The roles of an instruction's fields. -/
def rolesOf (opc : Nat) (f : Fields) : Roles := roles opc (Ty.ofCode f.typ.toNat) f.imm.toNat

/-- The number of a cell's copy of a descriptor. -/
def descKey (cell vf index : Nat) : Nat := 2 ^ 20 * cell + 1024 * vf + index

/-- The address of a table entry (R178). -/
def tableEntry (s : State) (vf index : Nat) : Nat := tdbase s vf + 64 * index

/-- Word 1 of a descriptor where the bay sees it when it checks an instruction: in the cell's copy, or in a table entry that a
cached translation reaches (R178, R189; log 45). -/
def peekDesc (s : State) (slot : Nat) (g : Gang) (index : Nat) : Option Word :=
  match mapGet s.descs (descKey (cellOf slot) g.vf index), partOf s g.vf with
  | some w, _ => w[1]?
  | none, none => none
  | none, some (_, p) =>
    let va := tableEntry s g.vf index
    if va + 64 > 2 ^ 57 then none
    else match lookup s (cellOf slot) g.vf va .read with
      | .pa a => if paPoisoned s p a 64 then none else some (BitVec.ofNat 64 (bytesToNat (paRead s p (a + 8) 8)))
      | _ => none

/-- The origin registers that an operand names: RANK of them (R116, R179), or the first alone where the descriptor cannot be
fetched or RANK is no rank (log 45); a held instruction goes on under the descriptor that it read (R215). -/
def originRank (s : State) (slot : Nat) (g : Gang) (index : Nat) : Nat :=
  match g.operands with
  | some o => o.desc.rank
  | none =>
    let r := bits ((peekDesc s slot g index).getD 0).toNat 1 3
    if 1 ≤ r ∧ r ≤ 5 then r else 1

/-- The descriptor whose origin stands at A (R219, R221, R222, R230, R264, R285). -/
def originA (opc : Nat) (f : Fields) : Option Nat :=
  let fn := opc % 64
  let has := match opc / 64 with
    | 6 => decide (fn ≤ 4 ∨ 9 ≤ fn ∧ fn ≤ 0xB)
    | 7 => decide (fn ≤ 6 ∨ fn = 0x10)
    | 8 => fn == 0 || fn == 2 || fn == 3 || fn == 5
    | 9 => decide (fn ≤ 6 ∨ fn = 9)
    | 0xA => decide (fn ≤ 6)
    | _ => false
  if has then some (bits f.imm.toNat 21 10) else none

/-- The descriptor whose origin stands at B: the source of a copy (R285), and EMITH (R311). -/
def originB (opc : Nat) (f : Fields) : Option Nat :=
  if opc = 0x280 ∨ opc = 0x281 then some (bits f.imm.toNat 11 10)
  else if opc = 0x2C1 then some (bits f.imm.toNat 6 10)
  else none

/-- Where the fetch of a descriptor stands that the check of an origin's span needs (R111 step 5, R182): it is at hand or cannot be
fetched at all; it has failed, with the state that has heard so; or it waits on a translation. -/
inductive RankAt where
  | known
  | failed (s : State)
  | wait (s : State)
  deriving DecidableEq, Repr

/-- The fetch of one descriptor as the checks of an instruction need it (log 45). -/
def descRank (s : State) (slot : Nat) (g : Gang) (index : Nat) : RankAt :=
  let va := tableEntry s g.vf index
  if (mapGet s.descs (descKey (cellOf slot) g.vf index)).isSome ∨ (partOf s g.vf).isNone ∨ va + 64 > 2 ^ 57 then .known
  else match lookup s (cellOf slot) g.vf va .read with
    | .miss =>
      match missAccess s g.vf va (.descriptor slot) (cellOf slot) .read with
      | .fail _ => .failed (leavePage s g.vf va (.descriptor slot))
      | .wait s => .wait s
    | _ => .known

/-- The descriptors whose origins an instruction names. -/
def originDescs (opc : Nat) (f : Fields) : List Nat := [originA opc f, originB opc f].filterMap id

/-- The fetches that the checks of an instruction need, in turn. PREF waits for none (R230). -/
def rankAt (s : State) (slot : Nat) (g : Gang) (opc : Nat) (f : Fields) : RankAt :=
  if opc = 0x189 ∨ g.operands.isSome then .known
  else (originDescs opc f).foldl (fun r i => match r with
    | .known => descRank s slot g i
    | r => r) .known

/-- The state in which an instruction has heard that the fetch of its descriptor failed, without using it. -/
def RankAt.left (s : State) : RankAt → State
  | .failed t => t
  | _ => s

/-- The roles of an instruction's fields, with the spans of its origins (R96, R116). -/
def spanRoles (s : State) (g : Gang) (opc : Nat) (f : Fields) : Roles :=
  let r := rolesOf opc f
  let a := match originA opc f with
    | some i => .reg .s_ (originRank s s.cur g i) false
    | none => r.2.1
  let b := match originB opc f with
    | some i => if opc = 0x2C1 then .reg .lane (min (originRank s s.cur g i) 4) false else .reg .s_ (originRank s s.cur g i) false
    | none => r.2.2.1
  (r.1, a, b, r.2.2.2)

/-- A precise fault (R327, R328). -/
def precise (code : FaultCode) (tval : Word) : GFault := ⟨code, tval, 0, false, none, 0⟩

/-- BAD_REGISTER of an origin whose span leaves its file (R96, R111 step 5, R112). -/
def spanFault (r : Roles) (opc : Nat) (f : Fields) : Option GFault :=
  if (originA opc f).isSome ∧ (r.2.1.names f.a).isNone then some (precise .badRegister (badRegisterTval f.a f.len 1))
  else if (originB opc f).isSome ∧ (r.2.2.1.names f.b).isNone then some (precise .badRegister (badRegisterTval f.b f.len 2))
  else none

/-- What the bay checks of an instruction before its own faults: the spans of its origins, which take the rank of a descriptor
(R111 step 5), then HAZARD, in the order D, A, B, C and guard (R41, R111 step 6). -/
def hazard (s : State) (g : Gang) (opc : Nat) (f : Fields) : Option GFault :=
  match spanFault (spanRoles s g opc f) opc f with
  | some fl => some fl
  | none =>
    if g.pending.isEmpty then none
    else (hazardIn g (fieldNames (spanRoles s g opc f) f ++ [(4, guardNames opc f)])).map (precise .hazard)

/-- One instruction issues: every distance shrinks by one (R40, R41). -/
def agePending : List Pending → List Pending
  | [] => []
  | p :: r =>
    match p.kind with
    | .distance n => if n ≤ 1 then agePending r else { p with kind := .distance (n - 1) } :: agePending r
    | _ => p :: agePending r

/-- The entries of names that become readable at a distance (R40). -/
def pendAt (d : Nat) (ns : List Name) : List Pending :=
  if d = 0 then [] else ns.map fun n => ⟨n, .distance d⟩

/-- The names of the destination of an instruction. -/
def destNames (opc : Nat) (f : Fields) : List Name := ((rolesOf opc f).1.names f.d).getD []

/-- The destination of an instruction, pending for a distance. -/
def pendD (opc : Nat) (f : Fields) (d : Nat) : List Pending := pendAt d (destNames opc f)

/-- Trap entry retires pending results other than loads and asynchronous ones (R42, R328). -/
def retirePending (l : List Pending) : List Pending :=
  l.filter fun p => match p.kind with
    | .distance _ => false
    | _ => true

end Sys2Proof.Machine
end

