-- ==== Sys2Proof/Machine/Flags.lean ====
section
/-! DEFINITION. The sticky flags of FPSTAT (R36) and the counters of VSTAT (R37). -/

namespace Sys2Proof.Machine

/-- The conditions of FPSTAT [5:0]: NV 0, DZ 1, OF 2, UF 3, NX 4, SAT 5 (R36). -/
abbrev FlagSet := BitVec 6

/-- Invalid operation. -/
def flagNV : FlagSet := 1
/-- Division by zero. -/
def flagDZ : FlagSet := 2
/-- Overflow. -/
def flagOF : FlagSet := 4
/-- Underflow. -/
def flagUF : FlagSet := 8
/-- Inexact. -/
def flagNX : FlagSet := 16
/-- A narrowing saturated to the largest finite value. -/
def flagSAT : FlagSet := 32

/-- The flags raised by any of some threads (R36). -/
def flagsOf (raised : Nat → FlagSet) (ts : List Nat) : FlagSet := ts.foldl (fun a t => a ||| raised t) 0

/-- Flags are sticky for the gang (R36). -/
def raiseFlags (g : Gang) (fl : FlagSet) : Gang := { g with fpstat := g.fpstat ||| fl.zeroExtend 64 }

/-- Adds to ABANDONED and SKIPPED, which saturate, and to the sticky ORDER (R37). -/
def addVstat (v : Word) (abandoned skipped : Nat) (order : Bool) : Word :=
  let a := min (bits v.toNat 0 32 + abandoned) (2 ^ 32 - 1)
  let k := min (bits v.toNat 32 31 + skipped) (2 ^ 31 - 1)
  BitVec.ofNat 64 (a + k * 2 ^ 32 + (if order then 1 else bits v.toNat 63 1) * 2 ^ 63)

end Sys2Proof.Machine
end

