-- ==== Sys2Proof/Machine/Float.lean ====
section
/-! DEFINITION. Floating-point numbers: the IEEE and FP8 formats (R124 to R128), abandoned encodings (R144), exact values, and
rounding an exact value once (R101, R126). -/

namespace Sys2Proof.Machine

/-! ## Formats -/

/-- A format: its width, exponent and fraction bits and bias; `ocp` is the E4M3 variant without infinities (R124, R127). -/
structure Fmt where
  width : Nat
  ebits : Nat
  fbits : Nat
  bias : Nat
  ocp : Bool
  deriving DecidableEq, Repr

/-- binary64 (R124). -/
def fmtF64 : Fmt := ⟨64, 11, 52, 1023, false⟩
/-- binary32 (R124). -/
def fmtF32 : Fmt := ⟨32, 8, 23, 127, false⟩
/-- binary16 (R124). -/
def fmtF16 : Fmt := ⟨16, 5, 10, 15, false⟩
/-- BF16 (R124). -/
def fmtBf16 : Fmt := ⟨16, 8, 7, 127, false⟩
/-- E4M3 (R127). -/
def fmtE4m3 : Fmt := ⟨8, 4, 3, 7, true⟩
/-- E5M2 (R127). -/
def fmtE5m2 : Fmt := ⟨8, 5, 2, 15, false⟩

/-- The format of a floating-point type; that of its bounds for an interval type (R140). -/
def fmtOf : Ty → Fmt
  | .f64 | .iv64 => fmtF64
  | .f32 | .iv32 => fmtF32
  | .f16 => fmtF16
  | .bf16 => fmtBf16
  | .e4m3 => fmtE4m3
  | .e5m2 => fmtE5m2
  | _ => fmtF64

/-- The weight of the sign bit. -/
def Fmt.signBit (k : Fmt) : Nat := 2 ^ (k.width - 1)
/-- The pattern of +infinity (R124). -/
def Fmt.infMag (k : Fmt) : Nat := (2 ^ k.ebits - 1) * 2 ^ k.fbits
/-- The pattern of the largest finite value (R126, R127). -/
def Fmt.maxMag (k : Fmt) : Nat := if k.ocp then 2 ^ (k.width - 1) - 2 else k.infMag - 1
/-- The default NaN (R125, R127). -/
def Fmt.nan (k : Fmt) : Nat := if k.ocp then 2 ^ (k.width - 1) - 1 else k.infMag + 2 ^ (k.fbits - 1)
/-- The exponent of the smallest normal value. -/
def Fmt.emin (k : Fmt) : Int := 1 - (k.bias : Int)
/-- A pattern with a sign. -/
def Fmt.signed (k : Fmt) (neg : Bool) (mag : Nat) : Nat := if neg then mag + k.signBit else mag

/-- The sign bit of a pattern. -/
def Fmt.isNeg (k : Fmt) (x : Nat) : Bool := bits x (k.width - 1) 1 == 1
/-- A pattern without its sign bit. -/
def Fmt.mag (k : Fmt) (x : Nat) : Nat := x % k.signBit

/-- The value of a pattern: a NaN (signalling or quiet), an infinity, or (−1)^neg · m · 2^e. -/
inductive FVal where
  | nan (signalling : Bool)
  | inf (neg : Bool)
  | fin (neg : Bool) (m : Nat) (e : Int)
  deriving DecidableEq, Repr

/-- Reads a pattern (R124, R127). A format without a quiet bit has no signalling NaN. -/
def Fmt.value (k : Fmt) (x : Nat) : FVal :=
  let mag := k.mag x
  let ex := mag / 2 ^ k.fbits
  let fr := mag % 2 ^ k.fbits
  if mag > k.maxMag then
    if !k.ocp && mag == k.infMag then .inf (k.isNeg x) else .nan (!k.ocp && bits fr (k.fbits - 1) 1 == 0)
  else if ex = 0 then .fin (k.isNeg x) fr (k.emin - k.fbits)
  else .fin (k.isNeg x) (fr + 2 ^ k.fbits) ((ex : Int) - k.bias - k.fbits)

/-- Whether a value is a NaN. -/
def FVal.isNan : FVal → Bool
  | .nan _ => true
  | _ => false
/-- Whether a value is a signalling NaN. -/
def FVal.isSnan : FVal → Bool
  | .nan s => s
  | _ => false
/-- Whether a value is an infinity. -/
def FVal.isInf : FVal → Bool
  | .inf _ => true
  | _ => false
/-- Whether a value is a zero. -/
def FVal.isZero : FVal → Bool
  | .fin _ 0 _ => true
  | _ => false
/-- The sign of a value. -/
def FVal.isNeg : FVal → Bool
  | .inf n => n
  | .fin n _ _ => n
  | .nan _ => false

/-! ## Abandoned encodings (R144) -/

/-- The abandoned encoding of a format: verdict 1 is below, 2 is above (R144). -/
def Fmt.abandoned (k : Fmt) (verdict : Nat) : Nat := k.infMag + 2 ^ (k.fbits - 2) + verdict

/-- Whether a pattern is an abandoned encoding; FP8 has none (R144). -/
def Fmt.isAbandoned (k : Fmt) (x : Nat) : Bool :=
  k.width != 8 && (x % 2 ^ k.width == k.abandoned 1 || x % 2 ^ k.width == k.abandoned 2)

/-! ## Rounding -/

/-- The number of bits of a number: 0 for 0. -/
def natBits (m : Nat) : Nat := if m = 0 then 0 else m.log2 + 1

/-- Whether a discarded remainder of `sh` bits rounds the magnitude up (R126); `odd` is bit 0 of what is kept. -/
def roundsUp (mode : Rounding) (neg odd : Bool) (rem sh : Nat) : Bool :=
  match mode with
  | .rne => decide (2 * rem > 2 ^ sh) || (decide (2 * rem = 2 ^ sh) && odd)
  | .rz => false
  | .ru => !neg && rem != 0
  | .rd => neg && rem != 0
  | .ro => !odd && rem != 0

/-- m · 2^e as a multiple of 2^q, rounded, and whether it was inexact (R126). -/
def roundAt (mode : Rounding) (neg : Bool) (m : Nat) (e q : Int) : Nat × Bool :=
  if q ≤ e then (m * 2 ^ (e - q).toNat, false)
  else
    let sh := min (q - e).toNat (natBits m + 2)
    let n := m / 2 ^ sh
    let rem := m % 2 ^ sh
    (if roundsUp mode neg (n % 2 == 1) rem sh then n + 1 else n, rem != 0)

/-- The pattern of n · 2^q, which is a value of the format or lies beyond its largest one. -/
def Fmt.pack (k : Fmt) (n : Nat) (q : Int) : Nat :=
  let lift := max 0 ((k.fbits : Int) + 1 - natBits n)
  let down := min lift (max 0 (q - (k.emin - k.fbits)))
  let n' := n * 2 ^ down.toNat
  let ex := q - down + k.fbits + k.bias
  if n' < 2 ^ k.fbits then n' else ex.toNat * 2 ^ k.fbits + n' - 2 ^ k.fbits

/-- Whether a non-zero value is tiny after rounding to `p` bits with an unbounded exponent (R124). -/
def Fmt.tiny (k : Fmt) (p : Nat) (mode : Rounding) (neg : Bool) (m : Nat) (e : Int) : Bool :=
  let top := e + natBits m - 1
  let r := roundAt mode neg m e (top - (p - 1))
  decide (top < k.emin) && !(decide (top + 1 = k.emin) && natBits r.1 == p + 1)

/-- How a rounding ends: a magnitude of the format, with its flags, or an overflow beyond the largest finite value. -/
inductive Rounded where
  | mag (x : Nat) (fl : FlagSet)
  | over
  deriving DecidableEq, Repr

/-- Rounds a magnitude m · 2^e to a format with at most `p` significand bits (R126). -/
def Fmt.roundMag (k : Fmt) (p : Nat) (mode : Rounding) (neg : Bool) (m : Nat) (e : Int) : Rounded :=
  if m = 0 then .mag 0 0
  else
    let top := e + natBits m - 1
    if top > 2 ^ 17 then .over
    else
      let q := max (top - (p - 1)) (k.emin - k.fbits)
      let r := roundAt mode neg m e q
      let x := k.pack r.1 q
      if x > k.maxMag then .over
      else
        .mag x (if r.2 then flagNX ||| (if k.tiny p mode neg m e then flagUF else 0) else 0)

/-- Whether a mode sends an overflow to infinity (R126). -/
def overflowsToInf (mode : Rounding) (neg : Bool) : Bool :=
  match mode with
  | .rne => true
  | .rz | .ro => false
  | .ru => !neg
  | .rd => neg

/-- Rounds an exact value of a sign to an IEEE format with at most `p` significand bits (R124, R126). -/
def Fmt.roundTo (k : Fmt) (p : Nat) (mode : Rounding) (neg : Bool) (m : Nat) (e : Int) : Nat × FlagSet :=
  match k.roundMag p mode neg m e with
  | .mag x fl => (k.signed neg x, fl)
  | .over => (k.signed neg (if overflowsToInf mode neg then k.infMag else k.maxMag), flagOF ||| flagNX)

/-- Rounds an exact value to an IEEE format (R126). -/
def Fmt.round (k : Fmt) (mode : Rounding) (neg : Bool) (m : Nat) (e : Int) : Nat × FlagSet :=
  k.roundTo (k.fbits + 1) mode neg m e

/-- Rounds a finite value to FP8, with or without saturation (R128). -/
def Fmt.roundFp8 (k : Fmt) (sat : Bool) (mode : Rounding) (neg : Bool) (m : Nat) (e : Int) : Nat × FlagSet :=
  match k.roundMag (k.fbits + 1) mode neg m e with
  | .mag x fl => (k.signed neg x, fl)
  | .over =>
    if !overflowsToInf mode neg then (k.signed neg k.maxMag, flagNX)
    else if sat then (k.signed neg k.maxMag, flagSAT ||| flagOF ||| flagNX)
    else (k.signed neg (if k.ocp then k.nan else k.infMag), flagOF ||| flagNX)

/-- Rounds a non-negative m · 2^e to an integer in the direction of a mode (R131). -/
def roundInt (mode : Rounding) (m : Nat) (e : Int) : Nat × Bool := roundAt mode false m e 0

/-! ## Exact arithmetic on extended reals -/

/-- A finite value as a signed integer at an exponent not above its own. -/
def signedAt (neg : Bool) (m : Nat) (e q : Int) : Int :=
  let x : Int := m * 2 ^ (e - q).toNat
  if neg then -x else x

/-- a < b on values that are not NaN (R243). -/
def FVal.lt : FVal → FVal → Bool
  | .inf na, .inf nb => na && !nb
  | .inf na, .fin _ _ _ => na
  | .fin _ _ _, .inf nb => !nb
  | .fin na ma ea, .fin nb mb eb => decide (signedAt na ma ea (min ea eb) < signedAt nb mb eb (min ea eb))
  | _, _ => false

/-- a ≤ b on values that are not NaN (R243). -/
def FVal.le (a b : FVal) : Bool := !(FVal.lt b a)
/-- a = b on values that are not NaN (R243). -/
def FVal.eq (a b : FVal) : Bool := FVal.le a b && FVal.le b a
/-- The lesser of two values that are not NaN. -/
def FVal.min (a b : FVal) : FVal := if FVal.lt b a then b else a
/-- The greater of two values that are not NaN. -/
def FVal.max (a b : FVal) : FVal := if FVal.lt a b then b else a
/-- The value with its sign inverted. -/
def FVal.neg : FVal → FVal
  | .nan s => .nan s
  | .inf n => .inf !n
  | .fin n m e => .fin (!n) m e

/-- The exact product of values that are not NaN, 0 · ∞ aside. -/
def FVal.mul : FVal → FVal → FVal
  | .fin na ma ea, .fin nb mb eb => .fin (na != nb) (ma * mb) (ea + eb)
  | a, b => .inf (a.isNeg != b.isNeg)

/-- The exact sum of values that are not NaN, infinities of opposite sign aside; a zero sum of opposite signs is `zneg`
(R126). -/
def FVal.add (zneg : Bool) : FVal → FVal → FVal
  | .inf n, _ => .inf n
  | _, .inf n => .inf n
  | .fin na ma ea, .fin nb mb eb =>
    let q := Min.min ea eb
    let x := signedAt na ma ea q + signedAt nb mb eb q
    if x = 0 then .fin (if na = nb then na else zneg) 0 q else .fin (decide (x < 0)) x.natAbs q
  | a, _ => a

/-- Rounds an exact extended real to an IEEE format; an infinity is exact (R126). -/
def Fmt.roundVal (k : Fmt) (mode : Rounding) : FVal → Nat × FlagSet
  | .inf n => (k.signed n k.infMag, 0)
  | .fin n m e => k.round mode n m e
  | .nan _ => (k.nan, 0)

/-- A magnitude (ma · 2^ea) / (mb · 2^eb) with its inexactness kept as a low bit, beyond every format's precision. -/
def quotient (ma : Nat) (ea : Int) (mb : Nat) (eb : Int) : Nat × Int :=
  let k := 70 + natBits mb
  let n := ma * 2 ^ k
  (2 * (n / mb) + (if n % mb = 0 then 0 else 1), ea - eb - k - 1)

/-- The integer square root of `n` below 2^k. -/
def isqrtFrom (n : Nat) : Nat → Nat → Nat
  | 0, r => r
  | k + 1, r => if (r + 2 ^ k) * (r + 2 ^ k) ≤ n then isqrtFrom n k (r + 2 ^ k) else isqrtFrom n k r

/-- The square root of m · 2^e with its inexactness kept as a low bit. -/
def squareRoot (m : Nat) (e : Int) : Nat × Int :=
  let odd := (e % 2).toNat
  let n := m * 2 ^ odd * 4 ^ 70
  let r := isqrtFrom n (natBits n) 0
  (2 * r + (if r * r = n then 0 else 1), (e - odd) / 2 - 71)

/-! ## Exponentials and logarithms

Fixed-point values of 320 fraction bits: an irrational result is known to well beyond the distance at which any rounding of
the four formats could turn (log 13). -/

/-- The fraction bits of a fixed-point value. -/
def fixBits : Nat := 320
/-- One. -/
def fixOne : Nat := 2 ^ fixBits

/-- The sum of u^(2i+1) / (2i+1) for `n` terms from `i`, where `p` is u^(2i+1) and `uu` is u·u. -/
def atanhSum (uu : Nat) : Nat → Nat → Nat → Nat
  | 0, _, _ => 0
  | n + 1, i, p => p / (2 * i + 1) + atanhSum uu n (i + 1) (p * uu / fixOne)

/-- ln t for t in [1, 2], by the series of the area tangent. -/
def fixLn (t : Nat) : Nat :=
  let u := (t - fixOne) * fixOne / (t + fixOne)
  2 * atanhSum (u * u / fixOne) 110 0 u

/-- ln 2. -/
def fixLn2 : Nat := fixLn (2 * fixOne)

/-- The sum of y^i / i! for `n` terms from `i`, where `p` is y^i / i!. -/
def expSum (y : Nat) : Nat → Nat → Nat → Nat
  | 0, _, _ => 0
  | n + 1, i, p => p + expSum y n (i + 1) (p * y / (fixOne * (i + 1)))

/-- 2^f for f in [0, 1). -/
def fixExp2 (f : Nat) : Nat := expSum (f * fixLn2 / fixOne) 80 0 fixOne

/-- An exact value of a sign, for a rounding. -/
abbrev Exact := Bool × Nat × Int

/-- 2^a for a finite a (R240, R245): exact for an integer a; beside 1 for a tiny a; otherwise the fixed-point value, marked
inexact. -/
def exp2Val (neg : Bool) (m : Nat) (e : Int) : Exact :=
  if m = 0 then (false, 1, 0)
  else
    let top := e + natBits m - 1
    if top ≥ 16 then (false, 1, if neg then -(2 ^ 16) else 2 ^ 16)
    else if top < -100 then (false, if neg then 2 ^ 200 - 1 else 2 ^ 200 + 1, -200)
    else
      let x := signedAt neg m (e + fixBits) 0
      let n := x.fdiv (fixOne : Int)
      let f := (x - n * fixOne).toNat
      if f = 0 then (false, 1, n) else (false, 2 * fixExp2 f + 1, n - fixBits - 1)

/-- log2 of a positive finite a (R240, R245): exact for a power of two; otherwise the fixed-point value, marked inexact. -/
def log2Val (m : Nat) (e : Int) : Exact :=
  let top := e + natBits m - 1
  if m = 2 ^ m.log2 then (decide (top < 0), top.natAbs, 0)
  else
    let t := m * 2 ^ fixBits / 2 ^ m.log2
    let y : Int := (fixLn t * fixOne / fixLn2 : Nat)
    let x := 2 * (top * fixOne + y) + 1
    (decide (x < 0), x.natAbs, -(fixBits : Int) - 1)

end Sys2Proof.Machine
end

