-- ==== Sys2Proof/Machine/Ops.lean ====
section
/-! DEFINITION. Named operations every meaning is built from: how an instruction ends (R40, R323), taking an exception
(R328, R329) and returning from one (R330), the end of threads, paths and gangs (R46, R171 to R173), and the two issue forms,
uniform and lane (R30, R43, R111). -/

namespace Sys2Proof.Machine

/-! ## Faults -/

/-- A precise fault with the detail its log entry carries (R375). -/
def preciseDetail (code : FaultCode) (tval : Word) (detail : Nat) : GFault := ⟨code, tval, 0, false, none, detail⟩

/-- ACTIVE of TCAUSE (R327). -/
def inHandler (g : Gang) : Bool := g.tcause.getLsbD 63

/-- The TRAP offset of a gang's node (R64); all ones for none. -/
def trapOffset (s : State) (g : Gang) : Nat := ((nodeOf s g).map (·.trap)).getD 0xFFFFFFFF

/-- Whether a fault escalates (R329). -/
def escalates (s : State) (g : Gang) (f : GFault) : Bool :=
  f.escalates || inHandler g || f.code == .markOverdue || trapOffset s g == 0xFFFFFFFF

/-- TCAUSE at entry (R327). -/
def tcauseOf (len : Nat) (f : GFault) : Word :=
  BitVec.ofNat 64 (2 ^ 63 + len * 2 ^ 12 + f.kind.toNat * 2 ^ 8 + f.code.code.toNat)

/-- TMASK at entry: PM and EM (R327). -/
def tmaskOf (g : Gang) : Word := BitVec.ofNat 64 (g.em.toNat + g.pm.toNat * 2 ^ 32)

/-- The gang as trap entry leaves it (R328): pending results retired, trap registers set, PC at the node's trap entry; EM, PM,
the stack and the completion mask are kept. An instruction that had issued counts since the last mark (R323; log 61). -/
def enterTrap (s : State) (g : Gang) (len : Nat) (f : GFault) : Gang :=
  { g with
    pending := retirePending g.pending
    tcause := tcauseOf len f
    tpc := BitVec.ofNat 64 g.pc
    tpcEntry := BitVec.ofNat 64 g.pc
    tval := f.tval
    tmask := tmaskOf g
    gbarIn := false
    trapGbar := g.gbarIn
    trapDone := g.done
    trapPoison := g.poisoned
    done := 0
    failed := []
    poisoned := 0
    markCount := if g.charged then g.markCount + 1 else g.markCount
    ready := s.acycle + 1
    hold := none
    charged := false
    operands := none
    emit := none
    skipWatch := false
    pc := (codeBaseOf s g + trapOffset s g) % 2 ^ 57 }

/-- The grade of the fault being handled, where a handler runs (R329, R374). -/
def handledGrade (s : State) (g : Gang) : Nat :=
  if inHandler g then
    match launchOf s g with
    | none => 0
    | some l => grade l (g.tcause.truncate 8) 0
  else 0

/-- A gang waits no longer for room or for a ring slot (R81, R302). -/
def leaveQueues (s : State) (slot : Nat) : State :=
  { s with blocked := s.blocked.filter fun b => b.1 != slot
           rings := mapAll (fun _ r => { r with waiters := r.waiters.filter fun k => k != slot }) s.rings }

/-- Takes a gang's fault (R328, R329): an uncontained one resets the partition (R377), an escalating one aborts the launch
(R62), any other enters the trap entry. `len` is LEN of the instruction at PC. -/
def takeFault (s : State) (slot : Nat) (g : Gang) (len : Nat) (f : GFault) : State :=
  if f.code.uncontained then
    partitionReset s (partNo s g.vf) f.code.code f.detail
      (some ⟨launchKey g.vf g.lslot, nodeOfWg s g.wg, slot, f.logAddr.getD g.pc, f.tval⟩)
  else if escalates s g f then
    abortLaunch s g.vf g.lslot (nodeOfWg s g.wg) slot g.pc f (handledGrade s g)
  else setGang (leaveQueues s slot) slot (enterTrap s g len f)

/-- The gang as TRET leaves it (R330). -/
def leaveTrap (g : Gang) : Gang :=
  let same := g.tpc == g.tpcEntry
  { g with
    tcause := g.tcause &&& 0x7FFFFFFFFFFFFFFF
    em := g.tmask.truncate 32 &&& g.pm
    pc := (g.tpc.toNat % 2 ^ 57) / 4 * 4
    done := if same then g.trapDone else 0
    poisoned := if same then g.trapPoison else 0
    trapDone := 0
    trapPoison := 0
    gbarIn := same && g.trapGbar
    trapGbar := false
    skipWatch := same && (g.tcause.truncate 8 == FaultCode.watch.code)
    failed := []
    hold := none
    charged := false
    operands := none
    emit := none }

/-! ## How an instruction ends -/

/-- The end of an instruction's own effect. -/
inductive Res where
  /-- It has its effect, names become pending, and the gang goes on with the next instruction. -/
  | done (s : State) (ps : List Pending)
  /-- As `done`, with the PC the effect gives. -/
  | jump (s : State) (ps : List Pending) (pc : Nat)
  /-- A mark: as `done`, and the count of R323 starts at zero. -/
  | mark (s : State)
  /-- It holds the gang (R31) and is tried again. -/
  | hold (s : State) (why : Hold)
  /-- It faults. -/
  | trap (s : State) (f : GFault)
  deriving DecidableEq, Repr

/-- An issued instruction leaves the gang: distances shrink, new names become pending, the count of R323 grows, the PC moves
(R40, R41, R323). -/
def retireGang (g : Gang) (pc : Nat) (ps : List Pending) : Gang :=
  { g with
    pc := pc
    pending := agePending g.pending ++ ps
    markCount := g.markCount + 1
    hold := none
    charged := false
    operands := none
    emit := none
    done := 0
    failed := []
    poisoned := 0
    skipWatch := false }

/-- A gang after an issued instruction: ready for the next one from the next arithmetic cycle (R31). -/
def retireAt (s : State) (g : Gang) (pc : Nat) (ps : List Pending) : Gang := { retireGang g pc ps with ready := s.acycle + 1 }

/-- Retires the instruction of the gang in a slot. -/
def retire (s : State) (slot : Nat) (pc : Nat) (ps : List Pending) : State :=
  match mapGet s.gangs slot with
  | none => s
  | some g => setGang s slot (retireAt s g pc ps)

/-- The address after an instruction (R89). -/
def nextPc (g : Gang) (len : Form) : Nat := (g.pc + formBytes len) % 2 ^ 57

/-- Holds the gang in a slot (R31). -/
def holdGang (s : State) (slot : Nat) (why : Hold) : State :=
  { s with gangs := mapUpdate s.gangs slot fun g => { g with hold := some why } }

/-- The gang in a slot starts a new span after a mark (R321). -/
def zeroCount (s : State) (slot : Nat) : State :=
  { s with gangs := mapUpdate s.gangs slot fun g => { g with markCount := 0 } }

/-- Ends an instruction of the gang in a slot. -/
def finish (slot : Nat) (g : Gang) (len : Form) : Res → Host.Outcome State Fault Refusal
  | .done s ps => .next (retire s slot (nextPc g len) ps)
  | .jump s ps pc => .next (retire s slot (pc % 2 ^ 57) ps)
  | .mark s => .next (zeroCount (retire s slot (nextPc g len) []) slot)
  | .hold s why => .next (holdGang s slot why)
  | .trap s f =>
    match mapGet s.gangs slot with
    | none => .next s
    | some g' => .next (takeFault s slot g' (formNum len) f)

/-! ## Paths, threads and gangs that end -/

/-- The descriptor copies, matrix names and outstanding loads of a gang that ends (R173). -/
def releaseNames (s : State) (slot : Nat) : State :=
  let unbind := fun (t : Tile) => if t.owner = some slot then { t with owner := none } else t
  { s with matrix := mapUpdate s.matrix (bayOf slot) fun m => sweepTiles ({ m with tiles := mapAll (fun _ t => unbind t) m.tiles }) }

/-- A gang ends: it issues nothing further, its names are released and its outstanding loads are discarded; atomics complete
(R173). -/
def endGang (s : State) (slot : Nat) (g : Gang) : State :=
  setGang (releaseNames s slot) slot
    { g with ended := true, em := 0, pm := 0, stack := [], accs := [], loads := g.loads.filter (·.atomic), pending := [], hold := none, failed := [] }

/-- Writes the report condition of an RCV, where it names one (R170). -/
def writeReport (g : Gang) (report : Option Nat) (v : Bool) : Gang :=
  match report with
  | none => g
  | some c => putCond g c v

/-- The path that runs has ended: the gang goes on with the top entry as though it had arrived there; with an empty stack the
gang ends (R46). A report that this makes is readable at once, since no instruction's result is it (DESIGN CHOICE: R176 gives EXIT no
distance and an arrival one of 1; log 61). Answers the gang and whether it has ended. -/
def endPath (g : Gang) : List StackEntry → Gang × Bool
  | [] => ({ g with em := 0, pm := 0, stack := [] }, true)
  | e :: rest =>
    if e.pendPm = 0 then
      if e.arrPm = 0 then endPath g rest
      else (writeReport { g with em := e.arrEm, pm := e.arrPm, pc := e.resume, stack := rest } e.report false, false)
    else ({ g with em := e.pendEm, pm := e.pendPm, pc := e.pendPc,
                   stack := { e with pendPm := 0, pendEm := 0 } :: rest }, false)

/-- Clears threads from every entry of the stack (R26). -/
def clearThreads (m : Mask) (l : List StackEntry) : List StackEntry :=
  l.map fun e => { e with pendPm := e.pendPm &&& ~~~m, pendEm := e.pendEm &&& ~~~m, arrPm := e.arrPm &&& ~~~m,
                          arrEm := e.arrEm &&& ~~~m }

/-- Whether the count of the top entry has expired while the other path has not arrived, and the running path stands at an
instruction boundary without being held (R47); an arrival in the same cycle wins (R48). -/
def timeoutDue (s : State) (g : Gang) : Bool :=
  match g.stack with
  | [] => false
  | e :: _ =>
    match e.parkedAt with
    | none => false
    | some c => e.timeout != 0 && e.arrPm != 0 && e.pendPm == 0 && g.hold.isNone
        && decide (c + e.timeout ≤ s.acycle) && !(g.pc == e.rcv && s.acycle == c + e.timeout)

/-! ## Issue -/

/-- The checks of R111 that need the state, then the rest of an instruction: it waits for the descriptors of its origins. -/
def checked (s : State) (g : Gang) (opc : Nat) (f : Fields) (rest : State → Res) : Res :=
  match rankAt s s.cur g opc f with
  | .wait s => .hold s .miss
  | r => match hazard s g opc f with
    | some fl => .trap (r.left s) fl
    | none => rest (r.left s)

/-- Issues a uniform instruction: the checks of R111 that need the state, then its body once for the gang where its guard passes
(R30, R43, R111). -/
def issueUniform (opc : Nat) (f : Fields) (s : State) (body : Gang → Res) : Host.Outcome State Fault Refusal :=
  match mapGet s.gangs s.cur with
  | none => .fault .noGang
  | some g => finish s.cur g f.len (checked s g opc f fun t => if condPasses g f.grd then body g else .done t [])

/-- Issues a lane instruction: the checks of R111 that need the state, then its body for the participating threads; with none it has
no effect but its issue (R28, R43, R111, R213). -/
def issueLane (opc : Nat) (f : Fields) (s : State) (body : Gang → List Nat → Res) : Host.Outcome State Fault Refusal :=
  match mapGet s.gangs s.cur with
  | none => .fault .noGang
  | some g =>
    finish s.cur g f.len (checked s g opc f fun t => match threadsOf (participants g f.grd) with
      | [] => .done t []
      | ts => body g ts)

/-- A result in one register of each participating thread, readable at a distance (R30, R33, R40). -/
def laneResult (opc : Nat) (f : Fields) (s : State) (d : Nat) (g : Gang) (ts : List Nat) (val : Nat → Word) : Res :=
  .done (setGang s s.cur (putLanes g f.d val ts)) (pendD opc f d)

/-- A result in one predicate of each participating thread (R34, R40). -/
def predResult (opc : Nat) (f : Fields) (s : State) (d : Nat) (g : Gang) (ts : List Nat) (val : Nat → BitVec 2) : Res :=
  .done (setGang s s.cur (putPreds g f.d val ts)) (pendD opc f d)

/-- A result in one s or b register (R30, R40). -/
def uniformResult (opc : Nat) (f : Fields) (s : State) (d : Nat) (g : Gang) (v : Word) : Res :=
  .done (setGang (putUniform s s.cur g f.d v).1 s.cur (putUniform s s.cur g f.d v).2) (pendD opc f d)

/-- A result in one condition (R34, R40). -/
def condResult (opc : Nat) (f : Fields) (s : State) (d : Nat) (g : Gang) (v : Bool) : Res :=
  .done (setGang s s.cur (putCond g (bits f.d.toNat 0 3) v)) (pendD opc f d)

/-- Changes of a gang alone, without a pending result. -/
def gangResult (s : State) (g : Gang) : Res := .done (setGang s s.cur g) []

end Sys2Proof.Machine
end

