-- ==== Sys2Proof/Machine/Integer.lean ====
section
/-! DEFINITION. Classes 0x0 and 0x1: uniform and lane integer instructions, and SFROM (R152 to R160, R176). -/

namespace Sys2Proof.Machine

/-! ## Values (R154 to R158) -/

/-- a + b. -/
def addVal (ty : Ty) (a b : Word) : Word := narrow ty.width (intValue ty a + intValue ty b)
/-- a − b. -/
def subVal (ty : Ty) (a b : Word) : Word := narrow ty.width (intValue ty a - intValue ty b)
/-- a · b. -/
def mulVal (ty : Ty) (a b : Word) : Word := narrow ty.width (intValue ty a * intValue ty b)
/-- Floor(a · b / 2^w). -/
def mulhVal (ty : Ty) (a b : Word) : Word := narrow ty.width ((intValue ty a * intValue ty b).fdiv (2 ^ ty.width))
/-- Trunc(a / b). -/
def divVal (ty : Ty) (a b : Word) : Word := narrow ty.width ((intValue ty a).tdiv (intValue ty b))
/-- a − b · Trunc(a / b). -/
def remVal (ty : Ty) (a b : Word) : Word :=
  narrow ty.width (intValue ty a - intValue ty b * (intValue ty a).tdiv (intValue ty b))
/-- Bitwise a AND b. -/
def andVal (ty : Ty) (a b : Word) : Word := BitVec.ofNat 64 (lowNat ty.width (a &&& b))
/-- Bitwise a OR b. -/
def orVal (ty : Ty) (a b : Word) : Word := BitVec.ofNat 64 (lowNat ty.width (a ||| b))
/-- Bitwise a XOR b. -/
def xorVal (ty : Ty) (a b : Word) : Word := BitVec.ofNat 64 (lowNat ty.width (a ^^^ b))
/-- Bitwise NOT a. -/
def notVal (ty : Ty) (a : Word) : Word := BitVec.ofNat 64 (lowNat ty.width (~~~a))
/-- a. -/
def movVal (ty : Ty) (a : Word) : Word := BitVec.ofNat 64 (lowNat ty.width a)
/-- Min(a, b). -/
def minVal (ty : Ty) (a b : Word) : Word := narrow ty.width (min (intValue ty a) (intValue ty b))
/-- Max(a, b). -/
def maxVal (ty : Ty) (a b : Word) : Word := narrow ty.width (max (intValue ty a) (intValue ty b))
/-- abs(a). -/
def absVal (ty : Ty) (a : Word) : Word := narrow ty.width ((intValue ty a).natAbs)
/-- −a. -/
def negVal (ty : Ty) (a : Word) : Word := narrow ty.width (-(intValue ty a))
/-- a · b + c. -/
def madVal (ty : Ty) (a b c : Word) : Word := narrow ty.width (intValue ty a * intValue ty b + intValue ty c)

/-- The amount of a shift or rotate: bits [7:0] of b (R155). -/
def amount (b : Word) : Nat := b.toNat % 256
/-- Shift(SHL) of R155. -/
def shlVal (ty : Ty) (a b : Word) : Word :=
  if amount b < ty.width then BitVec.ofNat 64 (lowNat ty.width a * 2 ^ amount b % 2 ^ ty.width) else 0
/-- Shift(SHR) of R155. -/
def shrVal (ty : Ty) (a b : Word) : Word :=
  if amount b < ty.width then BitVec.ofNat 64 (lowNat ty.width a / 2 ^ amount b) else 0
/-- Shift(SAR) of R155: the top n bits become the sign bit; with n ≥ w every bit does. -/
def sarVal (ty : Ty) (a b : Word) : Word :=
  let w := ty.width
  let x := lowNat w a
  let n := min (amount b) w
  let sign := x / 2 ^ (w - 1)
  BitVec.ofNat 64 (x / 2 ^ n + sign * (2 ^ w - 2 ^ (w - n)))
/-- Shift(ROT) of R155. -/
def rotVal (ty : Ty) (a b : Word) : Word :=
  let w := ty.width
  let x := lowNat w a
  let k := amount b % w
  BitVec.ofNat 64 ((x * 2 ^ k + x / 2 ^ (w - k)) % 2 ^ w)

/-- The number of bits of a number: 0 for 0. -/
def bitLength (x : Nat) : Nat := if x = 0 then 0 else x.log2 + 1
/-- Leading zero bits of a[w−1:0]; w for 0 (R154). -/
def clzVal (ty : Ty) (a : Word) : Word := BitVec.ofNat 64 (ty.width - bitLength (lowNat ty.width a))
/-- The number of one bits among the lowest `n`. -/
def onesIn (x : Nat) : Nat → Nat
  | 0 => 0
  | n + 1 => onesIn x n + bits x n 1
/-- One bits of a[w−1:0] (R154). -/
def popcVal (ty : Ty) (a : Word) : Word := BitVec.ofNat 64 (onesIn a.toNat ty.width)

/-- The position p of a bit-field instruction (R156). -/
def fieldPos (f : Fields) : Nat := bits f.imm.toNat 0 6
/-- The length l of a bit-field instruction (R156). -/
def fieldLen (f : Fields) : Nat := bits f.imm.toNat 6 7
/-- BitExtract (R156). -/
def bfxVal (ty : Ty) (p l : Nat) (a : Word) : Word :=
  let w := ty.width
  if p ≥ w then 0
  else
    let l' := min l (w - p)
    let x := bits a.toNat p l'
    if ty.isSigned ∧ bits x (l' - 1) 1 = 1 then narrow w ((x : Int) - 2 ^ l') else narrow w x
/-- BitInsert (R156): bits p to p + l − 1 below w come from a, the others from the base. -/
def bfiVal (ty : Ty) (p l : Nat) (a base : Word) : Word :=
  let w := ty.width
  let n := min l (w - p)
  let b := lowNat w base
  if p ≥ w then BitVec.ofNat 64 b
  else BitVec.ofNat 64 (b - bits b p n * 2 ^ p + a.toNat % 2 ^ n * 2 ^ p)

/-- The condition codes of family CC on integers (R102, R157). -/
def compareInt (cc : Nat) (a b : Int) : Bool :=
  match cc with
  | 0 => a == b
  | 1 => a != b
  | 2 => decide (a < b)
  | 3 => decide (a ≤ b)
  | 4 => decide (a > b)
  | _ => decide (a ≥ b)

/-- The condition code of an instruction (R102). -/
def condCode (f : Fields) : Nat := bits f.imm.toNat 0 4

/-- The distance of MUL, MULH and IMAD (R176). -/
def mulDistance (ty : Ty) : Nat := if ty.width = 64 then 5 else 3
/-- The distance of DIV and REM (R176). -/
def divDistance (ty : Ty) : Nat := if ty.width = 64 then 18 else 10

/-! ## Shared forms -/

/-- A uniform instruction of one source. -/
def uniUnary (opc : Nat) (f : Fields) (s : State) (val : Word → Word) : Host.Outcome State Fault Refusal :=
  issueUniform opc f s fun g => uniformResult opc f s 1 g (val (readReg s s.cur g 0 f.a))

/-- A uniform instruction of two sources, the second a register or a constant. -/
def uniBinary (opc : Nat) (f : Fields) (s : State) (d : Nat) (val : Word → Word → Word) :
    Host.Outcome State Fault Refusal :=
  issueUniform opc f s fun g => uniformResult opc f s d g (val (readReg s s.cur g 0 f.a) (readB s s.cur g 0 f))

/-- A uniform divide: INT_DIVIDE where b is 0 (R158). -/
def uniDivide (opc : Nat) (f : Fields) (s : State) (val : Word → Word → Word) : Host.Outcome State Fault Refusal :=
  issueUniform opc f s fun g =>
    if intValue (tyOf f) (readB s s.cur g 0 f) = 0 then .trap s (precise .intDivide 1)
    else uniformResult opc f s (divDistance (tyOf f)) g (val (readReg s s.cur g 0 f.a) (readB s s.cur g 0 f))

/-- A lane instruction of one source. -/
def laneUnary (opc : Nat) (f : Fields) (s : State) (val : Word → Word) : Host.Outcome State Fault Refusal :=
  issueLane opc f s fun g ts => laneResult opc f s 1 g ts fun t => val (readReg s s.cur g t f.a)

/-- A lane instruction of two sources, the second a register or a constant. -/
def laneBinary (opc : Nat) (f : Fields) (s : State) (d : Nat) (val : Word → Word → Word) :
    Host.Outcome State Fault Refusal :=
  issueLane opc f s fun g ts =>
    laneResult opc f s d g ts fun t => val (readReg s s.cur g t f.a) (readB s s.cur g t f)

/-- A lane divide: INT_DIVIDE with the mask of executing threads whose b is 0, and no thread written (R158). -/
def laneDivide (opc : Nat) (f : Fields) (s : State) (val : Word → Word → Word) : Host.Outcome State Fault Refusal :=
  issueLane opc f s fun g ts =>
    let bad := maskOf ts fun t => intValue (tyOf f) (readB s s.cur g t f) == 0
    if bad = 0 then
      laneResult opc f s (divDistance (tyOf f)) g ts fun t => val (readReg s s.cur g t f.a) (readB s s.cur g t f)
    else .trap s (precise .intDivide (bad.zeroExtend 64))

/-- A lane move of a constant of family K (R154). -/
def laneConst (opc : Nat) (f : Fields) (s : State) : Host.Outcome State Fault Refusal :=
  issueLane opc f s fun g ts => laneResult opc f s 1 g ts fun _ => movVal (tyOf f) (constK f)

/-! ## Class 0x0 -/

/-- SMOV (R154). Uniform move of a into an s or b register. -/
def execSmov (f : Fields) (s : State) : Host.Outcome State Fault Refusal := uniUnary 0x000 f s (movVal (tyOf f))

/-- SMOVI (R154). Uniform move of a sign-extended family-K constant. -/
def execSmovi (f : Fields) (s : State) : Host.Outcome State Fault Refusal :=
  issueUniform 0x001 f s fun g => uniformResult 0x001 f s 1 g (movVal (tyOf f) (constK f))

/-- SADD (R154). Uniform integer addition a + b, truncated to w bits. -/
def execSadd (f : Fields) (s : State) : Host.Outcome State Fault Refusal := uniBinary 0x002 f s 1 (addVal (tyOf f))

/-- SSUB (R154). Uniform integer subtraction a - b. -/
def execSsub (f : Fields) (s : State) : Host.Outcome State Fault Refusal := uniBinary 0x003 f s 1 (subVal (tyOf f))

/-- SMUL (R154). Uniform integer multiplication, low w bits. -/
def execSmul (f : Fields) (s : State) : Host.Outcome State Fault Refusal :=
  uniBinary 0x004 f s (mulDistance (tyOf f)) (mulVal (tyOf f))

/-- SMULH (R154). Uniform integer multiplication, high w bits. -/
def execSmulh (f : Fields) (s : State) : Host.Outcome State Fault Refusal :=
  uniBinary 0x005 f s (mulDistance (tyOf f)) (mulhVal (tyOf f))

/-- SDIV (R158). Uniform integer division rounded toward zero; faults with INT_DIVIDE on b = 0. -/
def execSdiv (f : Fields) (s : State) : Host.Outcome State Fault Refusal := uniDivide 0x006 f s (divVal (tyOf f))

/-- SREM (R158). Uniform integer remainder; faults with INT_DIVIDE on b = 0. -/
def execSrem (f : Fields) (s : State) : Host.Outcome State Fault Refusal := uniDivide 0x007 f s (remVal (tyOf f))

/-- SAND (R154). Uniform bitwise AND. -/
def execSand (f : Fields) (s : State) : Host.Outcome State Fault Refusal := uniBinary 0x008 f s 1 (andVal (tyOf f))

/-- SOR (R154). Uniform bitwise OR. -/
def execSor (f : Fields) (s : State) : Host.Outcome State Fault Refusal := uniBinary 0x009 f s 1 (orVal (tyOf f))

/-- SXOR (R154). Uniform bitwise XOR. -/
def execSxor (f : Fields) (s : State) : Host.Outcome State Fault Refusal := uniBinary 0x00A f s 1 (xorVal (tyOf f))

/-- SNOT (R154). Uniform bitwise NOT. -/
def execSnot (f : Fields) (s : State) : Host.Outcome State Fault Refusal := uniUnary 0x00B f s (notVal (tyOf f))

/-- SSHL (R155). Uniform logical shift left by b[7:0]. -/
def execSshl (f : Fields) (s : State) : Host.Outcome State Fault Refusal := uniBinary 0x00C f s 1 (shlVal (tyOf f))

/-- SSHR (R155). Uniform logical shift right by b[7:0]. -/
def execSshr (f : Fields) (s : State) : Host.Outcome State Fault Refusal := uniBinary 0x00D f s 1 (shrVal (tyOf f))

/-- SSAR (R155). Uniform arithmetic shift right by b[7:0]. -/
def execSsar (f : Fields) (s : State) : Host.Outcome State Fault Refusal := uniBinary 0x00E f s 1 (sarVal (tyOf f))

/-- SMIN (R154). Uniform minimum of a and b. -/
def execSmin (f : Fields) (s : State) : Host.Outcome State Fault Refusal := uniBinary 0x00F f s 1 (minVal (tyOf f))

/-- SMAX (R154). Uniform maximum of a and b. -/
def execSmax (f : Fields) (s : State) : Host.Outcome State Fault Refusal := uniBinary 0x010 f s 1 (maxVal (tyOf f))

/-- SCMP (R157). Uniform comparison that writes a condition under the CC code. -/
def execScmp (f : Fields) (s : State) : Host.Outcome State Fault Refusal :=
  issueUniform 0x011 f s fun g => condResult 0x011 f s 1 g
    (compareInt (condCode f) (intValue (tyOf f) (readReg s s.cur g 0 f.a)) (intValue (tyOf f) (readReg s s.cur g 0 f.b)))

/-- SSEL (R157). Uniform select of a or b by a condition or predicate in C. -/
def execSsel (f : Fields) (s : State) : Host.Outcome State Fault Refusal :=
  issueUniform 0x012 f s fun g => uniformResult 0x012 f s 1 g
    (movVal (tyOf f) (readReg s s.cur g 0 (if readPred g 0 f.c = triT then f.a else f.b)))

/-- SCLZ (R154). Uniform count of leading zeros. -/
def execSclz (f : Fields) (s : State) : Host.Outcome State Fault Refusal := uniUnary 0x013 f s (clzVal (tyOf f))

/-- SPOPC (R154). Uniform population count. -/
def execSpopc (f : Fields) (s : State) : Host.Outcome State Fault Refusal := uniUnary 0x014 f s (popcVal (tyOf f))

/-- SBFX (R156). Uniform bit-field extract. -/
def execSbfx (f : Fields) (s : State) : Host.Outcome State Fault Refusal :=
  uniUnary 0x015 f s (bfxVal (tyOf f) (fieldPos f) (fieldLen f))

/-- SBFI (R156). Uniform bit-field insert. -/
def execSbfi (f : Fields) (s : State) : Host.Outcome State Fault Refusal :=
  issueUniform 0x016 f s fun g => uniformResult 0x016 f s 1 g
    (bfiVal (tyOf f) (fieldPos f) (fieldLen f) (readReg s s.cur g 0 f.a) (readReg s s.cur g 0 f.b))

/-! ## Class 0x1 -/

/-- IMOV (R154). Lane move. -/
def execImov (f : Fields) (s : State) : Host.Outcome State Fault Refusal := laneUnary 0x040 f s (movVal (tyOf f))

/-- IMOVI (R154). Lane move of a constant. -/
def execImovi (f : Fields) (s : State) : Host.Outcome State Fault Refusal := laneConst 0x041 f s

/-- IADD (R154). Lane integer addition. -/
def execIadd (f : Fields) (s : State) : Host.Outcome State Fault Refusal := laneBinary 0x042 f s 1 (addVal (tyOf f))

/-- ISUB (R154). Lane integer subtraction. -/
def execIsub (f : Fields) (s : State) : Host.Outcome State Fault Refusal := laneBinary 0x043 f s 1 (subVal (tyOf f))

/-- IMUL (R154). Lane integer multiplication. -/
def execImul (f : Fields) (s : State) : Host.Outcome State Fault Refusal :=
  laneBinary 0x044 f s (mulDistance (tyOf f)) (mulVal (tyOf f))

/-- IMULH (R154). Lane integer multiplication, high w bits. -/
def execImulh (f : Fields) (s : State) : Host.Outcome State Fault Refusal :=
  laneBinary 0x045 f s (mulDistance (tyOf f)) (mulhVal (tyOf f))

/-- IDIV (R158). Lane integer division; faults with INT_DIVIDE when any participating thread has b = 0. -/
def execIdiv (f : Fields) (s : State) : Host.Outcome State Fault Refusal := laneDivide 0x046 f s (divVal (tyOf f))

/-- IREM (R158). Lane integer remainder; faults with INT_DIVIDE on b = 0. -/
def execIrem (f : Fields) (s : State) : Host.Outcome State Fault Refusal := laneDivide 0x047 f s (remVal (tyOf f))

/-- IAND (R154). Lane bitwise AND. -/
def execIand (f : Fields) (s : State) : Host.Outcome State Fault Refusal := laneBinary 0x048 f s 1 (andVal (tyOf f))

/-- IOR (R154). Lane bitwise OR. -/
def execIor (f : Fields) (s : State) : Host.Outcome State Fault Refusal := laneBinary 0x049 f s 1 (orVal (tyOf f))

/-- IXOR (R154). Lane bitwise XOR. -/
def execIxor (f : Fields) (s : State) : Host.Outcome State Fault Refusal := laneBinary 0x04A f s 1 (xorVal (tyOf f))

/-- INOT (R154). Lane bitwise NOT. -/
def execInot (f : Fields) (s : State) : Host.Outcome State Fault Refusal := laneUnary 0x04B f s (notVal (tyOf f))

/-- ISHL (R155). Lane shift left. -/
def execIshl (f : Fields) (s : State) : Host.Outcome State Fault Refusal := laneBinary 0x04C f s 1 (shlVal (tyOf f))

/-- ISHR (R155). Lane logical shift right. -/
def execIshr (f : Fields) (s : State) : Host.Outcome State Fault Refusal := laneBinary 0x04D f s 1 (shrVal (tyOf f))

/-- ISAR (R155). Lane arithmetic shift right. -/
def execIsar (f : Fields) (s : State) : Host.Outcome State Fault Refusal := laneBinary 0x04E f s 1 (sarVal (tyOf f))

/-- IMIN (R154). Lane minimum. -/
def execImin (f : Fields) (s : State) : Host.Outcome State Fault Refusal := laneBinary 0x04F f s 1 (minVal (tyOf f))

/-- IMAX (R154). Lane maximum. -/
def execImax (f : Fields) (s : State) : Host.Outcome State Fault Refusal := laneBinary 0x050 f s 1 (maxVal (tyOf f))

/-- ICMP (R157). Lane comparison that writes a two-valued predicate. -/
def execIcmp (f : Fields) (s : State) : Host.Outcome State Fault Refusal :=
  issueLane 0x051 f s fun g ts => predResult 0x051 f s 1 g ts fun t =>
    triOf (compareInt (condCode f) (intValue (tyOf f) (readReg s s.cur g t f.a)) (intValue (tyOf f) (readReg s s.cur g t f.b)))

/-- ISEL (R157). Lane select of a or b by C. -/
def execIsel (f : Fields) (s : State) : Host.Outcome State Fault Refusal :=
  issueLane 0x052 f s fun g ts => laneResult 0x052 f s 1 g ts fun t =>
    movVal (tyOf f) (readReg s s.cur g t (if readPred g t f.c = triT then f.a else f.b))

/-- ICLZ (R154). Lane count of leading zeros. -/
def execIclz (f : Fields) (s : State) : Host.Outcome State Fault Refusal := laneUnary 0x053 f s (clzVal (tyOf f))

/-- IPOPC (R154). Lane population count. -/
def execIpopc (f : Fields) (s : State) : Host.Outcome State Fault Refusal := laneUnary 0x054 f s (popcVal (tyOf f))

/-- IBFX (R156). Lane bit-field extract. -/
def execIbfx (f : Fields) (s : State) : Host.Outcome State Fault Refusal :=
  laneUnary 0x055 f s (bfxVal (tyOf f) (fieldPos f) (fieldLen f))

/-- IBFI (R156). Lane bit-field insert. -/
def execIbfi (f : Fields) (s : State) : Host.Outcome State Fault Refusal :=
  issueLane 0x056 f s fun g ts => laneResult 0x056 f s 1 g ts fun t =>
    bfiVal (tyOf f) (fieldPos f) (fieldLen f) (readReg s s.cur g t f.a) (readReg s s.cur g t f.b)

/-- IMAD (R154). Lane integer multiply-add a * b + c. -/
def execImad (f : Fields) (s : State) : Host.Outcome State Fault Refusal :=
  issueLane 0x057 f s fun g ts => laneResult 0x057 f s (mulDistance (tyOf f)) g ts fun t =>
    madVal (tyOf f) (readReg s s.cur g t f.a) (readReg s s.cur g t f.b) (readReg s s.cur g t f.c)

/-- IABS (R154). Lane absolute value. -/
def execIabs (f : Fields) (s : State) : Host.Outcome State Fault Refusal := laneUnary 0x058 f s (absVal (tyOf f))

/-- INEG (R154). Lane negation. -/
def execIneg (f : Fields) (s : State) : Host.Outcome State Fault Refusal := laneUnary 0x059 f s (negVal (tyOf f))

/-- IROT (R155). Lane rotate left. -/
def execIrot (f : Fields) (s : State) : Host.Outcome State Fault Refusal := laneBinary 0x05A f s 1 (rotVal (tyOf f))

/-- The thread SFROM takes its value from (R160): the named one under lane and idx, the lowest or highest participating one
under first and last. -/
def sfromThread (s : State) (slot : Nat) (g : Gang) (f : Fields) (ts : List Nat) : Nat :=
  match bits f.imm.toNat 5 3 with
  | 0 => bits f.imm.toNat 0 5
  | 1 => ts.head?.getD 0
  | 2 => ts.getLast?.getD 0
  | _ => (readReg s slot g 0 f.b).toNat % 32

/-- SFROM (R160). Copies one selected thread's register into an s or b register. -/
def execSfrom (f : Fields) (s : State) : Host.Outcome State Fault Refusal :=
  issueLane 0x05B f s fun g ts => uniformResult 0x05B f s 3 g
    (movVal (tyOf f) (readReg s s.cur g (sfromThread s s.cur g f ts) f.a))

/-! ## Short forms of class 0x1 -/

/-- IMOV_SHORT (R154). Lane move in the 32-bit short form. -/
def execImovShort (f : ShortFields) (s : State) : Host.Outcome State Fault Refusal :=
  laneUnary 0x040 (expandShort 0x040 f) s (movVal (tyOf (expandShort 0x040 f)))

/-- IMOVI_SHORT (R154). Lane move of a 6-bit signed constant in the short form. -/
def execImoviShort (f : ShortFields) (s : State) : Host.Outcome State Fault Refusal :=
  laneConst 0x041 (expandShort 0x041 f) s

/-- IADD_SHORT (R154). Lane integer addition in the short form. -/
def execIaddShort (f : ShortFields) (s : State) : Host.Outcome State Fault Refusal :=
  laneBinary 0x042 (expandShort 0x042 f) s 1 (addVal (tyOf (expandShort 0x042 f)))

/-- ISUB_SHORT (R154). Lane integer subtraction in the short form. -/
def execIsubShort (f : ShortFields) (s : State) : Host.Outcome State Fault Refusal :=
  laneBinary 0x043 (expandShort 0x043 f) s 1 (subVal (tyOf (expandShort 0x043 f)))

/-- IMUL_SHORT (R154). Lane integer multiplication in the short form. -/
def execImulShort (f : ShortFields) (s : State) : Host.Outcome State Fault Refusal :=
  laneBinary 0x044 (expandShort 0x044 f) s (mulDistance (tyOf (expandShort 0x044 f))) (mulVal (tyOf (expandShort 0x044 f)))

/-- IAND_SHORT (R154). Lane bitwise AND in the short form. -/
def execIandShort (f : ShortFields) (s : State) : Host.Outcome State Fault Refusal :=
  laneBinary 0x048 (expandShort 0x048 f) s 1 (andVal (tyOf (expandShort 0x048 f)))

/-- IOR_SHORT (R154). Lane bitwise OR in the short form. -/
def execIorShort (f : ShortFields) (s : State) : Host.Outcome State Fault Refusal :=
  laneBinary 0x049 (expandShort 0x049 f) s 1 (orVal (tyOf (expandShort 0x049 f)))

/-- IXOR_SHORT (R154). Lane bitwise XOR in the short form. -/
def execIxorShort (f : ShortFields) (s : State) : Host.Outcome State Fault Refusal :=
  laneBinary 0x04A (expandShort 0x04A f) s 1 (xorVal (tyOf (expandShort 0x04A f)))

/-- INOT_SHORT (R154). Lane bitwise NOT in the short form. -/
def execInotShort (f : ShortFields) (s : State) : Host.Outcome State Fault Refusal :=
  laneUnary 0x04B (expandShort 0x04B f) s (notVal (tyOf (expandShort 0x04B f)))

/-- ISHL_SHORT (R155). Lane shift left in the short form. -/
def execIshlShort (f : ShortFields) (s : State) : Host.Outcome State Fault Refusal :=
  laneBinary 0x04C (expandShort 0x04C f) s 1 (shlVal (tyOf (expandShort 0x04C f)))

/-- ISHR_SHORT (R155). Lane logical shift right in the short form. -/
def execIshrShort (f : ShortFields) (s : State) : Host.Outcome State Fault Refusal :=
  laneBinary 0x04D (expandShort 0x04D f) s 1 (shrVal (tyOf (expandShort 0x04D f)))

/-- ISAR_SHORT (R155). Lane arithmetic shift right in the short form. -/
def execIsarShort (f : ShortFields) (s : State) : Host.Outcome State Fault Refusal :=
  laneBinary 0x04E (expandShort 0x04E f) s 1 (sarVal (tyOf (expandShort 0x04E f)))

/-- IMIN_SHORT (R154). Lane minimum in the short form. -/
def execIminShort (f : ShortFields) (s : State) : Host.Outcome State Fault Refusal :=
  laneBinary 0x04F (expandShort 0x04F f) s 1 (minVal (tyOf (expandShort 0x04F f)))

/-- IMAX_SHORT (R154). Lane maximum in the short form. -/
def execImaxShort (f : ShortFields) (s : State) : Host.Outcome State Fault Refusal :=
  laneBinary 0x050 (expandShort 0x050 f) s 1 (maxVal (tyOf (expandShort 0x050 f)))

/-- ICLZ_SHORT (R154). Lane count of leading zeros in the short form. -/
def execIclzShort (f : ShortFields) (s : State) : Host.Outcome State Fault Refusal :=
  laneUnary 0x053 (expandShort 0x053 f) s (clzVal (tyOf (expandShort 0x053 f)))

/-- IPOPC_SHORT (R154). Lane population count in the short form. -/
def execIpopcShort (f : ShortFields) (s : State) : Host.Outcome State Fault Refusal :=
  laneUnary 0x054 (expandShort 0x054 f) s (popcVal (tyOf (expandShort 0x054 f)))

/-- IABS_SHORT (R154). Lane absolute value in the short form. -/
def execIabsShort (f : ShortFields) (s : State) : Host.Outcome State Fault Refusal :=
  laneUnary 0x058 (expandShort 0x058 f) s (absVal (tyOf (expandShort 0x058 f)))

/-- INEG_SHORT (R154). Lane negation in the short form. -/
def execInegShort (f : ShortFields) (s : State) : Host.Outcome State Fault Refusal :=
  laneUnary 0x059 (expandShort 0x059 f) s (negVal (tyOf (expandShort 0x059 f)))

end Sys2Proof.Machine
end

