-- ==== Sys2Proof/Machine/FloatOps.lean ====
section
/-! DEFINITION. Class 0x3: plain floating-point arithmetic (R236 to R245, R262). -/

namespace Sys2Proof.Machine

/-- The rounding mode of an instruction (R101). -/
def roundingOf (f : Fields) : Rounding := (Rounding.ofCode f.rnd.toNat).getD .rne

/-- The low bits of a register as a pattern of a format (R236). -/
def pattern (k : Fmt) (w : Word) : Nat := w.toNat % 2 ^ k.width

/-- A result and the flags it raises. -/
abbrev Flagged := Nat × FlagSet

/-! ## Special cases shared by the operations -/

/-- NV where any operand is a signalling NaN (R125). -/
def nvOf (vs : List FVal) : FlagSet := if vs.any FVal.isSnan then flagNV else 0

/-- The default NaN with NV (R245). -/
def invalid (k : Fmt) : Flagged := (k.nan, flagNV)

/-- Applies an operation to operands that are not NaN; a NaN operand gives the default NaN (R125, R245). -/
def nanGuard (k : Fmt) (vs : List FVal) (r : Flagged) : Flagged := if vs.any FVal.isNan then (k.nan, nvOf vs) else r

/-- The sum of two values (R245). -/
def addFloat (k : Fmt) (mode : Rounding) (a b : FVal) : Flagged :=
  if a.isInf && b.isInf && a.isNeg != b.isNeg then invalid k
  else k.roundVal mode (FVal.add (mode == .rd) a b)

/-- Whether a product is 0 · ∞ (R245). -/
def zeroTimesInf (a b : FVal) : Bool := (a.isZero && b.isInf) || (a.isInf && b.isZero)

/-- The quotient of two values (R245). -/
def divFloat (k : Fmt) (mode : Rounding) (a b : FVal) : Flagged :=
  let neg := a.isNeg != b.isNeg
  if (a.isZero && b.isZero) || (a.isInf && b.isInf) then invalid k
  else if a.isInf then (k.signed neg k.infMag, 0)
  else if b.isZero then (k.signed neg k.infMag, flagDZ)
  else if b.isInf || a.isZero then (k.signed neg 0, 0)
  else match a, b with
    | .fin _ ma ea, .fin _ mb eb => let q := quotient ma ea mb eb; k.round mode neg q.1 q.2
    | _, _ => invalid k

/-- The square root of a value (R245). -/
def sqrtFloat (k : Fmt) (mode : Rounding) (a : FVal) : Flagged :=
  match a with
  | .inf false => (k.infMag, 0)
  | .fin neg 0 _ => (k.signed neg 0, 0)
  | .fin false m e => let r := squareRoot m e; k.round mode false r.1 r.2
  | _ => invalid k

/-- The integral value of a in the type of a (R242). -/
def integralFloat (k : Fmt) (mode : Rounding) (x : Nat) (a : FVal) : Flagged :=
  match a with
  | .fin neg m e =>
    let r := roundAt mode neg m e 0
    ((k.round .rne neg r.1 0).1, if r.2 then flagNX else 0)
  | _ => (x, 0)

/-- FRCPA (R242, R245): 1/a to at most min(12, p) significand bits under rne. -/
def reciprocal (k : Fmt) (a : FVal) : Flagged :=
  match a with
  | .inf neg => (k.signed neg 0, 0)
  | .fin neg 0 _ => (k.signed neg k.infMag, flagDZ)
  | .fin neg m e => let q := quotient 1 0 m e; k.roundTo (min 12 (k.fbits + 1)) .rne neg q.1 q.2
  | .nan _ => (k.nan, 0)

/-- FSCALE (R240, R245). -/
def scaleFloat (k : Fmt) (mode : Rounding) (n : Int) (x : Nat) (a : FVal) : Flagged :=
  match a with
  | .fin neg m e => if m = 0 then (x, 0) else k.round mode neg m (e + n)
  | _ => (x, 0)

/-- FEXP2 (R240, R245). -/
def exp2Float (k : Fmt) (mode : Rounding) (a : FVal) : Flagged :=
  match a with
  | .inf neg => (if neg then 0 else k.infMag, 0)
  | .fin neg m e => let r := exp2Val neg m e; k.round mode r.1 r.2.1 r.2.2
  | .nan _ => (k.nan, 0)

/-- FLOG2 (R240, R245). -/
def log2Float (k : Fmt) (mode : Rounding) (a : FVal) : Flagged :=
  match a with
  | .fin _ 0 _ => (k.signed true k.infMag, flagDZ)
  | .inf false => (k.infMag, 0)
  | .fin false m e => let r := log2Val m e; k.round mode r.1 r.2.1 r.2.2
  | _ => invalid k

/-- FMIN where `less`, FMAX otherwise (R241): −0 is below +0, and a single NaN gives the other operand. -/
def pickFloat (k : Fmt) (less : Bool) (x y : Nat) : Flagged :=
  let a := k.value x
  let b := k.value y
  let below := FVal.lt a b || (a.isZero && b.isZero && a.isNeg && !b.isNeg)
  if a.isNan && b.isNan then (k.nan, nvOf [a, b])
  else if a.isNan then (y, nvOf [a])
  else if b.isNan then (x, nvOf [b])
  else (if below == less then x else y, 0)

/-- The condition codes on values that are not NaN (R243). -/
def compareVal (cc : Nat) (a b : FVal) : Bool :=
  match cc with
  | 0 => FVal.eq a b
  | 1 => !FVal.eq a b
  | 2 => FVal.lt a b
  | 3 => FVal.le a b
  | 4 => FVal.lt b a
  | _ => FVal.le b a

/-- FCMP (R243). -/
def compareFloat (cc : Nat) (a b : FVal) : BitVec 2 × FlagSet :=
  if a.isNan || b.isNan then (triU, nvOf [a, b]) else (triOf (compareVal cc a b), 0)

/-- The bit of D that FCLASS sets (R244). -/
def classOf (k : Fmt) (x : Nat) : Nat :=
  if x = k.abandoned 1 then 10
  else if x = k.abandoned 2 then 11
  else match k.value x with
    | .nan sig => if sig then 8 else 9
    | .inf neg => if neg then 0 else 7
    | .fin neg m _ =>
      let sub := decide (k.mag x < 2 ^ k.fbits)
      if m = 0 then (if neg then 3 else 4)
      else if neg then (if sub then 2 else 1)
      else if sub then 5 else 6

/-! ## The forms -/

/-- The fault of operands that fail a check: code, field and mask (R238). -/
def operandFault (code : FaultCode) (field : Nat) (m : Mask) : GFault :=
  precise code (BitVec.ofNat 64 (m.toNat + field * 2 ^ 32))

/-- The first check that some thread fails, in the order given (R238). -/
def firstFailure (ts : List Nat) : List (FaultCode × Nat × (Nat → Bool)) → Option GFault
  | [] => none
  | (code, fld, bad) :: r =>
    let m := maskOf ts bad
    if m = 0 then firstFailure ts r else some (operandFault code fld m)

/-- ABANDONED_OPERAND for plain sources in the fields given (R145, R238). -/
def abandonedChecks (s : State) (slot : Nat) (g : Gang) (k : Fmt) :
    List (Nat × BitVec 10) → List (FaultCode × Nat × (Nat → Bool))
  | [] => []
  | (fld, x) :: r =>
    (.abandonedOperand, fld, fun t => k.isAbandoned (pattern k (readReg s slot g t x))) :: abandonedChecks s slot g k r

/-- A lane result that raises flags (R239). -/
def flaggedResult (opc : Nat) (f : Fields) (s : State) (d : Nat) (g : Gang) (ts : List Nat) (val : Nat → Flagged) : Res :=
  laneResult opc f s d (raiseFlags g (flagsOf (fun t => (val t).2) ts)) ts fun t => BitVec.ofNat 64 (val t).1

/-- A plain operation on A. -/
def float1 (opc : Nat) (f : Fields) (s : State) (d : Nat) (val : Fmt → Nat → Flagged) : Host.Outcome State Fault Refusal :=
  let k := fmtOf (tyOf f)
  issueLane opc f s fun g ts =>
    match firstFailure ts (abandonedChecks s s.cur g k [(1, f.a)]) with
    | some fl => .trap s fl
    | none => flaggedResult opc f s d g ts fun t => val k (pattern k (readReg s s.cur g t f.a))

/-- A plain operation on A and B. -/
def float2 (opc : Nat) (f : Fields) (s : State) (d : Nat) (val : Fmt → Nat → Nat → Flagged) :
    Host.Outcome State Fault Refusal :=
  let k := fmtOf (tyOf f)
  issueLane opc f s fun g ts =>
    match firstFailure ts (abandonedChecks s s.cur g k [(1, f.a), (2, f.b)]) with
    | some fl => .trap s fl
    | none => flaggedResult opc f s d g ts fun t =>
        val k (pattern k (readReg s s.cur g t f.a)) (pattern k (readReg s s.cur g t f.b))

/-- A plain arithmetic operation on the values of A and B (R245). -/
def arith2 (opc : Nat) (f : Fields) (s : State) (d : Nat) (op : Fmt → FVal → FVal → Flagged) :
    Host.Outcome State Fault Refusal :=
  float2 opc f s d fun k x y => nanGuard k [k.value x, k.value y] (op k (k.value x) (k.value y))

/-- A plain arithmetic operation on the value of A (R245). -/
def arith1 (opc : Nat) (f : Fields) (s : State) (d : Nat) (op : Fmt → Nat → FVal → Flagged) :
    Host.Outcome State Fault Refusal :=
  float1 opc f s d fun k x => nanGuard k [k.value x] (op k x (k.value x))

/-- The distance of FDIV and FSQRT (R262). -/
def fdivDistance (f : Fields) : Nat := if tyOf f = .f64 then 20 else 12
/-- The distance of FEXP2 and FLOG2 (R262). -/
def fexpDistance (f : Fields) : Nat := if tyOf f = .f64 then 24 else 14

/-- Copies the image of A (R240). -/
def floatMove (opc : Nat) (f : Fields) (s : State) : Host.Outcome State Fault Refusal :=
  issueLane opc f s fun g ts => laneResult opc f s 1 g ts fun t =>
    BitVec.ofNat 64 (pattern (fmtOf (tyOf f)) (readReg s s.cur g t f.a))

/-- FADD for every form (R240). -/
def floatAdd (opc : Nat) (f : Fields) (s : State) : Host.Outcome State Fault Refusal :=
  arith2 opc f s 4 fun k a b => addFloat k (roundingOf f) a b
/-- FSUB for every form (R240). -/
def floatSub (opc : Nat) (f : Fields) (s : State) : Host.Outcome State Fault Refusal :=
  arith2 opc f s 4 fun k a b => addFloat k (roundingOf f) a b.neg
/-- FMUL for every form (R240). -/
def floatMul (opc : Nat) (f : Fields) (s : State) : Host.Outcome State Fault Refusal :=
  arith2 opc f s 4 fun k a b => if zeroTimesInf a b then invalid k else k.roundVal (roundingOf f) (a.mul b)
/-- FMIN or FMAX for every form (R241). -/
def floatPick (opc : Nat) (less : Bool) (f : Fields) (s : State) : Host.Outcome State Fault Refusal :=
  float2 opc f s 2 fun k x y => pickFloat k less x y
/-- FABS for every form (R240). -/
def floatAbs (opc : Nat) (f : Fields) (s : State) : Host.Outcome State Fault Refusal :=
  float1 opc f s 2 fun k x => (k.mag x, 0)
/-- FNEG for every form (R240). -/
def floatNeg (opc : Nat) (f : Fields) (s : State) : Host.Outcome State Fault Refusal :=
  float1 opc f s 2 fun k x => (k.signed (!k.isNeg x) (k.mag x), 0)

/-! ## Class 0x3 -/

/-- FMOV (R240). D := a, bit for bit. -/
def execFmov (f : Fields) (s : State) : Host.Outcome State Fault Refusal := floatMove 0x0C0 f s

/-- FADD (R240). Round(a + b). -/
def execFadd (f : Fields) (s : State) : Host.Outcome State Fault Refusal := floatAdd 0x0C1 f s

/-- FSUB (R240). Round(a − b). -/
def execFsub (f : Fields) (s : State) : Host.Outcome State Fault Refusal := floatSub 0x0C2 f s

/-- FMUL (R240). Round(a · b). -/
def execFmul (f : Fields) (s : State) : Host.Outcome State Fault Refusal := floatMul 0x0C3 f s

/-- FFMA (R240, R245). Round(a · b + c), with one rounding; 0 · ∞ is invalid even when c is a quiet NaN. -/
def execFfma (f : Fields) (s : State) : Host.Outcome State Fault Refusal :=
  let k := fmtOf (tyOf f)
  issueLane 0x0C4 f s fun g ts =>
    match firstFailure ts (abandonedChecks s s.cur g k [(1, f.a), (2, f.b), (3, f.c)]) with
    | some fl => .trap s fl
    | none => flaggedResult 0x0C4 f s 4 g ts fun t =>
        let a := k.value (pattern k (readReg s s.cur g t f.a))
        let b := k.value (pattern k (readReg s s.cur g t f.b))
        let c := k.value (pattern k (readReg s s.cur g t f.c))
        if zeroTimesInf a b then invalid k
        else nanGuard k [a, b, c] (addFloat k (roundingOf f) (a.mul b) c)

/-- FDIV (R240). Round(a / b). -/
def execFdiv (f : Fields) (s : State) : Host.Outcome State Fault Refusal :=
  arith2 0x0C5 f s (fdivDistance f) fun k a b => divFloat k (roundingOf f) a b

/-- FSQRT (R240). Round(√a). -/
def execFsqrt (f : Fields) (s : State) : Host.Outcome State Fault Refusal :=
  arith1 0x0C6 f s (fdivDistance f) fun k _ a => sqrtFloat k (roundingOf f) a

/-- FMIN (R241). -/
def execFmin (f : Fields) (s : State) : Host.Outcome State Fault Refusal := floatPick 0x0C7 true f s

/-- FMAX (R241). -/
def execFmax (f : Fields) (s : State) : Host.Outcome State Fault Refusal := floatPick 0x0C8 false f s

/-- FABS (R240). a with its sign bit cleared. -/
def execFabs (f : Fields) (s : State) : Host.Outcome State Fault Refusal := floatAbs 0x0C9 f s

/-- FNEG (R240). a with its sign bit inverted. -/
def execFneg (f : Fields) (s : State) : Host.Outcome State Fault Refusal := floatNeg 0x0CA f s

/-- FCMP (R243). Comparison that writes a predicate; undecided where an operand is a NaN. -/
def execFcmp (f : Fields) (s : State) : Host.Outcome State Fault Refusal :=
  let k := fmtOf (tyOf f)
  issueLane 0x0CB f s fun g ts =>
    match firstFailure ts (abandonedChecks s s.cur g k [(1, f.a), (2, f.b)]) with
    | some fl => .trap s fl
    | none =>
      let r := fun t => compareFloat (condCode f) (k.value (pattern k (readReg s s.cur g t f.a)))
        (k.value (pattern k (readReg s s.cur g t f.b)))
      predResult 0x0CB f s 2 (raiseFlags g (flagsOf (fun t => (r t).2) ts)) ts fun t => (r t).1

/-- FCLASS (R244). -/
def execFclass (f : Fields) (s : State) : Host.Outcome State Fault Refusal :=
  let k := fmtOf (tyOf f)
  issueLane 0x0CC f s fun g ts => laneResult 0x0CC f s 2 g ts fun t =>
    BitVec.ofNat 64 (2 ^ classOf k (pattern k (readReg s s.cur g t f.a)))

/-- FRND (R242). -/
def execFrnd (f : Fields) (s : State) : Host.Outcome State Fault Refusal :=
  arith1 0x0CD f s 4 fun k x a => integralFloat k (roundingOf f) x a

/-- FSCALE (R240). Round(a · 2^n) with n in B[31:0]. -/
def execFscale (f : Fields) (s : State) : Host.Outcome State Fault Refusal :=
  let k := fmtOf (tyOf f)
  issueLane 0x0CE f s fun g ts =>
    match firstFailure ts (abandonedChecks s s.cur g k [(1, f.a)]) with
    | some fl => .trap s fl
    | none => flaggedResult 0x0CE f s 4 g ts fun t =>
        let x := pattern k (readReg s s.cur g t f.a)
        nanGuard k [k.value x]
          (scaleFloat k (roundingOf f) (intValue .s32 (readReg s s.cur g t f.b)) x (k.value x))

/-- FEXP2 (R240). Round(2^a). -/
def execFexp2 (f : Fields) (s : State) : Host.Outcome State Fault Refusal :=
  arith1 0x0CF f s (fexpDistance f) fun k _ a => exp2Float k (roundingOf f) a

/-- FLOG2 (R240). Round(log2 a). -/
def execFlog2 (f : Fields) (s : State) : Host.Outcome State Fault Refusal :=
  arith1 0x0D0 f s (fexpDistance f) fun k _ a => log2Float k (roundingOf f) a

/-- FRCPA (R242). -/
def execFrcpa (f : Fields) (s : State) : Host.Outcome State Fault Refusal :=
  arith1 0x0D1 f s 4 fun k _ a => reciprocal k a

/-! ## Short forms -/

/-- FMOV_SHORT (R240). -/
def execFmovShort (f : ShortFields) (s : State) : Host.Outcome State Fault Refusal := floatMove 0x0C0 (expandShort 0x0C0 f) s

/-- FADD_SHORT (R240). -/
def execFaddShort (f : ShortFields) (s : State) : Host.Outcome State Fault Refusal := floatAdd 0x0C1 (expandShort 0x0C1 f) s

/-- FSUB_SHORT (R240). -/
def execFsubShort (f : ShortFields) (s : State) : Host.Outcome State Fault Refusal := floatSub 0x0C2 (expandShort 0x0C2 f) s

/-- FMUL_SHORT (R240). -/
def execFmulShort (f : ShortFields) (s : State) : Host.Outcome State Fault Refusal := floatMul 0x0C3 (expandShort 0x0C3 f) s

/-- FMIN_SHORT (R241). -/
def execFminShort (f : ShortFields) (s : State) : Host.Outcome State Fault Refusal :=
  floatPick 0x0C7 true (expandShort 0x0C7 f) s

/-- FMAX_SHORT (R241). -/
def execFmaxShort (f : ShortFields) (s : State) : Host.Outcome State Fault Refusal :=
  floatPick 0x0C8 false (expandShort 0x0C8 f) s

/-- FABS_SHORT (R240). -/
def execFabsShort (f : ShortFields) (s : State) : Host.Outcome State Fault Refusal := floatAbs 0x0C9 (expandShort 0x0C9 f) s

/-- FNEG_SHORT (R240). -/
def execFnegShort (f : ShortFields) (s : State) : Host.Outcome State Fault Refusal := floatNeg 0x0CA (expandShort 0x0CA f) s

end Sys2Proof.Machine
end

