-- ==== Sys2Proof/Machine/Interval.lean ====
section
/-! DEFINITION. Class 0x4 without BISECT: interval arithmetic, constructors and queries (R140 to R143, R246 to R254, R262). -/

namespace Sys2Proof.Machine

/-- An interval as the patterns of its bounds (R140). -/
abbrev Iv := Nat × Nat

/-- The canonical empty interval (R141). -/
def Fmt.emptyIv (k : Fmt) : Iv := (k.infMag, k.signed true k.infMag)

/-- The classes of R141, abandoned bounds first (R142). -/
inductive IvClass where
  | abandoned | malformed | empty | proper
  deriving DecidableEq, Repr

/-- The class of an interval (R141, R142). -/
def Fmt.classIv (k : Fmt) (x : Iv) : IvClass :=
  let lo := k.value x.1
  let hi := k.value x.2
  if k.isAbandoned x.1 || k.isAbandoned x.2 then .abandoned
  else if x = k.emptyIv then .empty
  else if lo.isNan || hi.isNan || lo = .inf false || hi = .inf true || FVal.lt hi lo then .malformed
  else .proper

/-- The next specifier of a pair (R96). -/
def nextSpec (x : BitVec 10) : BitVec 10 := x + 1

/-- The interval in a register or a pair (R140, R236). -/
def readIv (s : State) (slot : Nat) (g : Gang) (ty : Ty) (t : Nat) (x : BitVec 10) : Iv :=
  if ty = .iv64 then ((readReg s slot g t x).toNat, (readReg s slot g t (nextSpec x)).toNat)
  else (bits (readReg s slot g t x).toNat 0 32, bits (readReg s slot g t x).toNat 32 32)

/-- Registers of an interval type: 1 or 2 (R251). -/
def ivRegs (ty : Ty) : Nat := if ty = .iv64 then 2 else 1

/-- Writes intervals into a register or a pair of each thread (R140, R236). -/
def putIv (g : Gang) (ty : Ty) (x : BitVec 10) (val : Nat → Iv) (ts : List Nat) : Gang :=
  if ty = .iv64 then
    putLanes (putLanes g x (fun t => BitVec.ofNat 64 (val t).1) ts) (nextSpec x) (fun t => BitVec.ofNat 64 (val t).2) ts
  else putLanes g x (fun t => BitVec.ofNat 64 ((val t).1 + (val t).2 * 2 ^ 32)) ts

/-! ## Bounds -/

/-- A bound rounded outward, a zero written −0 below and +0 above (R141, R142). -/
def Fmt.bound (k : Fmt) (upper : Bool) (v : FVal) : Flagged :=
  let r := k.roundVal (if upper then .ru else .rd) v
  (if k.mag r.1 = 0 then k.signed (!upper) 0 else r.1, r.2)

/-- An interval of two exact bounds, with the flags of each (R247). -/
def Fmt.hull (k : Fmt) (lo hi : FVal) : Iv × FlagSet :=
  (((k.bound false lo).1, (k.bound true hi).1), (k.bound false lo).2 ||| (k.bound true hi).2)

/-- A product of bounds, in which 0 · ∞ is 0 (R247). -/
def boundMul (a b : FVal) : FVal := if zeroTimesInf a b then .fin false 0 0 else a.mul b

/-- The least and greatest of the four bound products (R247). -/
def boundProducts (al ah bl bh : FVal) : FVal × FVal :=
  let p1 := boundMul al bl
  let p2 := boundMul al bh
  let p3 := boundMul ah bl
  let p4 := boundMul ah bh
  (FVal.min (FVal.min p1 p2) (FVal.min p3 p4), FVal.max (FVal.max p1 p2) (FVal.max p3 p4))

/-- x / y rounded outward, for y ≥ 0 and not both infinite; x / 0 of a non-zero x is unbounded (R248). -/
def Fmt.boundDiv (k : Fmt) (upper : Bool) (x y : FVal) : Flagged :=
  match x, y with
  | .fin neg m e, .fin _ mb eb =>
    if m = 0 then k.bound upper (.fin neg 0 0)
    else if mb = 0 then k.bound upper (.inf neg)
    else let q := quotient m e mb eb; k.bound upper (.fin neg q.1 q.2)
  | .inf neg, _ => k.bound upper (.inf neg)
  | _, _ => k.bound upper (.fin false 0 0)

/-- The quotient hull for a divisor in [0, ∞] that is not [0, 0] (R248). -/
def Fmt.divPositive (k : Fmt) (al ah bl bh : FVal) : Iv × FlagSet :=
  let zero : FVal := .fin false 0 0
  let lo := if FVal.lt al zero then k.boundDiv false al bl else k.boundDiv false al bh
  let hi := if FVal.lt zero ah then k.boundDiv true ah bl else k.boundDiv true ah bh
  ((lo.1, hi.1), lo.2 ||| hi.2)

/-- Interval division (R248). -/
def Fmt.divIv (k : Fmt) (al ah bl bh : FVal) : Iv × FlagSet :=
  let zero : FVal := .fin false 0 0
  let zeroB := FVal.le bl zero && FVal.le zero bh
  if bl.isZero && bh.isZero then (k.emptyIv, flagDZ)
  else if al.isZero && ah.isZero then (((k.bound false zero).1, (k.bound true zero).1), 0)
  else
    let dz : FlagSet := if zeroB then flagDZ else 0
    if FVal.le zero bl then ((k.divPositive al ah bl bh).1, (k.divPositive al ah bl bh).2 ||| dz)
    else if FVal.le bh zero then
      ((k.divPositive ah.neg al.neg bh.neg bl.neg).1, (k.divPositive ah.neg al.neg bh.neg bl.neg).2 ||| dz)
    else ((k.signed true k.infMag, k.infMag), dz)

/-- A bound's square root rounded outward, of a value not below zero (R248). -/
def Fmt.boundSqrt (k : Fmt) (upper : Bool) (v : FVal) : Flagged :=
  match v with
  | .fin false m e => if m = 0 then k.bound upper (.fin false 0 0) else let r := squareRoot m e; k.bound upper (.fin false r.1 r.2)
  | .inf false => k.bound upper (.inf false)
  | _ => k.bound upper (.fin false 0 0)

/-- Interval square root (R248). -/
def Fmt.sqrtIv (k : Fmt) (al ah : FVal) : Iv × FlagSet :=
  if FVal.lt ah (.fin false 0 0) then (k.emptyIv, flagNV)
  else (((k.boundSqrt false al).1, (k.boundSqrt true ah).1), (k.boundSqrt false al).2 ||| (k.boundSqrt true ah).2)

/-- Interval absolute value (R247). -/
def Fmt.absIv (k : Fmt) (al ah : FVal) : Iv × FlagSet :=
  let zero : FVal := .fin false 0 0
  if FVal.le zero al then k.hull al ah
  else if FVal.le ah zero then k.hull ah.neg al.neg
  else k.hull zero (FVal.max al.neg ah)

/-- Midpoint (R253), with NX where its rounding is inexact (R251). -/
def Fmt.midpoint (k : Fmt) (lo hi : FVal) : Flagged :=
  match lo, hi with
  | .inf _, .inf _ => (0, 0)
  | .inf _, _ => (k.signed true k.maxMag, 0)
  | _, .inf _ => (k.maxMag, 0)
  | a, b =>
    match FVal.add false a b with
    | .fin neg m e =>
      let r := k.round .rne neg m (e - 1)
      (if k.mag r.1 = 0 then 0 else r.1, r.2 &&& flagNX)
    | _ => (0, 0)

/-- The interval comparisons: true, false or undecided (R249). -/
def compareIv (cc : Nat) (al ah bl bh : FVal) : BitVec 2 :=
  let same := FVal.eq al ah && FVal.eq ah bl && FVal.eq bl bh
  let apart := FVal.lt ah bl || FVal.lt bh al
  let pick := fun (t u : Bool) => if t then triT else if u then triF else triU
  match cc with
  | 0 => pick same apart
  | 1 => pick apart same
  | 2 => pick (FVal.lt ah bl) (FVal.le bh al)
  | 3 => pick (FVal.le ah bl) (FVal.lt bh al)
  | 4 => pick (FVal.lt bh al) (FVal.le ah bl)
  | _ => pick (FVal.le bh al) (FVal.lt ah bl)

/-! ## The forms -/

/-- The checks of an interval operand, in order (R142, R238). -/
def ivChecks (s : State) (slot : Nat) (g : Gang) (ty : Ty) :
    List (Nat × BitVec 10 × Bool) → List (FaultCode × Nat × (Nat → Bool))
  | [] => []
  | (fld, x, takesEmpty) :: r =>
    let cls := fun t => (fmtOf ty).classIv (readIv s slot g ty t x)
    [(.abandonedOperand, fld, fun t => cls t == .abandoned), (.malformedInterval, fld, fun t => cls t == .malformed)]
      ++ (if takesEmpty then [] else [(.emptyInterval, fld, fun t => cls t == .empty)]) ++ ivChecks s slot g ty r

/-- An interval result that raises flags, readable at a distance (R239, R262). -/
def ivResult (opc : Nat) (f : Fields) (s : State) (d : Nat) (g : Gang) (ts : List Nat) (val : Nat → Iv × FlagSet) : Res :=
  .done (setGang s s.cur (putIv (raiseFlags g (flagsOf (fun t => (val t).2) ts)) (tyOf f) f.d (fun t => (val t).1) ts))
    (pendD opc f d)

/-- The values of the bounds of an operand. -/
def ivVal (s : State) (slot : Nat) (g : Gang) (ty : Ty) (t : Nat) (x : BitVec 10) : FVal × FVal :=
  ((fmtOf ty).value (readIv s slot g ty t x).1, (fmtOf ty).value (readIv s slot g ty t x).2)

/-- An interval operation on A. -/
def ivOp1 (opc : Nat) (f : Fields) (s : State) (d : Nat) (op : Fmt → FVal → FVal → Iv × FlagSet) :
    Host.Outcome State Fault Refusal :=
  issueLane opc f s fun g ts =>
    match firstFailure ts (ivChecks s s.cur g (tyOf f) [(1, f.a, false)]) with
    | some fl => .trap s fl
    | none => ivResult opc f s d g ts fun t =>
        let a := ivVal s s.cur g (tyOf f) t f.a
        op (fmtOf (tyOf f)) a.1 a.2

/-- An interval operation on A and B. -/
def ivOp2 (opc : Nat) (f : Fields) (s : State) (d : Nat) (takesEmpty : Bool)
    (op : Fmt → FVal → FVal → FVal → FVal → Iv × FlagSet) : Host.Outcome State Fault Refusal :=
  issueLane opc f s fun g ts =>
    match firstFailure ts (ivChecks s s.cur g (tyOf f) [(1, f.a, takesEmpty), (2, f.b, takesEmpty)]) with
    | some fl => .trap s fl
    | none => ivResult opc f s d g ts fun t =>
        let a := ivVal s s.cur g (tyOf f) t f.a
        let b := ivVal s s.cur g (tyOf f) t f.b
        op (fmtOf (tyOf f)) a.1 a.2 b.1 b.2

/-- A plain result computed from interval A. -/
def ivQuery (opc : Nat) (f : Fields) (s : State) (d : Nat) (takesEmpty : Bool) (op : Fmt → Iv → Flagged) :
    Host.Outcome State Fault Refusal :=
  issueLane opc f s fun g ts =>
    match firstFailure ts (ivChecks s s.cur g (tyOf f) [(1, f.a, takesEmpty)]) with
    | some fl => .trap s fl
    | none => flaggedResult opc f s d g ts fun t => op (fmtOf (tyOf f)) (readIv s s.cur g (tyOf f) t f.a)

/-- The distance of interval FDIV and FSQRT (R262). -/
def ivDivDistance (f : Fields) : Nat := if tyOf f = .iv64 then 24 else 14

/-! ## Arithmetic (R246 to R249) -/

/-- FMOV_IV (R246). Copies the interval image bit for bit. -/
def execFmovIv (f : Fields) (s : State) : Host.Outcome State Fault Refusal :=
  issueLane 0x100 f s fun g ts => ivResult 0x100 f s 1 g ts fun t => (readIv s s.cur g (tyOf f) t f.a, 0)

/-- FADD_IV (R247). -/
def execFaddIv (f : Fields) (s : State) : Host.Outcome State Fault Refusal :=
  ivOp2 0x101 f s 4 false fun k al ah bl bh => k.hull (FVal.add true al bl) (FVal.add false ah bh)

/-- FSUB_IV (R247). -/
def execFsubIv (f : Fields) (s : State) : Host.Outcome State Fault Refusal :=
  ivOp2 0x102 f s 4 false fun k al ah bl bh => k.hull (FVal.add true al bh.neg) (FVal.add false ah bl.neg)

/-- FMUL_IV (R247). -/
def execFmulIv (f : Fields) (s : State) : Host.Outcome State Fault Refusal :=
  ivOp2 0x103 f s 6 false fun k al ah bl bh => k.hull (boundProducts al ah bl bh).1 (boundProducts al ah bl bh).2

/-- FFMA_IV (R247). -/
def execFfmaIv (f : Fields) (s : State) : Host.Outcome State Fault Refusal :=
  issueLane 0x104 f s fun g ts =>
    match firstFailure ts (ivChecks s s.cur g (tyOf f) [(1, f.a, false), (2, f.b, false), (3, f.c, false)]) with
    | some fl => .trap s fl
    | none => ivResult 0x104 f s 6 g ts fun t =>
        let a := ivVal s s.cur g (tyOf f) t f.a
        let b := ivVal s s.cur g (tyOf f) t f.b
        let c := ivVal s s.cur g (tyOf f) t f.c
        (fmtOf (tyOf f)).hull (FVal.add true (boundProducts a.1 a.2 b.1 b.2).1 c.1)
          (FVal.add false (boundProducts a.1 a.2 b.1 b.2).2 c.2)

/-- FDIV_IV (R248). -/
def execFdivIv (f : Fields) (s : State) : Host.Outcome State Fault Refusal :=
  ivOp2 0x105 f s (ivDivDistance f) false fun k al ah bl bh => k.divIv al ah bl bh

/-- FSQRT_IV (R248). -/
def execFsqrtIv (f : Fields) (s : State) : Host.Outcome State Fault Refusal :=
  ivOp1 0x106 f s (ivDivDistance f) fun k al ah => k.sqrtIv al ah

/-- FMIN_IV (R247). -/
def execFminIv (f : Fields) (s : State) : Host.Outcome State Fault Refusal :=
  ivOp2 0x107 f s 2 false fun k al ah bl bh => k.hull (FVal.min al bl) (FVal.min ah bh)

/-- FMAX_IV (R247). -/
def execFmaxIv (f : Fields) (s : State) : Host.Outcome State Fault Refusal :=
  ivOp2 0x108 f s 2 false fun k al ah bl bh => k.hull (FVal.max al bl) (FVal.max ah bh)

/-- FABS_IV (R247). -/
def execFabsIv (f : Fields) (s : State) : Host.Outcome State Fault Refusal := ivOp1 0x109 f s 2 fun k al ah => k.absIv al ah

/-- FNEG_IV (R247). -/
def execFnegIv (f : Fields) (s : State) : Host.Outcome State Fault Refusal :=
  ivOp1 0x10A f s 2 fun k al ah => k.hull ah.neg al.neg

/-- FCMP_IV (R249). Writes true, false or undecided; no flag. -/
def execFcmpIv (f : Fields) (s : State) : Host.Outcome State Fault Refusal :=
  issueLane 0x10B f s fun g ts =>
    match firstFailure ts (ivChecks s s.cur g (tyOf f) [(1, f.a, false), (2, f.b, false)]) with
    | some fl => .trap s fl
    | none => predResult 0x10B f s 2 g ts fun t =>
        let a := ivVal s s.cur g (tyOf f) t f.a
        let b := ivVal s s.cur g (tyOf f) t f.b
        compareIv (condCode f) a.1 a.2 b.1 b.2

/-! ## Constructors and queries (R251 to R254) -/

/-- Whether IVMK's bounds are malformed, naming B alone (R252 step 3). -/
def mkBadB (k : Fmt) (a b : Nat) : Bool :=
  ((k.value b).isNan || k.value b == .inf true) && !((k.value a).isNan || k.value a == .inf false)
/-- Whether IVMK's bounds are malformed, naming A (R252 step 3). -/
def mkBadA (k : Fmt) (a b : Nat) : Bool :=
  (k.value a).isNan || k.value a == .inf false || (!(k.value b).isNan && FVal.lt (k.value b) (k.value a))

/-- The pattern of a plain operand of a bound type (R236). -/
def plainBound (s : State) (slot : Nat) (g : Gang) (f : Fields) (t : Nat) (x : BitVec 10) : Nat :=
  pattern (fmtOf (tyOf f)) (readReg s slot g t x)

/-- IVMK (R252). -/
def execIvmk (f : Fields) (s : State) : Host.Outcome State Fault Refusal :=
  let k := fmtOf (tyOf f)
  issueLane 0x120 f s fun g ts =>
    let a := fun t => plainBound s s.cur g f t f.a
    let b := fun t => plainBound s s.cur g f t f.b
    let isEmpty := fun t => (a t, b t) == k.emptyIv
    match firstFailure ts [(.abandonedOperand, 1, fun t => k.isAbandoned (a t)),
        (.abandonedOperand, 2, fun t => k.isAbandoned (b t)),
        (.malformedInterval, 1, fun t => !isEmpty t && !mkBadB k (a t) (b t) && mkBadA k (a t) (b t)),
        (.malformedInterval, 2, fun t => !isEmpty t && mkBadB k (a t) (b t))] with
    | some fl => .trap s fl
    | none => ivResult 0x120 f s 4 g ts fun t =>
        if isEmpty t then (k.emptyIv, 0) else k.hull (k.value (a t)) (k.value (b t))

/-- IVLO (R251). -/
def execIvlo (f : Fields) (s : State) : Host.Outcome State Fault Refusal := ivQuery 0x121 f s 2 true fun _ x => (x.1, 0)

/-- IVHI (R251). -/
def execIvhi (f : Fields) (s : State) : Host.Outcome State Fault Refusal := ivQuery 0x122 f s 2 true fun _ x => (x.2, 0)

/-- IVMID (R251, R253). -/
def execIvmid (f : Fields) (s : State) : Host.Outcome State Fault Refusal :=
  ivQuery 0x123 f s 4 false fun k x => k.midpoint (k.value x.1) (k.value x.2)

/-- The width of an interval (R251). -/
def Fmt.widthIv (k : Fmt) (lo hi : FVal) : Flagged :=
  if lo.isInf || hi.isInf then (k.infMag, 0)
  else
    let r := k.roundVal .ru (FVal.add false hi lo.neg)
    (if k.mag r.1 = 0 then 0 else r.1, r.2 &&& flagNX)

/-- IVWID (R251). -/
def execIvwid (f : Fields) (s : State) : Host.Outcome State Fault Refusal :=
  ivQuery 0x124 f s 4 false fun k x => k.widthIv (k.value x.1) (k.value x.2)

/-- IVHULL (R251): an empty operand drops out, since its bounds are +∞ and −∞. -/
def execIvhull (f : Fields) (s : State) : Host.Outcome State Fault Refusal :=
  ivOp2 0x125 f s 2 true fun k al ah bl bh => k.hull (FVal.min al bl) (FVal.max ah bh)

/-- Whether IVMEET finds an empty result (R254); an empty operand makes it so. -/
def meetsEmpty (a b : FVal × FVal) : Bool := FVal.lt (FVal.min a.2 b.2) (FVal.max a.1 b.1)

/-- IVMEET (R254). -/
def execIvmeet (f : Fields) (s : State) : Host.Outcome State Fault Refusal :=
  let k := fmtOf (tyOf f)
  let e := f.imm.getLsbD 0
  issueLane 0x126 f s fun g ts =>
    let a := fun t => ivVal s s.cur g (tyOf f) t f.a
    let b := fun t => ivVal s s.cur g (tyOf f) t f.b
    let none' := fun t => meetsEmpty (a t) (b t)
    let checks := ivChecks s s.cur g (tyOf f) [(1, f.a, e), (2, f.b, e)]
    match firstFailure ts (if e then checks else checks ++ [(.emptyInterval, 0, none')]) with
    | some fl => .trap s fl
    | none =>
      let val := fun t => if none' t then (k.emptyIv, (0 : FlagSet))
        else k.hull (FVal.max (a t).1 (b t).1) (FVal.min (a t).2 (b t).2)
      let g' := if e then putPreds g f.c (fun t => triOf (!none' t)) ts else g
      match ivResult 0x126 f s 2 g' ts val with
      | .done s' ps => .done s' (ps ++ if e then pendAt 2 [.pred (bits f.c.toNat 0 3)] else [])
      | r => r

/-- IVIN (R251). -/
def execIvin (f : Fields) (s : State) : Host.Outcome State Fault Refusal :=
  let k := fmtOf (tyOf f)
  issueLane 0x127 f s fun g ts =>
    match firstFailure ts (ivChecks s s.cur g (tyOf f) [(1, f.a, false), (2, f.b, true)]) with
    | some fl => .trap s fl
    | none => predResult 0x127 f s 2 g ts fun t =>
        let a := ivVal s s.cur g (tyOf f) t f.a
        let b := ivVal s s.cur g (tyOf f) t f.b
        if k.classIv (readIv s s.cur g (tyOf f) t f.b) = .empty then triF
        else if FVal.le b.1 a.1 && FVal.le a.2 b.2 then triT
        else if FVal.lt a.2 b.1 || FVal.lt b.2 a.1 then triF else triU

/-- IVSPLIT (R251). D := [al, m], D + n := [m, ah]. -/
def execIvsplit (f : Fields) (s : State) : Host.Outcome State Fault Refusal :=
  let k := fmtOf (tyOf f)
  issueLane 0x128 f s fun g ts =>
    match firstFailure ts (ivChecks s s.cur g (tyOf f) [(1, f.a, false)]) with
    | some fl => .trap s fl
    | none =>
      let a := fun t => ivVal s s.cur g (tyOf f) t f.a
      let m := fun t => k.midpoint (a t).1 (a t).2
      let low := fun t => (k.hull (a t).1 (k.value (m t).1)).1
      let up := fun t => (k.hull (k.value (m t).1) (a t).2).1
      let g' := raiseFlags g (flagsOf (fun t => (m t).2) ts)
      let g' := putIv (putIv g' (tyOf f) f.d low ts) (tyOf f) (f.d + BitVec.ofNat 10 (ivRegs (tyOf f))) up ts
      .done (setGang s s.cur g') (pendD 0x128 f 4)

/-- IVCHK (R251). -/
def execIvchk (f : Fields) (s : State) : Host.Outcome State Fault Refusal :=
  issueLane 0x129 f s fun g ts =>
    match firstFailure ts (ivChecks s s.cur g (tyOf f) [(1, f.a, true)]) with
    | some fl => .trap s fl
    | none => predResult 0x129 f s 2 g ts fun t =>
        let a := ivVal s s.cur g (tyOf f) t f.a
        if (fmtOf (tyOf f)).classIv (readIv s s.cur g (tyOf f) t f.a) = .empty then triF
        else if a.1.isInf || a.2.isInf then triU else triT

end Sys2Proof.Machine
end

