-- ==== Sys2Proof/Machine/Blocks.lean ====
section
/-! DEFINITION. BX blocks: packing 16 values into a block and reading its elements (R129 to R131). -/

namespace Sys2Proof.Machine

/-- Magnitude bits M of a BX type (R129). -/
def bxM : Ty → Nat
  | .bx3 => 2
  | .bx5 => 4
  | _ => 7

/-- The exponent of an element's unit (R130): X − 127 − d − M + 1. -/
def bxUnit (x d m : Nat) : Int := (x : Int) - 126 - d - m

/-- The magnitude of a finite value over 2^u, rounded to an integer (R131). -/
def bxQuotient (mode : Rounding) (v : FVal) (u : Int) : Nat × Bool :=
  match v with
  | .fin _ m e => roundInt mode m (e - u)
  | _ => (0, false)

/-- The greatest of the finite magnitudes (R131). -/
def bxMax : List FVal → FVal
  | [] => .fin false 0 0
  | .fin _ m e :: r => FVal.max (.fin false m e) (bxMax r)
  | _ :: r => bxMax r

/-- Floor of log2 of a positive finite value. -/
def floorLog2 : FVal → Int
  | .fin _ m e => e + natBits m - 1
  | _ => 0

/-- The loop of BxPack: X and whether it saturated (R131). E rises at most twice. -/
def bxLoop (mode : Rounding) (amax : FVal) (m : Nat) : Nat → Int → Nat × Bool
  | 0, e => (min 254 (e + 127).toNat, true)
  | n + 1, e =>
    let x := (e + 127).toNat
    if x > 254 then (254, true)
    else if (bxQuotient mode amax (bxUnit x 0 m)).1 ≤ 2 ^ m - 1 then (x, false)
    else bxLoop mode amax m n (e + 1)

/-- The shift of a group: the largest d at which every value fits (R131). -/
def bxShift (mode : Rounding) (vs : List FVal) (x m : Nat) : Nat :=
  if vs.any FVal.isInf then 0
  else
    match [3, 2, 1, 0].find? fun d => vs.all fun v => decide ((bxQuotient mode v (bxUnit x d m)).1 ≤ 2 ^ m - 1) with
    | some d => d
    | none => 0

/-- BxPack of 16 values none of which is an abandoned encoding: the block and the flags (R131). -/
def bxPack (ty : Ty) (mode : Rounding) (vs : List FVal) : Nat × FlagSet :=
  let m := bxM ty
  if vs.any FVal.isNan then (255, flagNV)
  else
    let amax := bxMax vs
    let e0 : Int := if amax.isZero then -127 else floorLog2 amax
    let l := bxLoop mode amax m 4 e0
    let sat := vs.any FVal.isInf || l.2
    let ds := (List.range 4).map fun g => bxShift mode ((vs.drop (4 * g)).take 4) l.1 m
    let q := fun (i : Nat) => match vs[i]? with
      | some v => if v.isInf then (2 ^ m - 1, false) else bxQuotient mode v (bxUnit l.1 ((ds[i / 4]?).getD 0) m)
      | none => (0, false)
    let clamp := fun i => if sat then min (q i).1 (2 ^ m - 1) else (q i).1
    let inexact := (List.range 16).any fun i => (q i).2 || clamp i != (q i).1
    let sign := fun i => if ((vs[i]?).map FVal.isNeg).getD false then 1 else 0
    let elems := (List.range 16).foldl (fun n i => n + (clamp i + sign i * 2 ^ m) * 2 ^ (16 + (1 + m) * i)) 0
    let shifts := (List.range 4).foldl (fun n g => n + ((ds[g]?).getD 0) * 2 ^ (8 + 2 * g)) 0
    (l.1 + shifts + elems,
      (if sat then flagSAT ||| flagOF ||| flagNX else 0) ||| (if inexact then flagNX else 0))

/-- The value of element `i` of a block; every element of an invalid block is a NaN (R130). -/
def bxElement (ty : Ty) (block i : Nat) : FVal :=
  let m := bxM ty
  let x := bits block 0 8
  if x = 255 then .nan false
  else
    let d := bits block (8 + 2 * (i / 4)) 2
    .fin (bits block (16 + (1 + m) * i + m) 1 == 1) (bits block (16 + (1 + m) * i) m) (bxUnit x d m)

/-- Element `i` of a block as binary64, exactly (R130, R261). -/
def bxToF64 (ty : Ty) (block i : Nat) : Nat := (fmtF64.roundVal .rne (bxElement ty block i)).1

end Sys2Proof.Machine
end

