-- ==== Sys2Proof/WellFormed.lean ====
section
/-! DEFINITION. Well-formed instructions: their words pass steps 2 to 5 of R111, and the form they name can hold them; events
name units that exist (R14, R52, R394). -/

namespace Sys2Proof

open Machine

/-- What an instruction carries: the fields of its internal word, of its short form, or nothing encoded. -/
inductive Body where
  | full (opc : Nat) (f : Fields)
  | short (opc : Nat) (f : ShortFields)
  | event
  deriving DecidableEq, Repr

/-- The opcode and the fields of an instruction (R93, R97, R106). -/
def bodyOf : Instr → Body
  | .smov f => .full 0x000 f
  | .smovi f => .full 0x001 f
  | .sadd f => .full 0x002 f
  | .ssub f => .full 0x003 f
  | .smul f => .full 0x004 f
  | .smulh f => .full 0x005 f
  | .sdiv f => .full 0x006 f
  | .srem f => .full 0x007 f
  | .sand f => .full 0x008 f
  | .sor f => .full 0x009 f
  | .sxor f => .full 0x00A f
  | .snot f => .full 0x00B f
  | .sshl f => .full 0x00C f
  | .sshr f => .full 0x00D f
  | .ssar f => .full 0x00E f
  | .smin f => .full 0x00F f
  | .smax f => .full 0x010 f
  | .scmp f => .full 0x011 f
  | .ssel f => .full 0x012 f
  | .sclz f => .full 0x013 f
  | .spopc f => .full 0x014 f
  | .sbfx f => .full 0x015 f
  | .sbfi f => .full 0x016 f
  | .imov f => .full 0x040 f
  | .imovShort f => .short 0x040 f
  | .imovi f => .full 0x041 f
  | .imoviShort f => .short 0x041 f
  | .iadd f => .full 0x042 f
  | .iaddShort f => .short 0x042 f
  | .isub f => .full 0x043 f
  | .isubShort f => .short 0x043 f
  | .imul f => .full 0x044 f
  | .imulShort f => .short 0x044 f
  | .imulh f => .full 0x045 f
  | .idiv f => .full 0x046 f
  | .irem f => .full 0x047 f
  | .iand f => .full 0x048 f
  | .iandShort f => .short 0x048 f
  | .ior f => .full 0x049 f
  | .iorShort f => .short 0x049 f
  | .ixor f => .full 0x04A f
  | .ixorShort f => .short 0x04A f
  | .inot f => .full 0x04B f
  | .inotShort f => .short 0x04B f
  | .ishl f => .full 0x04C f
  | .ishlShort f => .short 0x04C f
  | .ishr f => .full 0x04D f
  | .ishrShort f => .short 0x04D f
  | .isar f => .full 0x04E f
  | .isarShort f => .short 0x04E f
  | .imin f => .full 0x04F f
  | .iminShort f => .short 0x04F f
  | .imax f => .full 0x050 f
  | .imaxShort f => .short 0x050 f
  | .icmp f => .full 0x051 f
  | .isel f => .full 0x052 f
  | .iclz f => .full 0x053 f
  | .iclzShort f => .short 0x053 f
  | .ipopc f => .full 0x054 f
  | .ipopcShort f => .short 0x054 f
  | .ibfx f => .full 0x055 f
  | .ibfi f => .full 0x056 f
  | .imad f => .full 0x057 f
  | .iabs f => .full 0x058 f
  | .iabsShort f => .short 0x058 f
  | .ineg f => .full 0x059 f
  | .inegShort f => .short 0x059 f
  | .irot f => .full 0x05A f
  | .sfrom f => .full 0x05B f
  | .pset f => .full 0x080 f
  | .pmov f => .full 0x081 f
  | .pand f => .full 0x082 f
  | .por f => .full 0x083 f
  | .pxor f => .full 0x084 f
  | .pnot f => .full 0x085 f
  | .pdec f => .full 0x086 f
  | .ptoi f => .full 0x087 f
  | .vote f => .full 0x088 f
  | .bra f => .full 0x090 f
  | .braShort f => .short 0x090 f
  | .brv f => .full 0x091 f
  | .jmpi f => .full 0x092 f
  | .call f => .full 0x093 f
  | .ret f => .full 0x094 f
  | .sloop f => .full 0x095 f
  | .rcv f => .full 0x096 f
  | .rcvShort f => .short 0x096 f
  | .exit f => .full 0x097 f
  | .exitShort f => .short 0x097 f
  | .quit f => .full 0x098 f
  | .quitShort f => .short 0x098 f
  | .nop f => .full 0x099 f
  | .nopShort f => .short 0x099 f
  | .emset f => .full 0x09A f
  | .emget f => .full 0x09B f
  | .fmov f => .full 0x0C0 f
  | .fmovShort f => .short 0x0C0 f
  | .fadd f => .full 0x0C1 f
  | .faddShort f => .short 0x0C1 f
  | .fsub f => .full 0x0C2 f
  | .fsubShort f => .short 0x0C2 f
  | .fmul f => .full 0x0C3 f
  | .fmulShort f => .short 0x0C3 f
  | .ffma f => .full 0x0C4 f
  | .fdiv f => .full 0x0C5 f
  | .fsqrt f => .full 0x0C6 f
  | .fmin f => .full 0x0C7 f
  | .fminShort f => .short 0x0C7 f
  | .fmax f => .full 0x0C8 f
  | .fmaxShort f => .short 0x0C8 f
  | .fabs f => .full 0x0C9 f
  | .fabsShort f => .short 0x0C9 f
  | .fneg f => .full 0x0CA f
  | .fnegShort f => .short 0x0CA f
  | .fcmp f => .full 0x0CB f
  | .fclass f => .full 0x0CC f
  | .frnd f => .full 0x0CD f
  | .fscale f => .full 0x0CE f
  | .fexp2 f => .full 0x0CF f
  | .flog2 f => .full 0x0D0 f
  | .frcpa f => .full 0x0D1 f
  | .fmovIv f => .full 0x100 f
  | .faddIv f => .full 0x101 f
  | .fsubIv f => .full 0x102 f
  | .fmulIv f => .full 0x103 f
  | .ffmaIv f => .full 0x104 f
  | .fdivIv f => .full 0x105 f
  | .fsqrtIv f => .full 0x106 f
  | .fminIv f => .full 0x107 f
  | .fmaxIv f => .full 0x108 f
  | .fabsIv f => .full 0x109 f
  | .fnegIv f => .full 0x10A f
  | .fcmpIv f => .full 0x10B f
  | .ivmk f => .full 0x120 f
  | .ivlo f => .full 0x121 f
  | .ivhi f => .full 0x122 f
  | .ivmid f => .full 0x123 f
  | .ivwid f => .full 0x124 f
  | .ivhull f => .full 0x125 f
  | .ivmeet f => .full 0x126 f
  | .ivin f => .full 0x127 f
  | .ivsplit f => .full 0x128 f
  | .ivchk f => .full 0x129 f
  | .bisect f => .full 0x12A f
  | .cvt f => .full 0x140 f
  | .bxpk f => .full 0x141 f
  | .bxupk f => .full 0x142 f
  | .ldt f => .full 0x180 f
  | .stt f => .full 0x181 f
  | .ldu f => .full 0x182 f
  | .stu f => .full 0x183 f
  | .line f => .full 0x184 f
  | .shfx f => .full 0x185 f
  | .gath f => .full 0x186 f
  | .scat f => .full 0x187 f
  | .rebal f => .full 0x188 f
  | .pref f => .full 0x189 f
  | .cflush f => .full 0x18A f
  | .cinv f => .full 0x18B f
  | .tdset f => .full 0x18C f
  | .tdget f => .full 0x18D f
  | .tdinv f => .full 0x18E f
  | .atomAdd f => .full 0x1C0 f
  | .atomMin f => .full 0x1C1 f
  | .atomMax f => .full 0x1C2 f
  | .atomAnd f => .full 0x1C3 f
  | .atomOr f => .full 0x1C4 f
  | .atomXor f => .full 0x1C5 f
  | .atomExch f => .full 0x1C6 f
  | .acas f => .full 0x1D0 f
  | .fence f => .full 0x1D1 f
  | .wait f => .full 0x1D2 f
  | .mlds f => .full 0x200 f
  | .mswap f => .full 0x201 f
  | .mswapShort f => .short 0x201 f
  | .maccz f => .full 0x202 f
  | .macc f => .full 0x203 f
  | .mdrn f => .full 0x204 f
  | .msto f => .full 0x205 f
  | .mrd f => .full 0x206 f
  | .mfence f => .full 0x207 f
  | .mfenceShort f => .short 0x207 f
  | .mrel f => .full 0x208 f
  | .vacczSign f => .full 0x240 f
  | .vacczGt f => .full 0x241 f
  | .vacczTopk f => .full 0x242 f
  | .vaccSign f => .full 0x244 f
  | .vaccGt f => .full 0x245 f
  | .vaccTopk f => .full 0x246 f
  | .vtest f => .full 0x248 f
  | .tkins f => .full 0x249 f
  | .cpy f => .full 0x280 f
  | .cpym f => .full 0x281 f
  | .binit f => .full 0x282 f
  | .bexp f => .full 0x283 f
  | .barv f => .full 0x284 f
  | .bwait f => .full 0x285 f
  | .btry f => .full 0x286 f
  | .rresInit f => .full 0x287 f
  | .rres f => .full 0x287 f
  | .rcmt f => .full 0x288 f
  | .racq f => .full 0x289 f
  | .rrel f => .full 0x28A f
  | .gbar f => .full 0x28B f
  | .gbarShort f => .short 0x28B f
  | .emit f => .full 0x2C0 f
  | .emith f => .full 0x2C1 f
  | .emitr f => .full 0x2C2 f
  | .jinit f => .full 0x2C3 f
  | .jarr f => .full 0x2C4 f
  | .fbm f => .full 0x2C5 f
  | .fbmShort f => .short 0x2C5 f
  | .trap f => .full 0x300 f
  | .trapShort f => .short 0x300 f
  | .tret f => .full 0x301 f
  | .tretShort f => .short 0x301 f
  | .rdsr f => .full 0x302 f
  | .wrsr f => .full 0x303 f
  | .plate f => .full 0x304 f
  | .plateShort f => .short 0x304 f
  | .brk f => .full 0x305 f
  | .brkShort f => .short 0x305 f
  | .rcvTimeout _ => .event
  | .loadComplete _ => .event
  | .storeComplete _ => .event
  | .matrixOpComplete _ _ => .event
  | .markOverdueCount _ => .event
  | .markOverdueHeld _ => .event
  | .copyComplete _ => .event
  | .copyFault _ _ _ => .event
  | .barrierRootArrival => .event
  | .barrierBroadcast _ => .event
  | .barrierOverrun _ => .event
  | .doorbell _ _ _ => .event
  | .launchStart _ => .event
  | .entryEnqueue _ _ => .event
  | .launchCompletion _ _ => .event
  | .workgroupGather _ _ _ _ _ => .event
  | .flushTimeout _ _ _ _ _ => .event
  | .shadowPrefetchComplete _ => .event
  | .workgroupLaunch _ _ => .event
  | .governorReassign _ _ _ _ => .event
  | .emissionReplace _ => .event
  | .workgroupEnd _ => .event
  | .remoteRecordArrival _ _ _ _ => .event
  | .inboxTransfer _ _ _ => .event
  | .remoteAck _ _ _ _ => .event
  | .remoteAccessArrival _ => .event
  | .uetWriteArrival _ _ _ _ => .event
  | .translationWalk _ => .event
  | .walkComplete _ => .event
  | .prreply _ => .event
  | .atsCompletion _ _ _ => .event
  | .atsInvalidateRequest _ _ _ => .event
  | .priResponse _ _ _ => .event
  | .tlbinvStage1Range _ _ _ _ => .event
  | .tlbinvStage1All _ _ => .event
  | .tlbinvStage2Range _ _ _ _ => .event
  | .tlbinvAll _ _ => .event
  | .tlbinvComplete _ => .event
  | .s1rootWrite _ _ => .event
  | .s2rootWrite _ _ => .event
  | .prqbaseWrite _ _ => .event
  | .partcmdDefine _ => .event
  | .partcmdDelete _ => .event
  | .cellresWrite _ _ => .event
  | .bktProfileWrite _ _ _ => .event
  | .policyWrite _ _ => .event
  | .qassignWrite _ _ _ => .event
  | .bucketAccrual => .event
  | .arbitrationRound _ _ _ => .event
  | .cellReclaim _ => .event
  | .sliceExpiry _ => .event
  | .preemptVf _ => .event
  | .preemptPartition _ => .event
  | .saveComplete _ => .event
  | .workgroupResume _ _ _ => .event
  | .hangRuntime _ _ => .event
  | .hangUnitTimeout _ => .event
  | .linkFailure _ => .event
  | .sramUncorrectable _ _ _ => .event
  | .softErrorCorrected _ _ => .event
  | .l2LineRepair _ => .event
  | .linePoison _ => .event
  | .thermalTrip => .event
  | .throttleChange _ => .event
  | .watchEventWrite => .event
  | .weqstatClear _ => .event
  | .plateFire => .event
  | .qringEnable _ _ _ => .event
  | .qringDisable _ _ _ => .event
  | .queueResume _ _ => .event
  | .eventSet _ _ _ => .event
  | .eventClear _ _ _ => .event
  | .drainEnter _ _ => .event
  | .drainReturn _ _ => .event
  | .drainComplete _ _ => .event
  | .bar2Access _ _ _ _ => .event
  | .pfBar2Access _ _ _ => .event
  | .surveyRefresh _ => .event
  | .linkStateChange _ _ _ => .event
  | .spdmRequest _ _ => .event
  | .manifestUpdate _ => .event
  | .coldReset => .event
  | .stackGroupReady _ => .event
  | .registerWrite _ _ _ => .event
  | .brkRelease _ => .event
  | .thermalTripRelease => .event

/-- Whether the medium form can hold an internal word: RND is 0, each register field has a compact number, every other field
lies below 128, and 14 bits expand to the immediate (R97, R98). -/
def fitsMedium (opc : Nat) (f : Fields) : Bool :=
  let k := registerFields opc
  let ok := fun (r : Bool) (x : BitVec 10) => if r then (mediumOf x).isSome else decide (x.toNat < 128)
  f.rnd == 0 && ok k.1 f.d && ok k.2.1 f.a && ok k.2.2.1 f.b && ok k.2.2.2 f.c
    && (match opInfo opc with
        | none => false
        | some i => (mediumImmOf i.family f.imm.toNat).isSome)

/-- The check of a medium or long form: its form is one of the two, R111 finds nothing, and the form can hold it. -/
def wfFull (opc : Nat) (f : Fields) : Bool :=
  (match f.len with
   | .short => false
   | .medium => fitsMedium opc f
   | .long => true) && (checkWord opc f).isNone

/-- The check of a short form (R111). -/
def wfShort (opc : Nat) (f : ShortFields) : Bool := (checkWord opc (expandShort opc f)).isNone

/-- RRES and RRES.init share an opcode and differ in IMM[5] (R299). -/
def wfSplit : Instr → Bool
  | .rres f => field f.imm.toNat 5 5 == 0
  | .rresInit f => field f.imm.toNat 5 5 == 1
  | _ => true

/-- Gang slots (R14). -/
def wfSlot (n : Nat) : Bool := decide (n < 8192)
/-- Virtual functions (R394). -/
def wfVf (n : Nat) : Bool := decide (n < 1024)
/-- Cells (R14). -/
def wfCell (n : Nat) : Bool := decide (n < 512)

/-- A write or an AtomicOp has the size of its data (R394). -/
def wfBar (size : Nat) : BarOp → Bool
  | .read => true
  | .write data | .atomic _ data _ => data.length == size

/-- The units an event names exist. -/
def wfEvent : Instr → Bool
  | .rcvTimeout slot => wfSlot slot
  | .loadComplete slot => wfSlot slot
  | .storeComplete slot => wfSlot slot
  | .matrixOpComplete bay slot => decide (bay < 2048) && wfSlot slot
  | .markOverdueCount slot => wfSlot slot
  | .markOverdueHeld slot => wfSlot slot
  | .barrierBroadcast cell => wfCell cell
  | .barrierOverrun slot => wfSlot slot
  | .doorbell vf q _ => wfVf vf && decide (q < 64)
  | .launchStart vf => wfVf vf
  | .entryEnqueue vf lslot => wfVf vf && decide (lslot < 64)
  | .launchCompletion vf lslot => wfVf vf && decide (lslot < 64)
  | .workgroupGather vf lslot node stack cell => wfVf vf && decide (lslot < 64) && decide (node < 4096) && decide (stack < 8) && wfCell cell
  | .flushTimeout vf lslot node stack cell => wfVf vf && decide (lslot < 64) && decide (node < 4096) && decide (stack < 8) && wfCell cell
  | .governorReassign cell vf lslot node => wfCell cell && wfVf vf && decide (lslot < 64) && decide (node < 4096)
  | .emissionReplace slot => wfSlot slot
  | .remoteRecordArrival link _ _ _ => decide (link < 28)
  | .inboxTransfer vf lslot _ => wfVf vf && decide (lslot < 64)
  | .remoteAck vf lslot _ _ => wfVf vf && decide (lslot < 64)
  | .atsCompletion vf _ _ => wfVf vf
  | .atsInvalidateRequest vf _ _ => wfVf vf
  | .priResponse vf _ _ => wfVf vf
  | .tlbinvStage1Range vf _ _ _ => wfVf vf
  | .tlbinvStage1All vf _ => wfVf vf
  | .tlbinvStage2Range vf _ _ _ => wfVf vf
  | .tlbinvAll vf _ => wfVf vf
  | .tlbinvComplete vf => wfVf vf
  | .s1rootWrite vf _ => wfVf vf
  | .s2rootWrite vf _ => wfVf vf
  | .prqbaseWrite vf _ => wfVf vf
  | .partcmdDefine part => decide (part < 32)
  | .partcmdDelete part => decide (part < 32)
  | .cellresWrite cell _ => wfCell cell
  | .bktProfileWrite vf kind _ => wfVf vf && decide (kind < 8)
  | .policyWrite vf _ => wfVf vf
  | .qassignWrite vf q _ => wfVf vf && decide (q < 64)
  | .cellReclaim cell => wfCell cell
  | .preemptVf vf => wfVf vf
  | .preemptPartition part => decide (part < 32)
  | .workgroupResume _ cell _ => wfCell cell
  | .hangRuntime vf lslot => wfVf vf && decide (lslot < 64)
  | .hangUnitTimeout part => decide (part < 32)
  | .linkFailure link => decide (link < 28)
  | .weqstatClear vf => wfVf vf
  | .qringEnable vf q _ => wfVf vf && decide (q < 64)
  | .qringDisable vf q _ => wfVf vf && decide (q < 64)
  | .queueResume vf q => wfVf vf && decide (q < 64)
  | .eventSet vf word _ => wfVf vf && decide (word < 4)
  | .eventClear vf word _ => wfVf vf && decide (word < 4)
  | .bar2Access vf _ size op => wfVf vf && wfBar size op
  | .pfBar2Access _ size op => wfBar size op
  | .remoteAccessArrival acc => decide (acc.station < 24)
  | .sramUncorrectable _ die detail => decide (die < (if detail = 5 then 6 else 4)) && decide (detail < 6) && detail != 2
  | .softErrorCorrected die kind => decide (die < (if kind = 5 then 6 else 4)) && decide (kind < 6)
  | .throttleChange report => decide (report.die < 14)
  | .linkStateChange link _ _ => decide (link < 28)
  | .stackGroupReady stack => decide (stack < 8)
  | .brkRelease slot => wfSlot slot
  | _ => true

/-- A well-formed instruction. -/
def wellFormed (i : Instr) : Bool :=
  match bodyOf i with
  | .full opc f => wfFull opc f && wfSplit i
  | .short opc f => wfShort opc f
  | .event => wfEvent i

/-- Whether an instruction has an encoding; events have none. -/
def encoded (i : Instr) : Bool :=
  match bodyOf i with
  | .event => false
  | _ => true

end Sys2Proof
end

