-- ==== Sys2Proof/Decode.lean ====
section
/-! DEFINITION. The decoder, total on any bytes (R89, R97, R98, R111), and the encoder, its inverse on well-formed
instructions. -/

namespace Sys2Proof

open Machine

/-- What the decoder answers: an instruction with its form, the fault of R111 with the form, or too few bytes. -/
inductive Decoded where
  | instr (i : Instr) (len : Form)
  | fault (d : DecodeFault) (len : Form)
  | truncated (len : Form)
  deriving DecidableEq, Repr

/-- The form that the first byte fixes (R89). -/
def formOf (b : Byte) : Form :=
  if b.getLsbD 0 = false then .short
  else if b.getLsbD 1 = false then .medium
  else .long

/-- The instruction of class 0x0 with a function number (R106 to R110). -/
def fullOf0 (fn : Nat) (f : Fields) : Option Instr :=
  match fn with
  | 0x00 => some (.smov f)
  | 0x01 => some (.smovi f)
  | 0x02 => some (.sadd f)
  | 0x03 => some (.ssub f)
  | 0x04 => some (.smul f)
  | 0x05 => some (.smulh f)
  | 0x06 => some (.sdiv f)
  | 0x07 => some (.srem f)
  | 0x08 => some (.sand f)
  | 0x09 => some (.sor f)
  | 0x0A => some (.sxor f)
  | 0x0B => some (.snot f)
  | 0x0C => some (.sshl f)
  | 0x0D => some (.sshr f)
  | 0x0E => some (.ssar f)
  | 0x0F => some (.smin f)
  | 0x10 => some (.smax f)
  | 0x11 => some (.scmp f)
  | 0x12 => some (.ssel f)
  | 0x13 => some (.sclz f)
  | 0x14 => some (.spopc f)
  | 0x15 => some (.sbfx f)
  | 0x16 => some (.sbfi f)
  | _ => none

/-- The instruction of class 0x1 with a function number (R106 to R110). -/
def fullOf1 (fn : Nat) (f : Fields) : Option Instr :=
  match fn with
  | 0x00 => some (.imov f)
  | 0x01 => some (.imovi f)
  | 0x02 => some (.iadd f)
  | 0x03 => some (.isub f)
  | 0x04 => some (.imul f)
  | 0x05 => some (.imulh f)
  | 0x06 => some (.idiv f)
  | 0x07 => some (.irem f)
  | 0x08 => some (.iand f)
  | 0x09 => some (.ior f)
  | 0x0A => some (.ixor f)
  | 0x0B => some (.inot f)
  | 0x0C => some (.ishl f)
  | 0x0D => some (.ishr f)
  | 0x0E => some (.isar f)
  | 0x0F => some (.imin f)
  | 0x10 => some (.imax f)
  | 0x11 => some (.icmp f)
  | 0x12 => some (.isel f)
  | 0x13 => some (.iclz f)
  | 0x14 => some (.ipopc f)
  | 0x15 => some (.ibfx f)
  | 0x16 => some (.ibfi f)
  | 0x17 => some (.imad f)
  | 0x18 => some (.iabs f)
  | 0x19 => some (.ineg f)
  | 0x1A => some (.irot f)
  | 0x1B => some (.sfrom f)
  | _ => none

/-- The instruction of class 0x2 with a function number (R106 to R110). -/
def fullOf2 (fn : Nat) (f : Fields) : Option Instr :=
  match fn with
  | 0x00 => some (.pset f)
  | 0x01 => some (.pmov f)
  | 0x02 => some (.pand f)
  | 0x03 => some (.por f)
  | 0x04 => some (.pxor f)
  | 0x05 => some (.pnot f)
  | 0x06 => some (.pdec f)
  | 0x07 => some (.ptoi f)
  | 0x08 => some (.vote f)
  | 0x10 => some (.bra f)
  | 0x11 => some (.brv f)
  | 0x12 => some (.jmpi f)
  | 0x13 => some (.call f)
  | 0x14 => some (.ret f)
  | 0x15 => some (.sloop f)
  | 0x16 => some (.rcv f)
  | 0x17 => some (.exit f)
  | 0x18 => some (.quit f)
  | 0x19 => some (.nop f)
  | 0x1A => some (.emset f)
  | 0x1B => some (.emget f)
  | _ => none

/-- The instruction of class 0x3 with a function number (R106 to R110). -/
def fullOf3 (fn : Nat) (f : Fields) : Option Instr :=
  match fn with
  | 0x00 => some (.fmov f)
  | 0x01 => some (.fadd f)
  | 0x02 => some (.fsub f)
  | 0x03 => some (.fmul f)
  | 0x04 => some (.ffma f)
  | 0x05 => some (.fdiv f)
  | 0x06 => some (.fsqrt f)
  | 0x07 => some (.fmin f)
  | 0x08 => some (.fmax f)
  | 0x09 => some (.fabs f)
  | 0x0A => some (.fneg f)
  | 0x0B => some (.fcmp f)
  | 0x0C => some (.fclass f)
  | 0x0D => some (.frnd f)
  | 0x0E => some (.fscale f)
  | 0x0F => some (.fexp2 f)
  | 0x10 => some (.flog2 f)
  | 0x11 => some (.frcpa f)
  | _ => none

/-- The instruction of class 0x4 with a function number (R106 to R110). -/
def fullOf4 (fn : Nat) (f : Fields) : Option Instr :=
  match fn with
  | 0x00 => some (.fmovIv f)
  | 0x01 => some (.faddIv f)
  | 0x02 => some (.fsubIv f)
  | 0x03 => some (.fmulIv f)
  | 0x04 => some (.ffmaIv f)
  | 0x05 => some (.fdivIv f)
  | 0x06 => some (.fsqrtIv f)
  | 0x07 => some (.fminIv f)
  | 0x08 => some (.fmaxIv f)
  | 0x09 => some (.fabsIv f)
  | 0x0A => some (.fnegIv f)
  | 0x0B => some (.fcmpIv f)
  | 0x20 => some (.ivmk f)
  | 0x21 => some (.ivlo f)
  | 0x22 => some (.ivhi f)
  | 0x23 => some (.ivmid f)
  | 0x24 => some (.ivwid f)
  | 0x25 => some (.ivhull f)
  | 0x26 => some (.ivmeet f)
  | 0x27 => some (.ivin f)
  | 0x28 => some (.ivsplit f)
  | 0x29 => some (.ivchk f)
  | 0x2A => some (.bisect f)
  | _ => none

/-- The instruction of class 0x5 with a function number (R106 to R110). -/
def fullOf5 (fn : Nat) (f : Fields) : Option Instr :=
  match fn with
  | 0x00 => some (.cvt f)
  | 0x01 => some (.bxpk f)
  | 0x02 => some (.bxupk f)
  | _ => none

/-- The instruction of class 0x6 with a function number (R106 to R110). -/
def fullOf6 (fn : Nat) (f : Fields) : Option Instr :=
  match fn with
  | 0x00 => some (.ldt f)
  | 0x01 => some (.stt f)
  | 0x02 => some (.ldu f)
  | 0x03 => some (.stu f)
  | 0x04 => some (.line f)
  | 0x05 => some (.shfx f)
  | 0x06 => some (.gath f)
  | 0x07 => some (.scat f)
  | 0x08 => some (.rebal f)
  | 0x09 => some (.pref f)
  | 0x0A => some (.cflush f)
  | 0x0B => some (.cinv f)
  | 0x0C => some (.tdset f)
  | 0x0D => some (.tdget f)
  | 0x0E => some (.tdinv f)
  | _ => none

/-- The instruction of class 0x7 with a function number (R106 to R110). -/
def fullOf7 (fn : Nat) (f : Fields) : Option Instr :=
  match fn with
  | 0x00 => some (.atomAdd f)
  | 0x01 => some (.atomMin f)
  | 0x02 => some (.atomMax f)
  | 0x03 => some (.atomAnd f)
  | 0x04 => some (.atomOr f)
  | 0x05 => some (.atomXor f)
  | 0x06 => some (.atomExch f)
  | 0x10 => some (.acas f)
  | 0x11 => some (.fence f)
  | 0x12 => some (.wait f)
  | _ => none

/-- The instruction of class 0x8 with a function number (R106 to R110). -/
def fullOf8 (fn : Nat) (f : Fields) : Option Instr :=
  match fn with
  | 0x00 => some (.mlds f)
  | 0x01 => some (.mswap f)
  | 0x02 => some (.maccz f)
  | 0x03 => some (.macc f)
  | 0x04 => some (.mdrn f)
  | 0x05 => some (.msto f)
  | 0x06 => some (.mrd f)
  | 0x07 => some (.mfence f)
  | 0x08 => some (.mrel f)
  | _ => none

/-- The instruction of class 0x9 with a function number (R106 to R110). -/
def fullOf9 (fn : Nat) (f : Fields) : Option Instr :=
  match fn with
  | 0x00 => some (.vacczSign f)
  | 0x01 => some (.vacczGt f)
  | 0x02 => some (.vacczTopk f)
  | 0x04 => some (.vaccSign f)
  | 0x05 => some (.vaccGt f)
  | 0x06 => some (.vaccTopk f)
  | 0x08 => some (.vtest f)
  | 0x09 => some (.tkins f)
  | _ => none

/-- The instruction of class 0xa with a function number (R106 to R110). -/
def fullOfA (fn : Nat) (f : Fields) : Option Instr :=
  match fn with
  | 0x00 => some (.cpy f)
  | 0x01 => some (.cpym f)
  | 0x02 => some (.binit f)
  | 0x03 => some (.bexp f)
  | 0x04 => some (.barv f)
  | 0x05 => some (.bwait f)
  | 0x06 => some (.btry f)
  | 0x07 => some (if field f.imm.toNat 5 5 = 1 then .rresInit f else .rres f)
  | 0x08 => some (.rcmt f)
  | 0x09 => some (.racq f)
  | 0x0A => some (.rrel f)
  | 0x0B => some (.gbar f)
  | _ => none

/-- The instruction of class 0xb with a function number (R106 to R110). -/
def fullOfB (fn : Nat) (f : Fields) : Option Instr :=
  match fn with
  | 0x00 => some (.emit f)
  | 0x01 => some (.emith f)
  | 0x02 => some (.emitr f)
  | 0x03 => some (.jinit f)
  | 0x04 => some (.jarr f)
  | 0x05 => some (.fbm f)
  | _ => none

/-- The instruction of class 0xc with a function number (R106 to R110). -/
def fullOfC (fn : Nat) (f : Fields) : Option Instr :=
  match fn with
  | 0x00 => some (.trap f)
  | 0x01 => some (.tret f)
  | 0x02 => some (.rdsr f)
  | 0x03 => some (.wrsr f)
  | 0x04 => some (.plate f)
  | 0x05 => some (.brk f)
  | _ => none

/-- The instruction of an opcode in the medium or long form (R106 to R110). -/
def fullOf (opc : Nat) (f : Fields) : Option Instr :=
  match opc / 64 with
  | 0x0 => fullOf0 (opc % 64) f
  | 0x1 => fullOf1 (opc % 64) f
  | 0x2 => fullOf2 (opc % 64) f
  | 0x3 => fullOf3 (opc % 64) f
  | 0x4 => fullOf4 (opc % 64) f
  | 0x5 => fullOf5 (opc % 64) f
  | 0x6 => fullOf6 (opc % 64) f
  | 0x7 => fullOf7 (opc % 64) f
  | 0x8 => fullOf8 (opc % 64) f
  | 0x9 => fullOf9 (opc % 64) f
  | 0xA => fullOfA (opc % 64) f
  | 0xB => fullOfB (opc % 64) f
  | 0xC => fullOfC (opc % 64) f
  | _ => none

/-- The short form of class 0x1 with a function number (R108 to R110). -/
def shortOf1 (fn : Nat) (f : ShortFields) : Option Instr :=
  match fn with
  | 0x00 => some (.imovShort f)
  | 0x01 => some (.imoviShort f)
  | 0x02 => some (.iaddShort f)
  | 0x03 => some (.isubShort f)
  | 0x04 => some (.imulShort f)
  | 0x08 => some (.iandShort f)
  | 0x09 => some (.iorShort f)
  | 0x0A => some (.ixorShort f)
  | 0x0B => some (.inotShort f)
  | 0x0C => some (.ishlShort f)
  | 0x0D => some (.ishrShort f)
  | 0x0E => some (.isarShort f)
  | 0x0F => some (.iminShort f)
  | 0x10 => some (.imaxShort f)
  | 0x13 => some (.iclzShort f)
  | 0x14 => some (.ipopcShort f)
  | 0x18 => some (.iabsShort f)
  | 0x19 => some (.inegShort f)
  | _ => none

/-- The short form of class 0x2 with a function number (R108 to R110). -/
def shortOf2 (fn : Nat) (f : ShortFields) : Option Instr :=
  match fn with
  | 0x10 => some (.braShort f)
  | 0x16 => some (.rcvShort f)
  | 0x17 => some (.exitShort f)
  | 0x18 => some (.quitShort f)
  | 0x19 => some (.nopShort f)
  | _ => none

/-- The short form of class 0x3 with a function number (R108 to R110). -/
def shortOf3 (fn : Nat) (f : ShortFields) : Option Instr :=
  match fn with
  | 0x00 => some (.fmovShort f)
  | 0x01 => some (.faddShort f)
  | 0x02 => some (.fsubShort f)
  | 0x03 => some (.fmulShort f)
  | 0x07 => some (.fminShort f)
  | 0x08 => some (.fmaxShort f)
  | 0x09 => some (.fabsShort f)
  | 0x0A => some (.fnegShort f)
  | _ => none

/-- The short form of class 0x8 with a function number (R108 to R110). -/
def shortOf8 (fn : Nat) (f : ShortFields) : Option Instr :=
  match fn with
  | 0x01 => some (.mswapShort f)
  | 0x07 => some (.mfenceShort f)
  | _ => none

/-- The short form of class 0xa with a function number (R108 to R110). -/
def shortOfA (fn : Nat) (f : ShortFields) : Option Instr :=
  match fn with
  | 0x0B => some (.gbarShort f)
  | _ => none

/-- The short form of class 0xb with a function number (R108 to R110). -/
def shortOfB (fn : Nat) (f : ShortFields) : Option Instr :=
  match fn with
  | 0x05 => some (.fbmShort f)
  | _ => none

/-- The short form of class 0xc with a function number (R108 to R110). -/
def shortOfC (fn : Nat) (f : ShortFields) : Option Instr :=
  match fn with
  | 0x00 => some (.trapShort f)
  | 0x01 => some (.tretShort f)
  | 0x04 => some (.plateShort f)
  | 0x05 => some (.brkShort f)
  | _ => none

/-- The instruction of an opcode in the short form (R108 to R110). -/
def shortOf (opc : Nat) (f : ShortFields) : Option Instr :=
  match opc / 64 with
  | 0x1 => shortOf1 (opc % 64) f
  | 0x2 => shortOf2 (opc % 64) f
  | 0x3 => shortOf3 (opc % 64) f
  | 0x8 => shortOf8 (opc % 64) f
  | 0xA => shortOfA (opc % 64) f
  | 0xB => shortOfB (opc % 64) f
  | 0xC => shortOfC (opc % 64) f
  | _ => none

/-- Checks an internal word and names its instruction (R111, steps 2 to 5). -/
def decodeFull (opc : Nat) (f : Fields) : Decoded :=
  match checkWord opc f with
  | some d => .fault d f.len
  | none =>
    match fullOf opc f with
    | some i => .instr i f.len
    | none => .fault ⟨.illegalOpcode, encodingTval opc f.len 0⟩ f.len

/-- Checks a short form and names its instruction (R111, steps 2 to 5). -/
def decodeShort (opc : Nat) (f : ShortFields) : Decoded :=
  match checkWord opc (expandShort opc f) with
  | some d => .fault d .short
  | none =>
    match shortOf opc f with
    | some i => .instr i .short
    | none => .fault ⟨.illegalOpcode, encodingTval opc .short 0⟩ .short

/-- The fields of a short form (R97). -/
def shortFields (w : Nat) : ShortFields :=
  ⟨BitVec.ofNat 5 (bits w 11 5), BitVec.ofNat 5 (bits w 16 5), BitVec.ofNat 5 (bits w 21 5), BitVec.ofNat 6 (bits w 26 6)⟩

/-- Decodes the bits of one form (R97, R98). -/
def decodeForm (len : Form) (w : Nat) : Decoded :=
  match len with
  | .short => decodeShort (bits w 1 10) (shortFields w)
  | .medium => decodeFull (bits w 2 10) (expandMedium (bits w 2 10) w)
  | .long => decodeFull (bits w 86 10) (expandLong w)

/-- The opcode and the expanded fields of the bits of one form, whatever they name (R97, R98). -/
def fieldsOf (len : Form) (w : Nat) : Nat × Fields :=
  match len with
  | .short => (bits w 1 10, expandShort (bits w 1 10) (shortFields w))
  | .medium => (bits w 2 10, expandMedium (bits w 2 10) w)
  | .long => (bits w 86 10, expandLong w)

/-- Decodes the bytes at an instruction's address (R89 to R91, R111). -/
def decode (l : List Byte) : Decoded :=
  match l with
  | [] => .truncated .short
  | b :: _ =>
    if l.length < formBytes (formOf b) then .truncated (formOf b)
    else decodeForm (formOf b) (bytesToNat (l.take (formBytes (formOf b))))

/-- The compact number of one specifier of a medium form. -/
def compact (isReg : Bool) (x : BitVec 10) : Nat := if isReg then (mediumOf x).getD 0 else x.toNat

/-- The bits of a short form (R97). -/
def shortWord (opc : Nat) (f : ShortFields) : Nat :=
  opc * 2 + f.d.toNat * 2 ^ 11 + f.a.toNat * 2 ^ 16 + f.b.toNat * 2 ^ 21 + f.imm6.toNat * 2 ^ 26

/-- The bits of a medium form (R97). -/
def mediumWord (opc : Nat) (f : Fields) : Nat :=
  let k := registerFields opc
  let imm := match opInfo opc with
    | none => 0
    | some i => (mediumImmOf i.family f.imm.toNat).getD 0
  1 + opc * 2 ^ 2 + f.typ.toNat * 2 ^ 12 + f.grd.toNat * 2 ^ 17 + compact k.1 f.d * 2 ^ 22 + compact k.2.1 f.a * 2 ^ 29
    + compact k.2.2.1 f.b * 2 ^ 36 + compact k.2.2.2 f.c * 2 ^ 43 + imm * 2 ^ 50

/-- The bits of a long form: internal bits [93:0] above 0b11 (R93, R97). -/
def longWord (opc : Nat) (f : Fields) : Nat :=
  3 + f.imm.toNat * 2 ^ 2 + f.c.toNat * 2 ^ 33 + f.b.toNat * 2 ^ 43 + f.a.toNat * 2 ^ 53 + f.d.toNat * 2 ^ 63
    + f.grd.toNat * 2 ^ 73 + f.rnd.toNat * 2 ^ 78 + f.typ.toNat * 2 ^ 81 + opc * 2 ^ 86

/-- The bytes of a well-formed instruction; events have none. -/
def encode (i : Instr) : List Byte :=
  match bodyOf i with
  | .full opc f =>
    match f.len with
    | .short => []
    | .medium => natToBytes 8 (mediumWord opc f)
    | .long => natToBytes 12 (longWord opc f)
  | .short opc f => natToBytes 4 (shortWord opc f)
  | .event => []

/-- The instruction the decoder reads from the bits `w` of a table row, zero above `nbits` (R89, R97). -/
def decodeTableWord (nbits w : Nat) : Option Instr :=
  match decode (natToBytes 12 (w % 2 ^ nbits)) with
  | .instr i _ => some i
  | _ => none

end Sys2Proof
end

