-- ==== Sys2Proof/Machine/Preempt.lean ====
section
/-! DEFINITION. Flashback pre-emption: pending requests, the stop of gangs at boundaries and marks, and the save of a
workgroup (R379 to R383). -/

namespace Sys2Proof.Machine

/-- The resume-latency class of a VF (R359, R371). -/
def rlcOf (s : State) (vf : Nat) : Nat := bits (regGet s (pageReg vf 0)) 45 2

/-- The save-area register of a VF and class (R382). -/
def saveArea (s : State) (vf rlc : Nat) : Nat := regGet s (pageReg vf (0x40 + 8 * rlc))

/-- The save slots of a VF and class that workgroups hold (R382). -/
def slotsHeld (s : State) (vf rlc : Nat) : List Nat :=
  s.workgroups.flatMap fun e =>
    if e.2.vf = vf then
      (if e.2.saveClass = rlc then e.2.saveSlots else []) ++ (e.2.keptSlots.filter fun x => x.2.1 == rlc).map (·.2.2)
    else []

/-- `n` free save slots of a VF, in the class of its RLC (R382). -/
def takeSlots (s : State) (vf n : Nat) : Option (List Nat) :=
  let held := slotsHeld s vf (rlcOf s vf)
  let free := ((List.range (bits (saveArea s vf (rlcOf s vf)) 0 16)).filter fun k => !held.contains k).take n
  if free.length = n then some free else none

/-- A workgroup with save slots set aside (R382). -/
def Workgroup.hold (w : Workgroup) (slots : List Nat) (rlc : Nat) : Workgroup := { w with saveSlots := slots, saveClass := rlc }

/-- A pending pre-emption is acted on where its save slots are set aside or enough are free (R382). -/
def actPreempt (s : State) (wg : Nat) : State :=
  match mapGet s.workgroups wg with
  | none => s
  | some w =>
    if !w.preempt || w.acted then s
    else if !w.saveSlots.isEmpty then { s with workgroups := mapSet s.workgroups wg { w with acted := true } }
    else match takeSlots s w.vf w.slots.length with
      | none => s
      | some l => { s with workgroups := mapSet s.workgroups wg ({ w with acted := true }.hold l (rlcOf s w.vf)) }

/-- Pre-emption of a workgroup becomes pending (R379). The age that R78 orders pre-emptions by counts from here, the request
(DESIGN CHOICE: R78 does not say whether it counts from the request or from the save; log 33). -/
def requestPreempt (s : State) (wg : Nat) : State :=
  match mapGet s.workgroups wg with
  | none => s
  | some w =>
    if w.phase = .running ∧ w.preempt = false then
      actPreempt { s with workgroups := mapSet s.workgroups wg { w with preempt := true, preempted := s.clock } } wg
    else s

/-- Whether a gang counts as sealed for pre-emption: it is sealed or in a handler, and BRK does not hold it (R380). -/
def sealedForPreempt (g : Gang) : Bool := (g.sealed || inHandler g) && g.hold != some .brk

/-- Whether a gang stops at this boundary (R380). -/
def stopDue (s : State) (g : Gang) : Bool :=
  match mapGet s.workgroups g.wg with
  | none => false
  | some w => w.acted && w.phase == .running && !sealedForPreempt g && !g.ended && !g.stopped

/-- The copies of a gang that are reissued on resume: those it issued before its last mark (R381). -/
def reissued (s : State) (slot : Nat) (g : Gang) : List Copy :=
  (s.copies.filter fun e => e.2.slot == slot && decide (e.2.marks < g.marks)).map (·.2)

/-- The shelf a gang saves: its last mark, the cancelled copies to reissue, and the kept barriers and rings as they stand
(R381). -/
def saveShelf (s : State) (slot : Nat) (g : Gang) : Gang :=
  { g with shelf := { g.shelf with
      copies := reissued s slot g
      bars := g.shelf.bars.map fun b => (b.1, spadRead s (cellOf slot) b.1 16)
      rings := g.shelf.rings.map fun r => (r.1, ((mapGet s.rings (16 * cellOf slot + r.1)).getD r.2)) } }

/-- The last gang has stopped: copies are cancelled, loads and matrix operations discarded, shelves and records saved
(R381). What a gang that has ended still has in flight completes (R173; log 23). -/
def saveWorkgroup (s : State) (wg : Nat) : State :=
  match mapGet s.workgroups wg with
  | none => s
  | some w =>
    let mine := s.gangs.filter fun e => e.2.wg == wg && !e.2.ended
    let slots := mine.map (·.1)
    let kept := mine.map fun e => (e.2.idx, saveShelf s e.1 e.2)
    let drop : Source → Bool := fun
      | .gang k | .descriptor k | .fetch k | .matrix k => slots.contains k
      | .copy id | .fabric id => match mapGet s.copies id with
        | some c => slots.contains c.slot
        | none => id == wg
      | _ => false
    { s with
      workgroups := mapSet s.workgroups wg { w with phase := .saving, saved := kept, keptSlots := [] }
      copies := mapFilter (fun _ c => !slots.contains c.slot) s.copies
      gangs := mapAll (fun k g => if slots.contains k then { g with loads := [], stores := [], deferred := [] } else g) s.gangs
      misses := dropWaiters drop s.misses
      atsMisses := dropAts drop s.atsMisses
      matrix := mapAll (fun _ m => purgeUnit (fun k => slots.contains k) (fun x => x == wg) m) s.matrix }

/-- A workgroup of which some gang has stopped and no other runs on is saved (R381). -/
def settleStops (s : State) (wg : Nat) : State :=
  let mine := s.gangs.filter fun e => e.2.wg == wg && !e.2.ended
  if mine.isEmpty || mine.any fun e => !e.2.stopped then s else saveWorkgroup s wg

/-- A gang stops under a pending pre-emption, and blocks no queue; with the last one the workgroup is saved (R380, R381). -/
def stopGang (s : State) (slot : Nat) : State :=
  match mapGet s.gangs slot with
  | none => s
  | some g =>
    settleStops (setGang (leaveQueues s slot) slot
      { g with stopped := true, hold := none, charged := false, operands := none, emit := none }) g.wg

/-- Binds kept tiles to free physical tiles of a bay: the unit, and the names with their tiles; none where too few are free
(R383). -/
def bindKept (slot : Nat) : List (Nat × Tile) → Matrix → AMap Nat → Option (Matrix × AMap Nat)
  | [], m, a => some (m, a)
  | (name, t) :: r, m, a =>
    match mapFree m.tiles (List.range 16) with
    | none => none
    | some k => bindKept slot r { m with tiles := mapSet m.tiles k { t with owner := some slot } } (mapSet a name k)

/-- A gang of a workgroup has resumed: its save slot is free (R382), and with the last the workgroup's L2 lines are locked no more
(R371). -/
def slotRestored (s : State) (wg idx : Nat) : State :=
  let s := { s with workgroups := mapUpdate s.workgroups wg fun w =>
    { w with keptSlots := w.keptSlots.filter fun x => x.1 != idx } }
  if ((mapGet s.workgroups wg).map fun w => w.keptSlots.isEmpty).getD true then { s with l2 := unlockLines (· == wg) s.l2 } else s

/-- A gang whose restore waits for its kept tiles goes on once its bay has enough free tiles (R383). -/
def restoreTiles (s : State) (slot : Nat) (g : Gang) : State :=
  match bindKept slot g.restoring (unitOf s (bayOf slot)) g.accs with
  | none => s
  | some (m, a) =>
    slotRestored (setGang (setUnit s (bayOf slot) m) slot { g with accs := a, restoring := [], hold := none, ready := s.acycle })
      g.wg g.idx

end Sys2Proof.Machine
end

