-- ==== Sys2Proof/Machine/Issue.lean ====
section
/-! DEFINITION. Which move comes next: events of the agenda, and for a gang its instruction fetch (R90, R91), its issue cycles
(R29), its bucket (R366), and what happens at an instruction boundary (R31, R47, R76, R297, R323, R380). -/

namespace Sys2Proof.Machine

/-! ## Issue cycles and tokens -/

/-- Executed beats of a lane instruction (R28). -/
def beats (m : Mask) : Nat := (if m &&& 0xFFFF = 0 then 0 else 1) + (if m >>> 16 = 0 then 0 else 1)

/-- Functions of class 0x4 that compute no bounds: moves, comparisons and reads of one end (R29, R246 to R256). -/
def boundless (fn : Nat) : Bool :=
  fn == 0x00 || fn == 0x0B || (0x21 ≤ fn && fn ≤ 0x24) || fn == 0x27 || fn == 0x29

/-- The arithmetic cycles for which an instruction holds the issue slot (R29). -/
def issueCycles (g : Gang) (opc : Nat) (f : Fields) : Nat :=
  let cls := opc / 64
  let uniform := match opInfo opc with
    | some i => i.uniform
    | none => true
  if uniform || cls == 2 || (8 ≤ cls && cls ≤ 0xB) then 1
  else
    let n := beats (participants g f.grd)
    if n = 0 then 1
    else if (cls == 1 || cls == 3 || cls == 5) && decide ((tyOf f).width ≤ 32 ∨ (tyOf f).isBx) then 1
    else if cls == 4 && tyOf f == .iv64 && !boundless (opc % 64) then 2 * n
    else n

/-- The issue cycles of an instruction. -/
def cyclesOf (g : Gang) (i : Instr) : Nat :=
  match bodyOf i with
  | .full opc f => issueCycles g opc f
  | .short opc f => issueCycles g opc (expandShort opc f)
  | .event => 0

/-! ## Fetch -/

/-- What a fetch gives (R91). -/
inductive Fetched where
  | bytes (l : List Byte) (s : State)
  | fault (f : GFault) (s : State)
  | miss (s : State)
  deriving DecidableEq, Repr

/-- The fault of a failed translation, for a fetch, an element or a table entry (R339 to R341, R375 DETAIL). -/
def walkFault (r : WalkResult) (tval : Word) : GFault :=
  match r with
  | .cause n => preciseDetail .translation tval n
  | .denied st => preciseDetail .protection tval st
  | .poison => precise .poison tval
  | _ => preciseDetail .translation tval 2

/-- The byte of some contents of a line that a fetch returns: where they differ, any one of them (R92; log 1). -/
def pickByte (free : Nat) (seen : List (List Byte)) (i : Nat) : Byte :=
  ((seen[(Config.freeWord free).toNat % seen.length]?).bind (·[i]?)).getD 0

/-- A line of code as it is fetched of memory, through the slice that serves the gang's cluster (R19, R190, R363). -/
def fetchLine (s : State) (slot vf : Nat) (p : Partition) (a : Nat) : State :=
  touchIn s p (sliceFor p (clusterOf (cellOf slot))) vf 0 false [a]

/-- Four bytes of code at a physical address, as the launch of the gang in a slot fetches them: the instruction cache keeps what
was fetched of each line, and where the line has changed since, each byte is an old or the new one (R92). -/
def codeBytes (s : State) (slot : Nat) (g : Gang) (p : Partition) (va a : Nat) : List Byte × State :=
  let head := dramKey p a - a % 128
  let now := (List.range 128).map fun i => dramByte s (head + i)
  let key := 2 ^ 50 * launchKey g.vf g.lslot + va / 128
  let old := (mapGet s.icache key).getD []
  if old == [now] then ((now.drop (va % 128)).take 4, s)
  else if old.isEmpty then
    ((now.drop (va % 128)).take 4, { fetchLine s slot g.vf p a with icache := mapSet s.icache key [now] })
  else
    let t := if old.contains now then s else fetchLine s slot g.vf p a
    let seen := if old.contains now then old else now :: old
    ((List.range 4).map fun i => pickByte (s.free + i) seen (va % 128 + i),
      { t with icache := mapSet s.icache key seen, free := s.free + 4 })

/-- Fetches 4-byte words of an instruction from an address (R91, R340). -/
def fetchWords (s : State) (slot : Nat) (g : Gang) (p : Partition) (va : Nat) : Nat → List Byte → Fetched
  | 0, out => .bytes out s
  | n + 1, out =>
    let tval := BitVec.ofNat 64 va
    match lookup s (cellOf slot) g.vf va .fetch with
    | .pa a =>
      if paPoisoned s p a 4 then .fault (precise .poison tval) s
      else
        let r := codeBytes s slot g p va a
        fetchWords r.2 slot g p (va + 4) n (out ++ r.1)
    | .fail r => .fault (walkFault r tval) s
    | .miss =>
      match missAccess s g.vf va (.fetch slot) (cellOf slot) .fetch with
      | .fail r => .fault (walkFault r tval) (leavePage s g.vf va (.fetch slot))
      | .wait s => .miss s

/-- Fetches from the code area (R90, R91): how many words, with ILLEGAL_ENCODING outside the area (R111 step 1, R112). -/
def fetchForm (s : State) (slot : Nat) (g : Gang) (p : Partition) (base size : Nat) : Fetched :=
  if g.pc < base ∨ g.pc ≥ base + size then
    .fault (precise .illegalEncoding (encodingTval 0 .short 2)) s
  else
    match fetchWords s slot g p g.pc 1 [] with
    | .bytes l s =>
      let len := formOf ((l[0]?).getD 0)
      if g.pc + formBytes len > base + size then
        .fault (precise .illegalEncoding (encodingTval 0 len 2)) s
      else fetchWords s slot g p (g.pc + 4) (formBytes len / 4 - 1) l
    | r => r

/-- LEN in a fetch fault's TCAUSE: the form that the first byte gives, where it could be read (R327). -/
def fetchLen (s : State) (slot : Nat) (g : Gang) (p : Partition) (base size : Nat) : Nat :=
  if g.pc < base ∨ g.pc ≥ base + size then 0
  else match lookup s (cellOf slot) g.vf g.pc .fetch with
    | .pa a => if paPoisoned s p a 4 then 0 else formNum (formOf ((paRead s p a 1)[0]?.getD 0))
    | _ => 0

/-- LEN of the instruction at the PC of a gang (R327). -/
def lenAt (s : State) (slot : Nat) (g : Gang) : Nat :=
  match launchOf s g, partOf s g.vf with
  | some l, some (_, p) => fetchLen s slot g p l.codeBase l.codeSize
  | _, _ => 0

/-- The fetch of the first bytes at the PC of a gang, which give the form of its instruction: none outside the code area (R90,
R91, R327). -/
def fetchFirst (s : State) (slot : Nat) (g : Gang) : Fetched :=
  match launchOf s g, partOf s g.vf with
  | some l, some (_, p) =>
    if g.pc < l.codeBase ∨ g.pc ≥ l.codeBase + l.codeSize then .bytes [] s else fetchWords s slot g p g.pc 1 []
  | _, _ => .bytes [] s

/-- The fetch of the next instruction of the gang in a slot, where its launch and partition are there. -/
def fetchNext (s : State) (slot : Nat) (g : Gang) : Option Fetched :=
  match launchOf s g, partOf s g.vf with
  | some l, some (_, p) => some (fetchForm s slot g p l.codeBase l.codeSize)
  | _, _ => none

/-! ## The issue slot of a bay (R31, R366, R367) -/

/-- The issue tokens that the next instruction of a gang takes, once it is fetched; none while its fetch waits. A fetch or an
encoding that faults takes none. -/
def nextCost (s : State) (slot : Nat) (g : Gang) : Option Nat :=
  match fetchNext s slot g with
  | some (.bytes b _) =>
    match decode b with
    | .instr i _ => some (cyclesOf g i)
    | _ => some 0
  | some (.fault _ _) => some 0
  | _ => none

/-- Whether a grant would serve a request of `n` issue tokens now (R366, R367). -/
def tokenServes (s : State) (bay vf n : Nat) : Bool :=
  n == 0 || decide (bucketOf s 0 bay vf ≥ 1024) || decide (poolOf s 0 bay ≥ 1024 * n)

/-- Whether the gang in a slot stands at an instruction boundary where it would issue (R31, R47, R380). -/
def atBoundary (s : State) (g : Gang) : Bool :=
  !g.ended && !g.stopped && !g.charged && g.hold.isNone && !stopDue s g && !timeoutDue s g

/-- The place of a ready gang among those of its bay: VFs with a token first, by age; then those that borrow, by BPRIO, age and
VF number; ties by slot number from slot (n mod 4) (R31, R367). -/
def issueOrder (s : State) (slot : Nat) (g : Gang) : List Nat :=
  let tie := turnOf s slot
  if bucketOf s 0 (bayOf slot) g.vf ≥ 1024 then [0, g.ready, tie]
  else [1, 3 - bits (regGet s (pageReg g.vf 0x80)) 29 2, g.ready, g.vf, tie]

/-- Whether a list of numbers comes before another. -/
def listBefore : List Nat → List Nat → Bool
  | [], [] => false
  | [], _ => true
  | _, [] => false
  | a :: r, b :: q => decide (a < b) || (a == b && listBefore r q)

/-- The ready gangs of a bay: fetched, held by nothing, and served with a token (R31). -/
def readyGangs (s : State) (bay : Nat) : List (Nat × List Nat) :=
  (List.range 4).filterMap fun i =>
    match mapGet s.gangs (4 * bay + i) with
    | none => none
    | some g =>
      if atBoundary s g && ((nextCost s (4 * bay + i) g).map (tokenServes s bay g.vf)).getD false then
        some (4 * bay + i, issueOrder s (4 * bay + i) g)
      else none

/-- The first of some gangs by their order. -/
def firstGang : List (Nat × List Nat) → Option (Nat × List Nat)
  | [] => none
  | x :: r =>
    match firstGang r with
    | none => some x
    | some y => if listBefore y.2 x.2 then some y else some x

/-- The slot whose gang a bay issues, or the one asked for where none is ready (R31). -/
def bayPick (s : State) (slot : Nat) : Nat := ((firstGang (readyGangs s (bayOf slot))).map (·.1)).getD slot

/-- Gangs that held for an issue token are ready once one would serve them (R31). -/
def releaseTokens (s : State) : State :=
  { s with gangs := mapAll (fun k g =>
      if g.hold = some .token ∧ ((nextCost s k g).map (tokenServes s (bayOf k) g.vf)).getD false then
        { g with hold := none, ready := s.acycle } else g) s.gangs }

/-! ## Moves -/

/-- A move: a row of the table to run, or a state that results at once. -/
inductive Move where
  | run (i : Instr) (s : State)
  | rest (s : State)
  deriving DecidableEq, Repr

/-- Whether an instruction of a gang operates on a barrier of its cell (R295). A BWAIT that is held looks at the phase again, and has
no part in the order of that cycle. -/
def onBarrier (g : Gang) (i : Instr) : Bool :=
  g.hold != some .barrier && match bodyOf i with
  | .full opc _ | .short opc _ => decide (0x282 ≤ opc ∧ opc ≤ 0x286)
  | .event => false

/-- Whether a barrier operation comes too late for this arithmetic cycle: those of one cycle are applied in slot order, and the
operation of a higher slot has been applied (R295). -/
def barrierLate (s : State) (slot : Nat) (g : Gang) (i : Instr) : Bool :=
  onBarrier g i && match mapGet s.barTurn (cellOf slot) with
    | some (c, k) => c == s.acycle && decide (slot < k)
    | none => false

/-- A barrier operation takes its place in the order of its cycle (R295). -/
def barrierTurn (s : State) (slot : Nat) (g : Gang) (i : Instr) : State :=
  if onBarrier g i then { s with barTurn := mapSet s.barTurn (cellOf slot) (s.acycle, slot) } else s

/-- Runs a decoded instruction of the gang in a slot where its bay's issue slot and bucket allow; the cycles of a held
instruction are taken once (R29, R31). A barrier operation that comes too late waits for the next cycle (R295). -/
def issueInstr (s : State) (slot : Nat) (g : Gang) (i : Instr) : Move :=
  let s := { s with cur := slot }
  if barrierLate s slot g i then .rest { s with busy := mapSet s.busy (bayOf slot) (s.acycle + 1) }
  else if g.charged then .run i (barrierTurn s slot g i)
  else
    let n := cyclesOf g i
    match grant s 0 (bayOf slot) g.vf n with
    | none => .rest (holdGang s slot .token)
    | some s =>
      .run i (barrierTurn (setGang { s with busy := mapSet s.busy (bayOf slot) (s.acycle + n) } slot
        { g with charged := true, hold := none, issuedAt := s.nextId }) slot g i)

/-- BAD_REGISTER of an origin whose span leaves its file, where it stands before the field that the encoding's own check names; its
descriptor is fetched first (R96, R111 step 5, R112). -/
def spanFirst (s : State) (slot : Nat) (g : Gang) (b : List Byte) (len : Form) (d : GFault) : Move :=
  let take := fun (s : State) (d : GFault) => Move.rest (takeFault s slot g (formNum len) d)
  let x := fieldsOf len (bytesToNat (b.take (formBytes len)))
  let field := bits d.tval.toNat 12 2
  let earlier := ((originA x.1 x.2).isSome && decide (1 < field)) || ((originB x.1 x.2).isSome && decide (2 < field))
  if d.code ≠ .badRegister ∨ earlier = false then take s d
  else match rankAt s slot g x.1 x.2 with
    | .wait s => .rest (holdGang s slot .miss)
    | r =>
      match spanFault (spanRoles { s with cur := slot } g x.1 x.2) x.1 x.2 with
      | some fl => if bits fl.tval.toNat 12 2 < field then take (r.left s) fl else take (r.left s) d
      | none => take (r.left s) d

/-- Fetches, decodes and runs the instruction at the PC of the gang in a slot (R91, R111). -/
def fetchMove (s : State) (slot : Nat) (g : Gang) : Move :=
  match fetchNext s slot g with
  | none => .rest s
  | some (.miss s) => .rest (holdGang s slot .miss)
  | some (.fault f s) => .rest (takeFault s slot g (lenAt s slot g) f)
  | some (.bytes b s) =>
    match decode b with
    | .instr i _ => issueInstr s slot g i
    | .fault d len => spanFirst s slot g b len (precise d.code d.tval)
    | .truncated len => .rest (takeFault s slot g (formNum len) (precise .illegalEncoding (encodingTval 0 len 2)))

/-- The first deferred fault that is raised at the next instruction (R297), and the gang without it. -/
def nextDeferred (g : Gang) : Option (GFault × Gang) :=
  match g.deferred.find? (fun d => d.site == .next) with
  | none => none
  | some d => some (d.fault, { g with deferred := g.deferred.filter fun x => x != d })

/-- A fault that the gang in a slot takes before its next instruction is decoded: LEN is the form that the first byte gives, once
it has been fetched (R327). -/
def faultFirst (s : State) (slot : Nat) (g : Gang) (f : GFault) : Move :=
  match fetchFirst s slot g with
  | .miss s => .rest (holdGang s slot .miss)
  | .bytes b s => .rest (takeFault s slot g ((b.head?.map fun x => formNum (formOf x)).getD 0) f)
  | .fault _ s => .rest (takeFault s slot g 0 f)

/-- The next instruction of the gang in a slot: the faults that are raised at it (R76, R297), the limit of R323, or the
instruction itself. -/
def nextInstr (s : State) (slot : Nat) (g : Gang) : Move :=
  match g.launchFault with
  | some f => faultFirst s slot { g with launchFault := none } f
  | none =>
    match nextDeferred g with
    | some (f, g') => faultFirst s slot g' f
    | none =>
      if g.sealed && decide (g.markCount ≥ 4096) then .run (.markOverdueCount slot) s
      else fetchMove s slot g

/-- A fetch that waited on a miss and is served makes its gang ready (R31). -/
def wakeFetch (s : State) (slot : Nat) (g : Gang) : State × Gang :=
  if g.hold = some .miss ∧ g.charged = false ∧ (nextCost s slot g).isSome then
    let g := { g with hold := none, ready := s.acycle }
    (setGang s slot g, g)
  else (s, g)

/-- A gang issues: the one that its bay picks (R31). -/
def bayMove (s : State) (slot : Nat) (g : Gang) : Move :=
  let k := bayPick s slot
  if k = slot then nextInstr s slot g
  else match mapGet s.gangs k with
    | none => .rest s
    | some g => nextInstr s k g

/-- The move of the gang in a slot, at an instruction boundary or while it is held (R31, R47, R380). An instruction that has
issued and is held is tried again; otherwise the bay issues the gang that it picks. -/
def gangMove (s : State) (slot : Nat) : Move :=
  match mapGet s.gangs slot with
  | none => .rest s
  | some g =>
    if g.ended || g.stopped || g.hold == some .brk && !stopDue s g then .rest s
    else if stopDue s g then .rest (stopGang s slot)
    else if !g.restoring.isEmpty then .rest (restoreTiles s slot g)
    else if timeoutDue s g then .run (.rcvTimeout slot) s
    else if g.charged then
      if decide (s.acycle < (mapGet s.busy (bayOf slot)).getD 0) then .rest s else fetchMove s slot g
    else if decide (s.acycle < (mapGet s.busy (bayOf slot)).getD 0) || g.hold == some .token then .rest s
    else
      let w := wakeFetch s slot g
      bayMove w.1 slot w.2

/-- Whether the gang in a slot can move without time passing. -/
def canMove (s : State) (slot : Nat) : Bool :=
  match mapGet s.gangs slot with
  | none => false
  | some g => !g.ended && !g.stopped && g.hold.isNone && decide ((mapGet s.busy (bayOf slot)).getD 0 ≤ s.acycle)

/-- Whether an event goes through a virtual function (R396). S1ROOT_WRITE, EVENT_SET, EVENT_CLEAR and WEQSTAT_CLEAR name no function,
and the mirror of R397 gives their registers to the physical function (log 41). -/
def throughVf : Instr → Bool
  | .doorbell _ _ _ | .qringEnable _ _ _ | .qringDisable _ _ _ | .queueResume _ _
  | .bar2Access _ _ _ _ | .registerWrite (some _) _ _ | .atsInvalidateRequest _ _ _ => true
  | .tlbinvStage1Range _ p _ _ | .tlbinvStage1All _ p | .tlbinvStage2Range _ p _ _ | .tlbinvAll _ p => !p
  | .spdmRequest f _ => f != 0
  | _ => false

/-- What still happens while the device holds in reset after a thermal trip: time, its sensors, its release, a cold reset
(R412). -/
def inHold : Instr → Bool
  | .bucketAccrual | .throttleChange _ | .thermalTripRelease | .coldReset => true
  | _ => false

/-- Whether the device does not act on an event: in the hold of a thermal trip (R412), or through a virtual function in
MANIFEST_FAIL, where only the physical function enumerates (R408). -/
def heldOff (s : State) (i : Instr) : Bool := (s.trip && !inHold i) || (s.bringup == 8 && throughVf i)

/-- The next move: the head of the agenda; with an empty agenda the current gang where nothing holds it, and otherwise a fabric
cycle passes. A held gang is tried again by its turn in the agenda. -/
def selectMove (s : State) : Move :=
  match s.agenda with
  | .event i :: r => if heldOff s i then .rest { s with agenda := r } else .run i { s with agenda := r }
  | .issue slot :: r => gangMove { s with agenda := r } slot
  | [] => if canMove s s.cur then gangMove s s.cur else .run .bucketAccrual s

end Sys2Proof.Machine
end

