-- ==== Sys2Proof/Machine/Tensor.lean ====
section
/-! DEFINITION. Tensor descriptors (R179 to R182), coordinates and addresses (R183 to R188), the images of elements (R212),
and the places an access reaches: device, scratchpad, register-window, remote and host space (R39, R70, R180, R351). -/

namespace Sys2Proof.Machine

/-! ## Descriptors -/

/-- A number from its 8-byte words, the first lowest. -/
def wordsToNat : List Word → Nat
  | [] => 0
  | w :: r => w.toNat + 2 ^ 64 * wordsToNat r

/-- The 8-byte words of some bytes. -/
def bytesToWords : List Byte → List Word
  | a :: b :: c :: d :: e :: f :: g :: h :: r => BitVec.ofNat 64 (bytesToNat [a, b, c, d, e, f, g, h]) :: bytesToWords r
  | _ => []

/-- A descriptor from its eight words (R179). -/
def descOf (words : List Word) : Desc :=
  let x := wordsToNat words
  { budget := bits x 464 16
    tile1 := bits x 448 16
    tile0 := bits x 432 16
    strides := [bits x 272 40, bits x 312 40, bits x 352 40, bits x 392 40]
    extents := [bits x 128 28, bits x 156 28, bits x 184 28, bits x 212 28, bits x 240 28]
    chip := bits x 96 21
    perm := bits x 80 5
    scale := if bits x 79 1 = 1 then (bits x 72 8 : Int) - 256 else bits x 72 8
    valid := bits x 71 1 == 1
    bmode := bits x 70 1 == 1
    layout := bits x 68 2
    rank := bits x 65 3
    ty := bits x 60 5
    space := bits x 57 3
    base := bits x 0 57
    reserved := bits x 480 32 != 0 || bits x 268 4 != 0 || bits x 117 11 != 0 || bits x 85 11 != 0 }

/-- The element type of a descriptor. -/
def Desc.type (d : Desc) : Ty := (Ty.ofCode d.ty).getD .n8

/-- Bytes of a BX block (R129). -/
def blockBytes : Ty → Nat
  | .bx3 => 8
  | .bx5 => 12
  | _ => 18

/-- Bytes of one unit of an element access: the element, or its BX block (R183). -/
def unitBytes (ty : Ty) : Nat := if ty.isBx then blockBytes ty else if ty = .iv64 then 16 else ty.width / 8

/-- The logical span of a dense headed line (R134). -/
def spanOf : Ty → Nat
  | .f16 | .bf16 => 56
  | .e4m3 | .e5m2 => 112
  | .f32 => 28
  | .bx3 => 224
  | .bx5 => 144
  | .bx8 => 96
  | _ => 1

/-- Ceil(a / b). -/
def ceilDiv (a b : Nat) : Nat := (a + b - 1) / b

/-- L: the dense headed lines of a tile (R136). -/
def Desc.denseLines (d : Desc) : Nat := ceilDiv d.tile0 (spanOf d.type) * d.tile1

/-- Types of the headed layouts (R181). -/
def headedType (ty : Ty) : Bool :=
  ty == .f16 || ty == .bf16 || ty == .e4m3 || ty == .e5m2 || ty == .f32 || ty.isBx

/-- Whether LAYOUT allows TYPE and SPACE (R181). -/
def Desc.layoutOk (d : Desc) : Bool :=
  d.layout == 0 || (headedType d.type && (d.space == 0 || d.space == 1 || d.space == 3) && !(d.layout == 2 && d.type.isBx))

/-- Whether the extents agree with the rank (R182). -/
def Desc.extentsOk (d : Desc) : Bool :=
  1 ≤ d.rank && d.rank ≤ 5 && (d.extents.take d.rank).all (fun e => e != 0) && (d.extents.drop d.rank).all fun e => e == 0

/-- Whether a descriptor passes the check of R182. -/
def Desc.ok (d : Desc) : Bool :=
  let ty := d.type
  d.valid && !d.reserved && d.space ≤ 4 && (Ty.ofCode d.ty).isSome && d.layoutOk && d.extentsOk
    && (d.chip == 0 || d.space == 3) && (d.perm == 0 || d.space == 1)
    && (d.scale == 0 || ty.isFp8 || ty.isBx)
    && (d.space != 2 || ((ty == .s64 || ty == .n64 || ty == .b64 || ty == .f64 || ty == .iv64) && d.layout == 0))
    && (d.layout == 0 || (d.strides.all (fun x => x % 128 == 0) && d.base % 128 == 0))
    && (if d.layout = 2 then d.tile0 != 0 && d.tile1 != 0 && decide (d.budget ≤ d.denseLines) else d.budget == 0)
    && (!ty.isBx || d.tile0 % 16 == 0)

/-- TVAL of a fault of a descriptor: its index, with a cause bit (R182, R211, R413). -/
def descTval (index bit : Nat) : Word := BitVec.ofNat 64 (index + bit)

/-- What a descriptor fetch gives. -/
inductive DescFetch where
  | ok (words : List Word) (s : State)
  | miss (s : State)
  | fail (f : GFault) (s : State)
  deriving DecidableEq, Repr

/-- Fetches a descriptor of a context for a cell: its copy, or the table entry, which it then caches (R189, R182, R413). A requester
that hears a failure stays with it. -/
def fetchEntry (s : State) (src : Source) (cell vf index : Nat) : DescFetch :=
  match mapGet s.descs (descKey cell vf index) with
  | some w => .ok w s
  | none =>
    let va := tableEntry s vf index
    let tval := descTval index 2048
    match partOf s vf with
    | none => .fail (preciseDetail .translation tval 7) s
    | some (_, p) =>
      if va + 64 > 2 ^ 57 then .fail (preciseDetail .translation tval 5) s
      else match lookup s cell vf va .read with
        | .pa a =>
          let s := touchIn s p (sliceFor p (clusterOf cell)) vf 0 false [a]
          if paPoisoned s p a 64 then .fail (precise .poison tval) s
          else
            let w := bytesToWords (paRead s p a 64)
            .ok w { s with descs := mapSet s.descs (descKey cell vf index) w }
        | .fail r => .fail (walkFault r tval) s
        | .miss =>
          match missAccess s vf va src cell .read with
          | .fail r => .fail (walkFault r tval) s
          | .wait s => .miss s

/-- Fetches a descriptor for the gang in a slot (R182, R189). -/
def fetchDesc (s : State) (slot : Nat) (g : Gang) (index : Nat) : DescFetch :=
  match fetchEntry s (.descriptor slot) (cellOf slot) g.vf index with
  | .fail f s => .fail f (leavePage s g.vf (tableEntry s g.vf index) (.descriptor slot))
  | r => r

/-! ## Coordinates and addresses (R183 to R188) -/

/-- Coordinates of an access (R183). -/
def coordsFrom (disp : List Int) (extra : Int) : List Int → List Int
  | [] => []
  | o :: r => (o + disp.headD 0 + extra) :: coordsFrom disp.tail 0 r

/-- Whether every coordinate is in range (R184). -/
def inRange : List Int → List Nat → Bool
  | [], _ => true
  | c :: r, e :: es => decide (0 ≤ c ∧ c < e) && inRange r es
  | _ :: _, [] => false

/-- The sum of the strides of coordinates 1 upward (R183). -/
def strideSum : List Int → List Nat → Nat
  | c :: r, k :: ks => c.toNat * k + strideSum r ks
  | _, _ => 0

/-- Where an element lies: its address, its element number in a BX block, and the address its alignment is checked on. -/
structure Spot where
  addr : Nat
  elem : Nat
  base : Nat
  deriving DecidableEq, Repr

/-- Address (R183), for coordinates in range. -/
def Desc.locate (d : Desc) (c : List Int) : Spot :=
  let ty := d.type
  let row := d.base + strideSum c.tail d.strides
  let c0 := (c.headD 0).toNat
  if d.layout = 0 then
    if ty.isBx then
      let a := row + c0 / 16 * blockBytes ty
      ⟨a, c0 % 16, a⟩
    else
      let a := row + c0 * unitBytes ty
      ⟨a, 0, a⟩
  else
    let line := row + c0 / spanOf ty * 128
    let k := c0 % spanOf ty
    if ty.isBx then ⟨line + 16 + k / 16 * blockBytes ty, k % 16, line⟩ else ⟨line + 16 + k * unitBytes ty, 0, line⟩

/-- The alignment of an element access (R185). -/
def Desc.alignment (d : Desc) : Nat :=
  if d.layout ≠ 0 then 128
  else match d.type with
    | .e4m3 | .e5m2 => 1
    | .iv32 => 8
    | .iv64 => 16
    | .bx3 => 8
    | .bx5 => 4
    | .bx8 => 2
    | ty => ty.width / 8

/-- The bound of a space below which every address must lie (R184). -/
def Desc.limit (d : Desc) : Option Nat :=
  if d.space = 1 then some 0x100000 else if d.space = 2 then some 0x8A000 else none

/-- The bank permutation of one scratchpad address (R186). -/
def permuteAddr (perm c1 a : Nat) : Nat :=
  let unit := bits a 5 5
  a - unit * 32 + (unit ^^^ (c1 % 32 &&& perm)) * 32

/-- Coordinate 1, as the bank permutation takes it (R186). -/
def coord1 (c : List Int) : Nat := ((c.tail).headD 0).toNat

/-! ## Element images (R212) -/

/-- A binary64 pattern of an exact value times 2^k; a NaN is the default NaN (R187, R212). -/
def scaledF64 (v : FVal) (k : Int) : Nat :=
  match v with
  | .fin n m e => (fmtF64.round .rne n m (e + k)).1
  | v => (fmtF64.roundVal .rne v).1

/-- The registers an element's stored bytes give (R212): `ty` is the instruction's type, `elem` the element of a BX block. -/
def loadImage (d : Desc) (ty : Ty) (bytes : List Byte) (elem : Nat) : List Word :=
  let x := bytesToNat bytes
  if ty.isFp8 then [BitVec.ofNat 64 (scaledF64 ((fmtOf ty).value x) d.scale)]
  else if ty.isBx then [BitVec.ofNat 64 (scaledF64 (bxElement ty x elem) d.scale)]
  else if ty = .iv64 then [BitVec.ofNat 64 x, BitVec.ofNat 64 (bits x 64 64)]
  else [BitVec.ofNat 64 x]

/-- A binary64 register divided exactly by 2^SCALE (R187). -/
def unscale (d : Desc) (w : Word) : FVal :=
  match fmtF64.value w.toNat with
  | .fin n m e => .fin n m (e - d.scale)
  | v => v

/-- The bytes that the registers of an element give, with the flags of a narrowing (R212). -/
def storeImage (d : Desc) (ty : Ty) (regs : List Word) : List Byte × FlagSet :=
  let w := regs.headD 0
  if ty.isFp8 then
    let k := fmtOf ty
    let r := match unscale d w with
      | .nan sig => (k.signed (fmtF64.isNeg w.toNat) k.nan, if sig then flagNV else 0)
      | .inf n => if k.ocp then (k.signed n k.nan, flagNV) else (k.signed n k.infMag, 0)
      | .fin n m e => k.roundFp8 false .rne n m e
    (natToBytes 1 r.1, r.2)
  else if ty = .iv64 then (natToBytes 8 w.toNat ++ natToBytes 8 ((regs.tail).headD 0).toNat, 0)
  else (natToBytes (unitBytes ty) w.toNat, 0)

/-- A block with some elements replaced, repacked under rne (R195, R212). -/
def storeBlock (d : Desc) (ty : Ty) (old : List Byte) (news : List (Nat × Word)) : List Byte × FlagSet :=
  let x := bytesToNat old
  let vs := (List.range 16).map fun i =>
    match mapGet news i with
    | some w => unscale d w
    | none => bxElement ty x i
  let r := bxPack ty .rne vs
  (natToBytes (blockBytes ty) r.1, r.2)

/-! ## Places -/

/-- What a remote access names: the VF and TENANT it acts for, the link that carries it, the chip, and the address there. -/
structure Remote where
  vf : Nat
  tenant : Nat
  link : Nat
  chip : Nat
  va : Nat
  deriving DecidableEq, Repr

/-- Where the bytes of an access are: physical addresses of a partition, offsets of a scratchpad, registers of a window, bus
addresses of the host, or another package. -/
inductive Locus where
  | device (p : Partition) (pas : List Nat)
  | scratch (cell : Nat) (offs : List Nat)
  | window (cell off n : Nat)
  | host (addrs : List Nat)
  | remote (r : Remote) (n : Nat)
  deriving DecidableEq, Repr

/-- Numbers of the bytes of a place, which tell whether two accesses touch one byte; none for another package. -/
def Locus.bytes : Locus → List Nat
  | .device p pas => pas.map (dramKey p)
  | .scratch _ offs => offs
  | .window _ off n => (List.range n).map (off + ·)
  | .host l => l
  | .remote r n => (List.range n).map (r.va + ·)

/-- The register that an offset of the register window names: gang slot, thread and specifier (R39). -/
def windowReg (cell off : Nat) : Nat × Nat × BitVec 10 :=
  let q := off / 0x22800
  let r := off % 0x22800
  let pick := fun (kt n : Nat) => (16 * cell + 4 * q + kt / 32, kt % 32, BitVec.ofNat 10 n)
  if r < 0x20000 then pick (r / 8 / 128) (r / 8 % 128)
  else if r < 0x22000 then pick ((r - 0x20000) / 8 / 8) (0x100 + (r - 0x20000) / 8 % 8)
  else pick ((r - 0x22000) / 8 / 2) (0x200 + (r - 0x22000) / 8 % 2)

/-- A register through the window; zero where no gang is resident (R39). -/
def windowRead (s : State) (cell off : Nat) : Word :=
  let w := windowReg cell off
  match mapGet s.gangs w.1 with
  | none => 0
  | some g => wordGet g.regs (regKey w.2.1 w.2.2)

/-- A write through the window; dropped where no gang is resident (R39). -/
def windowWrite (s : State) (cell off : Nat) (v : Word) : State :=
  let w := windowReg cell off
  { s with gangs := mapUpdate s.gangs w.1 fun g => putReg g w.2.1 w.2.2 v }

/-- Consecutive bytes of the window. -/
def windowBytes (s : State) (cell off n : Nat) : List Byte :=
  (List.range n).map fun i =>
    let a := off + i
    BitVec.ofNat 8 (bits (windowRead s cell (a - a % 8)).toNat (8 * (a % 8)) 8)

/-- Writes consecutive registers of the window: each word goes to the register that its own address names. An access whose
address is not a multiple of 8 faults with ALIGN (R39, R185); a copy, for which R288 names no such check, writes the words to
the registers that hold their first bytes (DESIGN CHOICE: R39 asks for alignment and R288 raises no fault for it; log 50). -/
def windowWriteN (s : State) (cell off : Nat) : List Word → State
  | [] => s
  | w :: r => windowWriteN (windowWrite s cell off w) cell (off + 8) r

/-- Whether a scratchpad byte lies in a record-window slot that a workgroup does not own (R70). -/
def foreignSlot (s : State) (wg off : Nat) : Bool :=
  decide (0xE8000 ≤ off) &&
    match mapGet s.workgroups wg with
    | none => true
    | some w => mapGet s.window (1536 * w.cell + (off - 0xE8000) / 64) != some wg

/-- `n` free bytes (log 1). -/
def freeBytes (s : State) : Nat → List Byte × State
  | 0 => ([], s)
  | n + 1 =>
    let r := freeBytes { s with free := s.free + 1 } n
    ((Config.freeWord s.free).truncate 8 :: r.1, r.2)

/-- Whether a device byte list touches a poisoned line (R390). -/
def pasPoisoned (s : State) (p : Partition) (pas : List Nat) : Bool := pas.any fun a => isPoisoned s (dramKey p a)

/-- Reads the bytes of a place: the bytes, whether they are poisoned, and the state, in which a value from outside the
package, or from a poisoned line, is free; whether a line of another package is poisoned is free too (R218, R390; logs 1, 38). -/
def locusRead (s : State) : Locus → List Byte × Bool × State
  | .device p pas =>
    if pasPoisoned s p pas then
      let r := freeBytes s pas.length
      (r.1, true, r.2)
    else (pas.map fun a => dramByte s (dramKey p a), false, s)
  | .scratch cell offs => (offs.map fun o => spadByte s cell o, false, s)
  | .window cell off n => (windowBytes s cell off n, false, s)
  | .host l => (l.map (wordGet s.host), false, s)
  | .remote _ n =>
    let r := freeBytes { s with free := s.free + 1 } n
    (r.1, Config.farPoison s.free, r.2)

/-- Writes bytes at physical addresses. -/
def pasWrite (s : State) (p : Partition) : List Nat → List Byte → State
  | a :: r, b :: bs => pasWrite (dramPut s (dramKey p a) b) p r bs
  | _, _ => s

/-- Writes bytes of a scratchpad for a workgroup; a byte of a foreign record slot is dropped (R70). -/
def scratchWrite (s : State) (cell wg : Nat) : List Nat → List Byte → State
  | o :: r, b :: bs => scratchWrite (if foreignSlot s wg o then s else spadPut s cell o b) cell wg r bs
  | _, _ => s

/-- Writes bytes of host memory at their bus addresses. -/
def hostPut (s : State) : List Nat → List Byte → State
  | a :: r, b :: bs => hostPut { s with host := wordSet s.host a b } r bs
  | _, _ => s

/-- Sends a message over a link: 64-byte flits of a station or a port (R363). -/
def sendOver (s : State) (link vf bytes : Nat) (o : Outgoing) : State :=
  let n := max 1 (ceilDiv bytes 64)
  let s := if link < 24 then charge s 3 link vf n else charge s 4 (link - 24) vf n
  { s with outbox := s.outbox ++ [o] }

/-- Writes the bytes of a place for a workgroup. -/
def locusWrite (s : State) (wg : Nat) (l : Locus) (bytes : List Byte) : State :=
  match l with
  | .device p pas => clearWhole (pasWrite s p pas bytes) (pas.map (dramKey p))
  | .scratch cell offs => scratchWrite s cell wg offs bytes
  | .window cell off _ => windowWriteN s cell off (bytesToWords bytes)
  | .host l => hostPut s l bytes
  | .remote r n => sendOver s r.link r.vf n (.store r.tenant r.chip r.va bytes)

/-! ## Reaching a place -/

/-- How an access of some bytes stands. -/
inductive Reach where
  | ok (l : Locus)
  | miss (s : State)
  | fail (code : FaultCode) (detail : Nat) (s : State)
  deriving DecidableEq, Repr

/-- A failed walk as a kind of element failure (R215). -/
def reachFail (r : WalkResult) (s : State) : Reach :=
  .fail (walkFault r 0).code (walkFault r 0).detail s

/-- Translates the parts of a span of device space for a requester (R340, R341, R344). -/
def reachParts (s : State) (p : Partition) (vf : Nat) (acc : Access) (src : Source) (cell : Nat) :
    List (Nat × Nat) → List Nat → Reach
  | [], out => .ok (.device p out)
  | (va, n) :: r, out =>
    match lookup s cell vf va acc with
    | .pa a =>
      if a + n > memorySize p then .fail .translation 4 s
      else reachParts s p vf acc src cell r (out ++ consecutive a n)
    | .fail x => reachFail x s
    | .miss =>
      match missAccess s vf va src cell acc with
      | .fail x => reachFail x s
      | .wait s => .miss s

/-- Reaches `n` bytes of device space, on however many pages they lie (R183, R340, R344). -/
def reachDevice (s : State) (vf va n : Nat) (acc : Access) (src : Source) (cell : Nat) : Reach :=
  if va + n > 2 ^ 57 then .fail .translation 5 s
  else match partOf s vf with
    | none => .fail .translation 7 s
    | some (_, p) => reachParts s p vf acc src cell (pagesOf va n) []

/-- Translates the parts of a span of host space for a requester (R351, R352). -/
def hostParts (s : State) (vf : Nat) (acc : Access) (src : Source) : List (Nat × Nat) → List Nat → Reach
  | [], out => .ok (.host out)
  | (va, n) :: r, out =>
    match hostAt s vf va acc src with
    | .bus a => hostParts s vf acc src r (out ++ consecutive a n)
    | .miss s => .miss s
    | .fail => .fail .translation 6 s

/-- Reaches `n` bytes of host space (R351, R352). -/
def reachHost (s : State) (vf va n : Nat) (acc : Access) (src : Source) : Reach :=
  if va + n > 2 ^ 57 then .fail .translation 5 s else hostParts s vf acc src (pagesOf va n) []

/-- The TENANT in effect for a VF (R359). -/
def tenantOf (s : State) (vf : Nat) : Nat := ((mapGet s.policy vf).map (·.1)).getD 0

/-- Whether a partition owns a link: stations 0 to 23, then ports 0 to 3 (R357, R401). -/
def ownsLink (p : Partition) (k : Nat) : Bool := if k < 24 then p.stations.contains k else p.ports.contains (k - 24)

/-- Whether a link that is up and owned carries an access of this package to a chip: a station within the pod, a port beyond it,
whose PEER is the chip or which reaches it otherwise (R25, R357, R403; log 64). -/
def carries (s : State) (p : Partition) (chip : Nat) (e : Nat × Link) : Bool :=
  e.2.state == .up && ownsLink p e.1 && (decide (e.1 < 24) == (chip / 1024 == chipId s / 1024))
    && (e.2.peer == chip || Config.reaches e.1 chip)

/-- The link by which a VF reaches another chip. R25 lets any of those that reach it carry the access; the model takes the one
with the lowest number (DESIGN CHOICE; log 64). -/
def linkFor (s : State) (vf chip : Nat) : Option Nat :=
  match partOf s vf with
  | none => none
  | some (_, p) => (s.links.find? (carries s p chip)).map (·.1)

/-- The link of a record or bulk copy to another chip, which an owned fabric engine carries (R12, R25, R357). -/
def engineFor (s : State) (vf chip : Nat) : Option Nat :=
  if ((partOf s vf).map fun x => x.2.fabric.isEmpty).getD true then none else linkFor s vf chip

/-- Reaches `n` bytes at an address under a descriptor (R180, R186, R214 step 7f). -/
def reach (s : State) (slot : Nat) (g : Gang) (d : Desc) (c1 va n : Nat) (acc : Access) (src : Source) : Reach :=
  match d.space with
  | 0 => reachDevice s g.vf va n acc src (cellOf slot)
  | 1 => .ok (.scratch (cellOf slot) ((consecutive va n).map fun a => permuteAddr d.perm c1 a))
  | 2 => .ok (.window (cellOf slot) va n)
  | 3 =>
    if d.chip / 1024 ≠ chipId s / 1024 then .fail .remoteReject 0 s
    else if d.chip = chipId s then reachDevice s g.vf va n acc src (cellOf slot)
    else if va + n > 2 ^ 57 then .fail .translation 5 s
    else match linkFor s g.vf d.chip with
      | some link => .ok (.remote ⟨g.vf, tenantOf s g.vf, link, d.chip, va⟩ n)
      | none => .fail .remoteReject 0 s
  | _ => reachHost s g.vf va n acc src

/-! ## Watchpoints (R384 to R386) -/

/-- Whether a watchpoint of a VF watches a byte for a write or an atomic (R384). -/
def watches (s : State) (vf w va : Nat) (atomic : Bool) : Bool :=
  let r := regGet s (vfReg vf (0x100 + 16 * w))
  let m := regGet s (vfReg vf (0x108 + 16 * w))
  bits r 63 1 == 1 && (bits r 62 1 == 1 || (atomic && bits r 61 1 == 1))
    && (let b := bits r 4 53 * 16
        decide (b ≤ va) && decide (va < b + 64) && bits m (va - b) 1 == 1)

/-- The watchpoints that watch a byte. -/
def watchSet (s : State) (vf va : Nat) (atomic : Bool) : BitVec 4 :=
  (List.range 4).foldl (fun (m : BitVec 4) w => if watches s vf w va atomic then m ||| (1 <<< w) else m) 0

/-- Matches some bytes of a context (R384). -/
def matchBytes (s : State) (vf : Nat) (atomic : Bool) : List Nat → Option Match
  | [] => none
  | a :: r =>
    let w := watchSet s vf a atomic
    match matchBytes s vf atomic r with
    | none => if w = 0 then none else some ⟨a, w, 1 <<< (a % 16)⟩
    | some m =>
      if w = 0 then some m
      else
        let lo := min a m.va
        let keep : BitVec 16 := if m.va / 16 = lo / 16 then m.bytes else 0
        let own : BitVec 16 := if a / 16 = lo / 16 then 1 <<< (a % 16) else 0
        some ⟨lo, w ||| m.wps, keep ||| own⟩

/-- Joins two matches of one access (R386). -/
def joinMatch (a b : Match) : Match :=
  let lo := min a.va b.va
  let pick := fun (m : Match) => if m.va / 16 = lo / 16 then m.bytes else (0 : BitVec 16)
  ⟨lo, a.wps ||| b.wps, pick a ||| pick b⟩

/-- The words of a watch event (R386). -/
def watchWords (e : WatchEvent) (seq : Nat) : List Byte :=
  natToBytes 8 (e.kind * 16 + e.wps.toNat * 2 ^ 12 + e.bytes.toNat * 2 ^ 16 + e.vf * 2 ^ 38 + seq * 2 ^ 48)
    ++ natToBytes 8 e.va ++ natToBytes 8 e.source ++ natToBytes 8 e.time

/-- Writes a watch event into its VF's queue: the next SEQ is taken, a full queue drops it, PROD advances and vector 1 is
raised (R386, R395); a watch event is a plate trigger (R387). -/
def writeWatch (s : State) (e : WatchEvent) : State :=
  let s := plateTrigger s 2
  let seq := nextSeq s.watchSeq e.vf
  let s := { s with watchSeq := mapSet s.watchSeq e.vf seq }
  let prod := regGet s (vfReg e.vf 0x148)
  let cons := regGet s (vfReg e.vf 0x150)
  let stat := regGet s (vfReg e.vf 0x158)
  let base := bits (regGet s (vfReg e.vf 0x140)) 12 45 * 4096
  match partOf s e.vf with
  | none => s
  | some (_, p) =>
    if (prod + 1) % 128 = cons ∨ base + 4096 > memorySize p then
      regPut s (vfReg e.vf 0x158) (2 ^ 32 + min (stat % 2 ^ 32 + 1) (2 ^ 32 - 1))
    else
      notify (regPut (paStore s p e.vf (base + 32 * prod) (watchWords e seq)) (vfReg e.vf 0x148) ((prod + 1) % 128)) (some e.vf) 1

end Sys2Proof.Machine
end

