-- ==== Sys2Proof/Machine/Access.lean ====
section
/-! DEFINITION. The accesses of one instruction: the checks of R214, the completion mask of R215, what an access does to the
launch and the gang (R322, R374), and the outstanding loads and stores (R216). -/

namespace Sys2Proof.Machine

/-! ## Elements -/

/-- One element of an access as it is checked: its mask bit, its thread, and its coordinates, or none where they are out of
range (R183, R184). -/
structure Elem where
  bit : Nat
  thread : Nat
  coords : Option (List Int)
  deriving DecidableEq, Repr

/-- One unit an instruction accesses: the elements it covers, where it lies, and the element number in a block. -/
structure Item where
  mask : BitVec 64
  thread : Nat
  bit : Nat
  va : Nat
  size : Nat
  c1 : Nat
  elem : Nat
  deriving DecidableEq, Repr

/-- The bit of an element. -/
def elemBit (n : Nat) : BitVec 64 := 1 <<< n

/-- The mask of the elements that satisfy a test. -/
def elemMask (l : List Elem) (p : Elem → Bool) : BitVec 64 :=
  l.foldl (fun m e => if p e then m ||| elemBit e.bit else m) 0

/-- The descriptor index of a MEM immediate (R104). -/
def memTd (f : Fields) : Nat := bits f.imm.toNat 21 10
/-- DRANK of a MEM immediate (R104). -/
def memDrank (f : Fields) : Nat := bits f.imm.toNat 18 3
/-- HINT of a MEM immediate (R104). -/
def memHint (f : Fields) : Nat := bits f.imm.toNat 15 3
/-- ORDER of a MEM immediate (R105). -/
def memOrder (f : Fields) : Nat := bits f.imm.toNat 12 3
/-- DISP of a MEM immediate (R104). -/
def memDisp (f : Fields) : Int := (BitVec.ofNat 12 f.imm.toNat).toInt

/-- An operation that names sys scope under a scope ceiling of ten sets SCOPE_CLAMPED (R208). -/
def clampScope (s : State) (vf scope order : Nat) : State :=
  if order ≠ 0 ∧ scope = 7 ∧ ((mapGet s.policy vf).map (·.2)).getD false ∧ !s.clamped.contains vf then
    { s with clamped := s.clamped ++ [vf] }
  else s

/-- The registers of a gang as the instruction reads them: those of its issue while it is held (R215). -/
def operandGang (g : Gang) : Gang := { g with regs := (g.operands.map (·.regs)).getD g.regs }

/-- The state whose b registers the instruction in a slot reads: those of its issue while it is held (R215). -/
def operandState (s : State) (slot : Nat) (g : Gang) : State :=
  match g.operands with
  | some o => { s with bregs := wordSetList s.bregs (16 * bayOf slot) o.bregs }
  | none => s

/-! ## Descriptor and origin -/

/-- What steps 7a and 7b give: the descriptor, or how the instruction ends. -/
inductive Front where
  | go (d : Desc) (s : State)
  | stop (r : Res)
  deriving DecidableEq, Repr

/-- Whether TYP agrees with TYPE (R211). -/
def typeAgrees (ty dty : Ty) : Bool := ty == dty || (ty.isInt && !dty.isBx && dty.width == ty.width)

/-- Steps 7a and 7b of R214 for the descriptor of an index: valid, of an agreeing type where one is named, in a layout that
allows the access. An instruction that has performed accesses goes on under the descriptor that it read (R215, R231). -/
def frontAt (s : State) (slot : Nat) (g : Gang) (index : Nat) (ty : Option Ty) (layoutOk : Desc → Bool) : Front :=
  match g.operands with
  | some o => .go o.desc s
  | none =>
  match fetchDesc s slot g index with
  | .miss s => .stop (.hold s .miss)
  | .fail fl s => .stop (.trap s fl)
  | .ok w s =>
    let d := descOf w
    if !d.ok then .stop (.trap s (precise .tdInvalid (descTval index 0)))
    else if !((ty.map fun t => typeAgrees t d.type).getD true) then
      .stop (.trap s (precise .tdInvalid (descTval index 1024)))
    else if layoutOk d then .go d s else .stop (.trap s (precise .planeFormat (descTval index 0)))

/-- The origin of an access: `n` s registers from A, as signed values (R183). -/
def originAt (s : State) (slot : Nat) (g : Gang) (a : BitVec 10) (n : Nat) : List Int :=
  (List.range n).map fun i => (readReg s slot g 0 (a + BitVec.ofNat 10 i)).toInt

/-- The displacements of a thread (R183). -/
def dispAt (s : State) (slot : Nat) (g : Gang) (b : BitVec 10) (n t : Nat) : List Int :=
  (List.range n).map fun i => (readReg s slot g t (b + BitVec.ofNat 10 i)).toInt

/-- Coordinates of a thread, or none where they are out of range (R183, R184). -/
def coordsAt (s : State) (slot : Nat) (g : Gang) (f : Fields) (d : Desc) (t : Nat) : Option (List Int) :=
  let c := coordsFrom (dispAt s slot g f.b (min (memDrank f) d.rank) t) (memDisp f) (originAt s slot g f.a d.rank)
  if inRange c d.extents then some c else none

/-! ## Steps 7c to 7e -/

/-- The items of the elements in range. -/
def itemsOf (d : Desc) (size : Nat) : List Elem → List Item
  | [] => []
  | e :: r =>
    match e.coords with
    | none => itemsOf d size r
    | some c => ⟨elemBit e.bit, e.thread, e.bit, (d.locate c).addr, size, coord1 c, (d.locate c).elem⟩ :: itemsOf d size r

/-- COORD_RANGE, ALIGN and PROTECTION of step 7c to 7e (R184, R185, R214); `supported` is whether the space supports the
operation. -/
def placeFault (d : Desc) (size : Nat) (supported : Bool) (els : List Elem) : Option GFault :=
  let out := elemMask els fun e => e.coords.isNone
  let bad := elemMask els fun e => match e.coords with
    | some c => (d.locate c).base % d.alignment != 0
    | none => false
  let far := elemMask els fun e => match e.coords, d.limit with
    | some c, some lim => decide ((d.locate c).addr + size > lim)
    | _, _ => false
  if out ≠ 0 ∧ d.bmode = false then some (precise .coordRange out)
  else if bad ≠ 0 then some (precise .align bad)
  else if !supported then some (precise .protection (elemMask els fun _ => true))
  else if far ≠ 0 then some (precise .protection far)
  else none

/-! ## Performing (R215) -/

/-- The elements of an instruction that are not complete yet (R215). -/
def openElems (g : Gang) (els : List Elem) : List Elem := els.filter fun e => !g.done.getLsbD e.bit

/-- A gang whose elements out of range count as complete: they reach no memory (R184, R219). -/
def skipOut (g : Gang) (els : List Elem) : Gang := { g with done := g.done ||| elemMask els fun e => e.coords.isNone }

/-- Changes the gang in a slot. -/
def onGang (s : State) (slot : Nat) (f : Gang → Gang) : State := { s with gangs := mapUpdate s.gangs slot f }

/-- What the instruction in a slot read is kept while it is held (R215, R231). -/
def keepOperands (s : State) (slot : Nat) (d : Desc) : State :=
  let bregs := wordGetList s.bregs (16 * bayOf slot) 16
  onGang s slot fun g => { g with operands := some (g.operands.getD ⟨g.regs, bregs, d⟩) }

/-- The progress of an instruction's accesses; `wrote` are the bytes of device memory it has written, by their dram numbers. -/
structure Sweep where
  s : State
  missed : Bool
  done : BitVec 64
  failed : List (FaultCode × Nat × BitVec 64)
  poison : Mask
  hit : Option Match
  hitMask : BitVec 64
  remote : BitVec 64
  late : List Late
  wrote : List Nat
  deriving DecidableEq, Repr

/-- Adds an element to the failures of its kind. -/
def addFailure (l : List (FaultCode × Nat × BitVec 64)) (code : FaultCode) (detail : Nat) (m : BitVec 64) :
    List (FaultCode × Nat × BitVec 64) :=
  match l with
  | [] => [(code, detail, m)]
  | (c, dt, k) :: r => if c = code then (c, dt, k ||| m) :: r else (c, dt, k) :: addFailure r code detail m

/-- The elements that have failed. -/
def failedMask (l : List (FaultCode × Nat × BitVec 64)) : BitVec 64 := l.foldl (fun m e => m ||| e.2.2) 0

/-- How an access leaves a place it reaches: the state after, whether it read poison, and the registers it writes when its data
arrive from another package. -/
structure Performed where
  s : State
  poison : Bool
  late : List Late
  deriving DecidableEq, Repr

/-- What an access does with a place it reaches. -/
abbrev Perform := State → Item → Locus → Performed

/-- What the accesses of one instruction share: the slot, the gang's operands, the descriptor, the access, whether core
watchpoints are matched, and whether they match as atomics. -/
structure Ctx where
  slot : Nat
  g : Gang
  d : Desc
  acc : Access
  watch : Bool
  atomic : Bool

/-- The L2 lines of a device access are loaded or stored under a hint, in the slice that serves the gang's cluster (R19, R190,
R357). -/
def touchLines (s : State) (slot vf hint : Nat) (store : Bool) (p : Partition) (pas : List Nat) : State :=
  touchIn s p (sliceFor p (clusterOf (cellOf slot))) vf hint store pas

/-- The watchpoint match of an access that reaches a place (R384, R385). -/
def coreMatch (cx : Ctx) (s : State) (it : Item) : Locus → Option Match
  | .device _ _ => if cx.watch then matchBytes s cx.g.vf cx.atomic (consecutive it.va it.size) else none
  | _ => none

/-- Serves one item that reaches a place: the other end may reject a remote one (R407), a watchpoint may match (R385), a store
that reads poison faults (R390); otherwise the access is performed. -/
def serveItem (cx : Ctx) (perform : Perform) (w : Sweep) (it : Item) (l : Locus) : Sweep :=
  let far := match l with
    | .remote _ _ => true
    | _ => false
  let s := if far then { w.s with free := w.s.free + 1 } else w.s
  if far && Config.rejects w.s.free then { w with s := s, failed := addFailure w.failed .remoteReject 0 it.mask }
  else match coreMatch cx s it l with
    | some m => { w with s := s, hit := some ((w.hit.map (joinMatch m)).getD m), hitMask := w.hitMask ||| it.mask }
    | none =>
      let r := perform s it l
      if r.poison && cx.acc == .write then { w with s := s, failed := addFailure w.failed .poison 0 it.mask }
      else
        { w with s := r.s, done := w.done ||| it.mask,
                 poison := if r.poison then w.poison ||| (1 <<< it.thread) else w.poison,
                 remote := if far then w.remote ||| it.mask else w.remote,
                 late := w.late ++ r.late,
                 wrote := match l with
                   | .device p pas => if cx.acc = .write then w.wrote ++ pas.map (dramKey p) else w.wrote
                   | _ => w.wrote }

/-- Serves one item, unless it is complete or has failed (R215). -/
def sweepItem (cx : Ctx) (perform : Perform) (w : Sweep) (it : Item) : Sweep :=
  if it.mask &&& (w.done ||| failedMask w.failed) ≠ 0 then w
  else match reach w.s cx.slot cx.g cx.d it.c1 it.va it.size cx.acc (.gang cx.slot) with
    | .miss s => { w with s := s, missed := true }
    | .fail code detail s => { w with s := s, failed := addFailure w.failed code detail it.mask }
    | .ok l => serveItem cx perform w it l

/-- Serves every item in order. -/
def sweepAll (cx : Ctx) (perform : Perform) (w : Sweep) : List Item → Sweep
  | [] => w
  | it :: r => sweepAll cx perform (sweepItem cx perform w it) r

/-- The kind of failure that is raised: the first of PROTECTION, REMOTE_REJECT and TRANSLATION (R215); POISON of a table
read or of a block that a store reads, which R215 does not list, comes after them (log 14). -/
def failureOf (l : List (FaultCode × Nat × BitVec 64)) : Option GFault :=
  let pick := fun c => l.find? fun e => e.1 == c
  match pick .protection, pick .remoteReject, pick .translation, l with
  | some e, _, _, _ | none, some e, _, _ | none, none, some e, _ | none, none, none, e :: _ =>
    some (preciseDetail e.1 e.2.2 e.2.1)
  | none, none, none, [] => none

/-- Where an element's registers are: in the v, y and z files of a thread, or in the uniform file (R219, R221). -/
inductive Dest where
  | lane (t : Nat)
  | uniform
  deriving DecidableEq, Repr

/-- Writes consecutive registers of a destination. -/
def putDest (s : State) (slot : Nat) (dst : Dest) (x : BitVec 10) : List Word → State
  | [] => s
  | w :: r =>
    let s := match dst with
      | .lane t => onGang s slot fun g => putReg g t x w
      | .uniform => match mapGet s.gangs slot with
        | none => s
        | some g => setGang (putUniform s slot g x w).1 slot (putUniform s slot g x w).2
    putDest s slot dst (x + 1) r

/-- The file a late write goes to: the uniform file where its register is an s or b register. -/
def Late.dest (l : Late) : Dest :=
  match RegName.ofSpec l.reg with
  | some (.s _) | some (.b _) => .uniform
  | _ => .lane l.thread

/-- Elements that have arrived from another package are written (R217). -/
def putLate (s : State) (slot : Nat) (l : List Late) : State := l.foldl (fun s x => putDest s slot x.dest x.reg [x.value]) s

/-- How the accesses of an instruction end: held on a miss, faulted, matched, or complete (R214, R215, R385). Lines of which it
wrote every byte lose their poison (R390). -/
def sweepEnd (cx : Ctx) (kind : Nat) (w : Sweep) (finished : State → Sweep → Res) : Res :=
  let s := onGang (leaveFailed (clearWhole w.s w.wrote) (.gang cx.slot)) cx.slot fun g =>
    { g with done := w.done, failed := w.failed, poisoned := w.poison }
  if w.missed then .hold (putLate s cx.slot w.late) .miss
  else match failureOf w.failed with
    | some fl => .trap (putLate s cx.slot w.late) fl
    | none =>
      match w.hit with
      | some m =>
        .trap (writeWatch (putLate s cx.slot w.late) ⟨cx.g.vf, kind, cx.g.pc, m.va, m.bytes, m.wps, s.clock⟩)
          (precise .watch w.hitMask)
      | none => finished s w

/-- Performs the items of an instruction (R214 steps 7f and 7g, R215). -/
def performAll (s : State) (cx : Ctx) (kind : Nat) (perform : Perform) (items : List Item) (finished : State → Sweep → Res) :
    Res :=
  sweepEnd cx kind
    (sweepAll cx perform ⟨keepOperands s cx.slot cx.d, false, cx.g.done, cx.g.failed, cx.g.poisoned, none, 0, 0, [], []⟩ items) finished

/-! ## Outstanding loads and stores (R216) -/

/-- Whether a further load would exceed the 63 outstanding (R216). -/
def loadsFull (g : Gang) : Bool := decide ((g.loads.filter fun l => !l.complete).length ≥ 63)
/-- Whether a further store would exceed the 63 outstanding (R216). -/
def storesFull (g : Gang) : Bool := decide (g.stores.length ≥ 63)

/-- How many bits a mask has. -/
def maskCount (m : BitVec 64) : Nat := ((List.range 64).filter fun i => m.getLsbD i).length

/-- The units or ranges among some that were sent over a link. -/
def sentOn (link : Nat) (l : AMap Nat) : Nat := (l.filter fun e => e.2 == link).length

/-- Requests outstanding on a link: the elements of loads and stores, the units of copies, the ranges of the matrix units
(R405). -/
def requestsOn (s : State) (link : Nat) : Nat :=
  let count := fun (r : Option (Nat × BitVec 64)) => match r with
    | some (k, m) => if k = link then maskCount m else 0
    | none => 0
  (s.gangs.map fun e => (e.2.loads.map fun l => count l.remote).sum + (e.2.stores.map fun x => count x.remote).sum).sum
    + (s.copies.map fun e => sentOn link e.2.sent).sum
    + (s.matrix.map fun e => (e.2.queue.map fun o => sentOn link o.sent).sum).sum

/-- Whether `n` more requests pass what a station may have outstanding, 2,048 (R405); a port has no such limit. The one that
sends has `now` outstanding by now, where the state still counts its `old`. -/
def linkBusy (s : State) (link : Nat) (old now : AMap Nat) (n : Nat) : Bool :=
  decide (link < 24) && decide (requestsOn s link + sentOn link now + n > 2048 + sentOn link old)

/-- Whether the elements of a remote access pass what its station may have outstanding (R405). -/
def linkFull (s : State) (vf : Nat) (d : Desc) (n : Nat) : Bool :=
  d.space == 3 && d.chip != chipId s && ((linkFor s vf d.chip).map fun k => linkBusy s k [] [] n).getD false

/-- The link of an instruction's remote elements. -/
def remoteOf (s : State) (cx : Ctx) (w : Sweep) : Option (Nat × BitVec 64) :=
  if w.remote = 0 then none else (linkFor s cx.g.vf cx.d.chip).map fun k => (k, w.remote)

/-- A load is issued: it is outstanding, and its names are pending until a WAIT counts past it (R41, R216, R233). -/
def issueLoad (s : State) (slot td : Nat) (names : List Name) (atomic : Bool) (poison : Mask)
    (remote : Option (Nat × BitVec 64)) (late : List Late) : Res :=
  let id := s.nextId
  let s := onGang { s with nextId := id + 1 } slot fun g =>
    { g with loads := g.loads ++ [⟨id, atomic, false, poison, td, g.pc, remote, late⟩] }
  .done s (names.map fun n => ⟨n, .load id⟩)

/-- The load of an instruction whose elements have been performed. -/
def sweptLoad (cx : Ctx) (td : Nat) (names : List Name) (atomic : Bool) (s : State) (w : Sweep) : Res :=
  issueLoad s cx.slot td names atomic w.poison (remoteOf s cx w) w.late

/-- A store is issued and outstanding (R216). -/
def issueStore (s : State) (slot : Nat) (remote : Option (Nat × BitVec 64)) : Res :=
  .done (onGang { s with nextId := s.nextId + 1 } slot fun g => { g with stores := g.stores ++ [⟨s.nextId, g.pc, remote⟩] }) []

/-- The store of an instruction whose elements have been performed. -/
def sweptStore (cx : Ctx) (s : State) (w : Sweep) : Res := issueStore s cx.slot (remoteOf s cx w)

/-! ## Effects of a store or atomic -/

/-- Sets ESCAPED or WROTE of the gang's launch for a write under a descriptor (R374). -/
def effectFlags (s : State) (g : Gang) (d : Desc) : State :=
  let out := d.space == 4 || (d.space == 3 && d.chip != chipId s)
  { s with launches := mapUpdate s.launches (launchKey g.vf g.lslot) fun l =>
      if out then { l with escaped := true } else if d.space = 0 ∨ d.space = 3 then { l with wrote := true } else l }

/-- The gang is sealed (R322). -/
def sealGang (s : State) (slot : Nat) : State := onGang s slot fun g => { g with sealed := true }

/-- The record-window slots of a gang's own records (R70). -/
def ownSlots (s : State) (g : Gang) : List Nat :=
  (List.range 32).filterMap fun t => (recordOf s g t).map (·.index)

/-- Whether a store seals its gang (R322): to remote or host space, through a declared input, or into a slot of the gang's
own records. -/
def storeSeals (s : State) (g : Gang) (d : Desc) (td : Nat) (items : List Item) : Bool :=
  d.space == 3 || d.space == 4 || g.shelf.inputs.contains td
    || (d.space == 1 && items.any fun it => (consecutive it.va it.size).any fun a =>
        let b := permuteAddr d.perm it.c1 a
        decide (0xE8000 ≤ b) && (ownSlots s g).contains ((b - 0xE8000) / 64))

/-! ## The order of lanes on one unit -/

/-- Places a pair by its key. -/
def keyInsert (k : Nat) (t : Nat) : List (Nat × Nat) → List (Nat × Nat)
  | [] => [(k, t)]
  | (j, u) :: r => if k < j then (k, t) :: (j, u) :: r else (j, u) :: keyInsert k t r

/-- Threads in an order that free values choose (R9, R209, R229; log 1). -/
def freeOrder (n : Nat) : List Nat → List (Nat × Nat)
  | [] => []
  | t :: r => keyInsert (Config.freeWord n).toNat t (freeOrder (n + 1) r)

/-- The bytes an item touches, where it is reached now. -/
def itemBytes (s : State) (slot : Nat) (g : Gang) (d : Desc) (acc : Access) (it : Item) : List Nat :=
  match reach s slot g d it.c1 it.va it.size acc (.gang slot) with
  | .ok l => l.bytes
  | _ => []

/-- Whether some byte stands in two of some lists. -/
def overlapAny : List (List Nat) → Bool
  | [] => false
  | l :: r => (r.any fun m => m.any fun a => l.contains a) || overlapAny r

/-- The items of an instruction in the order in which they take effect: an unspecified order of threads where two of them
touch one byte, after translation and permutation, a thread's own elements staying in order (R9, R186, R209, R224, R229). -/
def laneOrder (s : State) (slot : Nat) (g : Gang) (d : Desc) (acc : Access) (items : List Item) : List Item × State :=
  if overlapAny (items.map (itemBytes s slot g d acc)) then
    ((freeOrder s.free (List.range 32)).flatMap fun e => items.filter fun it => it.thread == e.2,
      { s with free := s.free + 32 })
  else (items, s)

end Sys2Proof.Machine
end

