-- ==== Sys2Proof/Machine/Memory.lean ====
section
/-! DEFINITION. Class 0x6: loads, stores, gathers, scatters, lines, SHFX, REBAL, cache and descriptor instructions (R210 to
R226, R230, R231, R234). -/

namespace Sys2Proof.Machine

/-! ## Destinations and data -/

/-- Reads consecutive registers of a source. -/
def readDest (s : State) (slot : Nat) (g : Gang) (dst : Dest) (x : BitVec 10) (n : Nat) : List Word :=
  (List.range n).map fun i => readReg s slot g (match dst with
    | .lane t => t
    | .uniform => 0) (x + BitVec.ofNat 10 i)

/-- Registers of one element of a type (R212). -/
def elemRegs (ty : Ty) : Nat := if ty = .iv64 then 2 else 1

/-- The first register of an element: element 1 of a thread follows element 0 (R223). -/
def elemSpec (ty : Ty) (x : BitVec 10) (bit : Nat) : BitVec 10 := x + BitVec.ofNat 10 (bit / 32 * elemRegs ty)

/-- The destination of an item. -/
def itemDest (uniform : Bool) (it : Item) : Dest := if uniform then .uniform else .lane it.thread

/-! ## Loads -/

/-- The bytes of a load at a place: touched in the slice, or asked for over the link (R190, R363). -/
def loadAt (cx : Ctx) (hint : Nat) (s : State) (l : Locus) : List Byte × Bool × State :=
  let r := locusRead s l
  (r.1, r.2.1, match l with
    | .device p pas => touchLines r.2.2 cx.slot cx.g.vf hint false p pas
    | .remote x n => sendOver r.2.2 x.link x.vf 1 (.load x.tenant x.chip x.va n)
    | _ => r.2.2)

/-- The registers of an element are written, at once or, for one that comes from another package, as it arrives (R217). -/
def deliverElem (slot : Nat) (dst : Dest) (x : BitVec 10) (it : Item) (l : Locus) (words : List Word) (s : State) (poison : Bool) :
    Performed :=
  match l with
  | .remote _ _ => ⟨s, poison, words.zipIdx.map fun e => ⟨it.mask, it.thread, x + BitVec.ofNat 10 e.2, e.1⟩⟩
  | _ => ⟨putDest s slot dst x words, poison, []⟩

/-- Performs one element of a load (R212, R218, R219). -/
def loadPerform (cx : Ctx) (f : Fields) (ty : Ty) (uniform : Bool) : Perform := fun s it l =>
  let r := loadAt cx (memHint f) s l
  deliverElem cx.slot (itemDest uniform it) (elemSpec ty f.d it.bit) it l (loadImage cx.d ty r.1 it.elem) r.2.2 r.2.1

/-- +0 for the elements out of range under BMODE 1 (R184, R219). -/
def zeroOut (slot : Nat) (f : Fields) (ty : Ty) (uniform : Bool) : List Elem → State → State
  | [], s => s
  | e :: r, s =>
    zeroOut slot f ty uniform r (match e.coords with
      | some _ => s
      | none => putDest s slot (if uniform then .uniform else .lane e.thread) (elemSpec ty f.d e.bit)
          (List.replicate (elemRegs ty) 0))

/-- The common course of a load (R214, R219), over its elements that are not complete. -/
def loadElems (opc : Nat) (f : Fields) (ty : Ty) (uniform : Bool) (s : State) (slot : Nat) (g : Gang) (d : Desc)
    (all : List Elem) : Res :=
  let els := openElems g all
  match placeFault d (unitBytes d.type) true els with
  | some fl => .trap s fl
  | none =>
    if loadsFull g || linkFull s g.vf d els.length then .hold s .interlock
    else
      let cx : Ctx := ⟨slot, skipOut g els, d, .read, false, false⟩
      let s := clampScope (zeroOut slot f ty uniform els (keepOperands s slot d)) g.vf f.rnd.toNat (memOrder f)
      performAll s cx 0 (loadPerform cx f ty uniform) (itemsOf d (unitBytes d.type) els)
        (sweptLoad cx (memTd f) (destNames opc f) false)

/-- Layouts that element-wise loads accept (R181). -/
def loadLayout (d : Desc) : Bool := d.layout != 2
/-- Layouts that element-wise stores accept (R181). -/
def storeLayout (d : Desc) : Bool := d.layout == 0

/-- The elements of a lane instruction, one to a thread (R219). -/
def laneElems (s : State) (slot : Nat) (g : Gang) (f : Fields) (d : Desc) (ts : List Nat) : List Elem :=
  ts.map fun t => ⟨t, t, coordsAt s slot g f d t⟩

/-! ## Stores -/

/-- The data of an element of a store. -/
def storeData (s : State) (slot : Nat) (g : Gang) (f : Fields) (ty : Ty) (uniform : Bool) (it : Item) : List Word :=
  readDest s slot g (itemDest uniform it) (elemSpec ty f.c it.bit) (elemRegs ty)

/-- The effect of a store on the L2 slice of its gang (R190). -/
def touchStore (cx : Ctx) (f : Fields) (s : State) (l : Locus) : State :=
  match l with
  | .device p pas => touchLines s cx.slot cx.g.vf (memHint f) true p pas
  | _ => s

/-- Performs one element of a store (R212, R219). -/
def storePerform (cx : Ctx) (f : Fields) (ty : Ty) (data : Item → List Word) : Perform := fun s it l =>
  let r := storeImage cx.d ty (data it)
  let s := onGang s cx.slot fun g => raiseFlags g r.2
  ⟨touchStore cx f (locusWrite s cx.g.wg l r.1) l, false, []⟩

/-- Where the block of an item lies: its address, permuted in a scratchpad (R186). -/
def blockAt (d : Desc) (it : Item) : Nat := if d.space = 1 then permuteAddr d.perm it.c1 it.va else it.va

/-- The items of a store to BX blocks, merged by the block they name, with the new elements of each (R186, R195). -/
def mergeBlocks (d : Desc) (data : Item → List Word) : List Item → AMap (Item × List (Nat × Word))
  | [] => []
  | it :: r =>
    let m := mergeBlocks d data r
    match mapGet m (blockAt d it) with
    | none => mapSet m (blockAt d it) (it, [(it.elem, (data it).headD 0)])
    | some (x, ws) =>
      let ws := match mapGet ws it.elem with
        | some _ => ws
        | none => mapSet ws it.elem ((data it).headD 0)
      mapSet m (blockAt d it) ({ x with mask := x.mask ||| it.mask }, ws)

/-- The bytes of a block that a store replaces in part: what another package holds is asked for over the link (R195, R217). -/
def blockRead (cx : Ctx) (hint : Nat) (s : State) (l : Locus) : List Byte × Bool × State :=
  match l with
  | .remote _ _ => loadAt cx hint s l
  | _ => locusRead s l

/-- Performs one block of a store: read where it is partial, replaced, repacked, written whole (R195). A partial one that reads
poison is not performed (R390). -/
def blockPerform (cx : Ctx) (f : Fields) (ty : Ty) (m : AMap (Item × List (Nat × Word))) : Perform := fun s it l =>
  let news := ((mapGet m (blockAt cx.d it)).map (·.2)).getD []
  let r := if news.length < 16 then blockRead cx (memHint f) s l else ([], false, s)
  let b := storeBlock cx.d ty r.1 news
  let s := onGang r.2.2 cx.slot fun g => raiseFlags g b.2
  ⟨touchStore cx f (locusWrite s cx.g.wg l b.1) l, r.2.1, []⟩

/-- ABANDONED_OPERAND of data bound for FP8 or BX (R212, R214). -/
def abandonedData (ty : Ty) (data : Item → List Word) (items : List Item) : Option GFault :=
  if ty.isFp8 || ty.isBx then
    let m := items.foldl (fun (m : Mask) it => if fmtF64.isAbandoned ((data it).headD 0).toNat then m ||| (1 <<< it.thread) else m) 0
    if m = 0 then none else some (operandFault .abandonedOperand 3 m)
  else none

/-- A store seals its gang where its access does, but not a uniform one under EM = 0 (R322). -/
def sealStore (s : State) (slot : Nat) (g : Gang) (d : Desc) (td : Nat) (items : List Item) : State :=
  if storeSeals s g d td items && g.em != 0 then sealGang s slot else s

/-- The common course of a store (R214, R219, R322, R374), over its elements that are not complete. -/
def storeElems (f : Fields) (ty : Ty) (uniform : Bool) (s : State) (slot : Nat) (g : Gang) (d : Desc)
    (all : List Elem) : Res :=
  let els := openElems g all
  match placeFault d (unitBytes d.type) true els with
  | some fl => .trap s fl
  | none =>
    let items := itemsOf d (unitBytes d.type) els
    let data := fun it => storeData (operandState s slot g) slot g f ty uniform it
    match abandonedData ty data items with
    | some fl => .trap s fl
    | none =>
      if storesFull g || linkFull s g.vf d els.length then .hold s .interlock
      else
        let cx : Ctx := ⟨slot, skipOut g els, d, .write, !g.skipWatch, false⟩
        let s := clampScope (effectFlags (sealStore s slot g d (memTd f) items) g d) g.vf f.rnd.toNat (memOrder f)
        let o := laneOrder s slot g d .write items
        if ty.isBx then
          let m := mergeBlocks d data o.1
          let b := laneOrder o.2 slot g d .write (m.map fun e => e.2.1)
          performAll b.2 cx 0 (blockPerform cx f ty m) b.1 (sweptStore cx)
        else performAll o.2 cx 0 (storePerform cx f ty data) o.1 (sweptStore cx)

/-- LDT (R219, R220). Loads one element per participating thread. -/
def execLdt (f : Fields) (s : State) : Host.Outcome State Fault Refusal :=
  issueLane 0x180 f s fun g ts =>
    let g := operandGang g
    match frontAt s s.cur g (memTd f) (some (tyOf f)) loadLayout with
    | .stop r => r
    | .go d s => loadElems 0x180 f (tyOf f) false s s.cur g d (laneElems (operandState s s.cur g) s.cur g f d ts)

/-- STT (R219, R220). Stores one element per participating thread. -/
def execStt (f : Fields) (s : State) : Host.Outcome State Fault Refusal :=
  issueLane 0x181 f s fun g ts =>
    let g := operandGang g
    match frontAt s s.cur g (memTd f) (some (tyOf f)) storeLayout with
    | .stop r => r
    | .go d s => storeElems f (tyOf f) false s s.cur g d (laneElems (operandState s s.cur g) s.cur g f d ts)

/-- LDU (R221). One load for the gang, into s or b registers. -/
def execLdu (f : Fields) (s : State) : Host.Outcome State Fault Refusal :=
  issueUniform 0x182 f s fun g =>
    match frontAt s s.cur g (memTd f) (some (tyOf f)) loadLayout with
    | .stop r => r
    | .go d s => loadElems 0x182 f (tyOf f) true s s.cur g d [⟨0, 0, coordsAt (operandState s s.cur g) s.cur g f d 0⟩]

/-- STU (R221). One store for the gang, from s or b registers. -/
def execStu (f : Fields) (s : State) : Host.Outcome State Fault Refusal :=
  issueUniform 0x183 f s fun g =>
    match frontAt s s.cur g (memTd f) (some (tyOf f)) storeLayout with
    | .stop r => r
    | .go d s => storeElems f (tyOf f) true s s.cur g d [⟨0, 0, coordsAt (operandState s s.cur g) s.cur g f d 0⟩]

/-! ## LINE (R222) -/

/-- Performs the four bytes of one thread. -/
def linePerform (cx : Ctx) (f : Fields) : Perform := fun s it l =>
  let r := loadAt cx (memHint f) s l
  deliverElem cx.slot (.lane it.thread) f.d it l [BitVec.ofNat 64 (bytesToNat r.1)] r.2.2 r.2.1

/-- LINE (R222). Loads one whole 128-byte line, 4 bytes to each thread. -/
def execLine (f : Fields) (s : State) : Host.Outcome State Fault Refusal :=
  issueLane 0x184 f s fun g ts =>
    let g := operandGang g
    match frontAt s s.cur g (memTd f) none loadLayout with
    | .stop r => r
    | .go d s =>
      let ts := ts.filter fun t => !g.done.getLsbD t
      let mask : BitVec 64 := (maskOf ts fun _ => true).zeroExtend 64
      match coordsAt (operandState s s.cur g) s.cur g f d 0 with
      | none =>
        if d.bmode then
          if loadsFull g then .hold s .interlock
          else
            let s := clampScope s g.vf f.rnd.toNat (memOrder f)
            issueLoad (onGang s s.cur fun g => putLanes g f.d (fun _ => 0) ts) s.cur (memTd f) (destNames 0x184 f) false
              g.poisoned none []
        else .trap s (precise .coordRange mask)
      | some c =>
        let a := (d.locate c).addr
        let line := a - a % 128
        if (match d.limit with
            | some lim => decide (line ≥ lim)
            | none => false) then .trap s (precise .protection mask)
        else if loadsFull g || linkFull s g.vf d ts.length then .hold s .interlock
        else
          let cx : Ctx := ⟨s.cur, g, d, .read, false, false⟩
          let items := ts.map fun t => (⟨elemBit t, t, t, line + 4 * t, 4, coord1 c, 0⟩ : Item)
          performAll (clampScope s g.vf f.rnd.toNat (memOrder f)) cx 0 (linePerform cx f) items
            (sweptLoad cx (memTd f) (destNames 0x184 f) false)

/-! ## GATH and SCAT (R223, R224) -/

/-- Coordinates of a flat index (R223), or none where it is out of range. -/
def flatCoords : List Nat → Nat → List Int × Nat
  | [], n => ([], n)
  | e :: r, n =>
    let t := flatCoords r (n / e)
    (((n % e : Nat) : Int) :: t.1, t.2)

/-- The elements of a gather or scatter: element `j` of thread `t` at bit 32·j + t (R214, R223). -/
def gathElems (s : State) (slot : Nat) (g : Gang) (f : Fields) (d : Desc) (ts : List Nat) : List Elem :=
  (List.range (memDrank f)).flatMap fun j => ts.map fun t =>
    let i := (readReg s slot g 0 f.a).toInt + bits (readReg s slot g t f.b).toNat (32 * j) 32 + memDisp f
    let c := flatCoords (d.extents.take d.rank) i.toNat
    ⟨32 * j + t, t, if 0 ≤ i ∧ c.2 = 0 then some c.1 else none⟩

/-- GATH (R223, R224). Loads one or two elements per thread by flat index. -/
def execGath (f : Fields) (s : State) : Host.Outcome State Fault Refusal :=
  issueLane 0x186 f s fun g ts =>
    let g := operandGang g
    match frontAt s s.cur g (memTd f) (some (tyOf f)) loadLayout with
    | .stop r => r
    | .go d s => loadElems 0x186 f (tyOf f) false s s.cur g d (gathElems (operandState s s.cur g) s.cur g f d ts)

/-- SCAT (R223, R224). Stores one or two elements per thread by flat index. -/
def execScat (f : Fields) (s : State) : Host.Outcome State Fault Refusal :=
  issueLane 0x187 f s fun g ts =>
    let g := operandGang g
    match frontAt s s.cur g (memTd f) (some (tyOf f)) storeLayout with
    | .stop r => r
    | .go d s => storeElems f (tyOf f) false s s.cur g d (gathElems (operandState s s.cur g) s.cur g f d ts)

/-! ## SHFX (R225) and REBAL (R226) -/

/-- The source thread of SHFX; its own where it falls out of its segment (R225). -/
def shuffleSource (mode n z idx t : Nat) : Nat :=
  let base := t - t % z
  let u : Int := match mode with
    | 0 => base + idx % 32 % z
    | 1 => (t : Int) - n
    | 2 => t + n
    | 3 => (t ^^^ n : Nat)
    | _ => base + n
  if (base : Int) ≤ u ∧ u < base + z then u.toNat else t

/-- SHFX (R225). Exchanges register values among the threads of a gang. -/
def execShfx (f : Fields) (s : State) : Host.Outcome State Fault Refusal :=
  issueLane 0x185 f s fun g ts =>
    let mode := bits f.imm.toNat 0 3
    let z := 32 / 2 ^ bits f.imm.toNat 8 3
    let src := fun t => shuffleSource mode (bits f.imm.toNat 3 5) z (if mode = 0 then (readReg s s.cur g t f.b).toNat else 0) t
    let val := fun t i => BitVec.ofNat 64 (lowNat (min 64 (tyOf f).width) (readReg s s.cur g (src t) (f.a + BitVec.ofNat 10 i)))
    let put := putLanes g f.d (fun t => val t 0) ts
    let put := if tyOf f = .iv64 then putLanes put (nextSpec f.d) (fun t => val t 1) ts else put
    .done (setGang s s.cur put) (pendD 0x185 f 4)

/-- The sum of the counts of the participating threads below a thread (R226). -/
def countBelow (n : Nat → Nat) (ts : List Nat) (t : Nat) : Nat := ((ts.filter fun u => decide (u < t)).map n).sum

/-- REBAL (R226). Spreads uneven per-thread work over the gang. -/
def execRebal (f : Fields) (s : State) : Host.Outcome State Fault Refusal :=
  issueLane 0x188 f s fun g ts =>
    let n := fun t => lowNat 32 (readReg s s.cur g t f.a)
    let p := countBelow n ts
    let total := (ts.map n).sum
    let b := (readReg s s.cur g 0 f.b).toNat
    let rank := fun t => (ts.filter fun u => decide (u < t)).length
    let r := fun t : Nat => match bits f.imm.toNat 0 2 with
      | 0 =>
        let w := b + rank t
        match ts.find? fun u => decide (p u ≤ w ∧ w < p u + n u) with
        | some u => (BitVec.ofNat 64 (u * 2 ^ 32 + (w - p u)), true)
        | none => (BitVec.allOnes 64, false)
      | 1 => (BitVec.ofNat 64 (p t), decide (n t > 0))
      | _ => (BitVec.ofNat 64 total, decide (total > 0))
    let g' := putPreds (putLanes g f.d (fun t => (r t).1) ts) f.c (fun t => triOf (r t).2) ts
    .done (setGang s s.cur g') (pendD 0x188 f 6 ++ pendAt 6 [.pred (bits f.c.toNat 0 3)])

/-! ## PREF, CFLUSH and CINV (R230) -/

/-- The descriptor a PREF uses: a valid one that is at hand (R230). -/
def prefDesc (s : State) (slot : Nat) (g : Gang) (f : Fields) : Option (Desc × State) :=
  match fetchDesc s slot g (memTd f) with
  | .ok w s' => if (descOf w).ok && (descOf w).space == 0 then some (descOf w, s') else none
  | _ => none

/-- The physical addresses of the parts of a span, where the translation of every part is at hand and permits a load (R230). -/
def prefAddrs (s : State) (slot vf : Nat) : List (Nat × Nat) → Option (List Nat)
  | [] => some []
  | e :: r =>
    match lookup s (cellOf slot) vf e.1 .read, prefAddrs s slot vf r with
    | .pa a, some l => some (consecutive a e.2 ++ l)
    | _, _ => none

/-- Fills the lines of one element; one that would fault or miss in any part is dropped (R230). -/
def prefElem (s : State) (slot : Nat) (g : Gang) (f : Fields) (d : Desc) (e : Elem) : State :=
  match e.coords, partOf s g.vf with
  | some c, some (_, p) =>
    let x := d.locate c
    if x.base % d.alignment ≠ 0 ∨ x.addr + unitBytes d.type > 2 ^ 57 then s
    else touchLines s slot g.vf (memHint f) false p ((prefAddrs s slot g.vf (pagesOf x.addr (unitBytes d.type))).getD [])
  | _, _ => s

/-- PREF (R230). Fills lines into the issuing slice; it never faults and requests no translation. -/
def execPref (f : Fields) (s : State) : Host.Outcome State Fault Refusal :=
  issueLane 0x189 f s fun g ts =>
    match prefDesc s s.cur g f with
    | none => .done s []
    | some (d, s) =>
      if d.layout = 2 then .done s []
      else
        let s := clampScope s g.vf f.rnd.toNat (memOrder f)
        .done ((laneElems s s.cur g f d ts).foldl (fun s e => prefElem s s.cur g f d e) s) []

/-- The clusters whose slices a cache instruction acts on for an address (R230): at the narrow scopes, the slice that serves the
issuing cluster there (R357). -/
def cacheClusters (slot : Nat) (f : Fields) (p : Partition) (pa : Nat) : Nat → Bool := fun c =>
  let own := clusterOf (cellOf slot)
  if memOrder f = 0 ∨ f.rnd.toNat ≤ 2 then c == sliceFor p own pa
  else if f.rnd.toNat = 3 then c / 8 == own / 8 || c == sliceFor p own pa
  else true

/-- Some lines are clean. -/
def cleaned (mine : Nat → Bool) (m : AMap L2Line) : AMap L2Line :=
  mapAll (fun k e => if mine k then { e with dirty := false } else e) m

/-- Writes back the copies of a line in some slices: clean where kept, gone where invalidated, but for a line that a saved shelf
locks (R230, R371). The bytes written back draw on the channel for the VF of the line (R363). -/
def cleanLine (s : State) (inScope : Nat → Bool) (invalidate : Bool) (line : Nat) : State :=
  let mine := fun k => k % 2 ^ 36 == line && inScope (k / 2 ^ 36)
  let s := (s.l2.filter fun e => mine e.1 && e.2.dirty).foldl (fun s e => chargeChannel s e.1 e.2.vf 2) s
  { s with l2 := if invalidate then mapFilter (fun k e => !mine k || e.locked.isSome) (cleaned mine s.l2) else cleaned mine s.l2 }

/-- Performs CFLUSH or CINV on the lines of one element. -/
def cachePerform (slot : Nat) (f : Fields) (invalidate : Bool) : Perform := fun s _ l =>
  match l with
  | .device p pas =>
    ⟨(lineHeads pas).foldl (fun s a => cleanLine s (cacheClusters slot f p a) invalidate (dramKey p a / 128)) s, false, []⟩
  | _ => ⟨s, false, []⟩

/-- CFLUSH and CINV (R230): checked as stores, counted as one store, without effect outside device space. -/
def cacheOp (opc : Nat) (invalidate : Bool) (f : Fields) (s : State) : Host.Outcome State Fault Refusal :=
  issueLane opc f s fun g ts =>
    let g := operandGang g
    match frontAt s s.cur g (memTd f) none loadLayout with
    | .stop r => r
    | .go d s =>
      let els := openElems g (laneElems (operandState s s.cur g) s.cur g f d ts)
      match placeFault d (unitBytes d.type) true els with
      | some fl => .trap s fl
      | none =>
        if storesFull g then .hold s .interlock
        else
          let s := clampScope s g.vf f.rnd.toNat (memOrder f)
          if d.space ≠ 0 then issueStore s s.cur none
          else
            let cx : Ctx := ⟨s.cur, skipOut g els, d, .read, !g.skipWatch, false⟩
            performAll s cx 0 (cachePerform s.cur f invalidate) (itemsOf d (unitBytes d.type) els) (sweptStore cx)

/-- CFLUSH (R230). Writes dirty copies of the named lines back and leaves them clean. -/
def execCflush (f : Fields) (s : State) : Host.Outcome State Fault Refusal := cacheOp 0x18A false f s

/-- CINV (R230). Writes dirty copies of the named lines back and invalidates them. -/
def execCinv (f : Fields) (s : State) : Host.Outcome State Fault Refusal := cacheOp 0x18B true f s

/-! ## TDSET, TDGET and TDINV (R231) -/

/-- FIRST of the TD family. -/
def tdFirst (f : Fields) : Nat := bits f.imm.toNat 0 3
/-- How many words TDSET and TDGET move. -/
def tdCount (f : Fields) : Nat := if f.imm.getLsbD 3 then 1 else 8 - tdFirst f

/-- The descriptor table as a plain tensor of device space. -/
def tableDesc : Desc := descOf []

/-- Replaces some words of a descriptor. -/
def replaceWords (old new : List Word) (first : Nat) : List Word :=
  old.take first ++ new ++ old.drop (first + new.length)

/-- Writes the table entry, as a plain store does, and the cell's copy together (R189, R190, R231). -/
def tdsetPerform (cx : Ctx) (index first : Nat) (words : List Word) : Perform := fun s _ l =>
  let s := locusWrite s cx.g.wg l (words.flatMap fun w => natToBytes 8 w.toNat)
  let s := match l with
    | .device p pas => touchLines s cx.slot cx.g.vf 0 true p pas
    | _ => s
  ⟨{ s with descs := mapUpdate s.descs (descKey (cellOf cx.slot) cx.g.vf index) fun old => replaceWords old words first },
    false, []⟩

/-- The table words an instruction of the TD family touches. -/
def tdItem (s : State) (g : Gang) (f : Fields) : Item :=
  ⟨1, 0, 0, tableEntry s g.vf (memTd f) + 8 * tdFirst f, 8 * tdCount f, 0, 0⟩

/-- TDSET (R231). Writes descriptor words from s or b registers. -/
def execTdset (f : Fields) (s : State) : Host.Outcome State Fault Refusal :=
  issueUniform 0x18C f s fun g =>
    if storesFull g then .hold s .interlock
    else
      let words := (List.range (tdCount f)).map fun i => readReg s s.cur g 0 (f.a + BitVec.ofNat 10 i)
      let cx : Ctx := ⟨s.cur, g, tableDesc, .write, !g.skipWatch, false⟩
      performAll (effectFlags s g tableDesc) cx 0 (tdsetPerform cx (memTd f) (tdFirst f) words) [tdItem s g f]
        (sweptStore cx)

/-- Reads table words into s or b registers. -/
def tdgetPerform (cx : Ctx) (f : Fields) : Perform := fun s _ l =>
  let r := loadAt cx 0 s l
  ⟨putDest r.2.2 cx.slot .uniform f.d (bytesToWords r.1), r.2.1, []⟩

/-- TDGET (R231). Reads descriptor words, from the cell's copy when present, otherwise from the table. -/
def execTdget (f : Fields) (s : State) : Host.Outcome State Fault Refusal :=
  issueUniform 0x18D f s fun g =>
    if loadsFull g then .hold s .interlock
    else match mapGet s.descs (descKey (cellOf s.cur) g.vf (memTd f)) with
      | some w =>
        issueLoad (putDest s s.cur .uniform f.d ((w.drop (tdFirst f)).take (tdCount f))) s.cur (memTd f)
          (destNames 0x18D f) false 0 none []
      | none =>
        let cx : Ctx := ⟨s.cur, g, tableDesc, .read, false, false⟩
        performAll s cx 0 (tdgetPerform cx f) [tdItem s g f] (sweptLoad cx (memTd f) (destNames 0x18D f) false)

/-- TDINV (R189, R231). Drops the cell's copy of one descriptor, or of all the context's. -/
def execTdinv (f : Fields) (s : State) : Host.Outcome State Fault Refusal :=
  issueUniform 0x18E f s fun g =>
    let lo := descKey (cellOf s.cur) g.vf 0
    .done { s with descs := mapFilter (fun k _ =>
      !(if f.imm.getLsbD 3 then decide (lo ≤ k ∧ k < lo + 1024) else k == lo + memTd f)) s.descs } []

end Sys2Proof.Machine
end

