-- ==== Sys2Proof/Machine/Atomics.lean ====
section
/-! DEFINITION. Class 0x7: atomics (R227 to R229), FENCE (R232) and WAIT (R233), and the completion of loads and stores
(R203, R216). -/

namespace Sys2Proof.Machine

/-! ## The operations (R227) -/

/-- The minimum or maximum of two stored integers (R227). -/
def pickInt (ty : Ty) (less : Bool) (x y : Nat) : Nat :=
  let a := intValue ty (BitVec.ofNat 64 x)
  let b := intValue ty (BitVec.ofNat 64 y)
  if less then (if b < a then y else x) else (if a < b then y else x)

/-- The value an integer atomic leaves (R227). -/
def atomInt (op : RemoteOp) (ty : Ty) (old c : Nat) : Nat :=
  match op with
  | .add => (old + c) % 2 ^ ty.width
  | .min => pickInt ty true old c
  | .max => pickInt ty false old c
  | .and => old &&& c
  | .or => old ||| c
  | .xor => old ^^^ c
  | .exch => c
  | .load | .store | .cas => old

/-- The value a floating-point atomic leaves: no flag is set (R227). -/
def atomFloat (op : RemoteOp) (ty : Ty) (old c : Nat) : Nat :=
  let k := fmtOf ty
  match op with
  | .add => (nanGuard k [k.value old, k.value c] (addFloat k .rne (k.value old) (k.value c))).1
  | .min => (pickFloat k true old c).1
  | .max => (pickFloat k false old c).1
  | .exch => c
  | .and | .or | .xor | .load | .store | .cas => old

/-- The value an atomic leaves in its unit (R227). -/
def atomValue (op : RemoteOp) (ty : Ty) (old c : Nat) : Nat :=
  if ty.isFloat then atomFloat op ty old c else atomInt op ty old c

/-- Whether a space supports an atomic (R229). -/
def atomSupported (d : Desc) (op : RemoteOp) (ty : Ty) : Bool :=
  d.space != 2 && (d.space != 4 || op == .exch || op == .cas || (op == .add && ty.isInt))

/-! ## Performing (R229) -/

/-- An atomic takes its line into the slice at which it is performed: the issuing cluster's up to clu scope, else the home
slice (R19, R229). -/
def touchAtomic (cx : Ctx) (f : Fields) (s : State) (l : Locus) : State :=
  match l with
  | .device p pas =>
    let slice := if memOrder f = 0 ∨ f.rnd.toNat ≤ 2 then sliceFor p (clusterOf (cellOf cx.slot)) else homeSlice p
    touchIn s p slice cx.g.vf (memHint f) true pas
  | _ => s

/-- Performs the atomic of one thread: it reads the unit, writes `new` of it where there is one, and returns the old value;
a chip beyond a link performs its own, whose old value is free (R194, R228, R229; log 1). -/
def atomPerform (cx : Ctx) (f : Fields) (op : RemoteOp) (ty : Ty) (data compare : Nat → Nat)
    (new : Nat → Nat → Option Nat) : Perform := fun s it l =>
  let r := locusRead s l
  let old := bytesToNat r.1
  let n := unitBytes ty
  let s := match l with
    | .remote x _ => sendOver r.2.2 x.link x.vf (2 * n)
        (.atomic x.tenant x.chip x.va op ty.width (ty.isInt && ty.isSigned) (natToBytes n (data it.thread))
          (natToBytes n (compare it.thread)))
    | l => match new it.thread old with
      | none => touchAtomic cx f r.2.2 l
      | some v => touchAtomic cx f (locusWrite r.2.2 cx.g.wg l (natToBytes n v)) l
  deliverElem cx.slot (.lane it.thread) f.d it l [BitVec.ofNat 64 old] s r.2.1

/-- ABANDONED_OPERAND of C (R227). -/
def abandonedC (s : State) (slot : Nat) (g : Gang) (f : Fields) (ty : Ty) (ts : List Nat) : Option GFault :=
  if ty.isFloat then firstFailure ts (abandonedChecks s slot g (fmtOf ty) [(3, f.c)]) else none

/-- The common course of ATOM and ACAS (R214, R227 to R229, R322, R374). -/
def atomic (opc : Nat) (op : RemoteOp) (f : Fields) (s : State) (data compare : State → Gang → Nat → Nat)
    (new : State → Gang → Nat → Nat → Option Nat) : Host.Outcome State Fault Refusal :=
  issueLane opc f s fun g ts =>
    let g := operandGang g
    let ty := tyOf f
    match frontAt s s.cur g (memTd f) (some ty) storeLayout with
    | .stop r => r
    | .go d s =>
      let o := operandState s s.cur g
      let els := openElems g (laneElems o s.cur g f d ts)
      match placeFault d (unitBytes d.type) (atomSupported d op ty) els with
      | some fl => .trap s fl
      | none =>
        match abandonedC o s.cur g f ty (els.map (·.thread)) with
        | some fl => .trap s fl
        | none =>
          if loadsFull g || linkFull s g.vf d els.length then .hold s .interlock
          else
            let cx : Ctx := ⟨s.cur, skipOut g els, d, .atomic, !g.skipWatch, true⟩
            let s := sealGang (clampScope (effectFlags s g d) g.vf f.rnd.toNat (memOrder f)) s.cur
            let s := zeroOut s.cur f ty false els (keepOperands s s.cur d)
            let x := laneOrder s s.cur g d .atomic (itemsOf d (unitBytes d.type) els)
            performAll x.2 cx 1 (atomPerform cx f op ty (data o g) (compare o g) (new o g)) x.1
              (sweptLoad cx (memTd f) (destNames opc f) true)

/-- The low bits of a register that an atomic of a type takes. -/
def atomData (f : Fields) (x : BitVec 10) (s : State) (g : Gang) (t : Nat) : Nat :=
  lowNat (tyOf f).width (readReg s s.cur g t x)

/-- ATOM (R227). Applies an operation of C to each thread's unit and returns the old value. -/
def atom (opc : Nat) (op : RemoteOp) (f : Fields) (s : State) : Host.Outcome State Fault Refusal :=
  atomic opc op f s (atomData f f.c) (fun _ _ _ => 0) fun s g t old => some (atomValue op (tyOf f) old (atomData f f.c s g t))

/-- ATOM_ADD (R227, R229). -/
def execAtomAdd (f : Fields) (s : State) : Host.Outcome State Fault Refusal := atom 0x1C0 .add f s

/-- ATOM_MIN (R227, R229). -/
def execAtomMin (f : Fields) (s : State) : Host.Outcome State Fault Refusal := atom 0x1C1 .min f s

/-- ATOM_MAX (R227, R229). -/
def execAtomMax (f : Fields) (s : State) : Host.Outcome State Fault Refusal := atom 0x1C2 .max f s

/-- ATOM_AND (R227, R229). -/
def execAtomAnd (f : Fields) (s : State) : Host.Outcome State Fault Refusal := atom 0x1C3 .and f s

/-- ATOM_OR (R227, R229). -/
def execAtomOr (f : Fields) (s : State) : Host.Outcome State Fault Refusal := atom 0x1C4 .or f s

/-- ATOM_XOR (R227, R229). -/
def execAtomXor (f : Fields) (s : State) : Host.Outcome State Fault Refusal := atom 0x1C5 .xor f s

/-- ATOM_EXCH (R227, R229). -/
def execAtomExch (f : Fields) (s : State) : Host.Outcome State Fault Refusal := atom 0x1C6 .exch f s

/-- ACAS (R228, R229). Writes C+1 where the unit equals C, and returns the old value. -/
def execAcas (f : Fields) (s : State) : Host.Outcome State Fault Refusal :=
  atomic 0x1D0 .cas f s (atomData f (f.c + 1)) (atomData f f.c) fun s g t old =>
    if old = atomData f f.c s g t then some (atomData f (f.c + 1) s g t) else none

/-- FENCE (R232). Accesses are performed in program order, so an execution already has every order a fence asks for (log 6). -/
def execFence (f : Fields) (s : State) : Host.Outcome State Fault Refusal :=
  issueUniform 0x1D1 f s fun g => .done (clampScope s g.vf f.rnd.toNat (memOrder f)) []

/-! ## WAIT (R233) -/

/-- The oldest batch of a gang with an operation still queued in its bay's unit (R268, R269). -/
def oldestQueued (s : State) (slot : Nat) : Option Nat :=
  match mapGet s.matrix (bayOf slot) with
  | none => none
  | some m => (m.queue.find? fun o => o.slot == slot).map (·.batch)

/-- How many closed batches of a gang are incomplete (R268): its operations are performed in order, so all from the oldest
with an operation left. -/
def closedIncomplete (s : State) (slot : Nat) (g : Gang) : Nat :=
  match oldestQueued s slot with
  | none => 0
  | some b => g.openBatch - b

/-- The last `n` of a list. -/
def lastN {α : Type} (l : List α) (n : Nat) : List α := l.drop (l.length - n)

/-- All of a list but the last `n`. -/
def butLastN {α : Type} (l : List α) (n : Nat) : List α := l.take (l.length - n)

/-- Whether a copy of a gang on a token of the mask is outstanding (R233). -/
def copiesOn (s : State) (slot : Nat) (mask : Nat) : Bool :=
  s.copies.any fun e => e.2.slot == slot && bits mask e.2.token 1 == 1

/-- The deferred faults that a WAIT raises: those of batches that it requires to be complete, and those of copies on the
tokens it names (R270, R293). -/
def waitRaises (batches mask : Nat) (d : Deferred) : Bool :=
  match d.site with
  | .batch n => decide (n < batches)
  | .copy k _ => bits mask k 1 == 1
  | .next | .report => false

/-- The POISON of a load that WAIT acquires (R218). -/
def poisonFault (l : OutLoad) : GFault :=
  { precise .poison (BitVec.ofNat 64 (l.poison.toNat + l.td * 2 ^ 32)) with kind := 1, logAddr := some l.addr }

/-- Acquires the loads that a WAIT completes: their names leave the scoreboard (R41, R233). -/
def acquireLoads (g : Gang) (n : Nat) : Gang :=
  let ids := (butLastN g.loads n).map (·.id)
  { g with
    loads := lastN g.loads n
    pending := g.pending.filter fun p => match p.kind with
      | .load id => !ids.contains id
      | _ => true }

/-- Retires the batches numbered below `upto`: their names leave the scoreboard, their changes to FPSTAT and VSTAT become
readable, and BATCH[31:16] is the last of them (R268). -/
def retireBatches (g : Gang) (upto : Nat) : Gang :=
  let done := g.batches.filter fun b => decide (b.n < upto)
  { g with
    batches := g.batches.filter fun b => decide (upto ≤ b.n)
    fpstat := done.foldl (fun w b => w ||| b.flags.zeroExtend 64) g.fpstat
    vstat := done.foldl (fun w b => addVstat w b.abandoned b.skipped b.order) g.vstat
    batchRetired := done.foldl (fun _ b => BitVec.ofNat 16 (b.n + 1)) g.batchRetired
    pending := g.pending.filter fun p => match p.kind with
      | .batch n => decide (upto ≤ n)
      | _ => true }

/-- WAIT (R233, R268). Holds until the outstanding loads, stores, closed batches and the copies on the named tokens are within
what it allows; then raises what they left, the poison of a load before a deferred fault (log 45), or acquires and retires. -/
def execWait (f : Fields) (s : State) : Host.Outcome State Fault Refusal :=
  issueUniform 0x1D2 f s fun g =>
    let imm := f.imm.toNat
    let loads := bits imm 18 6
    let batches := bits imm 8 4
    let upto := g.openBatch - batches
    if (g.loads.filter fun l => !l.complete).length > loads ∨ g.stores.length > bits imm 12 6
        ∨ closedIncomplete s s.cur g > batches ∨ copiesOn s s.cur (bits imm 0 8) then .hold s .wait
    else match (butLastN g.loads loads).find? (fun l => l.poison != 0) with
      | some l =>
        .trap (onGang s s.cur fun g => { g with loads := g.loads.map fun x =>
          if x.id = l.id then { x with poison := 0 } else x }) (poisonFault l)
      | none =>
        match g.deferred.find? (waitRaises upto (bits imm 0 8)) with
        | some d => .trap (onGang s s.cur fun g => { g with deferred := g.deferred.filter fun x => x != d }) d.fault
        | none => .done (setGang s s.cur (retireBatches (acquireLoads g loads) upto)) []

/-! ## Completion -/

/-- The oldest outstanding load of a list. -/
def oldestLoad (l : List OutLoad) : Option OutLoad := l.find? fun x => !x.complete

/-- The oldest outstanding load completes. -/
def completeLoad : List OutLoad → List OutLoad
  | [] => []
  | l :: r => if l.complete then l :: completeLoad r else { l with complete := true, remote := none, late := [] } :: r

/-- LOAD_COMPLETE (R203, R216). The oldest outstanding load of a gang has returned all its elements; those from another package
are written as they arrive (R217). -/
def execLoadComplete (slot : Nat) (s : State) : Host.Outcome State Fault Refusal :=
  let late := (((mapGet s.gangs slot).bind fun g => oldestLoad g.loads).map (·.late)).getD []
  .next (onGang (putLate s slot late) slot fun g => { g with loads := completeLoad g.loads })

/-- STORE_COMPLETE (R203, R216). The oldest outstanding store of a gang has been performed. -/
def execStoreComplete (slot : Nat) (s : State) : Host.Outcome State Fault Refusal :=
  .next (onGang s slot fun g => { g with stores := g.stores.tail })

end Sys2Proof.Machine
end

