-- ==== Sys2Proof/Machine/MatrixUnit.lean ====
section
/-! DEFINITION. The matrix unit: planes (R265, R266), rows as the unit reads them (R133 to R136, R271, R273), accumulation
(R137, R138), the verdict monitor (R146 to R148, R280), drains (R139, R276) and the top-k structure (R282, R283). -/

namespace Sys2Proof.Machine

/-! ## Units, planes and spans -/

/-- A plane of a unit. -/
def planeOf (m : Matrix) (k : Nat) : Plane := (m.planes[k]?).getD Plane.blank

/-- K, the plain depth of a matrix type (R266). -/
def plainDepth : Ty → Nat
  | .f64 => 4
  | .f32 => 16
  | .f16 | .bf16 => 64
  | .e4m3 | .e5m2 | .bx8 => 128
  | .bx5 => 256
  | .bx3 => 512
  | _ => 1

/-- Headed or magnitude-ordered (R181). -/
def Desc.headed (d : Desc) : Bool := d.layout == 1 || d.layout == 3

/-- The positions of one chunk under a descriptor (R266). -/
def chunkSpan (d : Desc) : Nat := if d.headed then spanOf d.type else plainDepth d.type

/-- A fresh tile of +0 with a fresh chain state (R267). -/
def Tile.fresh (kind : ChainKind) (slot : Nat) : Tile where
  elems := []
  kind := kind
  orderOff := false
  complete := false
  threshold := 0
  lastEa := []
  lastEb := []
  chunks := []
  emax := []
  owner := some slot

/-- The number of an element of a tile. -/
def tileKey (r n : Nat) : Nat := 32 * r + n

/-! ## Where a row lies -/

/-- B, the size of a tile (R188). -/
def Desc.tileBytes (d : Desc) : Nat :=
  if d.layout = 2 then (d.denseLines + 1) * 128
  else if d.headed then ceilDiv d.tile0 (spanOf d.type) * d.tile1 * 128
  else if d.type.isBx then d.tile0 / 16 * d.tile1 * blockBytes d.type
  else d.tile0 * d.tile1 * unitBytes d.type

/-- The slot of the headed-sparse tile that holds an element (R188). -/
def Desc.slotAddr (d : Desc) (c : List Int) : Nat :=
  let t0 := (c.headD 0).toNat / d.tile0
  let t1 : Int := ((c.tail.headD 0).toNat / d.tile1 : Nat)
  d.base + t0 * d.tileBytes + strideSum (t1 :: c.tail.tail) d.strides

/-- Positions of a chunk from `c[0]` that lie below E0. -/
def Desc.below (d : Desc) (c : List Int) (span : Nat) : Nat := min span (d.extents.headD 0 - (c.headD 0).toNat)

/-- Bytes of `n` positions of a plain row. -/
def Desc.plainBytes (d : Desc) (n : Nat) : Nat :=
  if d.type.isBx then ceilDiv n 16 * blockBytes d.type else n * unitBytes d.type

/-- The first byte and the number of bytes of a chunk in a plain or headed layout, or of a whole headed-sparse slot. -/
def Desc.rowSpan (d : Desc) (c : List Int) (span : Nat) : Nat × Nat :=
  if d.layout = 2 then (d.slotAddr c, d.tileBytes)
  else if d.headed then ((d.locate c).base, 128)
  else ((d.locate c).addr, d.plainBytes (d.below c span))

/-- Coordinate 1 as the bank permutation takes it: the row's, or under headed-sparse that of the tile's origin, since a
slot moves as a whole (R186, R289; log 15). -/
def Desc.permCoord (d : Desc) (c : List Int) : Nat :=
  if d.layout = 2 then coord1 c / d.tile1 * d.tile1 else coord1 c

/-! ## Reading ranges -/

/-- One range to read or write: the thread, coordinate 1, its address and size. -/
structure Range where
  thread : Nat
  c1 : Nat
  va : Nat
  size : Nat
  deriving DecidableEq, Repr

/-- An operation as its ranges are fetched: `missed` where one waits for a translation, `away` where one waits for another
package. -/
structure Gather where
  s : State
  op : MatOp
  missed : Bool
  away : Bool
  deriving DecidableEq, Repr

/-- A range of an operation fails. -/
def Gather.fail (w : Gather) (s : State) (code : FaultCode) (detail thread : Nat) : Gather :=
  { w with s := s, op := { w.op with failed := addFailure w.op.failed code detail (elemBit thread) } }

/-- A range of an operation has been fetched. -/
def Gather.keep (w : Gather) (s : State) (key : Nat) (bytes : List Byte) : Gather :=
  { w with s := s, op := { w.op with fetched := mapSet w.op.fetched key bytes } }

/-- The answer to a range that was sent to another package: a rejection (R407), poison (R390; log 38), or its bytes. -/
def Gather.arrive (w : Gather) (r : Range) (key : Nat) : Gather :=
  let s := { w.s with free := w.s.free + 1 }
  let w := { w with op := { w.op with sent := mapErase w.op.sent key } }
  if Config.rejects w.s.free then w.fail s .remoteReject 0 r.thread
  else if Config.farPoison w.s.free then w.fail s .poison 0 r.thread
  else w.keep (freeBytes s r.size).2 key (freeBytes s r.size).1

/-- What the ranges of an operation share: the slot, the gang's operands, the descriptor, the access that is checked, the requester,
the stage, and the requests that the state counts for the operation. -/
structure Fetch where
  slot : Nat
  g : Gang
  d : Desc
  acc : Access
  src : Source
  stage : Nat
  counted : AMap Nat

/-- Fetches one range: one that has been fetched or has failed is not repeated (R270); one for another package waits where its
station has no room (R405). -/
def gatherOne (x : Fetch) (w : Gather) (r : Range) : Gather :=
  let key := 32 * x.stage + r.thread
  if (mapGet w.op.fetched key).isSome || (failedMask w.op.failed).getLsbD r.thread then w
  else if (mapGet w.op.sent key).isSome then w.arrive r key
  else match reach w.s x.slot x.g x.d r.c1 r.va r.size x.acc x.src with
    | .miss s => { w with s := s, missed := true }
    | .fail code detail s => w.fail s code detail r.thread
    | .ok (.remote far n) =>
      if linkBusy w.s far.link x.counted w.op.sent 1 then { w with away := true }
      else
        { w with s := sendOver w.s far.link far.vf 1 (.load far.tenant far.chip far.va n), away := true,
                 op := { w.op with sent := mapSet w.op.sent key far.link } }
    | .ok l =>
      let v := locusRead w.s l
      let s := match l with
        | .device p pas => touchLines v.2.2 x.slot x.g.vf w.op.hint false p pas
        | _ => v.2.2
      if v.2.1 then w.fail s .poison 0 r.thread else w.keep s key v.1

/-- Fetches some ranges of an operation for its unit; `acc` is the access that is checked (R340). -/
def gatherAll (s : State) (slot : Nat) (g : Gang) (op : MatOp) (d : Desc) (acc : Access) (stage : Nat) (rs : List Range) : Gather :=
  rs.foldl (gatherOne ⟨slot, g, d, acc, .matrix slot, stage, op.sent⟩) ⟨s, op, false, false⟩

/-- A failed range that serves every participating thread names all of them (R270). -/
def Gather.whole (w : Gather) : Gather :=
  { w with op := { w.op with failed := w.op.failed.map fun e => (e.1, e.2.1, w.op.threads.zeroExtend 64) } }

/-- The bytes of a thread that an operation has fetched in a stage. -/
def MatOp.bytes (op : MatOp) (stage thread : Nat) : List Byte := (mapGet op.fetched (32 * stage + thread)).getD []

/-- What an operation of the unit gives when it is taken up. -/
inductive UnitRes where
  | done (s : State) (flags : FlagSet) (abandoned skipped : Nat) (order : Bool)
  | wait (s : State) (op : MatOp)
  | fault (s : State) (f : GFault)
  deriving DecidableEq, Repr

/-- A deferred fault of an operation (R270). -/
def unitFault (addr index : Nat) (code : FaultCode) (detail : Nat) (mask : BitVec 64) : GFault :=
  ⟨code, BitVec.ofNat 64 (mask.toNat % 2 ^ 32 + index * 2 ^ 32), 1, false, some addr, detail⟩

/-- The deferred fault of failed ranges, and how the unit goes on. -/
def gathered (index slot : Nat) (w : Gather) (k : State → MatOp → UnitRes) : UnitRes :=
  if w.missed || w.away then .wait w.s { w.op with held := w.missed }
  else match failureOf w.op.failed with
    | some f => .fault (leaveFailed w.s (.matrix slot)) (unitFault w.op.addr index f.code f.detail f.tval)
    | none => k w.s w.op

/-! ## Rows -/

/-- Whether a line's header is valid for a descriptor; `sparse` where the line must be sparse (R135). -/
def headerOk (d : Desc) (h : Nat) (sparse : Bool) : Bool :=
  let count := bits h 32 8
  let pop := ((List.range 64).filter fun k => bits h (64 + k) 1 == 1).length
  let cap := if sparse then (if d.type.isFp8 then 64 else if d.type = .f32 then 28 else 56) else spanOf d.type
  bits h 0 4 == (if sparse then 2 else 1) && bits h 8 8 == d.ty && bits h 4 4 == 0 && bits h 16 8 == 0 && bits h 40 8 == 0
    && decide (count ≤ cap) && (!sparse || (!d.type.isBx && count == pop))

/-- The values of `n` positions from payload bytes, as stored (R130, R134). -/
def payload (ty : Ty) (bytes : List Byte) (n : Nat) : List FVal :=
  (List.range n).map fun i =>
    if ty.isBx then bxElement ty (bytesToNat ((bytes.drop (i / 16 * blockBytes ty)).take (blockBytes ty))) (i % 16)
    else (fmtOf ty).value (bytesToNat ((bytes.drop (i * unitBytes ty)).take (unitBytes ty)))

/-- A value times 2^k, exactly (R187). -/
def FVal.scaleBy (k : Int) : FVal → FVal
  | .fin n m e => .fin n m (e + k)
  | v => v

/-- +0, which tail positions read as (R271). -/
def FVal.zero : FVal := .fin false 0 0

/-- Extends a row with +0 to its span. -/
def padRow (span : Nat) (l : List FVal) : List FVal := l.take span ++ List.replicate (span - l.length) FVal.zero

/-- A row as the unit takes it: its values, as stored and unscaled, and the header of its line. -/
structure Row where
  vals : List FVal
  header : Nat
  ok : Bool
  deriving DecidableEq, Repr

/-- A row from the bytes of a plain or headed chunk (R271, R273). -/
def rowOf (d : Desc) (span : Nat) (c : List Int) (bytes : List Byte) : Row :=
  let n := d.below c span
  if d.headed then
    let h := bytesToNat (bytes.take 16)
    ⟨padRow span (payload d.type (bytes.drop 16) n), h, headerOk d h false⟩
  else ⟨padRow span (payload d.type bytes n), 0, true⟩

/-- Rows of a plain or headed descriptor for the threads of an operation. -/
def plainRows (s : State) (slot : Nat) (g : Gang) (op : MatOp) (span : Nat) (coords : AMap (List Int))
    (k : State → AMap Row → UnitRes) : UnitRes :=
  let d := op.desc
  let rs := coords.map fun e => (⟨e.1, d.permCoord e.2, (d.rowSpan e.2 span).1, (d.rowSpan e.2 span).2⟩ : Range)
  gathered op.td slot (gatherAll s slot g op d .read 0 (rs.filter fun r => r.size != 0)) fun s op =>
    k s (coords.map fun e => (e.1, rowOf d span e.2 (op.bytes 0 e.1)))

/-! ## Headed-sparse rows (R136, R266) -/

/-- Position within its tile's row, and the row within its tile. -/
def tilePlace (d : Desc) (c : List Int) : Nat × Nat := ((c.headD 0).toNat % d.tile0, coord1 c % d.tile1)

/-- A valid tile-status word (R136). -/
def statusOk (d : Desc) (w : Nat) : Bool := bits w 17 47 == 0 && decide (bits w 0 16 ≤ d.denseLines)

/-- The lines, counted from line 1 of the slot, that hold the 64 positions of a chunk: rows of a tile follow one another
(R136; log 16). -/
def sparseLines (d : Desc) (c : List Int) (esc : Bool) : Nat × Nat :=
  let p := tilePlace d c
  if esc then
    let per := ceilDiv d.tile0 (spanOf d.type)
    let last := min (p.1 + 63) (d.tile0 - 1)
    (p.2 * per + p.1 / spanOf d.type, last / spanOf d.type - p.1 / spanOf d.type + 1)
  else (p.2 * ceilDiv d.tile0 64 + p.1 / 64, 1)

/-- The rank of position `k` among the elements present in a sparse line. -/
def presentBefore (h k : Nat) : Nat := ((List.range k).filter fun j => bits h (64 + j) 1 == 1).length

/-- `n` free values (log 1). -/
def freeVals (s : State) (n : Nat) : List FVal × State :=
  ((List.range n).map fun i => fmtF64.value (Config.freeWord (s.free + i)).toNat, { s with free := s.free + n })

/-- The 64 positions of a chunk from the lines of its slot in use, `bytes` from line 1; every line must have a valid header
(R134, R135, R136, R266). -/
def sparseRow (d : Desc) (c : List Int) (esc : Bool) (slot : List Byte) : Row :=
  let p := tilePlace d c
  let n := min (d.below c 64) (d.tile0 - p.1)
  let ok := (List.range (slot.length / 128)).all fun i => headerOk d (bytesToNat ((slot.drop (128 * i)).take 16)) (!esc)
  let bytes := slot.drop (128 * (sparseLines d c esc).1)
  if esc then
    let first := p.1 / spanOf d.type
    let at_ := fun k =>
      let q := p.1 + k
      let i := q / spanOf d.type - first
      ((payload d.type ((bytes.drop (128 * i + 16)).take 112) (spanOf d.type))[q % spanOf d.type]?).getD FVal.zero
    ⟨padRow 64 ((List.range n).map at_), 0, ok⟩
  else
    let h := bytesToNat (bytes.take 16)
    let all := payload d.type (bytes.drop 16) (min (bits h 32 8) 56)
    ⟨padRow 64 ((List.range n).map fun k =>
      if bits h (64 + k) 1 = 1 then (all[presentBefore h k]?).getD FVal.zero else FVal.zero), 0, ok⟩

/-- A row whose line lies beyond LINES: the spec gives its values nowhere, and they are free (log 16). -/
def fillUnused (s : State) : List (Nat × Bool × Row) → AMap Row → State × AMap Row
  | [], m => (s, m)
  | (t, true, r) :: l, m => fillUnused s l (mapSet m t r)
  | (t, false, r) :: l, m =>
    let v := freeVals s 64
    fillUnused v.2 l (mapSet m t ⟨v.1, 0, r.ok⟩)

/-- The mask of the threads that satisfy a test, as fault masks hold them. -/
def wideMask (ts : List Nat) (p : Nat → Bool) : BitVec 64 := (maskOf ts p).zeroExtend 64

/-- Rows of a headed-sparse activation: line 0 of each slot first, then the LINES lines after it (R136). -/
def sparseRows (s : State) (slot : Nat) (g : Gang) (op : MatOp) (k : State → AMap Row → UnitRes) : UnitRes :=
  let d := op.desc
  let st := op.coords.map fun e => (⟨e.1, d.permCoord e.2, d.slotAddr e.2, 8⟩ : Range)
  gathered op.td slot (gatherAll s slot g op d .read 0 st) fun s op =>
    let word := fun t => bytesToNat (op.bytes 0 t)
    let bad := wideMask (op.coords.map (·.1)) fun t => !statusOk d (word t)
    if bad ≠ 0 then .fault s (unitFault op.addr op.td .planeFormat 0 bad)
    else
      let esc := fun t => bits (word t) 16 1 == 1
      let used := fun (e : Nat × List Int) =>
        decide ((sparseLines d e.2 (esc e.1)).1 + (sparseLines d e.2 (esc e.1)).2 ≤ bits (word e.1) 0 16)
      let rs := op.coords.map fun e =>
        (⟨e.1, d.permCoord e.2, d.slotAddr e.2 + 128, 128 * bits (word e.1) 0 16⟩ : Range)
      gathered op.td slot (gatherAll s slot g op d .read 1 (rs.filter fun r => r.size != 0)) fun s op =>
        let f := fillUnused s (op.coords.map fun e => (e.1, used e, sparseRow d e.2 (esc e.1) (op.bytes 1 e.1))) []
        k f.1 f.2

/-- The rows an operation reads, with PLANE_FORMAT for invalid headers (R270). -/
def opRows (s : State) (slot : Nat) (g : Gang) (op : MatOp) (coords : AMap (List Int))
    (k : State → AMap Row → UnitRes) : UnitRes :=
  let check := fun (s : State) (rows : AMap Row) =>
    let bad := wideMask (rows.map (·.1)) fun t => ((mapGet rows t).map fun r => !r.ok).getD false
    if bad ≠ 0 then .fault s (unitFault op.addr op.td .planeFormat 0 bad) else k s rows
  if op.desc.layout = 2 then sparseRows s slot g op check
  else plainRows s slot g op (chunkSpan op.desc) coords check

/-! ## Loading a plane (R271) -/

/-- A value as binary64: exact for every matrix type (R130, R187). -/
def toBinary64 (v : FVal) : Word := BitVec.ofNat 64 (fmtF64.roundVal .rne v).1

/-- Writes a column of a plane. -/
def putColumn (elems : Sparse 64) (n : Nat) (vals : List FVal) : Sparse 64 := wordSetList elems (512 * n) (vals.map toBinary64)

/-- Loads the shadow plane (R271, R272). -/
def doMlds (s : State) (slot : Nat) (g : Gang) (op : MatOp) (bay : Nat) : UnitRes :=
  let d := op.desc
  opRows s slot g op op.coords fun s rows =>
    let elems := rows.foldl (fun m e => putColumn m e.1 (e.2.vals.map (FVal.scaleBy d.scale))) []
    let bounds := if d.headed then rows.map fun e => (e.1, bits e.2.header 24 8) else []
    let p : Plane := ⟨true, d.ty, d.layout, d.scale, chunkSpan d, elems, bounds, g.wg, none⟩
    let m := unitOf s bay
    .done (setUnit s bay { m with planes := listUpdate m.planes op.plane fun _ => p }) 0 0 0 false

/-- The values of a column of a plane. -/
def planeColumn (p : Plane) (n span : Nat) : List FVal :=
  (List.range span).map fun k => fmtF64.value (wordGet p.elems (512 * n + k)).toNat

/-! ## Accumulating (R137, R138) -/

/-- One chunk added to one element that is not abandoned (R137, R138; log 17 on a NaN accumulator). An abandoned encoding in a row or
a column, which only a plane or an activation in memory can hold, counts as the NaN that it is and raises no ABANDONED_OPERAND
(DESIGN CHOICE between R145 and R270; log 17). -/
def accumulate (acc : Word) (xs ys : List FVal) : Word × FlagSet :=
  let a := fmtF64.value acc.toNat
  let bad := a.isNan || (xs.zip ys).any fun e => e.1.isNan || e.2.isNan || zeroTimesInf e.1 e.2
  let ps := List.zipWith FVal.mul xs ys
  let infs := (a :: ps).filter FVal.isInf
  if bad || (infs.any FVal.isNeg && infs.any fun v => !v.isNeg) then (BitVec.ofNat 64 fmtF64.nan, flagNV)
  else
    let r := fmtF64.roundVal .rne (match infs with
      | v :: _ => v
      | [] => ps.foldl (FVal.add false) a)
    (BitVec.ofNat 64 r.1, r.2)

/-- Whether an element is abandoned. -/
def isAbandoned64 (w : Word) : Bool := fmtF64.isAbandoned w.toNat

/-- One chunk added to the element of row `r` and column `n`, with its count and emax (R146, R273, R280). -/
def addElem (verdict : Bool) (r n : Nat) (xs ys : List FVal) (t : Tile) : Tile × FlagSet :=
  let k := tileKey r n
  let e := wordGet t.elems k
  if isAbandoned64 e then (t, 0)
  else
    let x := accumulate e xs ys
    let t := { t with elems := wordSet t.elems k x.1 }
    if !verdict then (t, x.2)
    else
      let v := fmtF64.value x.1.toNat
      let top := match v with
        | .fin _ m _ => if m = 0 then 0 else (floorLog2 v + 1022).toNat
        | _ => 0
      ({ t with chunks := mapSet t.chunks k ((mapGet t.chunks k).getD 0 + 1)
                emax := mapSet t.emax k (max ((mapGet t.emax k).getD 0) top) }, x.2)

/-- One chunk added to a row of a tile (R273). -/
def addRow (verdict : Bool) (p : Plane) (r : Nat) (vals : List FVal) (t : Tile) : Tile × FlagSet :=
  (List.range 32).foldl (fun (a : Tile × FlagSet) n =>
    let x := addElem verdict r n vals (planeColumn p n vals.length) a.1
    (x.1, a.2 ||| x.2)) (t, 0)

/-- A row out of range under BMODE 1 adds +0 products (R274). -/
def addZeroRow (verdict : Bool) (r : Nat) (t : Tile) : Tile × FlagSet :=
  (List.range 32).foldl (fun (a : Tile × FlagSet) n =>
    let x := addElem verdict r n [FVal.zero] [FVal.zero] a.1
    (x.1, a.2 ||| x.2)) (t, 0)

/-- The tile of an operation. -/
def tileOf (s : State) (bay k : Nat) : Tile := (mapGet (unitOf s bay).tiles k).getD (Tile.fresh .plain 0)

/-- Puts back the tile of an operation. -/
def setTile (s : State) (bay k : Nat) (t : Tile) : State :=
  let m := unitOf s bay
  setUnit s bay { m with tiles := mapUpdate m.tiles k fun old => { t with owner := old.owner } }

/-- The participating threads of an operation that are out of range under BMODE 1. -/
def outRows (op : MatOp) : List Nat := (threadsOf op.threads).filter fun t => (mapGet op.coords t).isNone

/-- MACCZ and MACC (R273). -/
def doMacc (s : State) (slot : Nat) (g : Gang) (op : MatOp) (bay : Nat) : UnitRes :=
  opRows s slot g op op.coords fun s rows =>
    let p := planeOf (unitOf s bay) op.plane
    let r := rows.foldl (fun (a : Tile × FlagSet) e =>
      let x := addRow false p e.1 (e.2.vals.map (FVal.scaleBy op.desc.scale)) a.1
      (x.1, a.2 ||| x.2)) (tileOf s bay op.tile, 0)
    let r := (outRows op).foldl (fun (a : Tile × FlagSet) t =>
      let x := addZeroRow false t a.1
      (x.1, a.2 ||| x.2)) r
    .done (setTile s bay op.tile r.1) r.2 0 0 false

/-! ## The verdict monitor (R146 to R148, R280) -/

/-- The verdict of DecideVerdict: 1 below, 2 above, 0 none (R147). `emax` counts from −1022. -/
def decideVerdict (sv : Word) (ea eb : Nat) (sa sb : Int) (nrem j emax : Nat) (t : FVal) (topk : Bool) : Nat :=
  let v := fmtF64.value sv.toNat
  if v.isNan || v.isInf || t.isNan || ea == 255 || eb == 255 then 0
  else
    let bound := if ea = 0 ∨ eb = 0 ∨ nrem = 0 then FVal.zero else FVal.fin false nrem ((ea : Int) + eb - 254 + sa + sb)
    let slack := FVal.fin false j ((emax : Int) - 1022 - 52)
    if FVal.le (FVal.add false (FVal.add false v bound) slack) t then 1
    else if !topk && FVal.lt t (FVal.add false (FVal.add false v bound.neg) slack.neg) then 2
    else 0

/-- What the rows of a verdict operation change beside the tile (R280). -/
structure Verdict where
  tile : Tile
  flags : FlagSet
  abandoned : Nat
  skipped : Nat
  order : Bool
  deriving DecidableEq, Repr

/-- Whether every element of a row is abandoned. -/
def rowAbandoned (t : Tile) (r : Nat) : Bool := (List.range 32).all fun n => isAbandoned64 (wordGet t.elems (tileKey r n))

/-- Stops the monitor for the rest of the chain (R148). -/
def Verdict.breakOrder (v : Verdict) : Verdict := { v with order := true, tile := { v.tile with orderOff := true } }

/-- Tests every undecided element of a row (R280). -/
def testRow (op : MatOp) (p : Plane) (r ea nrem : Nat) (v : Verdict) : Verdict :=
  (List.range 32).foldl (fun (v : Verdict) n =>
    let k := tileKey r n
    let e := wordGet v.tile.elems k
    if isAbandoned64 e then v
    else
      let x := decideVerdict e ea ((mapGet p.bounds n).getD 0) op.desc.scale p.scale nrem
        ((mapGet v.tile.chunks k).getD 0) ((mapGet v.tile.emax k).getD 0) (fmtF64.value v.tile.threshold.toNat)
        (op.chain == .topk)
      if x = 0 then v
      else { v with abandoned := v.abandoned + 1,
                    tile := { v.tile with elems := wordSet v.tile.elems k (BitVec.ofNat 64 (fmtF64.abandoned x)) } }) v

/-- Whether a stored value's magnitude is not below 2^(ea − 127) (R148, R280). An infinity or a NaN is not, also under the BOUND of
255 that states no bound (R133; DESIGN CHOICE, log 75). -/
def beyondBound (ea : Nat) (v : FVal) : Bool :=
  match v with
  | .fin _ m e => !(FVal.lt (.fin false m e) (.fin false 1 ((ea : Int) - 127)))
  | _ => true

/-- The columns' bounds, as eb of a boundary. -/
def boundList (p : Plane) : List Nat := (List.range 32).map fun n => (mapGet p.bounds n).getD 0

/-- The BOUND of the line of a row. -/
def Row.bound (r : Row) : Nat := bits r.header 24 8

/-- Whether a BOUND of a row's stream, or of a column's, rises (R148, R280). -/
def boundRises (p : Plane) (t : Tile) (e : Nat × Row) : Bool :=
  (match mapGet t.lastEa e.1 with
    | some old => decide (e.2.bound > old)
    | none => false)
  || (List.range 32).any fun n => match mapGet t.lastEb n with
    | some old => decide ((mapGet p.bounds n).getD 0 > old)
    | none => false

/-- The decisions at the boundary before the chunk of a row (R280). -/
def decideRow (op : MatOp) (p : Plane) (v : Verdict) (e : Nat × Row) : Verdict :=
  if v.tile.orderOff then v
  else testRow op p e.1 e.2.bound (op.desc.extents.headD 0 - (((mapGet op.coords e.1).getD []).headD 0).toNat) v

/-- The chunk of a row is added, unless every element of the row is abandoned (R280). -/
def addVerdictRow (op : MatOp) (p : Plane) (v : Verdict) (e : Nat × Row) : Verdict :=
  if rowAbandoned v.tile e.1 then { v with skipped := v.skipped + 1 }
  else
    let x := addRow true p e.1 (e.2.vals.map (FVal.scaleBy op.desc.scale)) v.tile
    let v := { v with tile := x.1, flags := v.flags ||| x.2 }
    let v := if !v.tile.orderOff && e.2.vals.any (beyondBound e.2.bound) then v.breakOrder else v
    { v with tile := { v.tile with
        lastEa := mapSet v.tile.lastEa e.1 e.2.bound
        lastEb := (List.range 32).map fun n => (n, (mapGet p.bounds n).getD 0) } }

/-- A row that is not read: abandoned whole, or out of range under BMODE 1 (R274, R280). -/
def passRow (rows : AMap Row) (op : MatOp) (v : Verdict) (t : Nat) : Verdict :=
  if (mapGet rows t).isSome then v
  else if rowAbandoned v.tile t then { v with skipped := v.skipped + 1 }
  else if (mapGet op.coords t).isSome then v
  else
    let x := addZeroRow true t v.tile
    { v with tile := x.1, flags := v.flags ||| x.2 }

/-- Whether the chunk of some participating row ends at or beyond E0 (R267, R280). -/
def endsChain (op : MatOp) : Bool :=
  (threadsOf op.threads).any fun t =>
    let c0 : Int := match mapGet op.coords t with
      | some c => c.headD 0
      | none => ((mapGet op.data t).getD 0).toInt
    decide (c0 + chunkSpan op.desc ≥ op.desc.extents.headD 0)

/-- VerdictStep of all rows, whose lines have been read (R280). The rows stand at one boundary: a BOUND that rises in one of them
stops the decisions of all, then the open elements of every row are decided, then the chunks are added (DEDUCED from R148 and
R284, since R280 orders no rows; log 65). -/
def verdictSteps (op : MatOp) (p : Plane) (rows : AMap Row) (tile : Tile) : Verdict :=
  let v : Verdict := ⟨tile, 0, 0, 0, false⟩
  let v := if rows.any (boundRises p tile) then v.breakOrder else v
  let v := rows.foldl (addVerdictRow op p) (rows.foldl (decideRow op p) v)
  let v := (threadsOf op.threads).foldl (passRow rows op) v
  if endsChain op then { v with tile := { v.tile with complete := true } } else v

/-- The threshold of a TOPK chain: one read of the cell for all rows when the unit begins (R150, R270, R279). -/
def readCell (s : State) (slot : Nat) (g : Gang) (op : MatOp) (k : State → MatOp → Word → UnitRes) : UnitRes :=
  match op.cell with
  | none => k s op op.threshold
  | some (d, idx) =>
    let t := (threadsOf op.threads).headD 0
    gathered idx slot (gatherAll s slot g op d .read 2 [⟨t, 0, d.base, 4⟩]).whole fun s op =>
      k s op (toBinary64 (fmtF32.value (bytesToNat (op.bytes 2 t))))

/-- VACCZ and VACC (R280). -/
def doVacc (s : State) (slot : Nat) (g : Gang) (op : MatOp) (bay : Nat) : UnitRes :=
  readCell s slot g op fun s op t =>
    let tile := { tileOf s bay op.tile with threshold := t }
    opRows s slot g op (op.coords.filter fun e => !rowAbandoned tile e.1) fun s rows =>
      let v := verdictSteps op (planeOf (unitOf s bay) op.plane) rows tile
      .done (setTile s bay op.tile v.tile) v.flags v.abandoned v.skipped v.order

/-! ## Drains (R139, R275, R276) -/

/-- A value narrowed to FP8 without saturation (R128). -/
def narrowFp8 (k : Fmt) (mode : Rounding) (neg : Bool) : FVal → Nat × FlagSet
  | .nan sig => (k.signed neg k.nan, if sig then flagNV else 0)
  | .inf n => if k.ocp then (k.signed n k.nan, flagNV) else (k.signed n k.infMag, 0)
  | .fin n m e => k.roundFp8 false mode n m e

/-- An element of a tile drained to a type that is not BX, divided by 2^scale (R139, R187, R275). -/
def drain (ty : Ty) (mode : Rounding) (scale : Int) (w : Word) : Nat × FlagSet :=
  let k := fmtOf ty
  if w = BitVec.ofNat 64 (fmtF64.abandoned 1) then (k.abandoned 1, 0)
  else if w = BitVec.ofNat 64 (fmtF64.abandoned 2) then (k.abandoned 2, 0)
  else
    let v := (fmtF64.value w.toNat).scaleBy (-scale)
    if ty.isFp8 then narrowFp8 k mode (fmtF64.isNeg w.toNat) v else k.roundVal mode v

/-- The type and rounding of an operation. -/
def opTy (op : MatOp) : Ty := (Ty.ofCode op.ty).getD .f64
/-- The rounding of an operation. -/
def opMode (op : MatOp) : Rounding := (Rounding.ofCode op.rnd).getD .rne

/-- MDRN and MRD: `n` columns from `op.column`, each to a register (R275). -/
def doDrain (s : State) (slot : Nat) (op : MatOp) (bay n : Nat) : UnitRes :=
  let t := tileOf s bay op.tile
  let val := fun th i => drain (opTy op) (opMode op) 0 (wordGet t.elems (tileKey th (op.column + i)))
  let ts := threadsOf op.threads
  let s := onGang s slot fun g =>
    (List.range n).foldl (fun g i => putLanes g (op.dst + BitVec.ofNat 10 i) (fun th => BitVec.ofNat 64 (val th i).1) ts) g
  .done s ((List.range n).foldl (fun fl i => fl ||| flagsOf (fun th => (val th i).2) ts) 0) 0 0 false

/-- Bound of the stored values of a line (R135). -/
def lineBound (vs : List FVal) : Nat :=
  if vs.any fun v => v.isNan || v.isInf then 255
  else
    let m := bxMax vs
    if m.isZero then 0
    else
      let b := max 1 (floorLog2 m + 128)
      if b > 254 then 255 else b.toNat

/-- The image of a row of an MSTO: its bytes from the start of its span, with the flags (R276). `old` is the partial block
that was read. CHUNK keeps the low 16 bits of a larger chunk number (R133 gives it no more; DESIGN CHOICE, log 76). -/
def storeRow (op : MatOp) (t : Tile) (r : Nat) (c : List Int) (old : List Byte) : List Byte × FlagSet :=
  let d := op.desc
  let ty := opTy op
  let n := d.below c 32
  let w := fun i => wordGet t.elems (tileKey r i)
  let body : List Byte × FlagSet :=
    if ty.isBx then
      (List.range (ceilDiv n 16)).foldl (fun (a : List Byte × FlagSet) b =>
        let vs := (List.range 16).map fun i =>
          if 16 * b + i < n then (fmtF64.value (w (16 * b + i)).toNat).scaleBy (-d.scale)
          else if d.headed then FVal.zero
          else bxElement ty (bytesToNat old) i
        let x := bxPack ty (opMode op) vs
        (a.1 ++ natToBytes (blockBytes ty) x.1, a.2 ||| x.2)) ([], 0)
    else
      (List.range n).foldl (fun (a : List Byte × FlagSet) i =>
        let x := drain ty (opMode op) d.scale (w i)
        (a.1 ++ natToBytes (unitBytes ty) x.1, a.2 ||| x.2)) ([], 0)
  if d.headed then
    let vs := payload ty (body.1 ++ List.replicate 112 0) 32
    let h := 1 + d.ty * 2 ^ 8 + lineBound vs * 2 ^ 24 + 32 * 2 ^ 32 + (c.headD 0).toNat / spanOf ty % 2 ^ 16 * 2 ^ 48
    ((natToBytes 16 h ++ body.1 ++ List.replicate 112 0).take 128, body.2)
  else body

/-- Places to write, once every one of them is reached. -/
structure Scatter where
  gather : Gather
  places : List (Range × Locus)
  deriving DecidableEq, Repr

/-- Reaches one range for a write or an atomic. -/
def scatterOne (slot : Nat) (g : Gang) (d : Desc) (acc : Access) (w : Scatter) (r : Range) : Scatter :=
  match reach w.gather.s slot g d r.c1 r.va r.size acc (.matrix slot) with
  | .miss s => { w with gather := { w.gather with s := s, missed := true } }
  | .fail code detail s => { w with gather := w.gather.fail s code detail r.thread }
  | .ok l => { w with places := w.places ++ [(r, l)] }

/-- The writes of an MSTO that were sent to another package; they stand in stage 1. -/
def writesSent (op : MatOp) : AMap Nat := op.sent.filter fun e => decide (32 ≤ e.1)

/-- The answers to the writes of an operation that were sent to another package, each of which may be a rejection (R407). -/
def answers (s : State) (op : MatOp) : Gather :=
  (writesSent op).foldl (fun (w : Gather) e =>
    let s := { w.s with free := w.s.free + 1 }
    if Config.rejects w.s.free then w.fail s .remoteReject 0 (e.1 % 32) else { w with s := s }) ⟨s, op, false, false⟩

/-- A match by the unit of what it wrote in device space. -/
def unitMatch (s : State) (vf : Nat) (atomic : Bool) (l : Locus) (va n : Nat) : Option Match :=
  match l with
  | .device _ _ => matchBytes s vf atomic (consecutive va n)
  | _ => none

/-- Joins the matches of an operation. -/
def joinMatches : List (Option Match) → Option Match
  | [] => none
  | none :: r => joinMatches r
  | some m :: r => some (((joinMatches r).map (joinMatch m)).getD m)

/-- The watch event of a unit's operation (R270, R385, R386). -/
def unitEvent (s : State) (vf kind source : Nat) : Option Match → State
  | none => s
  | some m => { s with watch := s.watch ++ [⟨vf, kind, source, m.va, m.bytes, m.wps, s.clock⟩] }

/-- Whether an element bound for FP8 or BX is abandoned (R139, R276). -/
def rowHasAbandoned (op : MatOp) (t : Tile) (r : Nat) (c : List Int) : Bool :=
  ((opTy op).isFp8 || (opTy op).isBx)
    && (List.range (op.desc.below c 32)).any fun i => isAbandoned64 (wordGet t.elems (tileKey r i))

/-- The ranges of the blocks that an MSTO writes in part (R276). -/
def partialBlocks (op : MatOp) : List Range :=
  let d := op.desc
  if (opTy op).isBx && !d.headed then
    op.coords.filterMap fun e =>
      let n := d.below e.2 32
      if n % 16 = 0 then none
      else some ⟨e.1, d.permCoord e.2, (d.locate e.2).addr + n / 16 * blockBytes (opTy op), blockBytes (opTy op)⟩
  else []

/-- The rows of an MSTO in the order in which they are written: an order of threads that free values choose where two of them touch
one byte (R9, R209; log 1). -/
def rowOrder (s : State) (l : List (Range × Locus)) : List (Range × Locus) × State :=
  if overlapAny (l.map (·.2.bytes)) then
    ((freeOrder s.free (l.map (·.1.thread))).filterMap fun e => l.find? (·.1.thread == e.2), { s with free := s.free + l.length })
  else (l, s)

/-- The rows among some places that go to another package, with their links, as the writes of an operation (R217). -/
def placesSent (l : List (Range × Locus)) : AMap Nat :=
  l.filterMap fun e => match e.2 with
    | .remote x _ => some (32 + e.1.thread, x.link)
    | _ => none

/-- Writes one row of an MSTO (R190, R276). -/
def writeRow (slot : Nat) (g : Gang) (hint : Nat) (bytes : Range → List Byte) (s : State) (e : Range × Locus) : State :=
  let s := locusWrite s g.wg e.2 (bytes e.1)
  match e.2 with
  | .device p pas => touchLines s slot g.vf hint true p pas
  | _ => s

/-- MSTO: every row is reached before any is written (R276; log 18); rows for another package are sent once their station has room
(R405), and are answered before it ends. -/
def doMsto (s : State) (slot : Nat) (g : Gang) (op : MatOp) (bay : Nat) : UnitRes :=
  let d := op.desc
  let t := tileOf s bay op.tile
  let bad := wideMask (op.coords.map (·.1)) fun r => ((mapGet op.coords r).map (rowHasAbandoned op t r)).getD false
  if bad ≠ 0 then .fault s (unitFault op.addr op.td .abandonedOperand 0 bad)
  else
    let image := fun (op : MatOp) (e : Nat × List Int) => storeRow op t e.1 e.2 (op.bytes 0 e.1)
    let finished := fun (s : State) (op : MatOp) =>
      UnitRes.done s (op.coords.foldl (fun fl e => fl ||| (image op e).2) 0) 0 0 false
    if !(writesSent op).isEmpty then gathered op.td slot (answers s op) finished
    else gathered op.td slot (gatherAll s slot g op d .write 0 (partialBlocks op)) fun s op =>
      let rs := op.coords.map fun e => (⟨e.1, d.permCoord e.2, (d.rowSpan e.2 32).1, (image op e).1.length⟩ : Range)
      let w := (rs.filter fun r => r.size != 0).foldl (scatterOne slot g d .write) ⟨⟨s, op, false, false⟩, []⟩
      let sent := placesSent w.places
      let busy := sent.any fun e => linkBusy s e.2 op.sent [] sent.length
      gathered op.td slot { w.gather with away := busy } fun s op =>
        let bytes := fun (r : Range) => ((mapGet op.coords r.thread).map fun c => (image op (r.thread, c)).1).getD []
        let o := rowOrder s w.places
        let s := o.1.foldl (writeRow slot g op.hint bytes) o.2
        let s := clearWhole s (w.places.flatMap fun e => match e.2 with
          | .device p pas => pas.map (dramKey p)
          | _ => [])
        let hit := joinMatches (w.places.map fun e => unitMatch s g.vf false e.2 e.1.va e.1.size)
        let s := unitEvent s g.vf 3 bay hit
        if sent.isEmpty then finished s op else .wait s { op with held := false, sent := sent }

/-! ## VTEST and TKINS (R281 to R283) -/

/-- The verdict of one element (R281). -/
def verdictOf (t : Tile) (r n : Nat) : BitVec 2 :=
  let e := wordGet t.elems (tileKey r n)
  let v := fmtF64.value e.toNat
  let th := fmtF64.value t.threshold.toNat
  if e = BitVec.ofNat 64 (fmtF64.abandoned 2) then triT
  else if e = BitVec.ofNat 64 (fmtF64.abandoned 1) then triF
  else match t.kind with
    | .sign | .gt => if t.complete && !v.isNan && !th.isNan then triOf (FVal.lt th v) else triU
    | .plain | .topk => triU

/-- VTEST (R281). -/
def doVtest (s : State) (slot : Nat) (op : MatOp) (bay : Nat) : UnitRes :=
  let t := tileOf s bay op.tile
  let val := fun th => verdictOf t th (((mapGet op.data th).getD 0).toNat % 32)
  .done (onGang s slot fun g => putPreds g op.dst val (threadsOf op.threads)) 0 0 0 false

/-- Whether an entry stands before another: SCORE descending, then ID ascending (R283). -/
def entryBefore (a b : Nat) : Bool :=
  let x := fmtF32.value (bits a 0 32)
  let y := fmtF32.value (bits b 0 32)
  FVal.lt y x || (!(FVal.lt x y) && decide (bits a 32 32 < bits b 32 32))

/-- Places an entry in its order. -/
def entryInsert (e : Nat) : List Nat → List Nat
  | [] => [e]
  | x :: r => if entryBefore e x then e :: x :: r else x :: entryInsert e r

/-- A top-k structure and its threshold cell while threads insert (R283). -/
structure TopK where
  cap : Nat
  entries : List Nat
  cell : Nat
  touched : Bool
  raised : Bool
  deriving DecidableEq, Repr

/-- Insert (R283). -/
def topkInsert (t : TopK) (w : Word) : TopK :=
  let e := w.toNat
  let v := fmtF32.value (bits e 0 32)
  let go := fun (l : List Nat) =>
    let l := (l ++ [e]).foldl (fun a x => entryInsert x a) []
    if l.length = t.cap then
      { t with entries := l, touched := true, raised := true,
               cell := (pickFloat fmtF32 false t.cell (bits ((l.getLast?).getD 0) 0 32)).1 }
    else { t with entries := l, touched := true }
  if v.isNan then t
  else if t.entries.length < t.cap then go t.entries
  else match t.entries.getLast? with
    | some last => if FVal.lt (fmtF32.value (bits last 0 32)) v then go t.entries.dropLast else t
    | none => t

/-- Writes the cell that a TKINS raises; the home slice of a device cell serves it (R19, R283). -/
def raiseCell (s : State) (g : Gang) (l : Locus) (hint v : Nat) : State :=
  let s := locusWrite s g.wg l (natToBytes 4 v)
  match l with
  | .device p pas => touchIn s p (homeSlice p) g.vf hint true pas
  | _ => s

/-- The threads of a TKINS in the order in which they are applied, which free values choose (R283; log 1). -/
def insertOrder (s : State) (ts : List Nat) : List Nat × State :=
  if ts.length < 2 then (ts, s) else ((freeOrder s.free ts).map (·.2), { s with free := s.free + ts.length })

/-- TKINS (R282, R283). The raise of a device cell is an atomic at pkg scope: its home slice serves it (R19). -/
def doTkins (s : State) (slot : Nat) (g : Gang) (op : MatOp) (bay : Nat) : UnitRes :=
  let cell := cellOf slot
  let c := (op.coords.head?.map (·.2)).getD []
  let at_ := fun n => (consecutive (op.desc.locate c).addr n).map (permuteAddr op.desc.perm (coord1 c))
  let word := fun (s : State) n => bytesToNat (((at_ n).drop (n - 8)).map fun o => spadByte s cell o)
  let h := word s 8
  let cap := bits h 0 32
  let count := bits h 32 32
  if cap = 0 ∨ cap > 64 ∨ count > cap ∨ word s 16 ≠ 0 then
    .fault s (unitFault op.addr op.td .planeFormat 0 (op.threads.zeroExtend 64))
  else match op.cell with
    | none => .done s 0 0 0 false
    | some (d, idx) =>
      let w := ((threadsOf op.threads).map fun t => (⟨t, 0, d.base, 4⟩ : Range)).foldl (scatterOne slot g d .atomic)
        ⟨⟨s, op, false, false⟩, []⟩
      gathered idx slot w.gather fun s op =>
        match w.places.head? with
        | none => .done s 0 0 0 false
        | some (_, l) =>
          let r := locusRead s l
          let o := insertOrder r.2.2 (threadsOf op.threads)
          let t0 : TopK := ⟨cap, (List.range count).map fun i => word o.2 (24 + 8 * i), bytesToNat r.1, false, false⟩
          let t := o.1.foldl (fun t th => topkInsert t ((mapGet op.data th).getD 0)) t0
          if t.raised && r.2.1 then .fault r.2.2 (unitFault op.addr idx .poison 0 (op.threads.zeroExtend 64))
          else
            let image := natToBytes 8 (cap + t.entries.length * 2 ^ 32) ++ natToBytes 8 0
              ++ t.entries.flatMap (natToBytes 8)
            let s := if t.touched then scratchWrite o.2 cell g.wg (at_ image.length) image else o.2
            let s := if t.raised then raiseCell s g l op.hint t.cell else s
            let hit := if t.raised then unitMatch s g.vf true l d.base 4 else none
            .done (unitEvent s g.vf 3 bay hit) 0 0 0 false

/-! ## Taking an operation up (R268 to R270) -/

/-- Performs an operation. -/
def doOp (s : State) (slot : Nat) (g : Gang) (op : MatOp) (bay : Nat) : UnitRes :=
  match op.kind with
  | .mlds => doMlds s slot g op bay
  | .macc => doMacc s slot g op bay
  | .vacc => doVacc s slot g op bay
  | .mdrn => doDrain s slot op bay 8
  | .mrd => doDrain s slot op bay 1
  | .msto => doMsto s slot g op bay
  | .vtest => doVtest s slot op bay
  | .tkins => doTkins s slot g op bay

/-- Adds to the changes that the retirement of a batch makes (R268). -/
def batchAdd (n : Nat) (fl : FlagSet) (a k : Nat) (o : Bool) : List Batch → List Batch
  | [] => [⟨n, fl, a, k, o⟩]
  | b :: r =>
    if b.n = n then { b with flags := b.flags ||| fl, abandoned := b.abandoned + a, skipped := b.skipped + k, order := b.order || o } :: r
    else if n < b.n then ⟨n, fl, a, k, o⟩ :: b :: r
    else b :: batchAdd n fl a k o r

/-- The operations of a queue before the first one of a slot, and that one. -/
def splitQueue (slot : Nat) : List MatOp → List MatOp × Option MatOp
  | [] => ([], none)
  | o :: r => if o.slot = slot then ([], some o) else
    let x := splitQueue slot r
    (o :: x.1, x.2)

/-- Replaces the first operation of a slot in a queue, or removes it. -/
def replaceFirst (slot : Nat) (new : Option MatOp) : List MatOp → List MatOp
  | [] => []
  | o :: r => if o.slot = slot then (match new with
      | some x => x :: r
      | none => r)
    else o :: replaceFirst slot new r

/-- Changes the unit of a bay. -/
def onUnit (s : State) (bay : Nat) (f : Matrix → Matrix) : State := setUnit s bay (f (unitOf s bay))

/-- The threads of an operation whose ranges are outstanding on a link (R217, R270). -/
def outstandingOn (op : MatOp) (link : Nat) : BitVec 64 :=
  op.sent.foldl (fun m e => if e.2 = link && (mapGet op.fetched e.1).isNone then m ||| elemBit (e.1 % 32) else m) 0

/-- A faulting operation: it and the gang's later ones leave the unit, the plane an MLDS was filling is spoilt, and the fault
waits for a WAIT, or escalates where the gang has ended (R270, R272). -/
def unitFails (s : State) (slot bay : Nat) (op : MatOp) (f : GFault) : State :=
  let s := onUnit s bay fun m => sweepTiles ({ m with
    queue := m.queue.filter fun o => o.slot != slot
    planes := if op.kind = .mlds then listUpdate m.planes op.plane fun p => { p with spoilt := some slot } else m.planes })
  match mapGet s.gangs slot with
  | none => s
  | some g =>
    if g.ended then takeFault s slot g 0 { f with escalates := true }
    else setGang s slot { g with deferred := g.deferred ++ [⟨.batch op.batch, f⟩] }

/-- Whether the unit can take up an operation: every earlier one of another gang is held on a miss, or waits for one of its own
gang that is, and an MLDS waits for earlier readers of the plane it fills (R269, R271). -/
def opReady (before : List MatOp) (op : MatOp) : Bool :=
  (before.all fun o => before.any fun h => h.slot == o.slot && h.held)
    && !(op.kind == .mlds && before.any fun o => (o.kind == .macc || o.kind == .vacc) && o.plane == op.plane)

/-- MATRIX_OP_COMPLETE (R269, R270). The unit of a bay performs the oldest operation of a gang, where its turn has come. -/
def execMatrixOpComplete (bay slot : Nat) (s : State) : Host.Outcome State Fault Refusal :=
  match splitQueue slot (unitOf s bay).queue, mapGet s.gangs slot with
  | (before, some op), some g =>
    if !opReady before op then .next s
    else match doOp s slot g op bay with
      | .wait s op => .next (onUnit s bay fun m => { m with queue := replaceFirst slot (some op) m.queue })
      | .fault s f => .next (unitFails s slot bay op f)
      | .done s fl a k o =>
        .next (onGang (onUnit s bay fun m => sweepTiles ({ m with queue := replaceFirst slot none m.queue })) slot fun g =>
          { g with batches := batchAdd op.batch fl a k o g.batches })
  | _, _ => .next s

end Sys2Proof.Machine
end

