-- ==== Sys2Proof/Machine/Matrix.lean ====
section
/-! DEFINITION. Classes 0x8 and 0x9: the matrix and verdict instructions at issue (R264 to R283). -/

namespace Sys2Proof.Machine

/-! ## Batches, claims and tiles -/

/-- Whether a gang of a workgroup is still resident and live in a bay (R265). -/
def claimLive (s : State) (bay wg : Nat) : Bool :=
  s.gangs.any fun e => bayOf e.1 == bay && e.2.wg == wg && !e.2.ended && !e.2.stopped

/-- Claims the plane pair for the gang's workgroup, or holds while another holds it (R265). -/
def claimed (s : State) (slot : Nat) (g : Gang) (k : State → Res) : Res :=
  let bay := bayOf slot
  let m := unitOf s bay
  match m.claim with
  | some w => if w ≠ g.wg ∧ claimLive s bay w then .hold s .claim else k (setUnit s bay { m with claim := some g.wg })
  | none => k (setUnit s bay { m with claim := some g.wg })

/-- Whether a fault of an earlier operation is still to be raised: later operations are discarded (R270; log 19). -/
def unitFaulted (g : Gang) : Bool := g.deferred.any fun d => match d.site with
  | .batch _ => true
  | _ => false

/-- Hands an operation to the bay's unit; it enters the open batch, and the names it will write become pending (R41, R268). -/
def handUnit (s : State) (slot : Nat) (op : MatOp) (names : List Name) : Res :=
  match mapGet s.gangs slot with
  | none => .done s []
  | some g =>
    let op := { op with batch := g.openBatch, seq := s.nextId }
    let s := setGang { s with nextId := s.nextId + 1 } slot { g with batches := batchAdd g.openBatch 0 0 0 false g.batches }
    .done (if unitFaulted g then s else onUnit s (bayOf slot) fun m => { m with queue := m.queue ++ [op] })
      (names.map fun n => ⟨n, .batch g.openBatch⟩)

/-- The fields of an operation that its instruction gives. -/
def MatOp.of (kind : MatKind) (f : Fields) (slot : Nat) (g : Gang) (ts : List Nat) : MatOp where
  slot := slot
  batch := g.openBatch
  kind := kind
  ty := f.typ.toNat
  rnd := f.rnd.toNat
  threads := maskOf ts fun _ => true
  desc := descOf []
  td := 0
  coords := []
  plane := 0
  tile := 16
  dst := 0
  column := 0
  chain := .plain
  threshold := 0
  cell := none
  data := []
  hint := 0
  addr := g.pc
  seq := 0
  held := false
  fetched := []
  sent := []
  failed := []

/-- ACC_NAME (R270). -/
def accFault (spec : BitVec 10) (cause fld : Nat) : GFault :=
  precise .accName (BitVec.ofNat 64 (spec.toNat + cause * 2 ^ 10 + fld * 2 ^ 12))

/-- The physical tile an accumulator name is bound to (R267). -/
def boundTile (g : Gang) (x : BitVec 10) : Option Nat := mapGet g.accs x.toNat

/-- The state in which a name no longer owns its tile, which retires (R267). -/
def dropTile (s : State) (slot : Nat) (k : Option Nat) : State :=
  match k with
  | none => s
  | some k => onUnit s (bayOf slot) fun m => sweepTiles ({ m with
      tiles := mapUpdate m.tiles k fun t => { t with owner := none } })

/-- A name is unbound, and its tile retires (R267). -/
def unbindName (s : State) (slot : Nat) (g : Gang) (x : BitVec 10) : State :=
  dropTile (onGang s slot fun g => { g with accs := mapErase g.accs x.toNat }) slot (boundTile g x)

/-- The number of a tile that is free in a bay. -/
def freeTile (s : State) (bay : Nat) : Option Nat := mapFree (unitOf s bay).tiles (List.range 16)

/-- Binds a name, which is bound to no other tile, to a free one. -/
def takeTile (s : State) (slot : Nat) (x : BitVec 10) (kind : ChainKind) (k : Nat) : State :=
  onGang (onUnit s (bayOf slot) fun m => { m with tiles := mapSet m.tiles k (Tile.fresh kind slot) }) slot fun g =>
    { g with accs := mapSet g.accs x.toNat k }

/-- Binds a name to a fresh tile, while the tile it had retires. Where none is free the old tile retires first, and may be the
one (R267); the number is none where the gang is to hold. -/
def bindTile (s : State) (slot : Nat) (g : Gang) (x : BitVec 10) (kind : ChainKind) : State × Option Nat :=
  let free := freeTile s (bayOf slot)
  let s := unbindName s slot g x
  match (free <|> freeTile s (bayOf slot)) with
  | none => (s, none)
  | some k => (takeTile s slot x kind k, some k)

/-! ## Rows at issue (R214, R271, R276) -/

/-- The coordinates of the participating threads that are in range (R184). -/
def rowCoords (els : List Elem) : AMap (List Int) :=
  els.filterMap fun e => e.coords.map fun c => (e.thread, c)

/-- What coordinate 0 of a chunk must be a multiple of (R271, R276). -/
def rowAlign (d : Desc) (span : Nat) : Nat := if d.headed then span else if d.type.isBx then 16 else 1

/-- Steps 7c to 7e of R214 for rows of `n` positions, aligned as R271 and R276 say. -/
def rowFault (d : Desc) (span n : Nat) (els : List Elem) : Option GFault :=
  let out := elemMask els fun e => e.coords.isNone
  let bad := elemMask els fun e => match e.coords with
    | some c =>
      if d.layout = 2 then (tilePlace d c).1 % 64 != 0 || d.slotAddr c % 128 != 0
      else (c.headD 0).toNat % rowAlign d span != 0 || (d.locate c).base % d.alignment != 0
    | none => false
  let far := elemMask els fun e => match e.coords, d.limit with
    | some c, some lim => decide ((d.rowSpan c n).1 + (d.rowSpan c n).2 > lim)
    | _, _ => false
  if out ≠ 0 ∧ d.bmode = false then some (precise .coordRange out)
  else if bad ≠ 0 then some (precise .align bad)
  else if far ≠ 0 then some (precise .protection far)
  else none

/-- The type whose agreement a row operation asks for. -/
def rowType (f : Fields) : Option Ty := some (tyOf f)

/-! ## MLDS and MSWAP (R271, R272) -/

/-- MLDS (R271). Each participating thread loads one column of the shadow plane. -/
def execMlds (f : Fields) (s : State) : Host.Outcome State Fault Refusal :=
  issueLane 0x200 f s fun g ts =>
    claimed s s.cur g fun s =>
      match frontAt s s.cur g (memTd f) (rowType f) (fun d => d.layout != 2) with
      | .stop r => r
      | .go d s =>
        let els := laneElems s s.cur g f d ts
        match rowFault d (chunkSpan d) (chunkSpan d) els with
        | some fl => .trap s fl
        | none =>
          handUnit s s.cur { MatOp.of .mlds f s.cur g ts with
            desc := d, td := memTd f, hint := memHint f, coords := rowCoords els
            plane := 1 - (unitOf s (bayOf s.cur)).active } []

/-- MSWAP for the bay (R272): it waits for every MLDS handed to the unit before it was issued. -/
def swapPlanes (opc : Nat) (f : Fields) (s : State) : Host.Outcome State Fault Refusal :=
  issueUniform opc f s fun g =>
    claimed s s.cur g fun s =>
      let m := unitOf s (bayOf s.cur)
      if m.queue.any fun o => o.kind == .mlds && decide (o.seq < g.issuedAt) then .hold s .interlock
      else .done (setUnit s (bayOf s.cur) { m with active := 1 - m.active }) []

/-- MSWAP (R272). -/
def execMswap (f : Fields) (s : State) : Host.Outcome State Fault Refusal := swapPlanes 0x201 f s

/-- MSWAP_SHORT (R272). -/
def execMswapShort (f : ShortFields) (s : State) : Host.Outcome State Fault Refusal := swapPlanes 0x201 (expandShort 0x201 f) s

/-! ## MACC and VACC (R273, R278 to R280) -/

/-- Whether the active plane and an activation agree (R266, R270, R278). -/
def planeAgrees (p : Plane) (g : Gang) (d : Desc) (verdict : Bool) : Bool :=
  let ty := d.type
  let pty := (Ty.ofCode p.ty).getD .n8
  let hd := p.layout == 1 || p.layout == 3
  p.filled && p.spoilt.isNone && p.wg == g.wg
    && (pty == ty || (pty.isFp8 && ty.isFp8))
    && (if d.layout = 2 then (ty == .f16 || ty == .bf16) && !hd else d.headed == hd)
    && (!verdict || (d.layout == 3 && p.layout == 3))

/-- Whether an accumulation may bind to the active plane: it agrees, or it is spoilt by a fault of this gang that is still to be
raised, whose later operations are discarded (R270, R272). -/
def pairOk (slot : Nat) (p : Plane) (g : Gang) (d : Desc) (verdict : Bool) : Bool :=
  (p.spoilt == some slot && unitFaulted g) || planeAgrees p g d verdict

/-- The threshold cell a specifier names (R279): a valid plain .f32 descriptor of device or scratchpad space, aligned. One past the
scratchpad faults for the threads of `mask` (R214 step 7e). -/
def cellAt (s : State) (slot : Nat) (g : Gang) (x : BitVec 10) (mask : BitVec 64) : Front :=
  match fetchDesc s slot g x.toNat with
  | .miss s => .stop (.hold s .miss)
  | .fail fl s => .stop (.trap s fl)
  | .ok w s =>
    let d := descOf w
    if !d.ok || d.layout != 0 || d.type != .f32 || !(d.space == 0 || d.space == 1) || d.base % 4 != 0 then
      .stop (.trap s (precise .tdInvalid (descTval x.toNat 0)))
    else if d.space = 1 ∧ d.base ≥ 0x100000 then .stop (.trap s (precise .protection mask))
    else .go d s

/-- The chain state that a MACC or VACC asks for is not that of its name (R270): the cause of ACC_NAME. -/
def chainCause (s : State) (slot : Nat) (g : Gang) (x : BitVec 10) (kind : ChainKind) : Option Nat :=
  match boundTile g x with
  | none => some 0
  | some k =>
    let t := tileOf s (bayOf slot) k
    if kind = .plain then (if t.kind = .plain then none else some 1)
    else if t.kind = kind then none else some 2

/-- The threshold of an operation: a register read at issue, a cell, or 0 (R279). -/
def thresholdOf (f : Fields) (s : State) (g : Gang) (kind : ChainKind) (ts : List Nat) (k : State → Word → Option (Desc × Nat) → Res) : Res :=
  match kind with
  | .plain | .sign => k s 0 none
  | .gt => k s (readReg s s.cur g 0 f.c) none
  | .topk => match cellAt s s.cur g f.c (wideMask ts fun _ => true) with
    | .stop r => r
    | .go d s => k s 0 (some (d, f.c.toNat))

/-- The tile an accumulation works on: a fresh one under MACCZ and VACCZ, the bound one otherwise (R267). -/
def accTile (f : Fields) (s : State) (g : Gang) (kind : ChainKind) (zero : Bool) (k : State → Nat → Res) : Res :=
  if zero then
    match bindTile s s.cur g f.d kind with
    | (s, none) => .hold s .interlock
    | (s, some t) => k s t
  else k s ((boundTile g f.d).getD 16)

/-- Coordinate 0 of the rows that are out of range, which tells whether their chunks end a chain (R280). -/
def outStarts (s : State) (g : Gang) (f : Fields) (d : Desc) (els : List Elem) : AMap Word :=
  els.filterMap fun e => match e.coords with
    | some _ => none
    | none => some (e.thread, BitVec.ofInt 64 ((coordsFrom (dispAt s s.cur g f.b (min (memDrank f) d.rank) e.thread) (memDisp f)
        (originAt s s.cur g f.a d.rank)).headD 0))

/-- MACCZ, MACC, VACCZ and VACC with some participating thread (R266, R267, R270, R273, R278, R279). -/
def accumulateRows (f : Fields) (kind : ChainKind) (zero : Bool) (s : State) (g : Gang) (ts : List Nat) : Res :=
  claimed s s.cur g fun s =>
    let m := unitOf s (bayOf s.cur)
    let p := planeOf m m.active
    let layoutOk := fun (d : Desc) =>
      if kind = .plain then d.layout != 2 || pairOk s.cur p g d false else d.layout == 3
    match frontAt s s.cur g (memTd f) (rowType f) layoutOk with
    | .stop r => r
    | .go d s =>
      let els := laneElems s s.cur g f d ts
      match rowFault d (chunkSpan d) (chunkSpan d) els, if zero then none else chainCause s s.cur g f.d kind with
      | some fl, _ => .trap s fl
      | none, some c => .trap s (accFault f.d c 0)
      | none, none =>
        if !pairOk s.cur p g d (kind != .plain) then .trap s (precise .planeFormat (descTval (memTd f) 0))
        else thresholdOf f s g kind ts fun s th cell =>
          accTile f s g kind zero fun s t =>
            handUnit s s.cur { MatOp.of (if kind = .plain then .macc else .vacc) f s.cur g ts with
              desc := d, td := memTd f, hint := memHint f, coords := rowCoords els
              plane := m.active, tile := t, chain := kind, threshold := th, cell := cell, data := outStarts s g f d els } []

/-- An accumulation: without a participating thread MACCZ and VACCZ still bind a fresh tile (R274). -/
def accumulating (opc : Nat) (kind : ChainKind) (zero : Bool) (f : Fields) (s : State) : Host.Outcome State Fault Refusal :=
  match mapGet s.gangs s.cur with
  | none => .fault .noGang
  | some g =>
    finish s.cur g f.len
      (checked s g opc f fun t => match threadsOf (participants g f.grd) with
        | [] => if zero then claimed t t.cur g fun s => accTile f s g kind true fun s _ => .done s [] else .done t []
        | ts => accumulateRows f kind zero s g ts)

/-- MACCZ (R267, R273). -/
def execMaccz (f : Fields) (s : State) : Host.Outcome State Fault Refusal := accumulating 0x202 .plain true f s

/-- MACC (R273). -/
def execMacc (f : Fields) (s : State) : Host.Outcome State Fault Refusal := accumulating 0x203 .plain false f s

/-- VACCZ_SIGN (R278, R280). -/
def execVacczSign (f : Fields) (s : State) : Host.Outcome State Fault Refusal := accumulating 0x240 .sign true f s

/-- VACCZ_GT (R278 to R280). -/
def execVacczGt (f : Fields) (s : State) : Host.Outcome State Fault Refusal := accumulating 0x241 .gt true f s

/-- VACCZ_TOPK (R278 to R280). -/
def execVacczTopk (f : Fields) (s : State) : Host.Outcome State Fault Refusal := accumulating 0x242 .topk true f s

/-- VACC_SIGN (R280). -/
def execVaccSign (f : Fields) (s : State) : Host.Outcome State Fault Refusal := accumulating 0x244 .sign false f s

/-- VACC_GT (R279, R280). -/
def execVaccGt (f : Fields) (s : State) : Host.Outcome State Fault Refusal := accumulating 0x245 .gt false f s

/-- VACC_TOPK (R279, R280). -/
def execVaccTopk (f : Fields) (s : State) : Host.Outcome State Fault Refusal := accumulating 0x246 .topk false f s

/-! ## Reading results (R275, R276, R281) -/

/-- An operation on the tile bound to A, with ACC_NAME where it is unbound. -/
def onBound (s : State) (g : Gang) (x : BitVec 10) (fld : Nat) (k : Nat → Res) : Res :=
  match boundTile g x with
  | none => .trap s (accFault x 0 fld)
  | some t => k t

/-- MDRN (R275). Drains eight columns of each thread's row to registers. -/
def execMdrn (f : Fields) (s : State) : Host.Outcome State Fault Refusal :=
  issueLane 0x204 f s fun g ts =>
    onBound s g f.a 1 fun t =>
      handUnit s s.cur { MatOp.of .mdrn f s.cur g ts with tile := t, dst := f.d, column := 8 * bits f.imm.toNat 0 2 }
        (destNames 0x204 f)

/-- MRD (R275). Reads one column of each thread's row. -/
def execMrd (f : Fields) (s : State) : Host.Outcome State Fault Refusal :=
  issueLane 0x206 f s fun g ts =>
    onBound s g f.a 1 fun t =>
      handUnit s s.cur { MatOp.of .mrd f s.cur g ts with tile := t, dst := f.d, column := bits f.imm.toNat 0 5 }
        (destNames 0x206 f)

/-- Layouts an MSTO accepts (R276). -/
def storeRowLayout (d : Desc) : Bool := d.layout != 2 && !(d.headed && d.type == .f32)

/-- MSTO (R276, R322, R374). Stores each thread's row of an accumulator. -/
def execMsto (f : Fields) (s : State) : Host.Outcome State Fault Refusal :=
  issueLane 0x205 f s fun g ts =>
    match frontAt s s.cur g (memTd f) (rowType f) storeRowLayout with
    | .stop r => r
    | .go d s =>
      let els := laneElems s s.cur g f d ts
      match rowFault d (spanOf d.type) 32 els with
      | some fl => .trap s fl
      | none =>
        onBound s g f.c 3 fun t =>
          let rows := rowCoords els
          let items := rows.map fun e => (⟨elemBit e.1, e.1, e.1, (d.rowSpan e.2 32).1, (d.rowSpan e.2 32).2, d.permCoord e.2, 0⟩ : Item)
          let s := if storeSeals s g d (memTd f) items then sealGang s s.cur else s
          handUnit (effectFlags s g d) s.cur { MatOp.of .msto f s.cur g ts with
            desc := d, td := memTd f, hint := memHint f, coords := rows, tile := t } []

/-- VTEST (R281). Writes the verdict of one column of each thread's row to a predicate. -/
def execVtest (f : Fields) (s : State) : Host.Outcome State Fault Refusal :=
  issueLane 0x248 f s fun g ts =>
    onBound s g f.a 1 fun t =>
      if (tileOf s (bayOf s.cur) t).kind = .plain then .trap s (accFault f.a 3 1)
      else
        handUnit s s.cur { MatOp.of .vtest f s.cur g ts with
          tile := t, dst := f.d, data := ts.map fun th => (th, readReg s s.cur g th f.b) } (destNames 0x248 f)

/-! ## TKINS (R283) -/

/-- The descriptor of a top-k structure (R283). -/
def topkDesc (d : Desc) : Bool := d.layout == 0 && d.space == 1 && d.type == .b64

/-- COORD_RANGE, ALIGN and PROTECTION of a top-k structure at a base (R283). -/
def topkFault (s : State) (slot : Nat) (d : Desc) (c : Option (List Int)) (mask : BitVec 64) : Option GFault :=
  match c with
  | none => if d.bmode then none else some (precise .coordRange mask)
  | some c =>
    let base := (d.locate c).addr
    let k := bytesToNat (spadRead s (cellOf slot) (permuteAddr d.perm (coord1 c) base) 4)
    let entries := if 1 ≤ k ∧ k ≤ 64 then k else 0
    if base % 16 ≠ 0 then some (precise .align mask)
    else if base + 16 > 0xE8000 ∨ base + 16 + 8 * entries > 0xE8000 then some (precise .protection mask)
    else none

/-- TKINS (R283). Hands the insertion of each thread's score to the unit. -/
def execTkins (f : Fields) (s : State) : Host.Outcome State Fault Refusal :=
  issueLane 0x249 f s fun g ts =>
    match frontAt s s.cur g (memTd f) none (fun _ => true) with
    | .stop r => r
    | .go d s =>
      if !topkDesc d then .trap s (precise .tdInvalid (descTval (memTd f) 0))
      else
        let c := coordsAt s s.cur g f d 0
        match topkFault s s.cur d c (wideMask ts fun _ => true) with
        | some fl => .trap s fl
        | none => match cellAt s s.cur g f.d (wideMask ts fun _ => true) with
          | .stop r => r
          | .go cell s =>
            let s := sealGang s s.cur
            match c with
            | none => .done s []
            | some c =>
              handUnit (if cell.space = 0 then effectFlags s g cell else s) s.cur { MatOp.of .tkins f s.cur g ts with
                desc := d, td := memTd f, coords := [(0, c)], cell := some (cell, f.d.toNat)
                data := ts.map fun th => (th, readReg s s.cur g th f.c) } []

/-! ## MFENCE and MREL (R268, R277) -/

/-- Closes the open batch, or holds where a 17th closed batch would be incomplete (R268). -/
def closeBatch (opc : Nat) (f : Fields) (s : State) : Host.Outcome State Fault Refusal :=
  issueUniform opc f s fun g =>
    if closedIncomplete s s.cur g ≥ 16 then .hold s .interlock
    else gangResult s { g with
      batches := batchAdd g.openBatch 0 0 0 false g.batches
      openBatch := g.openBatch + 1
      batchClosed := g.batchClosed + 1 }

/-- MFENCE (R268, R277). -/
def execMfence (f : Fields) (s : State) : Host.Outcome State Fault Refusal := closeBatch 0x207 f s

/-- MFENCE_SHORT (R268, R277). -/
def execMfenceShort (f : ShortFields) (s : State) : Host.Outcome State Fault Refusal :=
  closeBatch 0x207 (expandShort 0x207 f) s

/-- MREL (R267, R277). Unbinds an accumulator name; its tile retires. -/
def execMrel (f : Fields) (s : State) : Host.Outcome State Fault Refusal :=
  issueUniform 0x208 f s fun g =>
    .done (unbindName s s.cur g f.a) []

end Sys2Proof.Machine
end

