-- ==== Sys2Proof/Machine/Copies.lean ====
section
/-! DEFINITION. Tiles as units of transfer (R188, R289), the copy engine (R289 to R293), barriers (R294 to R298) and rings
(R300 to R302) as state of a cell. -/

namespace Sys2Proof.Machine

/-! ## Tiles (R188, R289) -/

/-- One unit of a tile: an element, block, line or whole slot; its address and coordinate 1 where it lies within the
extents. -/
structure TileUnit where
  place : Option (Nat × Nat)
  size : Nat
  deriving DecidableEq, Repr

/-- Positions and bytes of one unit of a tile. -/
def unitStep (d : Desc) : Nat × Nat :=
  if d.headed then (spanOf d.type, 128) else if d.type.isBx then (16, blockBytes d.type) else (1, unitBytes d.type)

/-- Coordinates of a unit of the tile at an origin. -/
def unitCoords (origin : List Int) (dx dy : Int) : List Int :=
  match origin with
  | [] => []
  | [x] => [x + dx]
  | x :: y :: r => (x + dx) :: (y + dy) :: r

/-- The units of the tile at an origin, row by row (R188, R289). -/
def tileUnits (d : Desc) (origin : List Int) : List TileUnit :=
  if d.layout = 2 then
    [⟨if inRange origin d.extents then some (d.slotAddr origin, d.permCoord origin) else none, d.tileBytes⟩]
  else
    let st := unitStep d
    (List.range d.tile1).flatMap fun (r : Nat) => (List.range (ceilDiv d.tile0 st.1)).map fun (k : Nat) =>
      let c := unitCoords origin ((k * st.1 : Nat) : Int) (r : Int)
      let inside := inRange c d.extents && !(d.rank == 1 && r != 0)
      ⟨if inside then some ((if d.headed then (d.locate c).base else (d.locate c).addr), coord1 c) else none, st.2⟩

/-- Whether an origin is that of a tile (R188). -/
def tileAligned (d : Desc) (c : List Int) : Bool :=
  match c with
  | [] => true
  | [x] => x % d.tile0 == 0
  | x :: y :: _ => x % d.tile0 == 0 && y % d.tile1 == 0

/-- Whether a unit runs past the extent of its space (R184). -/
def unitsFar (d : Desc) (l : List TileUnit) : Bool :=
  l.any fun u => match u.place, d.limit with
    | some (a, _), some lim => decide (a + u.size > lim)
    | _, _ => false

/-! ## Moving a tile -/

/-- A move of a tile, as one attempt leaves it: `missed` where a unit waits for a translation, `away` where one waits for another
package; the units sent to one, of which the state still counts `counted`, and those that have arrived, by their numbers; the units
written, with the watchpoints that they matched and the bytes of poisoned lines among them. -/
structure Mover where
  s : State
  missed : Bool
  away : Bool
  counted : AMap Nat
  sent : AMap Nat
  fetched : AMap (List Byte)
  fault : Option (FaultCode × Nat × Bool)
  written : List Nat
  hit : Option Match
  keys : List Nat
  deriving DecidableEq, Repr

/-- A move that begins or goes on after some units have been sent and read. -/
def Mover.start (s : State) (sent : AMap Nat) (fetched : AMap (List Byte)) : Mover :=
  ⟨s, false, false, sent, sent, fetched, none, [], none, []⟩

/-- What the units of a tile need of their gang: its context. -/
def copyGang (vf lslot wg idx : Nat) : Gang :=
  { vf := vf, lslot := lslot, wg := wg, idx := idx, pc := 0, em := 0, pm := 0, stack := [], regs := [], sregs := [],
    preds := [], conds := 0, accs := [], fpstat := 0, vstat := 0, pending := [], tcause := 0, tpc := 0, tval := 0, tmask := 0,
    tpcEntry := 0, batchClosed := 0, batchRetired := 0, openBatch := 0, batches := [], done := 0, failed := [],
    poisoned := 0, trapDone := 0, trapPoison := 0, loads := [], stores := [], hold := none, charged := false, operands := none,
    emit := none, deferred := [], sealed := false, noMark := true, lastMark := 0, markCount := 0, marks := 0,
    shelf := ⟨0, [], [], [], [], [], 0, 0, 0, 0, 0, 0, 0, (0, 0), [], [], [], []⟩, gbar := (0, 0), gbarIn := false,
    trapGbar := false, skipWatch := false, heldCycles := 0, ended := false, ready := 0, issuedAt := 0, stopped := false
    restoring := [], launchFault := none }

/-- Records a failure, at which the move stops (R293). -/
def Mover.fails (m : Mover) (code : FaultCode) (detail : Nat) (source : Bool) : Mover :=
  { m with fault := some (m.fault.getD (code, detail, source)) }

/-- A unit that has been read. -/
def Mover.keep (m : Mover) (s : State) (k : Nat) (bytes : List Byte) : Mover :=
  { m with s := s, fetched := mapSet m.fetched k bytes }

/-- A unit that was sent to another package arrives, unless the other end rejects it or its line is poisoned (R390, R407; log 38). -/
def Mover.arrive (m : Mover) (k size : Nat) : Mover :=
  let s := { m.s with free := m.s.free + 1 }
  let m' := { m with s := s, sent := mapErase m.sent k }
  if Config.rejects m.s.free then m'.fails .remoteReject 0 true
  else if Config.farPoison m.s.free then m'.fails .poison 0 true
  else m'.keep (freeBytes s size).2 k (freeBytes s size).1

/-- A place in another package: a fabric engine carries what goes there, to a chip of any pod (R12, R183, R357). -/
def reachFar (s : State) (vf chip a n : Nat) : Reach :=
  if a + n > 2 ^ 57 then .fail .translation 5 s
  else match engineFor s vf chip with
    | none => .fail .remoteReject 0 s
    | some link => .ok (.remote ⟨vf, tenantOf s vf, link, chip, a⟩ n)

/-- Reaches one unit of a tile for a copy (R289); another package of another pod is written, not read (R180). -/
def reachUnit (cell : Nat) (g : Gang) (d : Desc) (acc : Access) (src : Source) (s : State) (a c1 n : Nat) : Reach :=
  if d.space = 3 ∧ d.chip ≠ chipId s ∧ (acc = .write ∨ d.chip / 1024 = chipId s / 1024) then reachFar s g.vf d.chip a n
  else reach s (16 * cell) g d c1 a n acc src

/-- Reads one unit of the source, with its number, where it lies within the extents; one of another package is asked for first, once
its station has room (R289, R405). -/
def readUnit (cell : Nat) (g : Gang) (d : Desc) (src : Source) (m : Mover) (e : TileUnit × Nat) : Mover :=
  match e.1.place with
  | none => m
  | some (a, c1) =>
    if m.fault.isSome || (mapGet m.fetched e.2).isSome then m
    else if (mapGet m.sent e.2).isSome then m.arrive e.2 e.1.size
    else match reachUnit cell g d .read src m.s a c1 e.1.size with
      | .miss s => { m with s := s, missed := true }
      | .fail code detail s => ({ m with s := s } : Mover).fails code detail true
      | .ok (.remote x n) =>
        if linkBusy m.s x.link m.counted m.sent 1 then { m with away := true }
        else { m with s := sendOver m.s x.link x.vf 1 (.load x.tenant x.chip x.va n), away := true
                      sent := mapSet m.sent e.2 x.link }
      | .ok l =>
        let r := locusRead m.s l
        let s := match l with
          | .device p pas => touchLines r.2.2 (16 * cell) g.vf 0 false p pas
          | _ => r.2.2
        if r.2.1 then ({ m with s := s } : Mover).fails .poison 0 true else m.keep s e.2 r.1

/-- The units of a tile, numbered. -/
def numbered (us : List TileUnit) : List (TileUnit × Nat) := us.zipIdx

/-- What has been read of a tile: a unit outside the extents reads as zero bytes (R289). -/
def tileData (us : List TileUnit) (fetched : AMap (List Byte)) : List (List Byte) :=
  (numbered us).map fun e => (mapGet fetched e.2).getD (List.replicate e.1.size 0)

/-- Writes a unit into the scratchpad of one receiving cell: in a cell other than its own the workgroup owns no record slot
(R70, R291). -/
def writeInto (cell wg : Nat) (offs : List Nat) (bytes : List Byte) (s : State) (c : Nat) : State :=
  if c = cell then scratchWrite s c wg offs bytes
  else (offs.zip bytes).foldl (fun s e => if e.1 < 0xE8000 then spadPut s c e.1 e.2 else s) s

/-- Writes one unit (R289, R291). -/
def writeUnit (cell : Nat) (g : Gang) (into : List Nat) (s : State) (l : Locus) (bytes : List Byte) : State :=
  match l with
  | .scratch _ offs => into.foldl (writeInto cell g.wg offs bytes) s
  | .remote r n => sendOver s r.link r.vf n (.copy r.tenant r.chip r.va bytes)
  | .device p pas => touchLines (locusWrite s g.wg l bytes) (16 * cell) g.vf 0 true p pas
  | l => locusWrite s g.wg l bytes

/-- The pieces of `n` bytes of a tile. -/
def pieces (n : Nat) (l : List Byte) : Nat → List (List Byte)
  | 0 => []
  | k + 1 => l.take n :: pieces n (l.drop n) k

/-- The number under which the write of a unit is sent to another package. -/
def sentWrite (k : Nat) : Nat := 2 ^ 32 + k

/-- The answers to the writes that were sent to another package, each of which may be a rejection (R407). -/
def Mover.answered (m : Mover) : Mover :=
  (m.sent.filter fun e => decide (2 ^ 32 ≤ e.1)).foldl (fun m e =>
    let m' := { m with s := { m.s with free := m.s.free + 1 }, sent := mapErase m.sent e.1 }
    if Config.rejects m.s.free then m'.fails .remoteReject 0 false else m') m

/-- Bytes of poisoned lines of device memory among those of a place (R390). -/
def poisonedKeys (s : State) : Locus → List Nat
  | .device p pas => (pas.map (dramKey p)).filter (isPoisoned s)
  | _ => []

/-- Writes a unit that has been reached at an address, with the watchpoints that it matches (R289, R385). -/
def Mover.wrote (m : Mover) (cell : Nat) (g : Gang) (into : List Nat) (k va : Nat) (l : Locus) (bytes : List Byte) : Mover :=
  { m with
    s := writeUnit cell g into m.s l bytes, written := k :: m.written, keys := m.keys ++ poisonedKeys m.s l
    hit := joinMatches [m.hit, unitMatch m.s g.vf false l va bytes.length] }

/-- Writes one unit of the destination where it lies within the extents; one for another package goes once its station has room
(R289, R405). -/
def putUnit (cell : Nat) (g : Gang) (d : Desc) (src : Source) (into : List Nat) (m : Mover) (e : (TileUnit × Nat) × List Byte) :
    Mover :=
  match e.1.1.place with
  | none => m
  | some (a, c1) =>
    if m.fault.isSome then m
    else match reachUnit cell g d .write src m.s a c1 e.1.1.size with
      | .miss s => { m with s := s, missed := true }
      | .fail code detail s => ({ m with s := s } : Mover).fails code detail false
      | .ok (.remote x n) =>
        if linkBusy m.s x.link m.counted m.sent 1 then { m with away := true }
        else { m.wrote cell g into e.1.2 a (.remote x n) e.2 with
               away := true, sent := mapSet m.sent (sentWrite e.1.2) x.link }
      | .ok l => m.wrote cell g into e.1.2 a l e.2

/-- What one attempt at a copy ends: lines that it has written whole lose their poison (R390), and the units that it wrote draw on
the cell's copy engine, one token for each 64 bytes of the tile (R363); `before` units of `n` bytes were written earlier. -/
def Mover.settled (m : Mover) (cell vf n before : Nat) : Mover :=
  let s := clearWhole m.s m.keys
  let tokens := ceilDiv (m.written.length * n) 64 - ceilDiv (before * n) 64
  { m with s := charge s 5 cell vf tokens, keys := m.keys.filter (isPoisoned s) }

/-! ## Late faults (R293, R297) -/

/-- A fault raised on a gang by what it did earlier: it waits for the gang's next instruction; it is kept in the shelf of a
gang that is saved, and escalates where the gang has ended; a gang that has resumed may stand in another slot (R297). -/
def lateFault (s : State) (d : Doer) (f : GFault) : State :=
  let escalate := abortLaunch s d.vf d.lslot (nodeOfWg s d.wg) d.slot d.addr f 0
  let its := fun (g : Gang) => g.wg == d.wg && g.idx == d.idx && !g.ended
  match mapGet s.workgroups d.wg with
  | none => escalate
  | some w =>
    if w.phase = .saving ∨ w.phase = .saved then
      if w.saved.any fun e => e.1 == d.idx then
        { s with workgroups := mapSet s.workgroups d.wg { w with saved := w.saved.map fun e =>
            if e.1 = d.idx then (e.1, { e.2 with deferred := e.2.deferred ++ [⟨.next, f⟩] }) else e } }
      else escalate
    else
      let slot := if ((mapGet s.gangs d.slot).map its).getD false then some d.slot else (s.gangs.find? fun e => its e.2).map (·.1)
      match slot.bind fun k => (mapGet s.gangs k).map fun g => (k, g) with
      | none => escalate
      | some (k, g) => setGang s k { g with deferred := g.deferred ++ [⟨.report, f⟩] }

/-- The gang in a slot as the one responsible for an operation. -/
def doerOf (slot : Nat) (g : Gang) (copy : Option Nat) (addr : Nat) : Doer := ⟨g.vf, g.lslot, g.wg, slot, g.idx, copy, addr⟩

/-! ## Barriers (R294 to R298) -/

/-- A barrier object (R294). -/
def barGet (s : State) (cell off : Nat) : Nat := bytesToNat (spadRead s cell off 16)

/-- Writes a barrier object. -/
def barPut (s : State) (cell off x : Nat) : State := spadWrite s cell off (natToBytes 16 x)

/-- Replaces bits of a number. -/
def putBits (x lo n v : Nat) : Nat := x - bits x lo n * 2 ^ lo + v % 2 ^ n * 2 ^ lo

/-- Overrun(): the sticky bit is set with the clamped count; the fault is raised on the responsible gang (R297). -/
def barOverrun (s : State) (cell off : Nat) (d : Doer) : State :=
  let c := match d.copy with
    | none => 0
    | some k => 2 ^ 23 + k * 2 ^ 24
  lateFault s d ⟨.barrierOverrun, BitVec.ofNat 64 (off + cell % 8 * 2 ^ 20 + c), 1, false, some d.addr, 0⟩

/-- Flip() (R296). -/
def barFlip (x : Nat) : Nat :=
  putBits (putBits (putBits x 0 8 (bits x 0 8 + 1)) 80 16 (bits x 64 16)) 96 32 0

/-- Evaluate() of a barrier whose object is `x`, which is stored (R296). -/
def barEvaluate (s : State) (cell off x : Nat) (d : Doer) : State :=
  let key := 2 ^ 20 * cell + off
  if bits x 80 16 ≠ 0 ∨ bits x 96 32 ≠ 0 then barPut s cell off x
  else match bits x 62 2 with
    | 0 => barPut s cell off (barFlip x)
    | 2 =>
      let s := barPut s cell off (barFlip x)
      { s with
        broadcasts := s.broadcasts ++ ((mapGet s.leaves key).getD []).map fun l => ⟨l.1, l.2, d⟩
        leaves := mapErase s.leaves key }
    | 1 =>
      if bits x 9 1 = 1 then barPut s cell off x
      else
        let s := barPut s cell off (putBits (putBits x 9 1 1) 80 16 (bits x 64 16))
        { s with rootArrivals := s.rootArrivals ++ [⟨cell, off, cell / 8 * 8 + bits x 59 3, bits x 40 16 * 16, d⟩] }
    | _ => barPut s cell off x

/-- An arrival (R296). -/
def barArrive (s : State) (cell off : Nat) (d : Doer) : State :=
  let x := barGet s cell off
  if bits x 80 16 = 0 then barOverrun (barEvaluate s cell off (putBits x 8 1 1) d) cell off d
  else barEvaluate s cell off (putBits x 80 16 (bits x 80 16 - 1)) d

/-- Count(n), from a copy (R296). -/
def barCount (s : State) (cell off n : Nat) (d : Doer) : State :=
  let x := barGet s cell off
  if n > bits x 96 32 then barOverrun (barEvaluate s cell off (putBits (putBits x 96 32 0) 8 1 1) d) cell off d
  else barEvaluate s cell off (putBits x 96 32 (bits x 96 32 - n)) d

/-! ## Rings (R300 to R302) -/

/-- The number of a ring of a cell. -/
def ringKey (cell num : Nat) : Nat := 16 * cell + num

/-- RING_ORDER (R302). -/
def ringFault (num idx cause : Nat) : GFault :=
  precise .ringOrder (BitVec.ofNat 64 (num + idx * 2 ^ 4 + cause * 2 ^ 10))

/-- The ring an instruction names, where it is the workgroup's (R301). -/
def ringFor (s : State) (cell num wg : Nat) : Except GFault Ring :=
  match mapGet s.rings (ringKey cell num) with
  | none => .error (ringFault num 0 3)
  | some r => if r.wg = wg then .ok r else .error (ringFault num 0 1)

/-- The requesters held on a ring's reservation pointer, in the order they issued (R302). -/
def ringWaiters (s : State) (cell num : Nat) (r : Ring) : List Nat :=
  r.waiters.filter fun k => ((mapGet s.gangs k).map fun g => g.hold == some (.ring cell num)).getD false

/-- The state of a ring's slot. -/
def slotState (r : Ring) (k : Nat) : RingSlot := (r.slots[k]?).getD .free

/-- Whether it is the turn of a requester at RP: no other was held before it (R302). -/
def ringTurn (s : State) (cell num slot : Nat) (r : Ring) : Bool :=
  let w := ringWaiters s cell num r
  w.isEmpty || w.head? == some slot

/-- Whether a requester may take the slot at RP: it is FREE and no other was held before (R302). -/
def canReserve (s : State) (cell num slot : Nat) (r : Ring) : Bool := slotState r r.rp == .free && ringTurn s cell num slot r

/-- A requester leaves the order (R302). -/
def Ring.without (r : Ring) (slot : Nat) : Ring := { r with waiters := r.waiters.filter fun k => k != slot }

/-- Reserves the slot at RP for a requester (R302). -/
def reserveSlot (slot : Nat) (r : Ring) : Ring :=
  { r.without slot with slots := listUpdate r.slots r.rp fun _ => .reserved, rp := (r.rp + 1) % r.slots.length }

/-- A requester waits for the slot at RP: it keeps its place of the order where it is held already, and otherwise takes the last
(R302). -/
def Ring.await (r : Ring) (slot : Nat) (held : Bool) : Ring :=
  if held && r.waiters.contains slot then r else { r.without slot with waiters := (r.without slot).waiters ++ [slot] }

/-- Slots of a ring in a state. -/
def countSlots (r : Ring) (x : RingSlot) : Nat := (r.slots.filter fun y => y == x).length

/-- A slot value (R300). -/
def slotValue (r : Ring) (k count : Nat) : Word := BitVec.ofNat 64 (r.base + k * r.size + k * 2 ^ 24 + count * 2 ^ 32)

/-- Puts a ring. -/
def setRing (s : State) (cell num : Nat) (r : Ring) : State := { s with rings := mapSet s.rings (ringKey cell num) r }

/-! ## Completing copies (R289 to R293) -/

/-- The cells a copy writes: its own, or the named ones that hold a resident workgroup of its launch (R291). -/
def receivers (s : State) (c : Copy) : List Nat :=
  match c.mask with
  | none => [c.cell]
  | some m => ((List.range 8).map fun k => c.cell / 8 * 8 + k).filter fun k =>
      m.getLsbD (k % 8) && s.gangs.any fun e => cellOf e.1 == k && e.2.vf == c.vf && e.2.lslot == c.lslot

/-- The destination descriptor of a copy: under RING its base is the slot's (R290). -/
def Copy.target (c : Copy) : Desc := c.dst

/-- Who asks for the translations of a copy: its cell's engine, or the fabric engine that carries it out (R347). -/
def Copy.source (s : State) (id : Nat) (c : Copy) : Source :=
  if c.dst.space = 3 ∧ c.dst.chip ≠ chipId s then .fabric id else .copy id

/-- The receiving cells that a CPYM has still to serve (R291). -/
def openCells (s : State) (c : Copy) : List Nat := (receivers s c).filter fun k => !c.counted.contains k

/-- The cells one attempt writes: a CPYM serves one receiving cell at a time (R291, R305). -/
def nextCells (s : State) (c : Copy) : List Nat := if c.mask.isSome then (openCells s c).take 1 else [c.cell]

/-- The bytes of a unit of a tile. -/
def unitSize (us : List TileUnit) : Nat := (us.head?.map (·.size)).getD 0

/-- The units of a copy's destination that it has still to write, with their bytes (R289). -/
def openUnits (c : Copy) (data : List (List Byte)) : List ((TileUnit × Nat) × List Byte) :=
  ((numbered (tileUnits c.target c.dstAt)).zip data).filter fun e => !c.written.contains e.1.2

/-- A copy reads what it has still to read of its tile (R289, R291). -/
def readTile (s : State) (id : Nat) (c : Copy) : Mover :=
  let m := { (Mover.start s c.sent c.fetched).answered with written := c.written, hit := c.hit, keys := c.keys }
  if c.data.isSome then m
  else (numbered (tileUnits c.src c.srcAt)).foldl (readUnit c.cell (copyGang c.vf c.lslot c.wg c.idx) c.src (c.source s id)) m

/-- What a copy has read, once that is its whole tile. -/
def tileOfCopy (c : Copy) (m : Mover) : Option (List (List Byte)) :=
  let us := tileUnits c.src c.srcAt
  match c.data with
  | some d => some (pieces (unitSize us) d us.length)
  | none => if m.missed || m.away || m.fault.isSome then none else some (tileData us m.fetched)

/-- One attempt at a copy: it reads its tile, and once it has read all of it writes the units that it has not written yet (R289);
what it has read and written it does not read or write again (R215, R291). -/
def attemptCopy (s : State) (id : Nat) (c : Copy) : Mover × Copy :=
  let m := readTile s id c
  let data := tileOfCopy c m
  let m := match data with
    | none => m
    | some l => (openUnits c l).foldl
        (putUnit c.cell (copyGang c.vf c.lslot c.wg c.idx) c.target (c.source s id) (nextCells s c)) m
  let m := m.settled c.cell c.vf (unitSize (tileUnits c.target c.dstAt)) c.written.length
  (m, { c with sent := m.sent, fetched := if data.isSome then [] else m.fetched, data := data.map (·.flatten)
               written := m.written, hit := m.hit, keys := m.keys })

/-- Whether a matrix operation accesses memory. -/
def MatKind.accesses : MatKind → Bool
  | .mdrn | .mrd | .vtest => false
  | _ => true

/-- Whether a copy may be the next to complete: no earlier copy of its gang on its token is outstanding (R206), and every access
of its gang that precedes it has been performed: loads, stores and the operations of the matrix unit (R204, R269). -/
def copyTurn (s : State) (id : Nat) (c : Copy) : Bool :=
  !(s.copies.any fun e => decide (e.1 < id) && e.2.slot == c.slot && e.2.token == c.token)
    && !((unitOf s (bayOf c.slot)).queue.any fun o => o.slot == c.slot && decide (o.seq < id) && o.kind.accesses)
    && match mapGet s.gangs c.slot with
      | none => true
      | some g => !(g.loads.any fun l => !l.complete && decide (l.id < id)) && !(g.stores.any fun x => decide (x.id < id))

/-- The gang that issued a copy. -/
def Copy.doer (c : Copy) : Doer := ⟨c.vf, c.lslot, c.wg, c.slot, c.idx, some c.token, c.addr⟩

/-- The barriers of some cells count the bytes of a copy (R205, R291, R292). -/
def countCopy (s : State) (c : Copy) (into : List Nat) : State :=
  match c.bar with
  | none => s
  | some off => into.foldl (fun s k => barCount s k off c.src.tileBytes c.doer) s

/-- The watch event of what a copy has written, which its cell and token name (R385, R386). -/
def copyEvent (s : State) (c : Copy) : State := unitEvent s c.vf 2 (c.cell + c.token * 2 ^ 16) c.hit

/-- A complete copy leaves the engine and commits its ring slot (R290, R292). -/
def finishCopy (s : State) (id : Nat) (c : Copy) : State :=
  let s := copyEvent { s with copies := mapErase s.copies id } c
  match c.ring with
  | none => s
  | some (num, k) =>
    { s with rings := mapUpdate s.rings (ringKey c.cell num) fun r =>
        if slotState r k = .reserved then { r with slots := listUpdate r.slots k fun _ => .filled } else r }

/-- A copy that fails counts nothing and commits nothing; its fault waits for the instruction that raises it, or escalates
where the gang has ended (R293). -/
def failCopy (s : State) (id : Nat) (c : Copy) (code : FaultCode) (detail : Nat) (source : Bool) : State :=
  let td := if source then c.srcTd else c.dstTd
  let tval := 1 + td * 2 ^ 32 + c.token * 2 ^ 42 + (if source then 2 ^ 45 else 0)
  let f : GFault := ⟨code, BitVec.ofNat 64 tval, 1, false, some c.addr, detail⟩
  let s := copyEvent { s with copies := mapErase s.copies id } c
  match mapGet s.gangs c.slot with
  | none => s
  | some g =>
    if g.ended then takeFault s c.slot g 0 { f with escalates := true }
    else setGang s c.slot { g with deferred := g.deferred ++ [⟨.copy c.token c.marks, f⟩] }

/-- A copy is handed to the engine (R289). -/
def startCopy (s : State) (c : Copy) : State := { s with copies := mapSet s.copies s.nextId c, nextId := s.nextId + 1 }

/-- What one turn of the engine does with a copy. -/
inductive CopyStep where
  | go (s : State)
  | fail (code : FaultCode) (detail : Nat) (source : Bool) (s : State) (c : Copy)
  deriving DecidableEq, Repr

/-- A copy has written its tile whole into some cells: they count it, and it leaves the engine where no other cell is to be served
(R290 to R292). -/
def wroteCells (s : State) (id : Nat) (c : Copy) (into : List Nat) : State :=
  let c := { c with counted := c.counted ++ into }
  let t := countCopy s c into
  if c.mask.isSome && !(openCells t c).isEmpty then { t with copies := mapSet t.copies id { c with written := [] } }
  else finishCopy t id c

/-- One turn of the engine on a copy: it reads and writes its tile, as far as it gets, or serves the next receiving cell of a CPYM
(R289, R291, R292). -/
def turnCopy (s : State) (id : Nat) (c : Copy) : CopyStep :=
  if c.mask.isSome && (openCells s c).isEmpty then .go (finishCopy s id c)
  else
    let r := attemptCopy s id c
    match r.1.fault with
    | some (code, detail, side) => .fail code detail side (leaveFailed r.1.s (c.source s id)) r.2
    | none =>
      if r.1.missed || r.1.away then .go { r.1.s with copies := mapSet r.1.s.copies id r.2 }
      else .go (wroteCells r.1.s id r.2 (nextCells s c))

/-- COPY_COMPLETE (R289, R292). The engine performs a copy; one that misses a translation waits, and one that fails is left
to COPY_FAULT. -/
def execCopyComplete (copy : Nat) (s : State) : Host.Outcome State Fault Refusal :=
  match mapGet s.copies copy with
  | none => .next s
  | some c =>
    if !copyTurn s copy c then .next s
    else match turnCopy s copy c with
      | .go s => .next s
      | .fail _ _ _ _ _ => .next s

/-- The failure an event names, as the engine meets it (R293). -/
def meetsFailure (why : CopyFailure) (source : Bool) (code : FaultCode) (side : Bool) : Bool :=
  side == source && match why with
    | .translation _ => code == .translation || code == .protection || code == .remoteReject
    | .poison => code == .poison
    | .fabricLoss => false

/-- COPY_FAULT (R293). A copy that meets a translation failure or poison as its turn comes (R204), or whose remote side is lost,
stops. -/
def execCopyFault (copy : Nat) (why : CopyFailure) (source : Bool) (s : State) : Host.Outcome State Fault Refusal :=
  match mapGet s.copies copy with
  | none => .next s
  | some c =>
    let d := if source then c.src else c.dst
    if why = .fabricLoss then
      if d.space = 3 ∧ d.chip ≠ chipId s then .next (failCopy s copy c .fabricLoss 0 source) else .next s
    else if !copyTurn s copy c then .next s
    else match turnCopy s copy c with
      | .fail code detail side s' c' =>
        if meetsFailure why source code side then .next (failCopy s' copy c' code detail side) else .next s
      | _ => .next s

/-- BARRIER_ROOT_ARRIVAL (R296). The oldest leaf's arrival is applied at its root. -/
def execBarrierRootArrival (s : State) : Host.Outcome State Fault Refusal :=
  match s.rootArrivals with
  | [] => .next s
  | a :: r =>
    let key := 2 ^ 20 * a.rootCell + a.rootOffset
    let old := (mapGet s.leaves key).getD []
    let here := (a.leafCell, a.leafOffset)
    let s := { s with rootArrivals := r,
                      leaves := if bits (barGet s a.rootCell a.rootOffset) 62 2 = 2 ∧ here ∉ old then
                        mapSet s.leaves key (old ++ [here]) else s.leaves }
    .next (barArrive s a.rootCell a.rootOffset a.doer)

/-- The first broadcast for a cell, and the others. -/
def takeBroadcast (cell : Nat) : List Broadcast → Option Broadcast × List Broadcast
  | [] => (none, [])
  | b :: r => if b.cell = cell then (some b, r) else
    let x := takeBroadcast cell r
    (x.1, b :: x.2)

/-- BARRIER_BROADCAST (R296). A leaf of a cell applies its root's broadcast; it applies before the barrier operations of its cycle, so
that one which comes after them waits for the next (R305). -/
def execBarrierBroadcast (cell : Nat) (s : State) : Host.Outcome State Fault Refusal :=
  if (mapGet s.barTurn cell).map (·.1) = some s.acycle then .next s
  else match takeBroadcast cell s.broadcasts with
  | (none, _) => .next s
  | (some b, r) =>
    let x := barGet s cell b.offset
    .next (barEvaluate { s with broadcasts := r } cell b.offset (putBits (putBits x 0 8 (bits x 0 8 + 1)) 9 1 0) b.doer)

/-- The first deferred fault not yet reported becomes due. -/
def reportFirst : List Deferred → List Deferred
  | [] => []
  | d :: r => if d.site = .report then { d with site := .next } :: r else d :: reportFirst r

/-- BARRIER_OVERRUN (R297). The barrier logic reports an overrun: the responsible gang faults at its next instruction. -/
def execBarrierOverrun (slot : Nat) (s : State) : Host.Outcome State Fault Refusal :=
  .next (onGang s slot fun g => { g with deferred := reportFirst g.deferred })

end Sys2Proof.Machine
end

