-- ==== Sys2Proof/Machine/Async.lean ====
section
/-! DEFINITION. Class 0xA: copies, barriers, rings and the gang barrier at issue (R285 to R304). -/

namespace Sys2Proof.Machine

/-! ## Common checks -/

/-- RESERVED_FIELD of a value in a register: the lowest bit of the field that names it, and LEN (R112, R287, R294, R300). -/
def registerFault (bit : Nat) (f : Fields) : GFault := precise .reservedField (BitVec.ofNat 64 (bit + formNum f.len * 2 ^ 10))

/-- The fault of an earlier copy that BWAIT, BTRY, RRES, RACQ and GBAR raise (R293). -/
def raiseCopy (s : State) (slot : Nat) (g : Gang) (k : Res) : Res :=
  match g.deferred.find? (fun d => match d.site with
    | .copy _ _ => true
    | _ => false) with
  | some d => .trap (onGang s slot fun g => { g with deferred := g.deferred.filter fun x => x != d }) d.fault
  | none => k

/-- The mask of the participating threads, as fault masks hold it. -/
def maskWord (ts : List Nat) : Word := wideMask ts fun _ => true

/-! ## Copies (R287 to R291) -/

/-- A valid descriptor of a copy (R288 step 2). -/
def copyDesc (s : State) (slot : Nat) (g : Gang) (index : Nat) (k : State → Desc → Res) : Res :=
  match fetchDesc s slot g index with
  | .miss s => .hold s .miss
  | .fail fl s => .trap s fl
  | .ok w s => if (descOf w).ok then k s (descOf w) else .trap s (precise .tdInvalid (descTval index 0))

/-- The class of a layout for step 3 of R288. -/
def layoutClass (d : Desc) : Nat := if d.layout = 0 then 0 else if d.layout = 2 then 2 else 1

/-- Whether the descriptors of a copy agree (R288 step 3). -/
def copyAgrees (dd ds : Desc) (toScratch : Bool) : Bool :=
  dd.type == ds.type && dd.tile0 == ds.tile0 && dd.tile1 == ds.tile1 && layoutClass dd == layoutClass ds
    && (dd.layout != 2 || dd.budget == ds.budget) && (!toScratch || dd.space == 1)

/-- Steps 4 and 5 of R288: alignment and range of the origins. -/
def copyOrigins (dd ds : Desc) (dat sat : List Int) (bar : Option Nat) : Option GFault :=
  if !(tileAligned dd dat && tileAligned ds sat) || bar.getD 0 % 16 != 0 then some (precise .align 1)
  else if (!dd.bmode && !inRange dat dd.extents) || (!ds.bmode && !inRange sat ds.extents) then some (precise .coordRange 1)
  else none

/-- Whether a copy that reads another package reaches out of the pod at either side (R180). A copy from host space to a chip of another
pod, of which R180 does not speak, is a bulk copy as one from the issuing chip is (DESIGN CHOICE; log 81). -/
def leavesPod (s : State) (dd ds : Desc) : Bool :=
  ds.space == 3 && ds.chip != chipId s
    && (ds.chip / 1024 != chipId s / 1024 || (dd.space == 3 && dd.chip / 1024 != chipId s / 1024))

/-- Step 6 of R288 outside the ring: extents, the barrier's offset, the reach of a remote source. -/
def copyPlace (s : State) (target ds : Desc) (dat sat : List Int) (bar : Option Nat) : Option GFault :=
  if unitsFar ds (tileUnits ds sat) || unitsFar target (tileUnits target dat) || decide (bar.getD 0 ≥ 0xE8000) then
    some (precise .protection 1)
  else if leavesPod s target ds then some (precise .remoteReject 1)
  else none

/-- The ring of a ring copy with the descriptor its slot gives (R288 step 6, R290). -/
def copyRing (s : State) (slot : Nat) (g : Gang) (ring : Option Nat) (dd : Desc) (k : Option (Nat × Ring) → Desc → Res) : Res :=
  match ring with
  | none => k none dd
  | some n => match ringFor s (cellOf slot) n g.wg with
    | .error fl => .trap s fl
    | .ok r =>
      if r.size < dd.tileBytes then .trap s (precise .protection 1)
      else k (some (n, r)) { dd with base := r.base + r.rp * r.size }

/-- Steps 4 to 6 of R288. -/
def copyChecks (s : State) (slot : Nat) (g : Gang) (ring bar : Option Nat) (dd ds : Desc) (dat sat : List Int)
    (k : Option (Nat × Ring) → Desc → Res) : Res :=
  match copyOrigins dd ds dat sat bar with
  | some fl => .trap s fl
  | none => copyRing s slot g ring dd fun r target =>
    match copyPlace s target ds dat sat bar with
    | some fl => .trap s fl
    | none => k r target

/-- A gang may have 32 copies outstanding (R292); a ring copy held for that keeps its place in the ring's order (R302). -/
def copiesFull (s : State) (slot : Nat) : Bool := decide ((s.copies.filter fun e => e.2.slot == slot).length ≥ 32)

/-- CPY and CPYM at issue (R286 to R292, R322, R374). -/
def copyIssue (opc : Nat) (multicast : Bool) (f : Fields) (s : State) : Host.Outcome State Fault Refusal :=
  issueLane opc f s fun g _ =>
    let imm := f.imm.toNat
    let slot := s.cur
    let cell := cellOf slot
    let named := bits imm 7 1 = 1
    let cv := if named then (readReg s slot g 0 f.c).toNat else 0
    let bar := if named then some (bits cv 0 20) else none
    let ring := if bits imm 6 1 = 1 then some (bits imm 2 4) else none
    if bits cv 20 12 ≠ 0 ∨ bits cv 40 24 ≠ 0 ∨ (multicast = false ∧ bits cv 32 8 ≠ 0) then .trap s (registerFault 31 f)
    else if g.idx ≠ ((nodeOf s g).map (·.producer)).getD 0 then .trap s (precise .copyRights 0)
    else if !(((partOf s g.vf).map fun p => p.2.copy.contains cell).getD false) then .trap s (precise .copyRights 1)
    else copyDesc s slot g (bits imm 21 10) fun s dd =>
      copyDesc s slot g (bits imm 11 10) fun s ds =>
        if !copyAgrees dd ds (multicast || ring.isSome) then
          .trap s (precise .planeFormat (BitVec.ofNat 64 (bits imm 21 10 + bits imm 11 10 * 2 ^ 10)))
        else
          let dat := originAt s slot g f.a dd.rank
          let sat := originAt s slot g f.b ds.rank
          copyChecks s slot g ring bar dd ds dat sat fun r target =>
            match r.filter fun e => copiesFull s slot || !canReserve s cell e.1 slot e.2 with
            | some (n, r) => .hold (setRing s cell n (r.await slot (g.hold == some (.ring cell n)))) (.ring cell n)
            | none =>
              if copiesFull s slot then .hold s .interlock
              else
                let s := if bar.isSome || ring.isSome then sealGang s slot else s
                let s := effectFlags s g dd
                let s := match r with
                  | some (n, r) => setRing s cell n (reserveSlot slot r)
                  | none => s
                if multicast ∧ bits cv 32 8 = 0 then .done s []
                else
                  .done (startCopy s {
                    slot := slot, vf := g.vf, lslot := g.lslot, wg := g.wg, idx := g.idx, cell := cell, token := bits imm 8 3
                    dst := target, src := ds, dstTd := bits imm 21 10, srcTd := bits imm 11 10, dstAt := dat, srcAt := sat
                    bar := bar, mask := if multicast then some (BitVec.ofNat 8 (bits cv 32 8)) else none
                    ring := r.map fun e => (e.1, e.2.rp), addr := g.pc, marks := g.marks
                    sent := [], fetched := [], data := none, counted := [], written := [], hit := none, keys := [] }) []

/-- CPY (R287 to R290). Hands one tile copy to the cell's copy engine. -/
def execCpy (f : Fields) (s : State) : Host.Outcome State Fault Refusal := copyIssue 0x280 false f s

/-- CPYM (R291). Multicasts one tile into the scratchpads of the masked cells. -/
def execCpym (f : Fields) (s : State) : Host.Outcome State Fault Refusal := copyIssue 0x281 true f s

/-! ## Barriers (R294 to R298) -/

/-- The barrier an instruction names (R295). -/
def barrierAt (s : State) (slot : Nat) (g : Gang) (f : Fields) (ts : List Nat) (k : State → Nat → Res) : Res :=
  match fetchDesc s slot g (memTd f) with
  | .miss s => .hold s .miss
  | .fail fl s => .trap s fl
  | .ok w s =>
    let d := descOf w
    if !(d.ok && topkDesc d) then .trap s (precise .tdInvalid (descTval (memTd f) 0))
    else
      let c := coordsFrom [] (memDisp f) (originAt s slot g f.a d.rank)
      let a := permuteAddr d.perm (coord1 c) (d.locate c).addr
      if !inRange c d.extents then .trap s (precise .coordRange 1)
      else if a % 16 ≠ 0 then .trap s (precise .align (maskWord ts))
      else if a ≥ 0xE8000 then .trap s (precise .protection (maskWord ts))
      else k s a

/-- The phase a BWAIT or BTRY compares with (R296). -/
def phaseMoved (s : State) (slot : Nat) (g : Gang) (f : Fields) (a : Nat) : Bool :=
  bits (barGet s (cellOf slot) a) 0 8 != bits (readReg s slot g 0 f.c).toNat 0 8

/-- A configuration register of BINIT is well formed (R294). -/
def barConfigOk (x : Nat) : Bool :=
  bits x 16 24 == 0 && bits x 56 3 == 0 && bits x 62 2 != 3 && !(bits x 62 2 == 1 && decide (bits x 40 16 * 16 ≥ 0xE8000))

/-- The object BINIT writes (R294). -/
def barInit (x : Nat) : Nat :=
  bits x 62 2 * 2 ^ 62 + bits x 59 3 * 2 ^ 59 + bits x 40 16 * 2 ^ 40 + bits x 0 16 * 2 ^ 64 + bits x 0 16 * 2 ^ 80

/-- BINIT (R294). Initialises a barrier. -/
def execBinit (f : Fields) (s : State) : Host.Outcome State Fault Refusal :=
  issueLane 0x282 f s fun g ts =>
    let x := (readReg s s.cur g 0 f.c).toNat
    if !barConfigOk x then .trap s (registerFault 31 f)
    else barrierAt s s.cur g f ts fun s a =>
      .done { barPut s (cellOf s.cur) a (barInit x) with leaves := mapErase s.leaves (2 ^ 20 * cellOf s.cur + a) } []

/-- BEXP (R296, R297). Adds expected bytes. -/
def execBexp (f : Fields) (s : State) : Host.Outcome State Fault Refusal :=
  issueLane 0x283 f s fun g ts =>
    barrierAt s s.cur g f ts fun s a =>
      let cell := cellOf s.cur
      let x := barGet s cell a
      let n := bits x 96 32 + bits (readReg s s.cur g 0 f.c).toNat 0 32
      if n > 2 ^ 32 - 1 then
        .done (barOverrun (barPut s cell a (putBits (putBits x 96 32 (2 ^ 32 - 1)) 8 1 1)) cell a (doerOf s.cur g none g.pc)) []
      else .done (barPut s cell a (putBits x 96 32 n)) []

/-- BARV (R296, R322). Arrives and returns the phase before the arrival. -/
def execBarv (f : Fields) (s : State) : Host.Outcome State Fault Refusal :=
  issueLane 0x284 f s fun g ts =>
    barrierAt s s.cur g f ts fun s a =>
      let phase := BitVec.ofNat 64 (bits (barGet s (cellOf s.cur) a) 0 8)
      let s' := onGang (sealGang s s.cur) s.cur fun g => putLanes g f.d (fun _ => phase) ts
      .done (barArrive s' (cellOf s.cur) a (doerOf s.cur g none g.pc)) (pendD 0x284 f 4)

/-- BWAIT (R296, R298). Holds until the phase differs from C[7:0]. -/
def execBwait (f : Fields) (s : State) : Host.Outcome State Fault Refusal :=
  issueLane 0x285 f s fun g ts =>
    raiseCopy s s.cur g (barrierAt s s.cur g f ts fun s a =>
      if phaseMoved s s.cur g f a then .done s [] else .hold s .barrier)

/-- BTRY (R296). Tests whether the phase has moved on. -/
def execBtry (f : Fields) (s : State) : Host.Outcome State Fault Refusal :=
  issueLane 0x286 f s fun g ts =>
    raiseCopy s s.cur g (barrierAt s s.cur g f ts fun s a =>
      .done (onGang s s.cur fun g' => putPreds g' f.d (fun _ => triOf (phaseMoved s s.cur g f a)) ts) (pendD 0x286 f 4))

/-! ## Rings (R299 to R302) -/

/-- RNUM of a ring instruction (R299). -/
def ringNum (f : Fields) : Nat := bits f.imm.toNat 0 4

/-- Whether some other gang is held on a ring (R301). -/
def ringBusy (s : State) (cell num : Nat) (r : Ring) : Bool :=
  (r.slots.any fun x => x != .free) || s.gangs.any fun e => e.1 != s.cur && e.2.hold == some (.ring cell num)

/-- RRES.init (R300, R301). -/
def ringInit (f : Fields) (s : State) (g : Gang) (ts : List Nat) : Res :=
  let cell := cellOf s.cur
  let num := ringNum f
  let x := (readReg s s.cur g 0 f.a).toNat
  let n := bits x 24 6 + 1
  let size := bits x 12 12
  let base := bits x 0 12 * 256
  let new := setRing s cell num ⟨g.wg, base, size * 128, List.replicate n .free, 0, 0, []⟩
  if bits x 30 34 ≠ 0 ∨ size = 0 ∨ size > 512 then .trap s (registerFault 51 f)
  else if base + n * (size * 128) > 0xE8000 then .trap s (precise .protection (maskWord ts))
  else match mapGet s.rings (ringKey cell num) with
    | none => .done new []
    | some r =>
      if r.wg ≠ g.wg then .trap s (ringFault num 0 1)
      else if ringBusy s cell num r then .trap s (ringFault num 0 2)
      else .done new []

/-- The .q predicate of RRES and RACQ (R302). -/
def putTry (f : Fields) (v : Bool) (ts : List Nat) (g : Gang) : Gang :=
  if bits f.imm.toNat 4 1 = 1 then putPreds g f.c (fun _ => triOf v) ts else g

/-- The names that become pending with a ring slot (R304). -/
def tryNames (f : Fields) : List Pending :=
  if bits f.imm.toNat 4 1 = 1 then pendAt 4 [.pred (bits f.c.toNat 0 3)] else []

/-- A ring slot is taken: its value goes to D, true to the .q predicate (R302, R304). -/
def tookSlot (opc : Nat) (f : Fields) (s : State) (num : Nat) (r : Ring) (v : Word) (ts : List Nat) : Res :=
  let s := setRing s (cellOf s.cur) num r
  .done (onGang s s.cur fun g => putTry f true ts (putLanes g f.d (fun _ => v) ts)) (pendD opc f 4 ++ tryNames f)

/-- The .q predicate of a ring instruction whose slot is not to be had is false (R302). -/
def failedTry (f : Fields) (s : State) (ts : List Nat) : Res := .done (onGang s s.cur (putTry f false ts)) (tryNames f)

/-- An RRES that finds no slot, or another before it, waits in its place of the order; RRES.q is false where the slot at RP is not
FREE, and where it is, comes after those that were held before (R302; log 50). -/
def missedReserve (f : Fields) (s : State) (g : Gang) (num : Nat) (r : Ring) (ts : List Nat) : Res :=
  let cell := cellOf s.cur
  if bits f.imm.toNat 4 1 = 1 ∧ slotState r r.rp ≠ .free then failedTry f (setRing s cell num (r.without s.cur)) ts
  else .hold (setRing s cell num (r.await s.cur (g.hold == some (.ring cell num)))) (.ring cell num)

/-- A RACQ that finds no slot is held, or false in the .q predicate (R302). -/
def missedAcquire (f : Fields) (s : State) (num : Nat) (ts : List Nat) : Res :=
  if bits f.imm.toNat 4 1 = 1 then failedTry f s ts else .hold s (.ring (cellOf s.cur) num)

/-- A ring instruction on the workgroup's own ring (R301). -/
def onRing (f : Fields) (s : State) (g : Gang) (k : Ring → Res) : Res :=
  match ringFor s (cellOf s.cur) (ringNum f) g.wg with
  | .error fl => .trap s fl
  | .ok r => k r

/-- RRES.init (R300). Initialises a ring; without INIT, RRES (R302). -/
def reserveRing (f : Fields) (s : State) : Host.Outcome State Fault Refusal :=
  issueLane 0x287 f s fun g ts =>
    raiseCopy s s.cur g (
      if bits f.imm.toNat 5 1 = 1 then ringInit f s g ts
      else onRing f s g fun r =>
        if canReserve s (cellOf s.cur) (ringNum f) s.cur r then
          let r' := reserveSlot s.cur r
          tookSlot 0x287 f s (ringNum f) r' (slotValue r r.rp (countSlots r' .free)) ts
        else missedReserve f s g (ringNum f) r ts)

/-- RRES_INIT (R300, R301). -/
def execRresInit (f : Fields) (s : State) : Host.Outcome State Fault Refusal := reserveRing f s

/-- RRES (R302). Reserves the slot at RP. -/
def execRres (f : Fields) (s : State) : Host.Outcome State Fault Refusal := reserveRing f s

/-- RACQ (R302). Acquires the filled slot at AP. -/
def execRacq (f : Fields) (s : State) : Host.Outcome State Fault Refusal :=
  issueLane 0x289 f s fun g ts =>
    raiseCopy s s.cur g (onRing f s g fun r =>
      if slotState r r.ap = .filled then
        let r' := { r with slots := listUpdate r.slots r.ap fun _ => .acquired, ap := (r.ap + 1) % r.slots.length }
        tookSlot 0x289 f s (ringNum f) r' (slotValue r r.ap (countSlots r' .filled)) ts
      else missedAcquire f s (ringNum f) ts)

/-- RCMT and RREL: moves the slot that a slot value names from one state to another (R286, R302, R322). -/
def moveSlot (opc : Nat) (want new : RingSlot) (f : Fields) (s : State) : Host.Outcome State Fault Refusal :=
  issueLane opc f s fun g ts =>
    onRing f s g fun r =>
      let k := bits (readReg s s.cur g (ts.headD 0) f.a).toNat 24 6
      if k ≥ r.slots.length then .trap s (ringFault (ringNum f) k 4)
      else if slotState r k ≠ want then .trap s (ringFault (ringNum f) k 0)
      else .done (sealGang (setRing s (cellOf s.cur) (ringNum f) { r with slots := listUpdate r.slots k fun _ => new }) s.cur) []

/-- RCMT (R302). Commits a reserved slot. -/
def execRcmt (f : Fields) (s : State) : Host.Outcome State Fault Refusal := moveSlot 0x288 .reserved .filled f s

/-- RREL (R302). Releases an acquired slot. -/
def execRrel (f : Fields) (s : State) : Host.Outcome State Fault Refusal := moveSlot 0x28A .acquired .free f s

/-! ## The gang barrier (R303) -/

/-- Arrivals of a gang at a level: 0 bay, 1 cell. -/
def gbarCount (g : Gang) (level : Nat) : Nat := if level = 0 then g.gbar.1 else g.gbar.2

/-- Whether some gang of the set has not yet issued as many GBARs of a level (R303). -/
def gbarWaits (s : State) (slot : Nat) (g : Gang) (level : Nat) : Bool :=
  s.gangs.any fun e => e.1 != slot && e.2.wg == g.wg && !e.2.ended && (level == 1 || bayOf e.1 == bayOf slot)
    && decide (gbarCount e.2 level < gbarCount g level)

/-- A gang that has not yet counted its arrival counts it. -/
def gbarArrive (g : Gang) (level : Nat) : Gang :=
  if g.gbarIn then g
  else { g with gbarIn := true, gbar := if level = 0 then (g.gbar.1 + 1, g.gbar.2) else (g.gbar.1, g.gbar.2 + 1) }

/-- GBAR at a level (R303). -/
def gangBarrier (f : Fields) (s : State) : Host.Outcome State Fault Refusal :=
  issueUniform 0x28B f s fun g =>
    let level := bits f.imm.toNat 0 1
    raiseCopy s s.cur g (
      let g := gbarArrive g level
      let s := setGang s s.cur g
      if gbarWaits s s.cur g level then .hold s .gbar else gangResult s { g with gbarIn := false })

/-- GBAR (R303). -/
def execGbar (f : Fields) (s : State) : Host.Outcome State Fault Refusal := gangBarrier f s

/-- GBAR_SHORT (R303). -/
def execGbarShort (f : ShortFields) (s : State) : Host.Outcome State Fault Refusal := gangBarrier (expandShort 0x28B f) s

end Sys2Proof.Machine
end

