-- ==== Sys2Proof/Machine/Control.lean ====
section
/-! DEFINITION. Class 0x2: three-valued predicates, VOTE and control flow (R44 to R51, R161 to R176). -/

namespace Sys2Proof.Machine

/-! ## Three-valued logic (R161) -/

/-- a AND b. -/
def triAnd (a b : BitVec 2) : BitVec 2 :=
  if a = triF ∨ b = triF then triF else if a = triT ∧ b = triT then triT else triU
/-- a OR b. -/
def triOr (a b : BitVec 2) : BitVec 2 :=
  if a = triT ∨ b = triT then triT else if a = triF ∧ b = triF then triF else triU
/-- a XOR b. -/
def triXor (a b : BitVec 2) : BitVec 2 :=
  if a = triU ∨ b = triU then triU else triOf (a != b)
/-- NOT a. -/
def triNot (a : BitVec 2) : BitVec 2 := if a = triF then triT else if a = triT then triF else triU
/-- PDEC: a where it is decided, b elsewhere (R162). -/
def triDec (a b : BitVec 2) : BitVec 2 := if a = triU then b else a

/-- A predicate instruction of one source. -/
def predUnary (opc : Nat) (f : Fields) (s : State) (val : BitVec 2 → BitVec 2) : Host.Outcome State Fault Refusal :=
  issueLane opc f s fun g ts => predResult opc f s 1 g ts fun t => val (readPred g t f.a)

/-- A predicate instruction of two sources. -/
def predBinary (opc : Nat) (f : Fields) (s : State) (val : BitVec 2 → BitVec 2 → BitVec 2) :
    Host.Outcome State Fault Refusal :=
  issueLane opc f s fun g ts => predResult opc f s 1 g ts fun t => val (readPred g t f.a) (readPred g t f.b)

/-- PSET (R162). D := the constant in MD[1:0]. -/
def execPset (f : Fields) (s : State) : Host.Outcome State Fault Refusal :=
  issueLane 0x080 f s fun g ts => predResult 0x080 f s 1 g ts fun _ => BitVec.ofNat 2 (bits f.imm.toNat 0 2)

/-- PMOV (R162). D := a. -/
def execPmov (f : Fields) (s : State) : Host.Outcome State Fault Refusal := predUnary 0x081 f s fun a => a

/-- PAND (R161, R162). D := a AND b. -/
def execPand (f : Fields) (s : State) : Host.Outcome State Fault Refusal := predBinary 0x082 f s triAnd

/-- POR (R161, R162). D := a OR b. -/
def execPor (f : Fields) (s : State) : Host.Outcome State Fault Refusal := predBinary 0x083 f s triOr

/-- PXOR (R161, R162). D := a XOR b. -/
def execPxor (f : Fields) (s : State) : Host.Outcome State Fault Refusal := predBinary 0x084 f s triXor

/-- PNOT (R161, R162). D := NOT a. -/
def execPnot (f : Fields) (s : State) : Host.Outcome State Fault Refusal := predUnary 0x085 f s triNot

/-- PDEC (R162). D := a where a is true or false; b where a is undecided. -/
def execPdec (f : Fields) (s : State) : Host.Outcome State Fault Refusal := predBinary 0x086 f s triDec

/-- PTOI (R162). D := 0, 1 or 2 for false, true or undecided. -/
def execPtoi (f : Fields) (s : State) : Host.Outcome State Fault Refusal :=
  issueLane 0x087 f s fun g ts => laneResult 0x087 f s 1 g ts fun t => (readPred g t f.a).zeroExtend 64

/-- VOTE (R163). Reduces a predicate over the participating threads; with none it writes nothing. -/
def execVote (f : Fields) (s : State) : Host.Outcome State Fault Refusal :=
  issueLane 0x088 f s fun g ts =>
    let yes := fun t => readPred g t f.a == triT
    match bits f.imm.toNat 0 3 with
    | 0 => condResult 0x088 f s 2 g (ts.any yes)
    | 1 => condResult 0x088 f s 2 g (ts.all yes)
    | 2 => uniformResult 0x088 f s 2 g ((maskOf ts yes).zeroExtend 64)
    | _ => uniformResult 0x088 f s 2 g (BitVec.ofNat 64 (ts.filter yes).length)

/-! ## Branches -/

/-- A branch target: the instruction's address plus four times a signed offset (R102, R165, R166). -/
def branchTarget (g : Gang) (offset : Int) : Nat := (((g.pc : Int) + 4 * offset) % (2 ^ 57 : Nat)).toNat

/-- The offset of family BR (R102). -/
def offsetBR (f : Fields) : Int := f.imm.toInt

/-- The target offset of family BV (R102, R166). -/
def offsetBV (f : Fields) : Int := (BitVec.ofNat 16 (bits f.imm.toNat 15 16)).toInt

/-- BRA, for the running path (R165). -/
def branch (f : Fields) (s : State) : Host.Outcome State Fault Refusal :=
  issueUniform 0x090 f s fun g => .jump s [] (branchTarget g (offsetBR f))

/-- BRA (R165). PC := address + 4 · offset. -/
def execBra (f : Fields) (s : State) : Host.Outcome State Fault Refusal := branch f s

/-- BRA_SHORT (R165). -/
def execBraShort (f : ShortFields) (s : State) : Host.Outcome State Fault Refusal := branch (expandShort 0x090 f) s

/-- The entry a divergent BRV pushes (R44). -/
def divergence (g : Gang) (f : Fields) (taken : Mask) : StackEntry :=
  ⟨(g.pc + 4 * bits f.imm.toNat 0 15) % 2 ^ 57, nextPc g f.len, g.pm &&& ~~~taken, g.em &&& ~~~taken, 0, 0, none, 0, 0, none⟩

/-- BRV (R44, R166). Uniformly not taken where no thread passes, uniformly taken where every thread of EM does, divergent
otherwise. -/
def execBrv (f : Fields) (s : State) : Host.Outcome State Fault Refusal :=
  issueLane 0x091 f s fun g ts =>
    let taken := maskOf ts fun _ => true
    if taken = g.em then .jump s [] (branchTarget g (offsetBV f))
    else
      .jump (setGang s s.cur { g with em := taken, pm := taken, stack := divergence g f taken :: g.stack }) []
        (branchTarget g (offsetBV f))

/-- The target of JMPI and RET (R167). -/
def indirectTarget (s : State) (g : Gang) (a : Word) : Nat := codeBaseOf s g + a.toNat % 2 ^ 32 / 4 * 4

/-- JMPI (R167). PC := code base + A[31:2]·4. -/
def execJmpi (f : Fields) (s : State) : Host.Outcome State Fault Refusal :=
  issueUniform 0x092 f s fun g => .jump s [] (indirectTarget s g (readReg s s.cur g 0 f.a))

/-- CALL (R168). D := the offset from the code base of the next instruction; then it branches. -/
def execCall (f : Fields) (s : State) : Host.Outcome State Fault Refusal :=
  issueUniform 0x093 f s fun g =>
    let off := ((nextPc g f.len : Int) - codeBaseOf s g) % (2 ^ 32 : Nat)
    let r := putUniform s s.cur g f.d (BitVec.ofNat 64 off.toNat)
    .jump (setGang r.1 s.cur r.2) (pendD 0x093 f 1) (branchTarget g (offsetBR f))

/-- RET (R167). As JMPI. -/
def execRet (f : Fields) (s : State) : Host.Outcome State Fault Refusal :=
  issueUniform 0x094 f s fun g => .jump s [] (indirectTarget s g (readReg s s.cur g 0 f.a))

/-- SLOOP (R169). D := D − 1; branches while D is not 0. -/
def execSloop (f : Fields) (s : State) : Host.Outcome State Fault Refusal :=
  issueUniform 0x095 f s fun g =>
    let v := readReg s s.cur g 0 f.d - 1
    let r := putUniform s s.cur g f.d v
    let s' := setGang r.1 s.cur r.2
    if v = 0 then .done s' (pendD 0x095 f 1) else .jump s' (pendD 0x095 f 1) (branchTarget g (offsetBR f))

/-! ## Reconvergence -/

/-- The report condition an RCV names (R170). -/
def reportOf (f : Fields) : Option Nat := if f.d = 0 then none else some (bits f.d.toNat 0 3)

/-- RCV at the top entry (R46 to R48, R170): parks where a path is pending, reconverges where the other path has arrived. -/
def reconverge (opc : Nat) (f : Fields) (s : State) : Host.Outcome State Fault Refusal :=
  issueUniform opc f s fun g =>
    match g.stack with
    | [] => .done s []
    | e :: rest =>
      if e.rcv ≠ g.pc then .done s []
      else if e.pendPm = 0 then
        let g' := writeReport { g with em := e.arrEm ||| g.em, pm := e.arrPm ||| g.pm, stack := rest } (reportOf f) false
        .done (setGang s s.cur g') (pendAt 1 (match reportOf f with
          | none => []
          | some c => [.cond c]))
      else
        let e' : StackEntry := ⟨e.rcv, 0, 0, 0, e.arrPm ||| g.pm, e.arrEm ||| g.em, some s.acycle, bits f.imm.toNat 0 16,
          nextPc g f.len, reportOf f⟩
        .jump (setGang s s.cur { g with em := e.pendEm, pm := e.pendPm, stack := e' :: rest }) [] e.pendPc

/-- RCV (R46, R170). -/
def execRcv (f : Fields) (s : State) : Host.Outcome State Fault Refusal := reconverge 0x096 f s

/-- RCV_SHORT (R46, R107, R170). A short D of 0x008 to 0x00B names a condition, to which the form reports, although R107 says that it
names no register and R170 that the short form carries no report (DESIGN CHOICE between them; log 72). -/
def execRcvShort (f : ShortFields) (s : State) : Host.Outcome State Fault Refusal :=
  reconverge 0x096 (expandShort 0x096 f) s

/-- The switch of paths at an expired timeout (R47): the running path is saved as pending, the parked path resumes after RCV
alone, and the report condition becomes true and readable at once (R170). A condition that another instruction's distance still keeps
pending stays pending, since R170 speaks of the switch's own write (DESIGN CHOICE between R41 and R170; log 61). -/
def switchPaths (g : Gang) : Gang :=
  match g.stack with
  | [] => g
  | e :: rest =>
    writeReport { g with em := e.arrEm, pm := e.arrPm, pc := e.resume,
                         stack := { e with pendPc := g.pc, pendPm := g.pm, pendEm := g.em, arrPm := 0, arrEm := 0,
                                           parkedAt := none } :: rest } e.report true

/-- RCV_TIMEOUT (R47). Switches paths where the top entry's timeout is due; otherwise the event does not occur. -/
def execRcvTimeout (slot : Nat) (s : State) : Host.Outcome State Fault Refusal :=
  match mapGet s.gangs slot with
  | none => .next s
  | some g => if timeoutDue s g then .next (setGang s slot (switchPaths g)) else .next s

/-! ## Ends -/

/-- The deferred faults that escalate when their gang ends first (R270, R293). -/
def endFault (g : Gang) : Option GFault :=
  match g.deferred.find? (fun d => d.site != .next) with
  | none => none
  | some d => some { d.fault with escalates := true }

/-- Ends the gang in a slot; a deferred fault among what it leaves escalates (R173, R270, R293). Where the other gangs of its workgroup
have stopped for a pre-emption, the workgroup is saved (R381). -/
def quitGang (s : State) (slot : Nat) (g : Gang) : Res :=
  match endFault g with
  | some fl => .trap s fl
  | none => .done (settleStops (endGang s slot g) g.wg) []

/-- EXIT of some threads (R26, R46, R171). -/
def exitThreads (opc : Nat) (f : Fields) (s : State) : Host.Outcome State Fault Refusal :=
  issueLane opc f s fun g ts =>
    let m := maskOf ts fun _ => true
    let g' := { g with em := g.em &&& ~~~m, pm := g.pm &&& ~~~m, stack := clearThreads m g.stack }
    if g'.pm ≠ 0 then .done (setGang s s.cur g') []
    else
      match endPath g' g'.stack with
      | (_, true) => quitGang s s.cur g
      | (g'', false) => .jump (setGang s s.cur g'') [] g''.pc

/-- EXIT (R171). -/
def execExit (f : Fields) (s : State) : Host.Outcome State Fault Refusal := exitThreads 0x097 f s

/-- EXIT_SHORT (R171). -/
def execExitShort (f : ShortFields) (s : State) : Host.Outcome State Fault Refusal :=
  exitThreads 0x097 (expandShort 0x097 f) s

/-- QUIT (R172). Ends every thread of the gang at once. -/
def execQuit (f : Fields) (s : State) : Host.Outcome State Fault Refusal :=
  issueUniform 0x098 f s fun g => quitGang s s.cur g

/-- QUIT_SHORT (R172). -/
def execQuitShort (f : ShortFields) (s : State) : Host.Outcome State Fault Refusal :=
  issueUniform 0x098 (expandShort 0x098 f) s fun g => quitGang s s.cur g

/-- NOP (R174). -/
def execNop (f : Fields) (s : State) : Host.Outcome State Fault Refusal := issueUniform 0x099 f s fun _ => .done s []

/-- NOP_SHORT (R174). -/
def execNopShort (f : ShortFields) (s : State) : Host.Outcome State Fault Refusal :=
  issueUniform 0x099 (expandShort 0x099 f) s fun _ => .done s []

/-- EMSET (R45, R175). EM := A[31:0] AND PM. -/
def execEmset (f : Fields) (s : State) : Host.Outcome State Fault Refusal :=
  issueUniform 0x09A f s fun g =>
    gangResult s { g with em := (readReg s s.cur g 0 f.a).truncate 32 &&& g.pm }

/-- EMGET (R175). D[31:0] := EM, D[63:32] := PM. -/
def execEmget (f : Fields) (s : State) : Host.Outcome State Fault Refusal :=
  issueUniform 0x09B f s fun g => uniformResult 0x09B f s 1 g (tmaskOf g)

end Sys2Proof.Machine
end

