-- ==== Sys2Proof/Machine/Convert.lean ====
section
/-! DEFINITION. Class 0x5: CVT, BXPK and BXUPK (R258 to R262). -/

namespace Sys2Proof.Machine

/-! ## Conversions (R259) -/

/-- A floating-point value to an IEEE format. -/
def toIeee (k : Fmt) (mode : Rounding) (v : FVal) : Flagged :=
  match v with
  | .nan sig => (k.nan, if sig then flagNV else 0)
  | v => k.roundVal mode v

/-- A floating-point value to FP8 (R128); `neg` is the sign of the source. -/
def toFp8 (k : Fmt) (sat : Bool) (mode : Rounding) (neg : Bool) (v : FVal) : Flagged :=
  match v with
  | .nan sig => (k.signed neg k.nan, if sig then flagNV else 0)
  | .inf n =>
    if sat then (k.signed n k.maxMag, flagSAT)
    else if k.ocp then (k.signed n k.nan, flagNV) else (k.signed n k.infMag, 0)
  | .fin n m e => k.roundFp8 sat mode n m e

/-- A value to a plain floating-point target. -/
def toFloat (ty : Ty) (sat : Bool) (mode : Rounding) (neg : Bool) (v : FVal) : Flagged :=
  if ty.isFp8 then toFp8 (fmtOf ty) sat mode neg v else toIeee (fmtOf ty) mode v

/-- The ends of an integer type's range (R122). -/
def intRange (ty : Ty) : Int × Int :=
  if ty.isSigned then (-(2 ^ (ty.width - 1) : Nat), (2 ^ (ty.width - 1) : Nat) - 1) else (0, (2 ^ ty.width : Nat) - 1)

/-- Clamps an integer to a type's range. -/
def clampInt (ty : Ty) (i : Int) : Int := max (intRange ty).1 (min (intRange ty).2 i)

/-- A floating-point value to an integer (R259). -/
def toInt (ty : Ty) (mode : Rounding) (v : FVal) : Word × FlagSet :=
  match v with
  | .nan _ => (0, flagNV)
  | .inf n => (narrow ty.width (if n then (intRange ty).1 else (intRange ty).2), flagNV)
  | .fin neg m e =>
    let big := decide (e + natBits m > 80)
    let r := if big then (2 ^ 80, false) else roundAt mode neg m e 0
    let i : Int := if neg then -(r.1 : Int) else r.1
    if clampInt ty i = i then (narrow ty.width i, if r.2 then flagNX else 0)
    else (narrow ty.width (clampInt ty i), flagNV)

/-- An integer as an exact value. -/
def exactInt (i : Int) : FVal := .fin (decide (i < 0)) i.natAbs 0

/-- The source type of CVT (R258). -/
def cvtSource (f : Fields) : Ty := (Ty.ofCode (bits f.imm.toNat 0 5)).getD .s8

/-- Whether CVT saturates (R258). -/
def cvtSat (f : Fields) : Bool := f.imm.getLsbD 5

/-- The scalar source of CVT in a thread, as a value. -/
def cvtValue (f : Fields) (w : Word) : FVal :=
  if (cvtSource f).isInt then exactInt (intValue (cvtSource f) w)
  else (fmtOf (cvtSource f)).value (pattern (fmtOf (cvtSource f)) w)

/-- A scalar result of CVT (R259). -/
def cvtScalar (f : Fields) (w : Word) : Word × FlagSet :=
  let src := cvtSource f
  let ty := tyOf f
  if ty.isInt then
    if src.isInt then
      let i := intValue src w
      (narrow ty.width (if cvtSat f then clampInt ty i else i), 0)
    else toInt ty (roundingOf f) (cvtValue f w)
  else
    let neg := !src.isInt && (fmtOf src).isNeg (pattern (fmtOf src) w)
    let r := toFloat ty (cvtSat f) (roundingOf f) neg (cvtValue f w)
    (BitVec.ofNat 64 r.1, r.2)

/-- An interval result of CVT from a plain source (R259). -/
def cvtToIv (f : Fields) (w : Word) : Iv × FlagSet :=
  let v := cvtValue f w
  ((fmtOf (tyOf f)).hull v v).map id fun fl => fl &&& flagNX

/-- An interval result of CVT from an interval (R259). -/
def cvtIvIv (f : Fields) (x : Iv) : Iv × FlagSet :=
  let ks := fmtOf (cvtSource f)
  let k := fmtOf (tyOf f)
  if ks.classIv x = .empty then (k.emptyIv, 0)
  else (k.hull (ks.value x.1) (ks.value x.2)).map id fun fl => fl &&& (flagNX ||| flagOF)

/-- The checks of CVT's operand (R258, R259, R238). -/
def cvtChecks (s : State) (slot : Nat) (g : Gang) (f : Fields) : List (FaultCode × Nat × (Nat → Bool)) :=
  let src := cvtSource f
  if src.isIv then ivChecks s slot g src [(1, f.a, true)]
  else if src.isInt then []
  else
    abandonedChecks s slot g (fmtOf src) [(1, f.a)] ++
      (if (tyOf f).isIv then
        [(.malformedInterval, 1, fun t =>
          let v := cvtValue f (readReg s slot g t f.a)
          v.isNan || v.isInf)]
      else [])

/-- CVT (R258, R259). -/
def execCvt (f : Fields) (s : State) : Host.Outcome State Fault Refusal :=
  issueLane 0x140 f s fun g ts =>
    match firstFailure ts (cvtChecks s s.cur g f) with
    | some fl => .trap s fl
    | none =>
      if (tyOf f).isIv then
        ivResult 0x140 f s 4 g ts fun t =>
          if (cvtSource f).isIv then cvtIvIv f (readIv s s.cur g (cvtSource f) t f.a)
          else cvtToIv f (readReg s s.cur g t f.a)
      else
        let r := fun t => cvtScalar f (readReg s s.cur g t f.a)
        laneResult 0x140 f s 4 (raiseFlags g (flagsOf (fun t => (r t).2) ts)) ts fun t => (r t).1

/-! ## BX blocks in registers (R260, R261) -/

/-- The `n` registers of a thread from one on. -/
def readSpan (s : State) (slot : Nat) (g : Gang) (t : Nat) (x : BitVec 10) (n : Nat) : List Word :=
  (List.range n).map fun i => readReg s slot g t (x + BitVec.ofNat 10 i)

/-- Writes consecutive registers of each of some threads. -/
def putSpan (g : Gang) (x : BitVec 10) (n : Nat) (val : Nat → Nat → Word) (ts : List Nat) : Gang :=
  (List.range n).foldl (fun g i => putLanes g (x + BitVec.ofNat 10 i) (fun t => val t i) ts) g

/-- Registers that the image of a block takes (R260). -/
def bxRegs : Ty → Nat
  | .bx3 => 1
  | .bx5 => 2
  | _ => 3

/-- The 16 values BXPK packs. -/
def bxSources (s : State) (slot : Nat) (g : Gang) (f : Fields) (t : Nat) : List Nat :=
  (readSpan s slot g t f.a 16).map BitVec.toNat

/-- BXPK (R260). -/
def execBxpk (f : Fields) (s : State) : Host.Outcome State Fault Refusal :=
  issueLane 0x141 f s fun g ts =>
    match firstFailure ts [(.abandonedOperand, 1, fun t => (bxSources s s.cur g f t).any fmtF64.isAbandoned)] with
    | some fl => .trap s fl
    | none =>
      let r := fun t => bxPack (tyOf f) (roundingOf f) ((bxSources s s.cur g f t).map fmtF64.value)
      let g' := raiseFlags g (flagsOf (fun t => (r t).2) ts)
      let g' := putSpan g' f.d (bxRegs (tyOf f)) (fun t i => BitVec.ofNat 64 (bits (r t).1 (64 * i) 64)) ts
      .done (setGang s s.cur g') (pendD 0x141 f 8)

/-- The block BXUPK reads, without the bits above it (R261). -/
def bxBlock (s : State) (slot : Nat) (g : Gang) (f : Fields) (t : Nat) : Nat :=
  (readSpan s slot g t f.a (bxRegs (tyOf f))).foldr (fun w n => w.toNat + 2 ^ 64 * n) 0 % 2 ^ (tyOf f).width

/-- BXUPK (R261). -/
def execBxupk (f : Fields) (s : State) : Host.Outcome State Fault Refusal :=
  issueLane 0x142 f s fun g ts =>
    let g' := putSpan g f.d 16 (fun t i => BitVec.ofNat 64 (bxToF64 (tyOf f) (bxBlock s s.cur g f t) i)) ts
    .done (setGang s s.cur g') (pendD 0x142 f 3)

end Sys2Proof.Machine
end

