-- ==== Sys2Proof/Machine/Loader.lean ====
section
/-! DEFINITION. A gang at reset of its own, and a loaded program: what stands for the load of a program from outside the
machine (log 10). -/

namespace Sys2Proof.Machine

/-- An empty shelf: the implicit mark of workgroup start (R320). -/
def Shelf.start (resume : Nat) (em : Mask) : Shelf where
  resume := resume
  inputs := []
  regs := []
  tiles := []
  sregs := []
  preds := []
  conds := 0
  em := em
  pm := 0xFFFFFFFF
  fpstat := 0
  vstat := 0
  batchClosed := 0
  batchRetired := 0
  gbar := (0, 0)
  spads := []
  bars := []
  rings := []
  copies := []

/-- A gang as the scheduler launches it, before its records are delivered (R27): every register zero, every predicate and
condition false, an empty stack, no accumulator bound. -/
def Gang.launched (vf lslot wg idx pc entry : Nat) (em : Mask) : Gang where
  vf := vf
  lslot := lslot
  wg := wg
  idx := idx
  pc := pc
  em := em
  pm := 0xFFFFFFFF
  stack := []
  regs := []
  sregs := []
  preds := []
  conds := 0
  accs := []
  fpstat := 0
  vstat := 0
  pending := []
  tcause := 0
  tpc := 0
  tval := 0
  tmask := 0
  tpcEntry := 0
  batchClosed := 0
  batchRetired := 0
  openBatch := 0
  batches := []
  done := 0
  failed := []
  poisoned := 0
  trapDone := 0
  trapPoison := 0
  loads := []
  stores := []
  hold := none
  charged := false
  operands := none
  emit := none
  deferred := []
  sealed := false
  noMark := true
  lastMark := 0
  markCount := 0
  marks := 0
  shelf := Shelf.start entry em
  gbar := (0, 0)
  gbarIn := false
  trapGbar := false
  skipWatch := false
  heldCycles := 0
  ended := false
  ready := 0
  issuedAt := 0
  stopped := false
  restoring := []
  launchFault := none

/-- The partition of a loaded program: one cluster with its banks, engines, larder banks and one channel (R354, R356). -/
def loadPartition : Partition where
  clusters := [0]
  banks := [0]
  channels := [0]
  larder := [0]
  copy := [0]
  fabric := [0]
  stations := [0]
  ports := [0]
  vfs := [0]

/-- The node of a loaded program: one gang, per-gang binding (R64). -/
def loadNode : Node where
  rsize := 0
  binding := 1
  gangs := 0
  producer := 0
  rlimit := 0
  priority := 0
  succs := []
  lquota := 1
  cquota := 0
  low := 0
  high := 65535
  flush := 0
  recipe := 0
  pf0 := 0
  pf1 := 0
  trap := 0xFFFFFFFF
  entry := 0
  recipes := []

/-- The address a loaded program stands at. -/
def loadBase : Nat := 0x10000

/-- The launch of a loaded program (R52 to R64). -/
def loadLaunch : Launch where
  queue := 0
  packet := 0
  fence := 0
  sets := 0
  registered := false
  tag := 0
  close := 0
  priority := 0
  stackGroups := [0]
  cellar := 0
  cellarLines := 0
  image := 0
  codeBase := loadBase
  codeSize := 12
  nodes := [loadNode]
  phase := .running
  entryBase := 0
  entryCount := 0
  entries := []
  nextEntry := 0
  shards := []
  inbox := []
  escaped := false
  wrote := false
  leaked := 0
  rejected := 0
  unacked := 0
  started := 0
  faultCode := 0
  faultGrade := 0
  faultNode := 0
  faultSlot := 0
  published := false

/-- The workgroup of a loaded program: one gang in slot 0, one record-window slot. -/
def loadWorkgroup : Workgroup where
  vf := 0
  lslot := 0
  node := 0
  stack := 0
  cell := 0
  phase := .running
  records := [⟨[0, 0], 0, false⟩]
  slots := [0]
  gone := []
  drain := false
  oldest := 0
  launchFault := none
  preempt := false
  acted := false
  borrower := false
  saveSlots := []
  saveClass := 0
  keptSlots := []
  started := 0
  preempted := 0
  saved := []
  window := []
  fetched := []

/-- The package with a one-gang program loaded in slot 0, its page cached, and its bay holding issue tokens; the code itself
is not written yet. -/
def loaded (s : State) : State :=
  { s with
    agenda := []
    cur := 0
    parts := mapSet s.parts 0 loadPartition
    launches := mapSet s.launches 0 loadLaunch
    workgroups := mapSet s.workgroups 0 loadWorkgroup
    window := mapSet s.window 0 0
    gangs := mapSet s.gangs 0 (Gang.launched 0 0 0 0 loadBase loadBase 0xFFFFFFFF)
    tlb := ⟨0, 0, 0, 2 ^ 24, 0, 0, 7, 7⟩ :: s.tlb
    busy := mapErase s.busy 0
    pools := mapSet s.pools (poolKey 0 0) (1024 * 65535) }

/-- Writes the 12 bytes of an instruction at the loaded program's start. -/
def placeCode (s : State) (nbits w : Nat) : State :=
  paWrite s loadPartition loadBase (natToBytes 12 (w % 2 ^ nbits))

end Sys2Proof.Machine
end

