-- ==== Sys2Proof/Machine/Queues.lean ====
section
/-! DEFINITION. Shards of record queues and the placement of records (R71 to R74, R79), who is served first among blocked
emitters (R81), and join entries with their arrivals (R83, R84). -/

namespace Sys2Proof.Machine

/-! ## Shards -/

/-- The number of a node's shard in a stack group. -/
def shardKey (node stack : Nat) : Nat := 8 * node + stack

/-- The shard of a node in a stack group; one that holds nothing is not listed. -/
def shardOf (l : Launch) (node stack : Nat) : Shard := (mapGet l.shards (shardKey node stack)).getD ⟨[], [], false⟩

/-- The records of some lines, in order of enqueueing. -/
def insertRec (r : Rec) : List Rec → List Rec
  | [] => [r]
  | x :: l => if r.seq < x.seq then r :: x :: l else x :: insertRec r l

/-- Records in order of enqueueing. -/
def sortRecs (l : List Rec) : List Rec := l.foldr insertRec []

/-- The records of a shard in the order in which they are taken: larder before cellar, each in arrival order (R74). -/
def shardRecs (h : Shard) : List Rec := sortRecs (h.larder.flatMap fun x => x.recs) ++ sortRecs (h.cellar.flatMap fun x => x.recs)

/-- Records of a line: 8, 4 or 2 (R71). -/
def lineRecs (rsize : Nat) : Nat := 8 / 2 ^ rsize

/-- A launch with a shard changed; the shard turns hot above HIGH and cold below LOW (R79). -/
def putShard (l : Launch) (node stack : Nat) (h : Shard) : Launch :=
  let n := shardCount h
  let hot := match l.nodes[node]? with
    | none => false
    | some x => if n > x.high then true else if n < x.low then false else h.hot
  let h := { h with hot := hot }
  { l with shards := if h.larder.isEmpty && h.cellar.isEmpty && !hot then mapErase l.shards (shardKey node stack)
                     else mapSet l.shards (shardKey node stack) h }

/-- Changes a launch. -/
def onLaunch (s : State) (k : Nat) (f : Launch → Launch) : State := { s with launches := mapUpdate s.launches k f }

/-! ## Larder lines -/

/-- LRES of a VF (R364). -/
def lresOf (s : State) (vf : Nat) : Nat := bits (regGet s (pageReg vf 0xB0)) 0 16

/-- Larder lines of a stack group that a VF holds. -/
def linesHeld (s : State) (vf stack : Nat) : Nat := (s.larder.filter fun e => e.2 == vf && e.1 / 32768 == stack).length

/-- Larder banks of a stack group that a partition owns (R21). -/
def banksIn (p : Partition) (stack : Nat) : List Nat := p.larder.filter fun b => b / 16 == stack

/-- Whether a VF may take one more larder line of a stack group: of its own reservation, or one that nobody has reserved
(R368). -/
def lineAllowed (s : State) (p : Partition) (vf stack : Nat) : Bool :=
  let held := linesHeld s vf stack
  let total := 2048 * (banksIn p stack).length
  let used := p.vfs.foldl (fun n v => n + linesHeld s v stack) 0
  let kept := p.vfs.foldl (fun n v => if v = vf then n else n + (lresOf s v - linesHeld s v stack)) 0
  decide (used < total) && (decide (held < lresOf s vf) || decide (used + kept < total))

/-- The lowest free line, from `lo`, of a bank whose bucket serves the VF (R71, R363). -/
def lineInBanks (s : State) (vf lo : Nat) : List Nat → Option (Nat × State)
  | [] => none
  | b :: r =>
    match mapFree s.larder (((List.range 2048).map fun i => 2048 * b + i).filter fun k => decide (lo ≤ k % 32768)) with
    | none => lineInBanks s vf lo r
    | some k =>
      match grant s 6 b vf 1 with
      | none => lineInBanks s vf lo r
      | some s => some (k, { s with larder := mapSet s.larder k vf })

/-- Takes a larder line of a stack group for a VF (R71, R368). -/
def takeLine (s : State) (vf stack lo : Nat) : Option (Nat × State) :=
  match partOf s vf with
  | none => none
  | some (_, p) => if lineAllowed s p vf stack then lineInBanks s vf lo (banksIn p stack) else none

/-- The live join entries charged to a node's shard in a stack group (R83). -/
def joinLines (s : State) (vf lslot node stack : Nat) : Nat :=
  (s.joins.filter fun e => e.1 / 32768 == stack && e.2.vf == vf && e.2.lslot == lslot
    && bits ((e.2.words[0]?).getD 0).toNat 0 12 == node).length

/-- Lines charged to LQUOTA of a node's shard (R71, R83). -/
def quotaUsed (s : State) (k : Nat) (l : Launch) (node stack : Nat) : Nat :=
  (shardOf l node stack).larder.length + joinLines s (k / 64) (k % 64) node stack

/-- Takes a larder line that LQUOTA of a node's shard still allows (R71). -/
def quotaLine (s : State) (k node stack lo : Nat) : Option (Nat × State) :=
  match mapGet s.launches k with
  | none => none
  | some l =>
    match l.nodes[node]? with
    | none => none
    | some n => if quotaUsed s k l node stack < n.lquota then takeLine s (k / 64) stack lo else none

/-! ## Placement (R71, R72) -/

/-- Puts a record into the first larder line with a free slot. -/
def fillLine (cap : Nat) (r : Rec) : List Line → Option (List Line)
  | [] => none
  | x :: l => if x.recs.length < cap then some ({ x with recs := x.recs ++ [r] } :: l) else (fillLine cap r l).map (x :: ·)

/-- Places a record in the larder of a shard. -/
def larderPlace (s : State) (k node : Nat) (r : Rec) (stack : Nat) : Option State :=
  match mapGet s.launches k with
  | none => none
  | some l =>
    match l.nodes[node]? with
    | none => none
    | some n =>
      let h := shardOf l node stack
      match fillLine (lineRecs n.rsize) r h.larder with
      | some x => some (onLaunch s k fun l => putShard l node stack { h with larder := x })
      | none =>
        match quotaLine s k node stack 0 with
        | none => none
        | some (line, s) =>
          some (onLaunch s k fun l => putShard l node stack { h with larder := h.larder ++ [⟨line % 32768, [r]⟩] })

/-- Cellar lines of a node over all its shards (R71). -/
def cellarUsed (l : Launch) (node : Nat) : Nat :=
  l.shards.foldl (fun n e => if e.1 / 8 = node then n + e.2.cellar.length else n) 0

/-- Where a cellar line stands: the region begins with the inbox of a registered launch (R73, R85). -/
def cellarAt (l : Launch) (line : Nat) : Nat := l.cellar + 128 * (line + if l.registered then 256 else 0)

/-- The scheduler writes `n` bytes of a cellar region for a launch, whose layout is not architectural: free bytes, which are
answered (R73; log 1). -/
def cellarWrite (s : State) (k va n : Nat) : SchedRead :=
  let b := freeBytes s n
  match schedWrite b.2 k (k / 64) false va b.1 with
  | .done s => .bytes b.1 s
  | .fail r s => .fail r s
  | .stall s => .stall s

/-- `n` free words (log 1). -/
def freeWords (s : State) (n : Nat) : List Word × State :=
  ((List.range n).map fun i => Config.freeWord (s.free + i), { s with free := s.free + n })

/-- Records whose bytes somebody else has written: their words are free (R73; log 1). -/
def spoilRecs (s : State) : List Rec → List Rec × State
  | [] => ([], s)
  | r :: l =>
    let w := freeWords s r.words.length
    let x := spoilRecs w.2 l
    ({ r with words := w.1 } :: x.1, x.2)

/-- A cellar line as the scheduler reads it. -/
inductive CellarRead where
  | ok (x : CellarLine) (s : State)
  | fail (r : WalkResult) (s : State)
  | stall (s : State)
  deriving DecidableEq, Repr

/-- The scheduler reads a cellar line: its records are corrupt where its bytes are not what it wrote (R73, R342). -/
def cellarRead (s : State) (k : Nat) (l : Launch) (x : CellarLine) : CellarRead :=
  match schedRead s k (k / 64) false (cellarAt l x.line) 128 with
  | .fail r s => .fail r s
  | .stall s => .stall s
  | .bytes b s =>
    if b = x.image then .ok x s
    else
      let r := spoilRecs s x.recs
      .ok { x with image := b, recs := r.1 } r.2

/-- A record of a launch, or a failed access of its cellar, is dealt with; or its destination is full; or the scheduler's access
is held (R72, R342). -/
inductive Placed where
  | put (s : State)
  | full
  | stall (s : State)
  deriving DecidableEq, Repr

/-- Whether a record was placed, and the state after. -/
def Placed.result (s : State) : Placed → Bool × State
  | .put s => (true, s)
  | .full => (false, s)
  | .stall s => (false, s)

/-- A failed access of the scheduler for a launch, on its image, entry list or cellar, escalates the launch (R342; log 22). -/
def schedFails (s : State) (k : Nat) (r : WalkResult) : State := abortLaunch s (k / 64) (k % 64) 0 0 0 (schedFault r) 0

/-- Writes a cellar line with one record more, and puts it among the lines of its shard. -/
def cellarPut (s : State) (k node stack : Nat) (l : Launch) (x : CellarLine) (r : Rec) : Placed :=
  match cellarWrite s k (cellarAt l x.line) 128 with
  | .stall s => .stall s
  | .fail e s => .put (schedFails s k e)
  | .bytes b s =>
    let x := { x with image := b, recs := x.recs ++ [r] }
    .put (onLaunch s k fun l =>
      let h := shardOf l node stack
      putShard l node stack { h with cellar :=
        if (h.cellar.map (·.line)).contains x.line then h.cellar.map fun y => if y.line = x.line then x else y
        else h.cellar ++ [x] })

/-- The lowest cellar line of a launch that no shard uses. -/
def cellarFree (l : Launch) : Nat :=
  let used := l.shards.flatMap fun e => e.2.cellar.map (·.line)
  ((List.range (used.length + 1)).find? fun k => !used.contains k).getD 0

/-- Places a record in the cellar of a shard: in a line with a free slot, or in a line that the quota allows (R71 to R73). -/
def cellarPlace (s : State) (k node : Nat) (r : Rec) (stack : Nat) : Placed :=
  match mapGet s.launches k with
  | none => .full
  | some l =>
    match l.nodes[node]? with
    | none => .full
    | some n =>
      match (shardOf l node stack).cellar.find? fun x => decide (x.recs.length < lineRecs n.rsize) with
      | some x => match cellarRead s k l x with
        | .stall s => .stall s
        | .fail e s => .put (schedFails s k e)
        | .ok x s => cellarPut s k node stack l x r
      | none =>
        if cellarUsed l node < n.cquota then cellarPut s k node stack l ⟨cellarFree l, [], []⟩ r else .full

/-- The stack groups whose larders an emission from stack group `t` tries, in order (R72). -/
def placeOrder (stackGroups : List Nat) (t : Nat) : List Nat :=
  ([t, Nat.xor t 1] ++ (((List.range 7).map fun k => (t + k + 1) % 8).filter fun x => x != Nat.xor t 1)).filter stackGroups.contains

/-- The first success of a list of choices. -/
def firstSome {α β : Type} (f : α → Option β) : List α → Option β
  | [] => none
  | a :: r =>
    match f a with
    | none => firstSome f r
    | some b => some b

/-- The node of a record (R66). -/
def recNode (words : List Word) : Nat := bits ((words[0]?).getD 0).toNat 0 12

/-- Places a record of a launch from a stack group in the order of R72. A new larder line under an earlier option goes before a
free slot in a cellar line (DESIGN CHOICE between R71, which fills free slots first, and the order of R72; log 66). -/
def placeRecord (s : State) (k stack : Nat) (words : List Word) : Placed :=
  match mapGet s.launches k with
  | none => .full
  | some l =>
    let r : Rec := ⟨words, s.clock, s.nextId⟩
    let s := { s with nextId := s.nextId + 1 }
    match firstSome (larderPlace s k (recNode words) r) (placeOrder l.stackGroups stack) with
    | some s => .put s
    | none => if l.stackGroups.contains stack then cellarPlace s k (recNode words) r stack else .full

/-- Whether a record of a launch would find room now. -/
def hasRoom (s : State) (k stack : Nat) (words : List Word) : Bool := (placeRecord s k stack words).result s |>.1

/-! ## Who is served first (R81) -/

/-- The entries of a list of blocked emitters before a slot's own. -/
def blockedBefore (slot k node : Nat) : List (Nat × Nat × Nat) → List Nat
  | [] => []
  | b :: r =>
    if b.2.1 = k ∧ b.2.2 = node then if b.1 = slot then [] else b.1 :: blockedBefore slot k node r
    else blockedBefore slot k node r

/-- The number under which the entry list of a launch stands among blocked emitters, for a record bound for a stack group
(R58). -/
def entryEmitter (k stack : Nat) : Nat := 8192 + 8 * k + stack

/-- Whether a blocked emitter could be served now. -/
def couldServe (s : State) (k node slot : Nat) : Bool :=
  let stack := stackOf (cellOf slot)
  if slot ≥ 8192 then hasRoom s k (slot % 8) [BitVec.ofNat 64 node] else
  match mapGet s.gangs slot with
  | none => false
  | some g => if g.hold = some .join then (quotaLine s k node stack 1).isSome
              else hasRoom s k stack [BitVec.ofNat 64 node]

/-- Whether the gang in a slot may be served on a node: nobody who blocked before it could be (R81). -/
def mayServe (s : State) (k node slot : Nat) : Bool :=
  (blockedBefore slot k node s.blocked).all fun b => !couldServe s k node b

/-- The gang in a slot is blocked on some nodes of its launch, behind those that blocked before (R81). -/
def blockOn (s : State) (slot k : Nat) (nodes : List Nat) : State :=
  let kept := s.blocked.filter fun b => b.1 != slot || nodes.contains b.2.2
  let news := nodes.foldl (fun (l : List (Nat × Nat × Nat)) n =>
    if kept.contains (slot, k, n) || l.contains (slot, k, n) then l else l ++ [(slot, k, n)]) []
  { s with blocked := kept ++ news }

/-! ## Joins (R83, R84, R312, R313) -/

/-- The number of a join entry: its stack group and line (R83). -/
def joinKey (ref : Nat) : Nat := 32768 * bits ref 21 3 + bits ref 0 15

/-- The live entry of a launch that a reference names (R84). -/
def liveJoin (s : State) (vf lslot ref : Nat) : Option Join :=
  match mapGet s.joins (joinKey ref) with
  | none => none
  | some j => if j.vf = vf ∧ j.lslot = lslot ∧ j.gen = bits ref 15 6 then some j else none

/-- The greatest count of a join entry (R83). -/
def joinMax : Nat := 2 ^ 24 - 1

/-- The count of an entry rises by one (R312). -/
def joinRaise (s : State) (ref : Nat) : State :=
  { s with joins := mapUpdate s.joins (joinKey ref) fun j => { j with count := j.count + 1 } }

/-- Creates a join entry in the stack group of the issuing cell; its line is charged to the shard of its continuation (R83;
log 8). -/
def makeJoin (s : State) (k stack count : Nat) (words : List Word) : Option (Nat × State) :=
  match quotaLine s k (recNode words) stack 1 with
  | none => none
  | some (line, s) =>
    let gen := (mapGet s.larderGen line).getD 0
    some (stack * 2 ^ 21 + gen * 2 ^ 15 + line % 32768,
      { s with larderGen := mapSet s.larderGen line ((gen + 1) % 64)
               joins := mapSet s.joins line ⟨k / 64, k % 64, gen, count, words⟩ })

/-- An arrival at a live entry: the count falls, and at zero the entry's line becomes a queue line in place (R84). -/
def joinArrive (s : State) (k ref : Nat) : State :=
  match liveJoin s (k / 64) (k % 64) ref with
  | none => s
  | some j =>
    if j.count > 1 then { s with joins := mapSet s.joins (joinKey ref) { j with count := j.count - 1 } }
    else
      let node := recNode j.words
      let stack := bits ref 21 3
      let r : Rec := ⟨j.words, s.clock, s.nextId⟩
      onLaunch { s with joins := mapErase s.joins (joinKey ref), nextId := s.nextId + 1 } k fun l =>
        let h := shardOf l node stack
        putShard l node stack { h with larder := h.larder ++ [⟨bits ref 0 15, [r]⟩] }

/-- JOIN of a record (R66). -/
def recJoin (words : List Word) : Nat := bits ((words[0]?).getD 0).toNat 16 24

/-- TVAL of JOIN_UNDERFLOW (R313). -/
def joinTval (m : Mask) (cause ref : Nat) : Word := BitVec.ofNat 64 (m.toNat + cause * 2 ^ 32 + ref * 2 ^ 35)

/-- JOIN_UNDERFLOW (R313). -/
def joinFault (m : Mask) (cause ref : Nat) : GFault := precise .joinUnderflow (joinTval m cause ref)

end Sys2Proof.Machine
end

