-- ==== Sys2Proof/Machine/Records.lean ====
section
/-! DEFINITION. Record and join instructions of class 0xB, BISECT, and the inbox of remote records (R80, R81, R85, R86, R255 to
R257, R306 to R317). -/

namespace Sys2Proof.Machine

/-! ## Records -/

/-- SIZE of an MD immediate (R255, R307). -/
def sizeOf (f : Fields) : Nat := bits f.imm.toNat 3 2
/-- TRY of an MD immediate (R255, R307). -/
def isTry (f : Fields) : Bool := f.imm.getLsbD 5
/-- JOIN of an MD immediate (R307). -/
def isJoin (f : Fields) : Bool := f.imm.getLsbD 2

/-- The record words of a thread (R308). -/
def recordAt (s : State) (slot : Nat) (g : Gang) (x : BitVec 10) (size t : Nat) : List Word :=
  (List.range (recordWords size)).map fun k => readReg s slot g t (x + BitVec.ofNat 10 k)

/-- The header of a record. -/
def recHead (words : List Word) : Nat := ((words[0]?).getD 0).toNat

/-- LEN of a record (R66). -/
def recLen (words : List Word) : Nat := bits (recHead words) 40 2

/-- A header as a placed record carries it: DEPTH written, ENTRY and REMOTE cleared, and the JOIN inherited under .j (R308,
R312). -/
def stampHead (h depth : Nat) (join : Option Nat) : Word :=
  let h := putBits (putBits h 12 4 depth) 43 2 0
  BitVec.ofNat 64 (match join with
    | none => h
    | some j => putBits h 16 24 j)

/-- A record with its header replaced. -/
def withHead (words : List Word) (h : Word) : List Word := h :: words.tail

/-- TVAL of a failed emission check: the threads, and the NODE of the lowest (R309). -/
def emitTval (m : Mask) (node : Nat) : Word := BitVec.ofNat 64 (m.toNat + node * 2 ^ 32)

/-- A check of an emission over the threads that emit: the first thread that fails it names the NODE (R309). -/
def emitCheck (code : FaultCode) (recs : List (Nat × List Word)) (bad : Nat → List Word → Bool) : Option GFault :=
  match recs.find? fun e => bad e.1 e.2 with
  | none => none
  | some e => some (precise code (emitTval (maskOf ((recs.filter fun x => bad x.1 x.2).map (·.1)) fun _ => true)
      (recNode e.2)))

/-- The JOIN of the record bound to a thread (R69, R312). -/
def ownJoin (s : State) (g : Gang) (t : Nat) : Nat :=
  match recordOf s g t with
  | none => 0
  | some r => recJoin r.words

/-- A check of JOIN over some threads: the lowest thread that fails names the reference (R313). -/
def joinCheck (cause : Nat) (refs : List (Nat × Nat)) (bad : Nat → Bool) : Option GFault :=
  match refs.find? fun e => bad e.2 with
  | none => none
  | some e => some (joinFault (maskOf ((refs.filter fun x => bad x.2).map (·.1)) fun _ => true) cause e.2)

/-- The first failure of a list of checks. -/
def firstFault : List (Option GFault) → Option GFault
  | [] => none
  | none :: r => firstFault r
  | some f :: _ => some f

/-- CheckJoinInherit over the threads of an instruction: none has JOIN 0, every reference is live, and no count passes its
maximum (R312). -/
def inheritCheck (s : State) (g : Gang) (ts : List Nat) : Option GFault :=
  let refs := ts.map fun t => (t, ownJoin s g t)
  let uses := fun r => (refs.filter fun e => e.2 == r).length
  firstFault
    [joinCheck 2 refs fun r => r == 0,
     joinCheck 0 refs fun r => (liveJoin s g.vf g.lslot r).isNone,
     joinCheck 1 refs fun r => match liveJoin s g.vf g.lslot r with
       | none => false
       | some j => decide (j.count + uses r > joinMax)]

/-- The successors, the recursion limit and the number of the node a gang runs. -/
def runningNode (s : State) (g : Gang) : Nat := nodeOfWg s g.wg

/-- CheckEmission for every thread (R309). -/
def emissionCheck (s : State) (g : Gang) (size : Nat) (join : Bool) (recs : List (Nat × List Word)) : Option GFault :=
  match nodeOf s g, launchOf s g with
  | some n, some l =>
    let here := runningNode s g
    firstFault
      [emitCheck .nodeInvalid recs fun _ w => !n.succs.contains (recNode w),
       emitCheck .recordSize recs fun _ w => recLen w != size || ((l.nodes[recNode w]?).map (·.rsize)) != some (recLen w)
         || bits (recHead w) 45 3 != 0,
       emitCheck .recursionLimit recs fun t w => recNode w == here && decide (depthOf s g t + 1 > n.rlimit),
       if join then inheritCheck s g (recs.map (·.1)) else none]
  | _, _ => none

/-- The record of a thread as it is placed (R80, R308, R312). -/
def stamped (s : State) (g : Gang) (join : Bool) (t : Nat) (words : List Word) : List Word :=
  let depth := if recNode words = runningNode s g then depthOf s g t + 1 else 0
  withHead words (stampHead (recHead words) depth (if join then some (ownJoin s g t) else none))

/-! ## Placing what an instruction emits (R257, R310, R314, R315) -/

/-- One attempt to place one emission of the thread: whether it found room, and the state after. -/
abbrev PlaceOne := State → Nat → Emission → Bool × State

/-- A record, with the count of the join it inherits (R72, R312); the placement seals the gang (R322). -/
def placeEmit (slot k : Nat) : PlaceOne := fun s _ e =>
  if !mayServe s k (recNode e.words) slot then (false, s)
  else match (placeRecord s k (stackOf (cellOf slot)) e.words).result s with
    | (false, s) => (false, s)
    | (true, s) => (true, sealGang (if e.join = 0 then s else joinRaise s e.join) slot)

/-- A join entry, whose reference goes to D of its thread (R83, R315). -/
def placeJoin (slot k : Nat) : PlaceOne := fun s t e =>
  if !mayServe s k (recNode e.words) slot then (false, s)
  else match makeJoin s k (stackOf (cellOf slot)) (bits e.arg.toNat 0 32) e.words with
    | none => (false, s)
    | some (ref, s) =>
      let s := onGang s slot fun g => putReg g t (BitVec.ofNat 10 (bits e.arg.toNat 32 10)) (BitVec.ofNat 64 ref)
      (true, sealGang (if e.join = 0 then s else joinRaise s e.join) slot)

/-- Places the emissions of a thread in order, as far as they go; answers what is left. -/
def placeSome (one : PlaceOne) (s : State) (t : Nat) : List Emission → State × List Emission
  | [] => (s, [])
  | e :: r =>
    match one s t e with
    | (false, s) => (s, e :: r)
    | (true, s) => placeSome one s t r

/-- Places every emission of a thread, or none (R257). -/
def placeAll (one : PlaceOne) (s : State) (t : Nat) : List Emission → Bool × State
  | [] => (true, s)
  | e :: r =>
    match one s t e with
    | (false, s) => (false, s)
    | (true, u) =>
      match placeAll one u t r with
      | (true, u) => (true, u)
      | (false, _) => (false, s)

/-- Threads in the order that free values choose: no order among threads is promised (R310). -/
def emitOrder (s : State) (l : AMap (List Emission)) : List Nat × State :=
  ((freeOrder s.free (l.map (·.1))).map (·.2), { s with free := s.free + l.length })

/-- Blocking: places what finds room, thread by thread, and keeps the rest. -/
def pushAll (one : PlaceOne) (left : AMap (List Emission)) (s : State) : List Nat → State × AMap (List Emission)
  | [] => (s, left)
  | t :: r =>
    let p := placeSome one s t ((mapGet left t).getD [])
    pushAll one (if p.2.isEmpty then mapErase left t else mapSet left t p.2) p.1 r

/-- Trying: each thread places all or nothing, and its predicate says which (R257, R310). -/
def tryAll (one : PlaceOne) (items : AMap (List Emission)) (slot : Nat) (c : BitVec 10) (s : State) : List Nat → State
  | [] => s
  | t :: r =>
    let p := placeAll one s t ((mapGet items t).getD [])
    let s := onGang p.2 slot fun g => putPred g t (bits c.toNat 0 3) (triOf p.1)
    tryAll one items slot c s r

/-- The nodes on which what is left is blocked. -/
def blockedNodes (left : AMap (List Emission)) : List Nat :=
  left.filterMap fun e => e.2.head?.map fun x => recNode x.words

/-- Serves a blocking instruction: complete, or held with what is left (R310). `queue` is the launch whose queues block it. -/
def pushEmit (s : State) (slot : Nat) (one : PlaceOne) (why : Hold) (queue : Option Nat) (items : AMap (List Emission))
    (ps : List Pending) : Res :=
  let o := emitOrder s items
  let p := pushAll one items o.2 o.1
  let s := match queue with
    | none => p.1
    | some k => blockOn p.1 slot k (blockedNodes p.2)
  if p.2.isEmpty then .done s ps
  else .hold (onGang s slot fun g => { g with emit := some p.2 }) why

/-- Serves a trying instruction (R310). -/
def tryEmit (s : State) (slot : Nat) (one : PlaceOne) (items : AMap (List Emission)) (c : BitVec 10) (ps : List Pending) : Res :=
  let o := emitOrder s items
  .done (tryAll one items slot c o.2 o.1) (ps ++ pendAt 1 [.pred (bits c.toNat 0 3)])

/-- The common course of the record instructions: a held one goes on with what is left; a fresh one is checked and served. -/
def emission (opc : Nat) (f : Fields) (s : State) (why : Hold) (queue : Gang → Option Nat) (one : Gang → PlaceOne)
    (ps : List Pending) (fresh : Gang → List Nat → (State → AMap (List Emission) → Res) → Res) :
    Host.Outcome State Fault Refusal :=
  issueLane opc f s fun g ts =>
    match g.emit with
    | some left => pushEmit s s.cur (one g) why (queue g) left ps
    | none => fresh g ts fun s items =>
      if isTry f then tryEmit s s.cur (one g) items f.c ps
      else pushEmit s s.cur (one g) why (queue g) items ps

/-- The launch of a gang, whose queues block its emissions. -/
def gangLaunch (g : Gang) : Nat := launchKey g.vf g.lslot

/-- Emits one record for each thread (R309, R310). -/
def emitRecords (opc : Nat) (f : Fields) (s : State) (build : Gang → List Nat → (State → List (Nat × List Word) → Res) → Res) :
    Host.Outcome State Fault Refusal :=
  emission opc f s .emission (fun g => some (gangLaunch g)) (fun g => placeEmit s.cur (gangLaunch g)) [] fun g ts k =>
    build g ts fun s recs =>
      match emissionCheck s g (sizeOf f) (isJoin f) recs with
      | some fl => .trap s fl
      | none =>
        k s (recs.map fun e => (e.1, [⟨stamped s g (isJoin f) e.1 e.2, if isJoin f then ownJoin s g e.1 else 0, 0⟩]))

/-- EMIT (R308 to R310, R312). Each thread places its record in a queue of its node's successors. -/
def execEmit (f : Fields) (s : State) : Host.Outcome State Fault Refusal :=
  emitRecords 0x2C0 f s fun g ts k => k s (ts.map fun t => (t, recordAt s s.cur g f.a (sizeOf f) t))

/-! ## EMITH (R311) -/

/-- The descriptor index of EMITH (R307). -/
def emithTd (f : Fields) : Nat := bits f.imm.toNat 6 10

/-- The origin of a thread's handle: r registers from B, as unsigned values (R311). -/
def handleOrigin (s : State) (slot : Nat) (g : Gang) (f : Fields) (r t : Nat) : List Nat :=
  (List.range r).map fun i => (readReg s slot g t (f.b + BitVec.ofNat 10 i)).toNat

/-- Words 1 and 2 of a record as a tile handle (R67, R311). -/
def handleWords (td flags : Nat) (o : List Nat) : List Word :=
  let at_ := fun i => (o[i]?).getD 0 % 2 ^ 28
  let x := td + at_ 0 * 2 ^ 10 + at_ 1 * 2 ^ 38 + at_ 2 * 2 ^ 66 + at_ 3 * 2 ^ 94 + flags * 2 ^ 122
  [BitVec.ofNat 64 (bits x 0 64), BitVec.ofNat 64 (bits x 64 64)]

/-- A template with its handle and HANDLE set (R311). -/
def withHandle (words : List Word) (td : Nat) (o : List Nat) : List Word :=
  let flags := bits ((words[2]?).getD 0).toNat 58 6
  BitVec.ofNat 64 (putBits (recHead words) 42 1 1) :: (handleWords td flags o ++ words.drop 3)

/-- A fault of EMITH, whose TVAL is the mask of the threads that fail (R311). -/
def maskFault (code : FaultCode) (ts : List Nat) (bad : Nat → Bool) : Option GFault :=
  if ts.any bad then some (precise code ((maskOf ts bad).zeroExtend 64)) else none

/-- EMITH (R311). As EMIT, with words 1 and 2 of each record built as a tile handle. -/
def execEmith (f : Fields) (s : State) : Host.Outcome State Fault Refusal :=
  emitRecords 0x2C1 f s fun g ts k =>
    match fetchDesc s s.cur g (emithTd f) with
    | .miss s => .hold s .miss
    | .fail fl s => .trap s fl
    | .ok w s =>
      let d := descOf w
      let r := min d.rank 4
      let org := handleOrigin s s.cur g f r
      let coords := fun t => (org t).map Int.ofNat
      match firstFault
          [maskFault .tdInvalid ts fun _ => !d.ok,
           maskFault .coordRange ts fun t => !inRange (coords t) d.extents,
           maskFault .align ts fun t => !tileAligned d (coords t)] with
      | some fl => .trap s fl
      | none => k s (ts.map fun t => (t, withHandle (recordAt s s.cur g f.a (sizeOf f) t) (emithTd f) (org t)))

/-! ## BISECT (R255 to R257) -/

/-- A record with the image of an interval from a word on (R236, R256). -/
def withHalf (words : List Word) (at_ : Nat) (ty : Ty) (x : Iv) : List Word :=
  let img := if ty = .iv64 then [BitVec.ofNat 64 x.1, BitVec.ofNat 64 x.2] else [BitVec.ofNat 64 (x.1 + x.2 * 2 ^ 32)]
  words.take at_ ++ img ++ words.drop (at_ + img.length)

/-- Both halves of an interval with the flag of their midpoint; zero bounds are normalised (R141, R253, R256). -/
def halves (k : Fmt) (x : Iv) : Iv × Iv × FlagSet :=
  let lo := k.value x.1
  let hi := k.value x.2
  let m := k.midpoint lo hi
  ((k.hull lo (k.value m.1)).1, (k.hull (k.value m.1) hi).1, m.2)

/-- BISECT (R255 to R257). Splits each thread's interval at its midpoint and emits both halves as records. -/
def execBisect (f : Fields) (s : State) : Host.Outcome State Fault Refusal :=
  emission 0x12A f s .emission (fun g => some (gangLaunch g)) (fun g => placeEmit s.cur (gangLaunch g)) [] fun g ts k =>
    let ty := tyOf f
    let word := bits f.imm.toNat 0 3
    match firstFailure ts (ivChecks s s.cur g ty [(1, f.a, false)]) with
    | some fl => .trap s fl
    | none =>
      let recs := ts.map fun t => (t, recordAt s s.cur g f.b (sizeOf f) t)
      match emissionCheck s g (sizeOf f) false recs with
      | some fl => .trap s fl
      | none =>
        let h := fun t => halves (fmtOf ty) (readIv s s.cur g ty t f.a)
        let items := recs.map fun e =>
          let w := stamped s g false e.1 e.2
          (e.1, [(⟨withHalf w word ty (h e.1).1, 0, 0⟩ : Emission), ⟨withHalf w word ty (h e.1).2.1, 0, 0⟩])
        k (onGang s s.cur fun g => raiseFlags g (flagsOf (fun t => (h t).2.2) ts)) items

/-! ## JINIT and JARR (R315, R316) -/

/-- JINIT (R83, R315). Creates a join entry for each thread and returns its reference. -/
def execJinit (f : Fields) (s : State) : Host.Outcome State Fault Refusal :=
  emission 0x2C3 f s .join (fun g => some (gangLaunch g)) (fun g => placeJoin s.cur (gangLaunch g)) (pendD 0x2C3 f 1)
    fun g ts k =>
      let recs := ts.map fun t => (t, recordAt s s.cur g f.a (sizeOf f) t)
      let count := fun t => bits (readReg s s.cur g t f.b).toNat 0 24
      match firstFault [emissionCheck s g (sizeOf f) (isJoin f) recs,
          if ts.any (fun t => count t == 0) then some (joinFault (maskOf ts fun t => count t == 0) 3 0) else none] with
      | some fl => .trap s fl
      | none =>
        k s (recs.map fun e => (e.1, [⟨stamped s g (isJoin f) e.1 e.2, if isJoin f then ownJoin s g e.1 else 0,
          BitVec.ofNat 64 (count e.1 + f.d.toNat * 2 ^ 32)⟩]))

/-- The positions of records that some threads would make arrive now, each once, with their references (R316). -/
def arrivalsOf (s : State) (g : Gang) (ts : List Nat) : AMap Nat :=
  ts.foldl (fun (m : AMap Nat) t =>
    match recordOf s g t with
    | none => m
    | some r => if r.arrived || recJoin r.words == 0 then m else mapSet m (recordNo s g t) (recJoin r.words)) []

/-- Marks a record of a workgroup as arrived (R84, R316). -/
def markArrived (s : State) (wg no : Nat) : State :=
  { s with workgroups := mapUpdate s.workgroups wg fun w =>
      { w with records := listUpdate w.records no fun r => { r with arrived := true } } }

/-- Whether a reference has fewer arrivals left than are to be made at once (R316). -/
def arrivalsFail (s : State) (vf lslot : Nat) (m : AMap Nat) (ref : Nat) : Bool :=
  match liveJoin s vf lslot ref with
  | none => true
  | some j => decide ((m.filter fun e => e.2 == ref).length > j.count)

/-- Applies arrivals one at a time (R84, R316). -/
def applyArrivals (s : State) (k wg : Nat) : AMap Nat → State
  | [] => s
  | (no, ref) :: r => applyArrivals (joinArrive (markArrived s wg no) k ref) k wg r

/-- JARR (R316). Makes the arrival of each participating thread's record now. -/
def execJarr (f : Fields) (s : State) : Host.Outcome State Fault Refusal :=
  issueLane 0x2C4 f s fun g ts =>
    let m := arrivalsOf s g ts
    let refs := (ts.filter fun t => (mapGet m (recordNo s g t)).isSome).map fun t => (t, ownJoin s g t)
    match joinCheck 0 refs (arrivalsFail s g.vf g.lslot m) with
    | some fl => .trap s fl
    | none => .done (applyArrivals (if m.isEmpty then s else sealGang s s.cur) (gangLaunch g) g.wg m) []

/-! ## Inboxes (R85) -/

/-- Bytes of the records in an inbox (log 20). -/
def inboxBytes (l : List InRec) : Nat := l.foldl (fun n r => n + 8 * r.words.length) 0

/-- How an arriving record fares: it is held back while the inbox is full, or while the scheduler's write is held. -/
inductive Inbox where
  | accepted (s : State)
  | rejected (s : State)
  | full (s : State)
  deriving DecidableEq, Repr

/-- The 16-byte parts of an inbox that `n` words of a record take: the lowest free ones (log 20). -/
def inboxSpots (l : List InRec) (n : Nat) : List Nat :=
  let used := l.flatMap (·.spots)
  ((List.range 2048).filter fun k => !used.contains k).take (ceilDiv (8 * n) 16)

/-- The scheduler writes parts of an inbox (R73, R85, R342). -/
def inboxWrite (s : State) (k base : Nat) : List Nat → List Byte → SchedRead
  | [], out => .bytes out s
  | n :: r, out =>
    match cellarWrite s k (base + 16 * n) 16 with
    | .bytes b s => inboxWrite s k base r (out ++ b)
    | x => x

/-- The scheduler reads parts of an inbox (R85, R342). -/
def inboxRead (s : State) (k base : Nat) : List Nat → List Byte → SchedRead
  | [], out => .bytes out s
  | n :: r, out =>
    match schedRead s k (k / 64) false (base + 16 * n) 16 with
    | .bytes b s => inboxRead s k base r (out ++ b)
    | x => x

/-- A header as an accepted remote record carries it (R85). -/
def inboxHead (h : Nat) : Word := BitVec.ofNat 64 (putBits (putBits (putBits h 12 4 0) 16 24 0) 43 1 1)

/-- A record arrives for a registered launch of a partition (R85): its TAG, NODE and LEN are checked, and it is held back
while the 256 lines of the inbox are taken. A write of the inbox that fails escalates the launch (R342). -/
def inboxAccept (s : State) (p : Partition) (tag : Nat) (words : List Word) (source link : Nat) (sender : Option Nat) : Inbox :=
  match s.launches.find? fun e => p.vfs.contains (e.1 / 64) && e.2.registered && e.2.tag == tag && e.2.phase == .running with
  | none => .rejected s
  | some (k, l) =>
    match l.nodes[recNode words]? with
    | none => .rejected s
    | some n =>
      if n.rsize ≠ recLen words ∨ words.length ≠ recordWords n.rsize then .rejected s
      else if inboxBytes l.inbox + 8 * words.length > 256 * 128 then .full s
      else
        let spots := inboxSpots l.inbox words.length
        match inboxWrite s k l.cellar spots [] with
        | .stall s => .full s
        | .fail r s => .rejected (schedFails s k r)
        | .bytes b s =>
          .accepted (onLaunch s k fun l => { l with
            inbox := l.inbox ++ [⟨withHead words (inboxHead (recHead words)), source, link, sender, spots, b⟩] })

/-! ## EMITR (R314) -/

/-- The number of a send window (R86). -/
def windowKey (vf chip : Nat) : Nat := 2 ^ 21 * vf + chip

/-- Takes a slot of a send window for a launch (R59, R86). -/
def takeWindow (s : State) (vf k chip : Nat) : State :=
  let n := (mapGet s.windows (windowKey vf chip)).getD 0
  onLaunch { s with windows := mapSet s.windows (windowKey vf chip) (n + 1) } k fun l => { l with unacked := l.unacked + 1 }

/-- An acknowledgement frees the slot; a rejection is counted (R86). -/
def freeWindow (s : State) (vf k chip : Nat) (accepted : Bool) : State :=
  let n := (mapGet s.windows (windowKey vf chip)).getD 0
  let s := { s with windows := if n ≤ 1 then mapErase s.windows (windowKey vf chip) else mapSet s.windows (windowKey vf chip) (n - 1) }
  onLaunch s k fun l => { l with unacked := l.unacked - 1, rejected := if accepted then l.rejected else l.rejected + 1 }

/-- Sends one remote record: a slot of its chip's window, then the link, or the local inbox for the sender's own chip, which
holds the record back while it is full (R25, R86, R314; log 21). One held for a window slot stays held while its chip cannot be reached,
until it can again: R25 and R314 reject only at the check before sending (DESIGN CHOICE; log 79). -/
def placeRemote (slot vf k : Nat) : PlaceOne := fun s _ e =>
  let chip := bits e.arg.toNat 0 21
  let tag := bits e.arg.toNat 32 16
  if (mapGet s.windows (windowKey vf chip)).getD 0 ≥ 32 then (false, s)
  else if chip = chipId s then
    match partOf s vf with
    | none => (false, s)
    | some (_, p) =>
      match inboxAccept s p tag e.words chip 0 (some k) with
      | .full s => (false, s)
      | .rejected s => (true, sealGang (onLaunch s k fun l => { l with rejected := l.rejected + 1 }) slot)
      | .accepted s => (true, sealGang (takeWindow s vf k chip) slot)
  else match engineFor s vf chip with
    | none => (false, s)
    | some link =>
      let s := sendOver s link vf (8 * e.words.length) (.record chip tag e.words)
      (true, sealGang (takeWindow { s with sends := s.sends ++ [(k, chip, link)] } vf k chip) slot)

/-- Whether the chip of a remote emission can be reached (R25, R314, R357). -/
def chipKnown (s : State) (vf chip : Nat) : Bool := chip == chipId s || (engineFor s vf chip).isSome

/-- EMITR (R314). Sends each thread's record to another chip's registered launch. -/
def execEmitr (f : Fields) (s : State) : Host.Outcome State Fault Refusal :=
  emission 0x2C2 f s .window (fun _ => none) (fun g => placeRemote s.cur g.vf (gangLaunch g)) [] fun g ts k =>
    let recs := ts.map fun t => (t, recordAt s s.cur g f.a (sizeOf f) t)
    let dest := fun t => readReg s s.cur g t f.b
    match firstFault
        [emitCheck .recordSize recs fun _ w => recLen w != sizeOf f || bits (recHead w) 45 3 != 0,
         maskFault .remoteReject ts fun t => !chipKnown s g.vf (bits (dest t).toNat 0 21)] with
    | some fl => .trap s fl
    | none =>
      k (onLaunch s (gangLaunch g) fun l => { l with escaped := true })
        (recs.map fun e => (e.1, [⟨withHead e.2 (stampHead (recHead e.2) 0 none), 0, dest e.1⟩]))

/-! ## Events -/

/-- EMISSION_REPLACE (R81, R310). A blocked emission or JINIT is placed as room appears; its gang goes on once nothing is
left. -/
def execEmissionReplace (slot : Nat) (s : State) : Host.Outcome State Fault Refusal :=
  match mapGet s.gangs slot with
  | none => .next s
  | some g =>
    let k := gangLaunch g
    let go := fun (one : PlaceOne) (why : Hold) (queue : Option Nat) =>
      match pushEmit s slot one why queue (g.emit.getD []) [] with
      | .hold s _ => .next s
      | .done s _ => .next (onGang { s with agenda := .issue slot :: s.agenda } slot fun g => { g with emit := some [] })
      | _ => .next s
    if g.emit.isNone then .next s
    else match g.hold with
      | some .emission => go (placeEmit slot k) .emission (some k)
      | some .join => go (placeJoin slot k) .join (some k)
      | some .window => go (placeRemote slot g.vf k) .window none
      | _ => .next s

end Sys2Proof.Machine
end

