-- ==== Sys2Proof/Machine/Cells.lean ====
section
/-! DEFINITION. Cells as the scheduler sees them: reservations and entitlement (R361, R362), lending (R369), the launch
reserve (R77), and the state of a queue's registers (R398). -/

namespace Sys2Proof.Machine

/-! ## Entitlement (R361, R362) -/

/-- CELLRES of a cell (R361). -/
def cellRes (s : State) (cell : Nat) : Nat := regGet s (pfReg (0x2000 + 8 * cell))

/-- The VF that reserves a cell, or none for a pool cell (R361). -/
def reserver (s : State) (cell : Nat) : Option Nat :=
  if bits (cellRes s cell) 15 1 = 1 then some (bits (cellRes s cell) 0 10) else none

/-- Whether a partition owns a cell's cluster. -/
def ownsCell (p : Partition) (cell : Nat) : Bool := p.clusters.contains (clusterOf cell)

/-- Whether a VF is entitled to a cell: a reserved cell of its own or a pool cell of its partition (R362). -/
def entitled (s : State) (vf cell : Nat) : Bool :=
  match partOf s vf with
  | none => false
  | some (_, p) => ownsCell p cell && (match reserver s cell with
    | none => true
    | some v => v == vf)

/-- The cells of a stack group (R14). -/
def stackCells (stack : Nat) : List Nat := (List.range 64).map fun i => 64 * stack + i

/-- A VF's entitled cells in a stack group (R362). -/
def entitledCells (s : State) (vf stack : Nat) : List Nat := (stackCells stack).filter (entitled s vf)

/-- LEND of BKT[0] of a VF (R364, R369). -/
def lendsIssue (s : State) (vf : Nat) : Bool := bits (regGet s (pageReg vf 0x80)) 31 1 == 1

/-- Whether a workgroup stands on a cell, running or in a shadow slot. -/
def stands (w : Workgroup) (cell : Nat) : Bool := w.cell == cell && w.phase != .saved

/-- Whether a cell that another VF of the partition reserves, lends and leaves idle may take workgroups of a VF (R369). -/
def lendable (s : State) (vf cell : Nat) : Bool :=
  match partOf s vf, reserver s cell with
  | some (_, p), some v => v != vf && p.vfs.contains v && ownsCell p cell && lendsIssue s v
      && !(s.workgroups.any fun e => e.2.vf == v && stands e.2 cell)
  | _, _ => false

/-! ## Gang slots and the reserve (R77, R362) -/

/-- The gang slots of a cell (R14). -/
def cellSlots (cell : Nat) : List Nat := (List.range 16).map fun i => 16 * cell + i

/-- The free gang slots of a cell. -/
def freeSlots (s : State) (cell : Nat) : List Nat := (cellSlots cell).filter fun k => (mapGet s.gangs k).isNone

/-- Slots of a cell held by borrowers (R369). -/
def borrowedSlots (s : State) (cell : Nat) : List Nat :=
  (cellSlots cell).filter fun k => match mapGet s.gangs k with
    | none => false
    | some g => ((mapGet s.workgroups g.wg).map (·.borrower)).getD false

/-- The free gang slots that R77 counts for a VF in a stack group: free slots of its entitled cells, and those of its reserved
cells that borrowers hold (R362). -/
def countedFree (s : State) (vf stack : Nat) : Nat :=
  (entitledCells s vf stack).foldl (fun n c =>
    n + (freeSlots s c).length + (if reserver s c = some vf then (borrowedSlots s c).length else 0)) 0

/-- Gangs of a workgroup of a node: G (R77). -/
def gangsOf (n : Node) : Nat := n.gangs + 1

/-- Repeats a function until it changes nothing. -/
def settle {α : Type} [DecidableEq α] (f : α → α) : Nat → α → α
  | 0, x => x
  | n + 1, x => if f x = x then x else settle f n (f x)

/-- One round of the reserves of R77, from those of the round before. -/
def reserveRound (nodes : List Node) (d : List Nat) : List Nat :=
  nodes.zipIdx.map fun e => e.1.rlimit * gangsOf e.1 + e.1.succs.foldl (fun m k =>
    if k = e.2 then m else max m (((nodes[k]?).map gangsOf).getD 0 + (d[k]?).getD 0)) 0

/-- D of every node (R77). -/
def reserves (nodes : List Node) : List Nat := settle (reserveRound nodes) nodes.length (nodes.map fun _ => 0)

/-- D of a node of a launch. -/
def reserveOf (l : Launch) (node : Nat) : Nat := ((reserves l.nodes)[node]?).getD 0

/-- The launch reserve (R77). -/
def launchReserve (nodes : List Node) : Nat :=
  (nodes.zip (reserves nodes)).foldl (fun m e => max m (gangsOf e.1 + e.2)) 0

/-- One round of taking nodes without successors out of a graph. -/
def peelRound (nodes : List Node) (left : List Nat) : List Nat :=
  left.filter fun k => match nodes[k]? with
    | none => false
    | some n => n.succs.any fun x => x != k && left.contains x

/-- Whether the successor edges, self-edges removed, form no cycle (R65). -/
def acyclic (nodes : List Node) : Bool := (settle (peelRound nodes) nodes.length (List.range nodes.length)).isEmpty

/-- Whether the check of R77 lets a workgroup of a node be placed on a cell of a stack group. -/
def reserveMet (s : State) (vf : Nat) (l : Launch) (node : Nat) (n : Node) (cell : Nat) : Bool :=
  decide (reserveOf l node + (if entitled s vf cell then gangsOf n else 0) ≤ countedFree s vf (stackOf cell))

/-! ## Queues (R398) -/

/-- A queue of a context. -/
def queueOf (s : State) (vf q : Nat) : Queue := (mapGet s.queues (queueKey vf q)).getD Queue.fresh

/-- Replaces a queue. -/
def setQueue (s : State) (vf q : Nat) (x : Queue) : State := { s with queues := mapSet s.queues (queueKey vf q) x }

/-- EN of QRING (R398). -/
def Queue.enabled (q : Queue) : Bool := q.qring.getLsbD 61

/-- BUSY of QCTL: a launch started from the queue is in flight (R398, R399). -/
def queueBusy (s : State) (vf q : Nat) : Bool := s.launches.any fun e => e.1 / 64 == vf && e.2.queue == q

/-! ## Readiness (R411) -/

/-- The stack groups that hold a partition's units. -/
def partStacks (p : Partition) : List Nat :=
  (List.range 8).filter fun st => p.clusters.any (· / 8 == st) || p.banks.any (· / 128 == st) || p.channels.any (· / 32 == st)
    || p.larder.any (· / 16 == st)

/-- Whether a partition is ready (R411, R412). -/
def partReady (s : State) (p : Partition) : Bool := !s.trip && (partStacks p).all fun st => s.ready.getLsbD st

/-- The stack groups in which a partition owns a cluster (R54). -/
def clusterStacks (p : Partition) : List Nat := (List.range 8).filter fun st => p.clusters.any (· / 8 == st)

end Sys2Proof.Machine
end

