-- ==== Sys2Proof/Machine/System.lean ====
section
/-! DEFINITION. Flashback marks (R318 to R323) and class 0xC: TRAP, TRET, RDSR, WRSR, PLATE and BRK (R326 to R335). -/

namespace Sys2Proof.Machine

/-! ## Recipes (R319, R320) -/

/-- Eight 10-bit register specifiers of a recipe entry (R319). -/
def recipeRegs (e : Nat) : List (BitVec 10) := (List.range 8).map fun k => BitVec.ofNat 10 (bits e (48 + 10 * k) 10)

/-- NREG (R319). -/
def recipeCount (e : Nat) : Nat := bits e 40 4

/-- The kept registers of a recipe (R319). -/
def keptRegs (e : Nat) : List (BitVec 10) := (recipeRegs e).take (recipeCount e)

/-- The kept scratchpad ranges of a recipe: offset and length in bytes (R319). -/
def keptRanges (e : Nat) : List (Nat × Nat) :=
  [(256 * bits e 128 12, 256 * bits e 140 7), (256 * bits e 152 12, 256 * bits e 164 7)]

/-- The kept accumulator names of a recipe (R319). -/
def keptAccs (e : Nat) : List Nat :=
  (if bits e 178 1 = 1 then [bits e 176 2] else []) ++ (if bits e 181 1 = 1 then [bits e 179 2] else [])

/-- The kept rings of a recipe (R319). -/
def keptRings (e : Nat) : List Nat := (List.range 16).filter fun k => bits e (192 + k) 1 == 1

/-- The kept barriers of a recipe, as scratchpad offsets (R319). -/
def keptBars (e : Nat) : List Nat := (List.range (bits e 208 3)).map fun k => 16 * bits e (224 + 16 * k) 16

/-- The declared inputs of a recipe (R319, R322). -/
def keptInputs (e : Nat) : List Nat :=
  (if bits e 298 1 = 1 then [bits e 288 10] else []) ++ (if bits e 310 1 = 1 then [bits e 300 10] else [])

/-- The reserved bits of a recipe entry, and bit 11 of IN0 and IN1, which R319 does not name. -/
def recipeReserved (e : Nat) : Nat :=
  bits e 312 200 + bits e 211 13 + bits e 182 10 + bits e 171 5 + bits e 147 5 + bits e 44 4 + bits e 299 1 + bits e 311 1

/-- Whether a specifier names a v, y or z register (R95). -/
def isLaneReg (x : BitVec 10) : Bool :=
  match RegName.ofSpec x with
  | some (.v _) | some (.y _) | some (.z _) => true
  | _ => false

/-- Whether a recipe entry keeps to R320. -/
def recipeOk (e codeSize : Nat) (producer : Bool) : Bool :=
  let n := recipeCount e
  recipeReserved e == 0 && bits e 0 32 % 4 == 0 && decide (bits e 0 32 < codeSize)
    && decide (n ≤ 8) && (keptRegs e).all isLaneReg && ((recipeRegs e).drop n).all (· == 0)
    && decide (bits e 140 7 + bits e 164 7 ≤ 64) && (keptRanges e).all (fun r => decide (r.1 + r.2 ≤ 0xE8000))
    && decide (bits e 208 3 ≤ 4) && (keptBars e).all (fun b => decide (b < 0xE8000))
    && (producer || (bits e 128 12 == 0 && bits e 140 7 == 0 && bits e 152 12 == 0 && bits e 164 7 == 0
      && bits e 192 16 == 0 && bits e 208 3 == 0 && bits e 224 64 == 0))

/-! ## FBM (R318, R320, R321) -/

/-- A register of every thread. -/
def keepRegs (g : Gang) (x : BitVec 10) (m : Sparse 64) : List Nat → Sparse 64
  | [] => m
  | t :: r => keepRegs g x (wordSet m (regKey t x) (wordGet g.regs (regKey t x))) r

/-- The kept registers of every thread. -/
def shelfRegs (g : Gang) : List (BitVec 10) → Sparse 64
  | [] => []
  | x :: r => keepRegs g x (shelfRegs g r) (List.range 32)

/-- The physical tiles bound to the kept accumulator names (R267, R321). -/
def keptTiles (g : Gang) (e : Nat) : List (Nat × Nat) :=
  (keptAccs e).filterMap fun a => (mapGet g.accs a).map fun k => (a, k)

/-- Whether a queued operation reads or writes a kept tile (R321). -/
def tilesBusy (s : State) (slot : Nat) (tiles : List (Nat × Nat)) : Bool :=
  match mapGet s.matrix (bayOf slot) with
  | none => false
  | some m => m.queue.any fun o => tiles.any fun t => t.2 == o.tile

/-- The mark state of a gang under a recipe (R321). -/
def captureShelf (s : State) (slot : Nat) (g : Gang) (e : Nat) : Shelf where
  resume := codeBaseOf s g + bits e 0 32
  inputs := keptInputs e
  regs := shelfRegs g (keptRegs e)
  tiles := (keptTiles g e).filterMap fun t =>
    match mapGet s.matrix (bayOf slot) with
    | none => none
    | some m => (mapGet m.tiles t.2).map fun x => (t.1, x)
  sregs := g.sregs
  preds := g.preds
  conds := g.conds
  em := g.em
  pm := g.pm
  fpstat := g.fpstat
  vstat := g.vstat
  batchClosed := g.batchClosed
  batchRetired := g.batchRetired
  gbar := g.gbar
  spads := ((keptRanges e).filter fun r => r.2 != 0).map fun r => (r.1, spadRead s (cellOf slot) r.1 r.2)
  bars := (keptBars e).map fun b => (b, spadRead s (cellOf slot) b 16)
  rings := (keptRings e).filterMap fun k => (mapGet s.rings (ringKey (cellOf slot) k)).map fun r => (k, r)
  copies := []

/-- The gang after a mark: captured, unsealed, its mark recorded (R321). -/
def markGang (s : State) (slot : Nat) (g : Gang) (mark e : Nat) : Gang :=
  { g with shelf := captureShelf s slot g e, sealed := false, noMark := false, lastMark := BitVec.ofNat 8 mark, marks := g.marks + 1 }

/-- A mark (R318, R320, R321); with a live stack entry it only issues (R51). -/
def flashback (opc : Nat) (f : Fields) (s : State) : Host.Outcome State Fault Refusal :=
  issueUniform opc f s fun g =>
    let mark := bits f.imm.toNat 0 8
    let invalid := precise .nodeInvalid (BitVec.ofNat 64 (mark + 2 ^ 8))
    if !g.stack.isEmpty then .done s []
    else match nodeOf s g, launchOf s g with
      | some n, some l =>
        match n.recipes.find? fun e => bits e 32 8 == mark with
        | none => .trap s invalid
        | some e =>
          if !recipeOk e l.codeSize (g.idx == n.producer) then .trap s invalid
          else match firstPending g ((keptRegs e).filterMap fun x => (RegName.ofSpec x).map Name.reg) with
            | some p => .trap s (precise .hazard (BitVec.ofNat 64 (nameCode p)))
            | none =>
              if tilesBusy s s.cur (keptTiles g e) then .hold s .interlock
              else .mark (setGang s s.cur (markGang s s.cur g mark e))
      | _, _ => .trap s invalid

/-- FBM (R318, R321). -/
def execFbm (f : Fields) (s : State) : Host.Outcome State Fault Refusal := flashback 0x2C5 f s

/-- FBM_SHORT (R318, R321). -/
def execFbmShort (f : ShortFields) (s : State) : Host.Outcome State Fault Refusal :=
  flashback 0x2C5 (expandShort 0x2C5 f) s

/-! ## Traps (R330, R331) -/

/-- The value of TRAP's operand: 0 where it is 0x000 (R331). -/
def trapOperand (s : State) (g : Gang) (a : BitVec 10) : Word := if a = 0 then 0 else readReg s s.cur g 0 a

/-- A software trap (R331). -/
def softTrap (opc : Nat) (f : Fields) (s : State) : Host.Outcome State Fault Refusal :=
  issueUniform opc f s fun g =>
    .trap s ⟨.trap (BitVec.ofNat 4 (bits f.imm.toNat 0 4)), trapOperand s g f.a, 2, false, none, 0⟩

/-- TRAP (R331). -/
def execTrap (f : Fields) (s : State) : Host.Outcome State Fault Refusal := softTrap 0x300 f s

/-- TRAP_SHORT (R331). -/
def execTrapShort (f : ShortFields) (s : State) : Host.Outcome State Fault Refusal :=
  softTrap 0x300 (expandShort 0x300 f) s

/-- The return from a trap (R330); ILLEGAL_OPCODE where no handler runs. -/
def trapReturn (opc : Nat) (f : Fields) (s : State) : Host.Outcome State Fault Refusal :=
  match mapGet s.gangs s.cur with
  | none => .fault .noGang
  | some g =>
    if inHandler g then .next (setGang s s.cur (leaveTrap (retireAt s g (nextPc g f.len) [])))
    else finish s.cur g f.len (.trap s (precise .illegalOpcode (encodingTval opc f.len 0)))

/-- TRET (R330). -/
def execTret (f : Fields) (s : State) : Host.Outcome State Fault Refusal := trapReturn 0x301 f s

/-- TRET_SHORT (R330). -/
def execTretShort (f : ShortFields) (s : State) : Host.Outcome State Fault Refusal :=
  trapReturn 0x301 (expandShort 0x301 f) s

/-! ## System registers (R332) -/

/-- The drain state of one scope. -/
def drainOf (m : AMap Drain) (k : Nat) : Drain := (mapGet m k).getD .running

/-- The effective drain state of a VF (R404). -/
def effectiveDrain (s : State) (vf : Nat) : Drain :=
  let l := [drainOf s.drainVf vf, s.drainDevice] ++ (match partOf s vf with
    | none => []
    | some (p, _) => [drainOf s.drainPart p])
  if l.all (· == .running) then .running
  else if l.all (· != .draining) then .drained
  else .draining

/-- The coding of a drain state (R360). -/
def drainCode : Drain → Nat
  | .running => 0 | .draining => 1 | .drained => 2

/-- Bits [2:0] of a VF's status (R332, R360). -/
def vfStatus (s : State) (vf : Nat) : Nat := drainCode (effectiveDrain s vf) * 2 + (if s.clamped.contains vf then 1 else 0)

/-- markst (R332). -/
def markState (g : Gang) : Word :=
  BitVec.ofNat 64 ((if g.sealed then 2 ^ 63 else 0) + (if g.noMark then 2 ^ 24 else 0) + g.lastMark.toNat * 2 ^ 16
    + min g.markCount 0x1FFF)

/-- The value of a system register (R332). -/
def readSystem (s : State) (g : Gang) : Nat → Word
  | 0 => g.fpstat
  | 1 => g.vstat
  | 2 => g.tcause
  | 3 => g.tpc
  | 4 => g.tval
  | 5 => g.tmask
  | 6 => markState g
  | _ => BitVec.ofNat 64 (vfStatus s g.vf)

/-- A write of a system register; a read-only one ignores it (R5, R332). -/
def writeSystem (g : Gang) (v : Word) : Nat → Gang
  | 0 => { g with fpstat := v &&& 0x3F }
  | 1 => { g with vstat := v }
  | 3 => { g with tpc := v &&& 0x1FFFFFFFFFFFFFF }
  | 4 => { g with tval := v }
  | _ => g

/-- RDSR (R332, R334). -/
def execRdsr (f : Fields) (s : State) : Host.Outcome State Fault Refusal :=
  issueUniform 0x302 f s fun g => uniformResult 0x302 f s 2 g (readSystem s g (bits f.imm.toNat 0 8))

/-- WRSR (R332). -/
def execWrsr (f : Fields) (s : State) : Host.Outcome State Fault Refusal :=
  issueUniform 0x303 f s fun g => gangResult s (writeSystem g (readReg s s.cur g 0 f.a) (bits f.imm.toNat 0 8))

/-! ## PLATE and BRK (R333) -/

/-- POLICY of a VF (R359). -/
def policyReg (s : State) (vf : Nat) : Nat := regGet s (pageReg vf 0)

/-- The plate trigger of an instruction (R333). -/
def plate (opc : Nat) (f : Fields) (s : State) : Host.Outcome State Fault Refusal :=
  issueUniform opc f s fun g => .done (if bits (policyReg s g.vf) 44 1 = 1 then plateTrigger s 0 else s) []

/-- PLATE (R333). -/
def execPlate (f : Fields) (s : State) : Host.Outcome State Fault Refusal := plate 0x304 f s

/-- PLATE_SHORT (R333). -/
def execPlateShort (f : ShortFields) (s : State) : Host.Outcome State Fault Refusal := plate 0x304 (expandShort 0x304 f) s

/-- BRK (R333). Without debug halt nothing; with it an event is written and the gang moves past BRK, held until a management
write releases it. -/
def breakpoint (opc : Nat) (f : Fields) (s : State) : Host.Outcome State Fault Refusal :=
  match mapGet s.gangs s.cur with
  | none => .fault .noGang
  | some g0 =>
    let halts := (hazard s g0 opc f).isNone && condPasses g0 f.grd && bits (policyReg s g0.vf) 43 1 == 1
    match issueUniform opc f s fun g =>
      .done (if halts then writeWatch s ⟨g.vf, 5, g.pc, 0, BitVec.ofNat 16 (bits f.imm.toNat 0 8), 0, s.clock⟩ else s) [] with
    | .next t => .next (if halts then holdGang t s.cur .brk else t)
    | o => o

/-- BRK (R333). -/
def execBrk (f : Fields) (s : State) : Host.Outcome State Fault Refusal := breakpoint 0x305 f s

/-- BRK_SHORT (R333). -/
def execBrkShort (f : ShortFields) (s : State) : Host.Outcome State Fault Refusal := breakpoint 0x305 (expandShort 0x305 f) s

/-- BRK_RELEASE (R31, R333). A management write releases a gang held by BRK, which is ready from now on. -/
def execBrkRelease (slot : Nat) (s : State) : Host.Outcome State Fault Refusal :=
  .next { s with gangs := mapUpdate s.gangs slot fun g => if g.hold = some .brk then { g with hold := none, ready := s.acycle } else g }

end Sys2Proof.Machine
end

