-- ==== Sys2Proof/Machine/Starts.lean ====
section
/-! DEFINITION. Doorbells (R400), launch packets and their start (R54 to R57), graph images (R63 to R65), entry records (R58)
and completion (R59, R60). -/

namespace Sys2Proof.Machine

/-! ## Doorbells (R400) -/

/-- The outcome of a doorbell: STATUS of QDBSTAT (R398, R400). -/
def doorbellStatus (s : State) (vf q : Nat) (w : BitVec 32) : Nat :=
  let x := queueOf s vf q
  let assigned := bits (regGet s (pageReg vf (0x100 + 8 * q))) 63 1 == 1
  if !x.enabled || !assigned then 3
  else match partOf s vf with
    | none => 1
    | some (_, p) =>
      if effectiveDrain s vf ≠ .running then 1
      else if !partReady s p then 4
      else if (w - x.rp).toNat > queueSlots x ∨ (w - x.wp).toNat > (w - x.rp).toNat then 2
      else 0

/-- The doorbells that still make some packet visible (R56). -/
def liveBells (q : Queue) : List (Nat × Nat) :=
  q.bells.filter fun b => decide ((BitVec.ofNat 32 b.1 - q.rp).toNat ≠ 0 ∧ (BitVec.ofNat 32 b.1 - q.rp).toNat ≤ queueSlots q)

/-- DOORBELL (R400). An accepted value becomes WP; STATUS reports the outcome. -/
def execDoorbell (vf q : Nat) (w : BitVec 32) (s : State) : Host.Outcome State Fault Refusal :=
  let x := queueOf s vf q
  let st := doorbellStatus s vf q w
  if st = 0 then
    .next (setQueue { s with bellOrder := s.bellOrder + 1 } vf q
      { x with wp := w, dbstat := 0, bells := liveBells x ++ [(w.toNat, s.bellOrder)] })
  else .next (setQueue s vf q { x with dbstat := st })

/-- The order of the doorbell that made the packet at `sp` visible (R56). -/
def bellOf (q : Queue) : Nat :=
  match q.bells.find? fun b => decide ((BitVec.ofNat 32 b.1 - q.sp).toNat ≠ 0 ∧ (BitVec.ofNat 32 b.1 - q.sp).toNat < 2 ^ 31) with
  | none => 0
  | some b => b.2

/-! ## Launch packets (R54, R55) -/

/-- A launch packet as a number of 1,024 bits (R54). -/
abbrev Packet := Nat

/-- The reserved bits of a launch packet (R54). -/
def packetReserved (x : Packet) : Nat :=
  bits x 864 160 + bits x 825 7 + bits x 224 32 + bits x 185 7 + bits x 121 7 + bits x 13 3

/-- The stack groups a launch may use (R54). -/
def packetStacks (p : Partition) (x : Packet) : List Nat :=
  if bits x 24 8 = 0 then clusterStacks p else (List.range 8).filter fun k => bits x (24 + k) 1 == 1

/-- The checks of a packet (R55). -/
def packetOk (p : Partition) (x : Packet) : Bool :=
  bits x 0 8 == 1 && packetReserved x == 0 && (bits x 12 1 == 1 || (bits x 208 16 == 0 && bits x 16 8 == 0))
    && bits x 768 57 % 128 == 0 && bits x 128 57 % 64 == 0 && bits x 64 57 % 256 == 0
    && (packetStacks p x).all fun k => (clusterStacks p).contains k

/-- A packet that ends without a launch (R55, R61). -/
def endPacket (s : State) (vf q : Nat) (x : Queue) (fence : Nat) : State :=
  retireAll (setQueue s vf q { x with sp := x.sp + 1, ended := x.ended ++ [⟨x.sp.toNat, 0x02, fence, 0⟩] }) vf q

/-- What the head of a queue's unstarted packets is (R55, R56). -/
inductive Head where
  | none (s : State)
  | packet (x : Packet) (order : Nat) (s : State)
  deriving DecidableEq, Repr

/-- Reads and checks the packet at the head of a queue (R55); one that cannot be read ends, with a FENCE the spec does not
state (R342). DEDUCED (log 53): a packet that waits at the head is read again at each look. -/
def queueHead (s : State) (vf q : Nat) (p : Partition) : Head :=
  let x := queueOf s vf q
  if !x.enabled || x.stopped || x.sp == x.wp then .none s
  else match schedRead s (queueTask vf q) vf (queueHost x) (bits x.qring.toNat 7 50 * 128 + 128 * (x.sp.toNat % queueSlots x)) 128 with
    | .stall s => .none s
    | .fail _ s => .none (endPacket { s with free := s.free + 1 } vf q x ((Config.freeWord s.free).toNat % 2 ^ 32))
    | .bytes l s =>
      let y := bytesToNat l
      if packetOk p y then .packet y (bellOf x) s else .none (endPacket s vf q x (bits y 32 32))

/-- The mask of events of a packet's WAIT (R54). -/
def packetWait (x : Packet) : BitVec 256 := BitVec.ofNat 256 (bits x 256 256)

/-- Whether a candidate goes before another: higher PRIORITY, then the earlier doorbell (R56). -/
def headBefore (a b : Nat × Packet × Nat) : Bool :=
  let pa := bits a.2.1 8 3
  let pb := bits b.2.1 8 3
  decide (pa > pb) || (pa == pb && decide (a.2.2 < b.2.2))

/-- The events the start arbiter sees: those that completions set in this cycle come later (R56). -/
def seenEvents (s : State) (vf : Nat) : BitVec 256 := wordGet s.events vf &&& ~~~wordGet s.fresh vf

/-- The start candidates of a context, over its queues (R56). -/
def candidates (s : State) (vf : Nat) (p : Partition) : List Nat → Option (Nat × Packet × Nat) →
    State × Option (Nat × Packet × Nat)
  | [], best => (s, best)
  | q :: r, best =>
    match queueHead s vf q p with
    | .none s => candidates s vf p r best
    | .packet x o s =>
      let me := (q, x, o)
      let ready := packetWait x &&& ~~~seenEvents s vf == 0
      candidates s vf p r (if !ready then best else match best with
        | none => some me
        | some b => if headBefore me b then some me else some b)

/-- A launch as it starts (R52, R54, R56). -/
def newLaunch (s : State) (p : Partition) (q : Nat) (sp : Nat) (x : Packet) : Launch where
  queue := q
  packet := sp
  fence := bits x 32 32
  sets := BitVec.ofNat 256 (bits x 512 256)
  registered := bits x 12 1 == 1
  tag := bits x 208 16
  close := bits x 16 8
  priority := bits x 8 3
  stackGroups := packetStacks p x
  cellar := bits x 768 57
  cellarLines := bits x 832 32
  image := bits x 64 57
  codeBase := 0
  codeSize := 0
  nodes := []
  phase := .starting
  entryBase := bits x 128 57
  entryCount := bits x 192 16
  entries := []
  nextEntry := 0
  shards := []
  inbox := []
  escaped := false
  wrote := false
  leaked := 0
  rejected := 0
  unacked := 0
  started := s.clock
  faultCode := 0
  faultGrade := 0
  faultNode := 0
  faultSlot := 0
  published := false

/-! ## Graph images (R63 to R65) -/

/-- What reading a part of an image gives. -/
inductive Got (α : Type) where
  | got (a : α) (s : State)
  | bad (s : State)
  | stall (s : State)
  | fail (r : WalkResult) (s : State)

/-- Goes on with what was read. -/
def Got.bind {α β : Type} (x : Got α) (f : α → State → Got β) : Got β :=
  match x with
  | .got a s => f a s
  | .bad s => .bad s
  | .stall s => .stall s
  | .fail r s => .fail r s

/-- Reads device memory for a launch by the scheduler (R342). -/
def readImage (s : State) (k a n : Nat) : Got (List Byte) :=
  if n = 0 then .got [] s
  else match schedRead s k (k / 64) false a n with
    | .bytes l s => .got l s
    | .stall s => .stall s
    | .fail r s => .fail r s

/-- A condition on what was read. -/
def require {β : Type} (s : State) (c : Bool) (k : Got β) : Got β := if c then k else .bad s

/-- Cuts bytes into numbers of `n` bytes each. -/
def chunks (n : Nat) : Nat → List Byte → List Nat
  | 0, _ => []
  | k + 1, l => bytesToNat (l.take n) :: chunks n k (l.drop n)

/-- A prefetch entry obeys R76, or is zero with V = 0 (R65). -/
def prefetchOk (rsize binding e : Nat) : Bool :=
  if bits e 15 1 = 0 then e == 0
  else binding != 0 && decide (16 + 8 * bits e 12 3 ≤ 8 * (recordWords rsize - 1)) && decide (bits e 0 12 < 0xE8)

/-- A node descriptor as a node, its lists aside (R64). -/
def nodeOfWords (x : Nat) (succs recipes : List Nat) : Node where
  rsize := bits x 64 2
  binding := bits x 66 2
  gangs := bits x 68 4
  producer := bits x 72 4
  rlimit := bits x 76 4
  priority := bits x 80 3
  succs := succs
  lquota := bits x 128 32
  cquota := bits x 160 32
  low := bits x 192 16
  high := bits x 208 16
  flush := bits x 224 32
  recipe := bits x 256 32
  pf0 := bits x 288 16
  pf1 := bits x 304 16
  trap := bits x 32 32
  entry := bits x 0 32
  recipes := recipes

/-- The checks of a node descriptor that need nothing else read (R65). -/
def nodeOk (x codeSize : Nat) : Bool :=
  let rs := bits x 64 2
  let bd := bits x 66 2
  bits x 320 192 + bits x 83 5 == 0 && rs != 3 && bd != 3
    && bits x 0 32 % 4 == 0 && decide (bits x 0 32 < codeSize)
    && (bits x 32 32 == 0xFFFFFFFF || (bits x 32 32 % 4 == 0 && decide (bits x 32 32 < codeSize)))
    && decide (bits x 72 4 ≤ bits x 68 4) && bits x 96 32 % 2 == 0
    && decide (bits x 128 32 + bits x 160 32 ≥ 1) && decide (bits x 192 16 ≤ bits x 208 16)
    && prefetchOk rs bd (bits x 288 16) && prefetchOk rs bd (bits x 304 16)

/-- Reads the recipe table of a node (R65, R319). -/
def readRecipes (s : State) (k image off codeOff : Nat) : Got (List Nat) :=
  if off = 0 then .got [] s
  else require s (off % 64 == 0) <| (readImage s k (image + off) 64).bind fun l s =>
    let h := bytesToNat l
    let n := bits h 0 9
    require s (decide (1 ≤ n ∧ n ≤ 256) && h / 2 ^ 9 == 0 && decide (off + 64 * (n + 1) ≤ codeOff)) <|
      (readImage s k (image + off + 64) (64 * n)).bind fun l s => .got (chunks 64 n l) s

/-- Reads what the node descriptors of an image name (R64, R65). -/
def readNodes (k image count codeOff codeSize : Nat) : List Nat → List Node → State → Got (List Node)
  | [], out, s => .got out.reverse s
  | x :: r, out, s =>
    require s (nodeOk x codeSize) <|
      (readImage s k (image + bits x 96 32) (2 * bits x 88 8)).bind fun l s =>
        let succs := chunks 2 (bits x 88 8) l
        require s (succs.all fun n => decide (n < count)) <|
          (readRecipes s k image (bits x 256 32) codeOff).bind fun recipes s =>
            readNodes k image count codeOff codeSize r (nodeOfWords x succs recipes :: out) s

/-- The checks of an image header (R63). -/
def imageHeaderOk (h : Nat) : Bool :=
  bits h 0 32 == 0x47595448 && bits h 32 16 == 1 && decide (1 ≤ bits h 48 13 ∧ bits h 48 13 ≤ 4096) && bits h 61 3 == 0
    && bits h 160 352 == 0 && bits h 64 32 % 64 == 0 && bits h 96 32 % 256 == 0

/-- Reads and checks a graph image: its nodes, code base and code size (R63 to R65). -/
def readGraph (s : State) (k image : Nat) : Got (List Node × Nat × Nat) :=
  (readImage s k image 64).bind fun l s =>
    let h := bytesToNat l
    require s (imageHeaderOk h) <| (readImage s k (image + bits h 64 32) (64 * bits h 48 13)).bind fun t s =>
      (readNodes k image (bits h 48 13) (bits h 96 32) (bits h 128 32) (chunks 64 (bits h 48 13) t) [] s).bind fun nodes s =>
        require s (acyclic nodes) (.got (nodes, image + bits h 96 32, bits h 128 32) s)

/-! ## The start (R56, R57) -/

/-- The words of an entry record, or none where it names no node or another size (R57). -/
def entryRecord (nodes : List Node) (x : Nat) : Option (List Word) :=
  match nodes[bits x 0 12]? with
  | none => none
  | some n => if bits x 40 2 = n.rsize then
      some ((List.range (recordWords n.rsize)).map fun k => BitVec.ofNat 64 (bits x (64 * k) 64)) else none

/-- Whether another registered launch of the package in flight holds a TAG (R57). A launch that is still in its start checks does
not count as in flight (DESIGN CHOICE: R57 does not say; log 67). -/
def tagBusy (s : State) (k tag : Nat) : Bool :=
  s.launches.any fun e => e.1 != k && e.2.registered && e.2.tag == tag
    && (e.2.phase == .running || e.2.phase == .completing || e.2.phase == .aborted)

/-- Ends a launch at a check of its start (R57). -/
def failStart (s : State) (k status : Nat) : State :=
  let q := ((mapGet s.launches k).map (·.queue)).getD 0
  retireAll (onLaunch s k fun l => { l with phase := .invalid status, published := true }) (k / 64) q

/-- The checks of R57 after the image's, in order; a launch that passes runs. -/
def checkLaunch (s : State) (k : Nat) (l : Launch) (nodes : List Node) (base size : Nat) (list : List Byte) : State :=
  let recs := (chunks 64 l.entryCount list).map (entryRecord nodes)
  if recs.any (·.isNone) then failStart s k 0x04
  else if l.cellarLines < nodes.foldl (fun n x => n + x.cquota) 0 + (if l.registered then 256 else 0) then failStart s k 0x05
  else if l.stackGroups.any fun st => decide (launchReserve nodes > 16 * (entitledCells s (k / 64) st).length) then
    failStart s k 0x06
  else if l.registered && tagBusy s k l.tag then failStart s k 0x07
  else onLaunch s k fun l =>
    { l with phase := .running, nodes := nodes, codeBase := base, codeSize := size, entries := recs.filterMap id }

/-- The checks of a starting launch (R57); a scheduler access that fails escalates it (R342). -/
def runChecks (s : State) (k : Nat) : State :=
  match mapGet s.launches k with
  | none => s
  | some l =>
    if l.phase ≠ .starting then s
    else match readGraph s k l.image with
      | .bad s => failStart s k 0x03
      | .stall s => s
      | .fail r s => schedFails s k r
      | .got (nodes, base, size) s =>
        match readImage s k l.entryBase (64 * l.entryCount) with
        | .bad s => s
        | .stall s => s
        | .fail r s => schedFails s k r
        | .got list s => checkLaunch s k l nodes base size list

/-- Starts a candidate in a launch slot (R56): its WAIT events are cleared under CLEAR, the context's descriptor copies are
dropped (R189), and the checks begin. -/
def startLaunch (s : State) (vf k : Nat) (p : Partition) (c : Nat × Packet × Nat) : State :=
  let q := queueOf s vf c.1
  let s := setQueue s vf c.1 { q with sp := q.sp + 1 }
  let events := if bits c.2.1 11 1 = 1 then wordSet s.events vf (wordGet s.events vf &&& ~~~packetWait c.2.1) else s.events
  runChecks { s with
    events := events
    startCycle := mapSet s.startCycle vf s.clock
    descs := mapFilter (fun k _ => k % 2 ^ 20 / 1024 != vf) s.descs
    launches := mapSet s.launches k (newLaunch s p c.1 q.sp.toNat c.2.1) } k

/-- LAUNCH_START (R55 to R57). Launches whose checks were held go on; then the start arbiter, once in a fabric cycle, starts
the best candidate of a context that has a free launch slot. -/
def execLaunchStart (vf : Nat) (s : State) : Host.Outcome State Fault Refusal :=
  let s := ((s.launches.filter fun e => e.1 / 64 == vf).map (·.1)).foldl runChecks s
  match partOf s vf with
  | none => .next s
  | some (_, p) =>
    if s.trip || mapGet s.startCycle vf == some s.clock then .next s
    else
      match candidates s vf p (List.range 64) none with
      | (s, none) => .next s
      | (s, some c) =>
        match mapFree s.launches ((List.range 64).map fun i => 64 * vf + i) with
        | none => .next s
        | some k => .next (startLaunch s vf k p c)

/-! ## Entry records (R58) -/

/-- The header of an entry record as it is enqueued: DEPTH 0, JOIN 0, REMOTE 0, ENTRY 1 (R58, R66). Reserved bits [47:45], for which
R58 names no check, are kept as they are (DESIGN CHOICE; log 80). -/
def entryHead (words : List Word) : List Word :=
  withHead words (BitVec.ofNat 64 (putBits (putBits (putBits (recHead words) 12 4 0) 16 24 0) 43 2 2))

/-- ENTRY_ENQUEUE (R58). The next entry record of a launch is placed from the stack group whose turn it is, or waits as a
blocking emission does. -/
def execEntryEnqueue (vf lslot : Nat) (s : State) : Host.Outcome State Fault Refusal :=
  let k := launchKey vf lslot
  match mapGet s.launches k with
  | none => .next s
  | some l =>
    match l.entries with
    | [] => .next s
    | w :: rest =>
      if l.phase ≠ .running then .next s
      else
        let stack := (l.stackGroups[l.nextEntry % l.stackGroups.length]?).getD 0
        let me := entryEmitter k stack
        let placed := if mayServe s k (recNode w) me then placeRecord s k stack (entryHead w) else .full
        match placed.result s with
        | (false, s) => .next (blockOn s me k [recNode w])
        | (true, s) =>
          .next (onLaunch { s with blocked := s.blocked.filter fun b => b.1 != me } k fun l =>
            { l with entries := rest, nextEntry := l.nextEntry + 1 })

/-! ## Completion (R59, R60) -/

/-- Whether a launch is idle (R59). -/
def launchIdle (s : State) (k : Nat) (l : Launch) : Bool :=
  l.phase == .running && l.entries.isEmpty && (l.shards.all fun e => shardCount e.2 == 0) && l.inbox.isEmpty
    && !(s.workgroups.any fun e => launchKey e.2.vf e.2.lslot == k) && l.unacked == 0
    && (!l.registered || (wordGet s.events (k / 64)).getLsbD l.close)

/-- LAUNCH_COMPLETION (R60). An idle launch frees its join entries; its effects, events and completion entry follow in queue
order. -/
def execLaunchCompletion (vf lslot : Nat) (s : State) : Host.Outcome State Fault Refusal :=
  let k := launchKey vf lslot
  match mapGet s.launches k with
  | none => .next s
  | some l =>
    if launchIdle s k l then
      let r := freeQueues s vf lslot
      .next (retireAll (onLaunch r.1 k fun l => { l with phase := .completing, leaked := l.leaked + r.2 }) vf l.queue)
    else if l.phase = .starting ∨ l.phase = .running then .next s
    else .next (retireAll s vf l.queue)

end Sys2Proof.Machine
end

