-- ==== Sys2Proof/Machine/Gather.lean ====
section
/-! DEFINITION. Gathering workgroups from shards (R75), shadow slots and prefetch (R76), the governor (R79), placement (R77,
R78), delivery of records (R69), and the end of a workgroup (R84, R173). -/

namespace Sys2Proof.Machine

/-! ## Triggers (R75) -/

/-- The record capacity W of a node's workgroups (R68). -/
def capacity (n : Node) : Nat :=
  match n.binding with
  | 0 => 32 * gangsOf n
  | 1 => gangsOf n
  | _ => 1

/-- Whether a node has a record queued in some shard of its launch. -/
def hasQueued (l : Launch) (node : Nat) : Bool := l.shards.any fun e => e.1 / 8 == node && decide (shardCount e.2 > 0)

/-- Whether a node has a workgroup in flight: pre-empted ones count (R78). -/
def inFlight (s : State) (k node : Nat) : Bool :=
  s.workgroups.any fun e => launchKey e.2.vf e.2.lslot == k && e.2.node == node

/-- The Upstream idle trigger (R75). -/
def upstreamIdle (s : State) (k : Nat) (l : Launch) (node : Nat) : Bool :=
  l.entries.isEmpty
    && (l.nodes.zipIdx.all fun e => e.2 == node || !e.1.succs.contains node || !(hasQueued l e.2 || inFlight s k e.2))
    && !(((l.nodes[node]?).map fun n => n.succs.contains node).getD false && inFlight s k node)

/-- The Drain trigger: somebody is blocked on the node (R75, R81). -/
def drainTrigger (s : State) (k node : Nat) : Bool := s.blocked.any fun b => b.2.1 == k && b.2.2 == node

/-- FLUSH of a node (R64). -/
def flushOf (n : Node) : Nat := if n.flush = 0 then 4096 else n.flush

/-- When the oldest of some records was enqueued. -/
def oldestOf : List Rec → Nat
  | [] => 0
  | [r] => r.since
  | r :: l => min r.since (oldestOf l)

/-- The triggers of R75. -/
inductive Trigger where
  | full | idle | timeout | drain
  deriving DecidableEq, Repr

/-- The trigger of a shard: Full before any other (R75); of the others that hold together Drain, then Upstream idle, then
Timeout (DESIGN CHOICE: R75 ranks Full alone; log 68). -/
def triggerOf (s : State) (k : Nat) (l : Launch) (node : Nat) (n : Node) (stack : Nat) : Option Trigger :=
  let h := shardOf l node stack
  let held := shardCount h
  if held = 0 then none
  else if held ≥ capacity n then some .full
  else if drainTrigger s k node then some .drain
  else if upstreamIdle s k l node then some .idle
  else if s.clock ≥ oldestOf (shardRecs h) + flushOf n then some .timeout
  else none

/-! ## Gathering (R74 to R76) -/

/-- Puts a record after those at least as deep. -/
def insertDeep (r : Rec) : List Rec → List Rec
  | [] => [r]
  | x :: l => if bits (recHead r.words) 12 4 > bits (recHead x.words) 12 4 then r :: x :: l else x :: insertDeep r l

/-- Records deepest first, each depth in its order (R75). -/
def deepestFirst (l : List Rec) : List Rec := l.foldl (fun a r => insertDeep r a) []

/-- The records a trigger takes (R74, R75). -/
def taken (n : Node) (h : Shard) (t : Trigger) : List Rec :=
  (match t with
    | .drain => deepestFirst (shardRecs h)
    | _ => shardRecs h).take (capacity n)

/-- Records of a line that stay. -/
def keepRecs (gone : List Nat) (l : List Rec) : List Rec := l.filter fun r => !gone.contains r.seq

/-- A shard without some records; a line goes with its last record (R71). -/
def withoutRecs (gone : List Nat) (h : Shard) : Shard :=
  { h with larder := (h.larder.map fun x => { x with recs := keepRecs gone x.recs }).filter fun x => !x.recs.isEmpty
           cellar := (h.cellar.map fun x => { x with recs := keepRecs gone x.recs }).filter fun x => !x.recs.isEmpty }

/-- The larder lines that such a removal frees. -/
def freedLines (gone : List Nat) (h : Shard) : List Nat :=
  (h.larder.filter fun x => (keepRecs gone x.recs).isEmpty).map (·.line)

/-- The bytes of some words. -/
def wordsToBytes (l : List Word) : List Byte := l.flatMap fun w => natToBytes 8 w.toNat

/-- The offset of a record-window slot (R70). -/
def windowOffset (index : Nat) : Nat := 0xE8000 + 64 * index

/-- Puts the records of a workgroup into slots of a cell's record window (R70). -/
def fillWindow (s : State) (cell : Nat) : List WgRec → State
  | [] => s
  | r :: l => fillWindow (spadWrite s cell (windowOffset r.index) (wordsToBytes r.words)) cell l

/-- Free record-window slots of a cell (R70). -/
def freeWindowSlots (s : State) (cell : Nat) : List Nat :=
  (List.range 1536).filter fun i => (mapGet s.window (1536 * cell + i)).isNone

/-- Takes record-window slots for a workgroup. -/
def takeWindowSlots (s : State) (cell wg : Nat) (l : List Nat) : State :=
  { s with window := l.foldl (fun m i => mapSet m (1536 * cell + i) wg) s.window }

/-- Workgroups in the shadow slots of a cell (R76). -/
def shadowCount (s : State) (cell : Nat) : Nat :=
  (s.workgroups.filter fun e => e.2.cell == cell && (e.2.phase == .shadow || e.2.phase == .runnable)).length

/-- The prefetch entries of a node that are used (R76). -/
def prefetches (n : Node) : List (Nat × Nat) :=
  (if bits n.pf0 15 1 = 1 then [(0, n.pf0)] else []) ++ (if bits n.pf1 15 1 = 1 then [(1, n.pf1)] else [])

/-- The gangs whose tiles are fetched (R76). -/
def prefetchGangs (n : Node) (records : List WgRec) : List Nat := if n.binding = 2 then [0] else List.range records.length

/-- Whether a cell may take a gathered workgroup of a node (R76, R79, R357, R362). -/
def mayGather (s : State) (p : Partition) (vf lslot node : Nat) (n : Node) (cell : Nat) : Bool :=
  (entitled s vf cell || lendable s vf cell) && mapGet s.governor cell == some (vf, lslot, node)
    && decide (shadowCount s cell < 2) && ((prefetches n).isEmpty || p.copy.contains cell)

/-- A workgroup as it is gathered. -/
def newWorkgroup (vf lslot node stack cell : Nat) (n : Node) (records : List WgRec) (drain : Bool) (oldest : Nat) :
    Workgroup where
  vf := vf
  lslot := lslot
  node := node
  stack := stack
  cell := cell
  phase := if (prefetches n).isEmpty then .runnable else .shadow
  records := records
  slots := []
  gone := []
  drain := drain
  oldest := oldest
  launchFault := none
  preempt := false
  acted := false
  borrower := false
  saveSlots := []
  saveClass := 0
  keptSlots := []
  started := 0
  preempted := 0
  saved := []
  window := []
  fetched := []

/-- The cellar lines of a shard as the scheduler reads them, or the state in which it cannot (R73, R342). -/
def readLines (s : State) (k : Nat) (l : Launch) : List CellarLine → List CellarLine × Option State × State
  | [] => ([], none, s)
  | x :: r =>
    match cellarRead s k l x with
    | .stall s => ([], some s, s)
    | .fail e s => ([], some (schedFails s k e), s)
    | .ok x s =>
      let t := readLines s k l r
      (x :: t.1, t.2.1, t.2.2)

/-- Whether the records that a trigger takes stand in part in cellar lines (R74). -/
def takesCellar (n : Node) (h : Shard) (t : Trigger) : Bool :=
  let gone := (taken n h t).map (·.seq)
  h.cellar.any fun x => x.recs.any fun r => gone.contains r.seq

/-- Moves the records of a trigger out of a shard into a shadow slot of a cell (R70, R75, R76). -/
def gatherRecs (s : State) (k node stack cell : Nat) (h : Shard) (n : Node) (t : Trigger) : State :=
  let recs := taken n h t
  let gone := recs.map (·.seq)
  let places := (freeWindowSlots s cell).take (capacity n)
  if places.length < capacity n then s
  else
    let wg := s.nextId
    let records := (recs.zip places).map fun e => (⟨e.1.words, e.2, false⟩ : WgRec)
    let freed := (freedLines gone h).map fun x => 32768 * stack + x
    let s := { s with nextId := wg + 1, larder := mapFilter (fun k _ => !freed.contains k) s.larder }
    let s := onLaunch s k fun l => putShard l node stack (withoutRecs gone h)
    let w := newWorkgroup (k / 64) (k % 64) node stack cell n records (t == .drain) (oldestOf recs)
    fillWindow (takeWindowSlots { s with workgroups := mapSet s.workgroups wg w } cell wg places) cell records

/-- Gathers the records of a trigger, with the cellar lines that hold some of them read first. -/
def gatherInto (s : State) (k node stack cell : Nat) (l : Launch) (n : Node) (t : Trigger) : State :=
  let h := shardOf l node stack
  if takesCellar n h t then
    match readLines s k l h.cellar with
    | (lines, none, s) => gatherRecs s k node stack cell { h with cellar := lines } n t
    | (_, some s, _) => s
  else gatherRecs s k node stack cell h n t

/-- Gathers from a shard under a trigger that `allowed` accepts. -/
def gather (s : State) (vf lslot node stack cell : Nat) (allowed : Trigger → Bool) : State :=
  let k := launchKey vf lslot
  match mapGet s.launches k, partOf s vf with
  | some l, some (_, p) =>
    match l.nodes[node]? with
    | none => s
    | some n =>
      match triggerOf s k l node n stack with
      | none => s
      | some t =>
        if l.phase == .running && allowed t && l.stackGroups.contains stack && stackOf cell == stack
            && mayGather s p vf lslot node n cell
        then gatherInto s k node stack cell l n t else s
  | _, _ => s

/-- WORKGROUP_GATHER (R75, R76). A shard yields a workgroup under the Full, Upstream idle or Drain trigger. -/
def execWorkgroupGather (vf lslot node stack cell : Nat) (s : State) : Host.Outcome State Fault Refusal :=
  .next (gather s vf lslot node stack cell fun t => t != .timeout)

/-- FLUSH_TIMEOUT (R75). A shard whose oldest record has waited FLUSH cycles yields a workgroup. -/
def execFlushTimeout (vf lslot node stack cell : Nat) (s : State) : Host.Outcome State Fault Refusal :=
  .next (gather s vf lslot node stack cell fun t => t == .timeout)

/-! ## Prefetch (R76) -/

/-- How the prefetch of one tile goes: what it has read so far, and at the end its bytes, and where in the scratchpad they go. -/
inductive TileFetch where
  | wait (s : State) (got : AMap (List Byte))
  | fault (f : GFault) (s : State)
  | ok (off : Nat) (bytes : List Byte) (s : State) (got : AMap (List Byte))
  deriving DecidableEq, Repr

/-- The handle of a record at payload byte 8·H (R67, R76). -/
def handleAt (words : List Word) (h : Nat) : Nat :=
  ((words[1 + h]?).getD 0).toNat + ((words[2 + h]?).getD 0).toNat * 2 ^ 64

/-- The origin in a handle for a descriptor of a rank (R67). -/
def handleCoords (x rank : Nat) : List Int :=
  (List.range rank).map fun i => if i < 4 then (bits x (10 + 28 * i) 28 : Nat) else 0

/-- Passes over the units of a tile until nothing that was asked of another package is away; `n` bounds them. -/
def readPasses (read : Mover → Mover) : Nat → Mover → Mover
  | 0, m => read m
  | n + 1, m =>
    let m := read { m with missed := false, away := false }
    if m.sent.isEmpty then m else readPasses read n m

/-- Reads what is still to be read of a tile, unless some unit fails (R76). What another package holds arrives in a later pass. -/
def fetchTile (s : State) (wg cell : Nat) (g : Gang) (d : Desc) (c : List Int) (off : Nat) (got : AMap (List Byte)) : TileFetch :=
  let us := tileUnits d c
  let m := readPasses (fun m => (numbered us).foldl (readUnit cell g d (.copy wg)) m) us.length (Mover.start s [] got)
  match m.fault with
  | some (code, detail, _) => .fault (preciseDetail code 0 detail) m.s
  | none => if m.missed || m.away then .wait m.s m.fetched else .ok off (tileData us m.fetched).flatten m.s m.fetched

/-- The number of a tile's descriptor in what its prefetch has read. -/
def descUnit : Nat := 2 ^ 31

/-- The prefetch of gang j's tile under an entry, of which `got` has been read (R76): every fault leaves the tile unwritten. -/
def prefetchTile (s : State) (wg : Nat) (w : Workgroup) (entry j : Nat) (got : AMap (List Byte)) : TileFetch :=
  let g := copyGang w.vf w.lslot wg j
  let x := handleAt (((w.records[j]?).map (·.words)).getD []) (bits entry 12 3)
  let descriptor := match mapGet got descUnit with
    | some l => DescFetch.ok (bytesToWords l) s
    | none => fetchEntry s (.shadow wg) w.cell w.vf (bits x 0 10)
  match descriptor with
  | .miss s => .wait s got
  | .fail f s => .fault f s
  | .ok words s =>
    let got := mapSet got descUnit (wordsToBytes words)
    let d := descOf words
    let c := handleCoords x d.rank
    let off := 256 * bits entry 0 12 + j * d.tileBytes
    if !d.ok then .fault (precise .tdInvalid 0) s
    else if !d.bmode && !inRange c d.extents then .fault (precise .coordRange 0) s
    else if !tileAligned d c then .fault (precise .align 0) s
    else if off + d.tileBytes > 0xE8000 ∨ unitsFar d (tileUnits d c) then .fault (precise .protection 0) s
    else fetchTile s wg w.cell g d c off got

/-- The prefetches of a workgroup, one after another. -/
structure Prefetch where
  s : State
  waits : Bool
  /-- What has been read of the tiles that wait or are read, as the workgroup keeps it. -/
  got : AMap (List Byte)
  /-- The tiles read: where each goes, and its bytes. -/
  tiles : List (Nat × List Byte)
  /-- Entry, gang, descriptor index and fault of each tile that faults. -/
  faults : List (Nat × Nat × Nat × GFault)
  deriving DecidableEq, Repr

/-- The part of what a workgroup's prefetches have read that belongs to tile `n`, and a part put back. -/
def gotOf (l : AMap (List Byte)) (n : Nat) : AMap (List Byte) :=
  l.filterMap fun e => if e.1 / 2 ^ 32 = n then some (e.1 % 2 ^ 32, e.2) else none

/-- What has been read of tile `n` is kept. -/
def keepGot (l : AMap (List Byte)) (n : Nat) (got : AMap (List Byte)) : AMap (List Byte) :=
  l.filter (fun e => decide (e.1 / 2 ^ 32 < n)) ++ got.map (fun e => (2 ^ 32 * n + e.1, e.2))
    ++ l.filter fun e => decide (n < e.1 / 2 ^ 32)

/-- Adds the prefetch of one tile: its entry, its gang and its number. -/
def prefetchStep (wg : Nat) (w : Workgroup) (p : Prefetch) (e : ((Nat × Nat) × Nat) × Nat) : Prefetch :=
  let n := e.2
  let e := e.1
  match prefetchTile p.s wg w e.1.2 e.2 (gotOf p.got n) with
  | .wait s got => { p with s := s, waits := true, got := keepGot p.got n got }
  | .ok off bytes s got => { p with s := s, tiles := p.tiles ++ [(off, bytes)], got := keepGot p.got n got }
  | .fault f s =>
    let td := bits (handleAt (((w.records[e.2]?).map (·.words)).getD []) (bits e.1.2 12 3)) 0 10
    { p with s := s, faults := p.faults ++ [(e.1.1, e.2, td, f)] }

/-- Writes a prefetched tile; the copy draws on the VF's copy-engine bucket, one token for every 64 bytes (R76, R363). -/
def putTile (vf cell : Nat) (s : State) (t : Nat × List Byte) : State :=
  charge (spadWrite s cell t.1 t.2) 5 cell vf (ceilDiv t.2.length 64)

/-- The fault every gang takes at its first instruction: PF0's before PF1's, with the mask of the gangs whose tiles fault
(R76). Where those tiles fault differently, the code and the descriptor index are the lowest gang's (DESIGN CHOICE: R76 does
not say whose; log 69). -/
def prefetchFault (l : List (Nat × Nat × Nat × GFault)) : Option GFault :=
  match (l.find? fun e => e.1 == 0).orElse fun _ => l.head? with
  | none => none
  | some (entry, _, td, f) =>
    let mask := ((l.filter fun e => e.1 == entry).map (·.2.1)).foldl (fun n j => n + 2 ^ j) 0
    some { f with tval := BitVec.ofNat 64 (mask + td * 2 ^ 32 + entry * 2 ^ 46 + 2 ^ 47) }

/-- SHADOW_PREFETCH_COMPLETE (R76). The tiles that a workgroup's node declares are in the scratchpad, and it is runnable. A prefetch
that waits keeps what it has read; one hears of failures until all of them end (R350). -/
def execShadowPrefetchComplete (wg : Nat) (s : State) : Host.Outcome State Fault Refusal :=
  match mapGet s.workgroups wg with
  | none => .next s
  | some w =>
    match (mapGet s.launches (launchKey w.vf w.lslot)).bind fun l => l.nodes[w.node]? with
    | none => .next s
    | some n =>
      if w.phase ≠ .shadow then .next s
      else
        let jobs := (prefetches n).flatMap fun e => (prefetchGangs n w.records).map fun j => (e, j)
        let p := jobs.zipIdx.foldl (prefetchStep wg w) ⟨s, false, w.fetched, [], []⟩
        if p.waits then .next { p.s with workgroups := mapSet p.s.workgroups wg { w with fetched := p.got } }
        else
          let w' := { w with phase := .runnable, launchFault := prefetchFault p.faults, fetched := [] }
          let s := p.tiles.foldl (putTile w.vf w.cell) (leaveFailed (leaveFailed p.s (.shadow wg)) (.copy wg))
          .next { s with workgroups := mapSet s.workgroups wg w' }

/-! ## The order of R78 -/

/-- The place of a runnable workgroup in the order of R78. -/
def launchOrder (l : Launch) (w : Workgroup) : List Nat :=
  let n := l.nodes[w.node]?
  if w.drain then [0, reserveOf l w.node, 0, 0, w.node]
  else if (shardOf l w.node w.stack).hot then [1, 0, 0, 0, w.node]
  else [2, 7 - l.priority, 7 - (n.map (·.priority)).getD 0, w.oldest, w.node]

/-- SLICE of a VF (R379). -/
def sliceReg (s : State) (vf : Nat) : Nat := regGet s (pageReg vf 0x30)

/-- Whether the save slots of a workgroup are to be set aside as it is placed: on a lent cell, or on a pool cell under an
enabled slice (R382). -/
def wantsSlots (s : State) (vf cell : Nat) : Bool :=
  !entitled s vf cell || (bits (sliceReg s vf) 63 1 == 1 && (reserver s cell).isNone)

/-- The save slots to set aside for a workgroup of `n` gangs that is placed on a cell; none where too few are free (R382). -/
def slotsFor (s : State) (vf cell n : Nat) : Option (List Nat) := if wantsSlots s vf cell then takeSlots s vf n else some []

/-- Whether a runnable workgroup could be launched on its cell now, the order aside (R77, R369, R382). -/
def couldLaunch (s : State) (l : Launch) (n : Node) (w : Workgroup) : Bool :=
  w.phase == .runnable && l.phase == .running && decide (gangsOf n ≤ (freeSlots s w.cell).length)
    && (entitled s w.vf w.cell || lendable s w.vf w.cell) && (slotsFor s w.vf w.cell (gangsOf n)).isSome
    && reserveMet s w.vf l w.node n w.cell

/-- Whether the copy engine of a cell serves a node of a VF: its partition owns the engine, or the node prefetches nothing
(R357). -/
def engineServes (s : State) (vf : Nat) (n : Node) (cell : Nat) : Bool :=
  (prefetches n).isEmpty || ((partOf s vf).map fun p => p.2.copy.contains cell).getD false

/-- Whether a pre-empted workgroup could resume on a cell now (R78, R382, R383). -/
def couldResume (s : State) (w : Workgroup) (cell : Nat) : Bool :=
  match mapGet s.launches (launchKey w.vf w.lslot) with
  | none => false
  | some l =>
    match l.nodes[w.node]? with
    | none => false
    | some n => w.phase == .saved && l.phase == .running && entitled s w.vf cell && l.stackGroups.contains (stackOf cell)
        && decide (w.saved.length ≤ (freeSlots s cell).length) && decide (capacity n ≤ (freeWindowSlots s cell).length)
        && reserveMet s w.vf l w.node n cell && engineServes s w.vf n cell && (slotsFor s w.vf cell w.slots.length).isSome

/-- Whether a pre-empted workgroup could resume somewhere now: on any entitled cell of any stack group of its launch (R78). -/
def resumable (s : State) (w : Workgroup) : Bool :=
  match mapGet s.launches (launchKey w.vf w.lslot) with
  | none => false
  | some l => w.phase == .saved && l.stackGroups.any fun st => (entitledCells s w.vf st).any (couldResume s w)

/-- Whether some workgroup of the VF that could be placed now, on whichever cell, comes before a runnable one (R78). -/
def outranked (s : State) (wg : Nat) (l : Launch) (w : Workgroup) : Bool :=
  s.workgroups.any fun e => e.1 != wg && e.2.vf == w.vf &&
    (resumable s e.2 || match mapGet s.launches (launchKey e.2.vf e.2.lslot) with
      | none => false
      | some m => match m.nodes[e.2.node]? with
        | none => false
        | some n => couldLaunch s m n e.2 && listBefore (launchOrder m e.2) (launchOrder l w))

/-! ## Placement (R69, R77, R78) -/

/-- The words of a record in registers from a number on. -/
def layWords (m : Sparse 64) (base : Nat) (words : List Word) : Sparse 64 := wordSetList m base words

/-- v registers of each thread that holds a record (R69). -/
def layLanes (records : List WgRec) (idx : Nat) (m : Sparse 64) : List Nat → Sparse 64
  | [] => m
  | t :: r =>
    let m := match records[32 * idx + t]? with
      | none => m
      | some x => layWords m (1024 * t) x.words
    layLanes records idx m r

/-- EM at launch (R69). -/
def launchEm (n : Node) (records : List WgRec) (idx : Nat) : Mask :=
  match n.binding with
  | 0 => maskOf (List.range 32) fun t => decide (32 * idx + t < records.length)
  | 1 => if idx < records.length then 0xFFFFFFFF else 0
  | _ => 0xFFFFFFFF

/-- A gang's registers with its records delivered (R27, R69). -/
def deliver (n : Node) (records : List WgRec) (g : Gang) : Gang :=
  match n.binding with
  | 0 => { g with regs := layLanes records g.idx [] (List.range 32) }
  | 1 => { g with sregs := layWords [] 0 (((records[g.idx]?).map (·.words)).getD []) }
  | _ => { g with sregs := layWords [] 0 (((records[0]?).map (·.words)).getD []) }

/-- A gang of a workgroup as it is launched (R27, R69, R76). -/
def launchGang (l : Launch) (n : Node) (w : Workgroup) (wg idx : Nat) : Gang :=
  let pc := (l.codeBase + n.entry) % 2 ^ 57
  { deliver n w.records (Gang.launched w.vf w.lslot wg idx pc pc (launchEm n w.records idx)) with launchFault := w.launchFault }

/-- Puts the gangs of a workgroup into slots, ready from now on (R31). -/
def putGangs (s : State) (l : Launch) (n : Node) (w : Workgroup) (wg : Nat) : List (Nat × Nat) → State
  | [] => s
  | (slot, idx) :: r => putGangs (setGang s slot { launchGang l n w wg idx with ready := s.acycle }) l n w wg r

/-- Whether some slots are distinct free slots of a cell. -/
def goodSlots (s : State) (cell : Nat) (slots : List Nat) : Bool :=
  slots.all (fun k => cellOf k == cell && (mapGet s.gangs k).isNone) && decide slots.Nodup

/-- WORKGROUP_LAUNCH (R77, R78, R382). A runnable workgroup is placed into free gang slots of its cell. -/
def execWorkgroupLaunch (wg : Nat) (slots : List Nat) (s : State) : Host.Outcome State Fault Refusal :=
  match mapGet s.workgroups wg with
  | none => .next s
  | some w =>
    match mapGet s.launches (launchKey w.vf w.lslot) with
    | none => .next s
    | some l =>
      match l.nodes[w.node]? with
      | none => .next s
      | some n =>
        if couldLaunch s l n w && slots.length == gangsOf n && goodSlots s w.cell slots && !outranked s wg l w then
          let w' := { w with phase := .running, slots := slots, borrower := !entitled s w.vf w.cell, started := s.clock
                             launchFault := none }.hold ((slotsFor s w.vf w.cell (gangsOf n)).getD []) (rlcOf s w.vf)
          .next (putGangs { s with workgroups := mapSet s.workgroups wg w' } l n w wg slots.zipIdx)
        else .next s

/-! ## The governor (R79) -/

/-- The place of a node's shard in the governor's order. One that is not hot and has no trigger, of which R78 and R79 do not speak, is
last, by its node ID (DESIGN CHOICE; log 77). -/
def governorOrder (s : State) (k : Nat) (l : Launch) (node stack : Nat) : List Nat :=
  match l.nodes[node]? with
  | none => [9]
  | some n =>
    let h := shardOf l node stack
    if h.hot then [0, 7 - n.priority, 2 ^ 32 - shardCount h, 0, node]
    else match triggerOf s k l node n stack with
    | none => [3, 0, 0, 0, node]
    | some t =>
      if t = .drain then [1, reserveOf l node, 0, 0, node]
      else [2, 7 - l.priority, 7 - n.priority, oldestOf (shardRecs h), node]

/-- Whether another node of the VF comes before one for a cell of a stack group. -/
def governorOutranked (s : State) (vf stack : Nat) (order : List Nat) : Bool :=
  s.launches.any fun e => e.1 / 64 == vf && e.2.phase == .running && e.2.stackGroups.contains stack
    && (List.range e.2.nodes.length).any fun node => listBefore (governorOrder s e.1 e.2 node stack) order

/-- GOVERNOR_REASSIGN (R79, R362). A cell whose shadow slots are both empty is assigned to the node whose turn it is. -/
def execGovernorReassign (cell vf lslot node : Nat) (s : State) : Host.Outcome State Fault Refusal :=
  let k := launchKey vf lslot
  match mapGet s.launches k with
  | none => .next s
  | some l =>
    if l.phase == .running && decide (node < l.nodes.length) && l.stackGroups.contains (stackOf cell) && shadowCount s cell == 0
        && (entitled s vf cell || lendable s vf cell)
        && !governorOutranked s vf (stackOf cell) (governorOrder s k l node (stackOf cell))
    then .next { s with governor := mapSet s.governor cell (vf, lslot, node) }
    else .next s

/-! ## The end of a workgroup (R84, R173) -/

/-- Whether what a gang that has ended left in flight is complete (R173). -/
def gangDone (s : State) (slot : Nat) (g : Gang) : Bool :=
  g.ended && g.loads.all (·.complete) && g.stores.isEmpty && !(s.copies.any fun e => e.2.slot == slot)
    && !(((mapGet s.matrix (bayOf slot)).map fun m => m.queue.any fun o => o.slot == slot).getD false)

/-- Frees the slots of the gangs of a workgroup that have ended and whose operations are complete (R173). -/
def freeEnded (s : State) (wg : Nat) : State :=
  let done := s.gangs.filter fun e => e.2.wg == wg && gangDone s e.1 e.2
  { s with
    gangs := mapFilter (fun k _ => !(done.map (·.1)).contains k) s.gangs
    workgroups := mapUpdate s.workgroups wg fun w => { w with gone := w.gone ++ done.map fun e => e.2.idx } }

/-- The fault of an arrival that a workgroup's end makes (R84, R313). -/
def joinEndFault (ref : Nat) : GFault := { joinFault 0 0 ref with escalates := true }

/-- Makes the arrivals of a workgroup that ends, one at a time, in the order of their larder banks; the first that fails
escalates (R84). -/
def endArrivals (s : State) (k : Nat) (w : Workgroup) : List Nat → State × Bool
  | [] => (s, true)
  | ref :: r =>
    match liveJoin s (k / 64) (k % 64) ref with
    | none => (abortLaunch s (k / 64) (k % 64) w.node ((w.slots[0]?).getD 0) 0 (joinEndFault ref) 0, false)
    | some _ => endArrivals (joinArrive s k ref) k w r

/-- Places a reference by its bank. -/
def insertRef (ref : Nat) : List Nat → List Nat
  | [] => [ref]
  | x :: l => if joinKey ref / 2048 < joinKey x / 2048 then ref :: x :: l else x :: insertRef ref l

/-- The references whose arrivals a workgroup's end makes (R84). -/
def pendingRefs (w : Workgroup) : List Nat :=
  ((w.records.filter fun r => !r.arrived && recJoin r.words != 0).map fun r => recJoin r.words).foldr insertRef []

/-- WORKGROUP_END (R84, R173). Slots of ended gangs fall free; with the last one the workgroup ends, and its arrivals are
made. -/
def execWorkgroupEnd (wg : Nat) (s : State) : Host.Outcome State Fault Refusal :=
  match mapGet s.workgroups wg with
  | none => .next s
  | some w0 =>
    if w0.phase ≠ .running then .next s
    else
      let s := freeEnded s wg
      match mapGet s.workgroups wg with
      | none => .next s
      | some w =>
        if w.gone.length < w.slots.length then .next s
        else
          let r := endArrivals s (launchKey w.vf w.lslot) w (pendingRefs w)
          if r.2 then .next (discardWorkgroups r.1 fun x => x == wg) else .next r.1

end Sys2Proof.Machine
end

