-- ==== Sys2Proof/Machine/Partitions.lean ====
section
/-! DEFINITION. Partitions (R354 to R357), policies and reservations (R359 to R362), token buckets (R363 to R367), and lending
with reclaim (R369). -/

namespace Sys2Proof.Machine

/-! ## PARTDESC (R354) -/

/-- The descriptor in the PARTDESC window (R354). -/
def partDesc (s : State) : Nat := wordsToNat ((List.range 64).map fun i => wordGet s.hreg (pfReg (8 * i)))

/-- The units that a bitmap of `n` bits from `lo` names. -/
def unitsIn (x lo n : Nat) : List Nat := (List.range n).filter fun k => bits x (lo + k) 1 == 1

/-- The ownership a descriptor names (R354). -/
def partOfDesc (x : Nat) : Partition where
  clusters := unitsIn x 0 64
  banks := unitsIn x 64 1024
  channels := unitsIn x 1088 256
  larder := unitsIn x 1344 128
  copy := unitsIn x 1472 512
  fabric := unitsIn x 1984 8
  stations := unitsIn x 1992 24
  ports := unitsIn x 2016 4
  vfs := unitsIn x 2048 1024

/-- The resources of a partition by KIND of PARTSTAT (R355). -/
def resources (p : Partition) : List (List Nat) :=
  [p.clusters, p.banks, p.channels, p.larder, p.copy, p.fabric, p.stations, p.ports, p.vfs]

/-- Whether a partition owns any resource. -/
def ownsAny (p : Partition) : Bool := (resources p).any fun l => !l.isEmpty

/-- The first unit, by kind and number, that another partition owns (R356). -/
def conflictIn (s : State) (part : Nat) (p : Partition) : Option (Nat × Nat) :=
  ((resources p).zipIdx.filterMap fun e =>
    (e.1.find? fun u => s.parts.any fun o => o.1 != part && ((resources o.2)[e.2]?.getD []).contains u).map fun u =>
      (e.2, u)).head?

/-! ## Profiles (R363 to R365) -/

/-- The capacity of an arbiter of each kind, per 1,024 fabric cycles (R363). -/
def capacityOf (kind : Nat) : Nat := ([512, 512, 877, 1142, 1142, 4096, 1024, 1024][kind]?).getD 0

/-- The arbiters of each kind that a partition owns (R363). -/
def arbitersOf (p : Partition) (kind : Nat) : List Nat :=
  match kind with
  | 0 => p.clusters.flatMap fun c => (List.range 32).map fun i => 32 * c + i
  | 1 => p.banks
  | 2 => p.channels
  | 3 => p.stations
  | 4 => p.ports
  | 5 => p.copy
  | 6 => p.larder
  | _ => clusterStacks p

/-- BKT[kind] of a VF (R364). -/
def profile (s : State) (vf kind : Nat) : Nat := regGet s (pageReg vf (0x80 + 8 * kind))
/-- RATE of a profile (R364). -/
def rateOf (x : Nat) : Nat := bits x 48 16
/-- DEPTH of a profile (R364). -/
def depthIn (x : Nat) : Nat := bits x 32 16

/-- Larder lines of a partition in a stack group (R21). -/
def larderLines (p : Partition) (stack : Nat) : Nat := 2048 * (p.larder.filter fun b => b / 16 == stack).length

/-- Whether profiles of the VFs of a partition, one for each, keep to R365 for a kind. -/
def profilesFit (p : Partition) (kind : Nat) (of : Nat → Nat) : Bool :=
  let total := fun (f : Nat → Nat) => p.vfs.foldl (fun n v => n + f (of v)) 0
  decide (total rateOf ≤ capacityOf kind) && decide (total (fun x => bits x 16 5) ≤ 16)
    && (List.range 8).all fun st => larderLines p st == 0 || decide (total (fun x => bits x 0 16) ≤ larderLines p st)

/-- Whether the reserved field of a profile is non-zero (R364, R365). -/
def profileReserved (x : Nat) : Bool := bits x 21 8 != 0

/-- Whether a kind-restricted field of a profile is non-zero: WAYS outside kind 1, LRES outside kind 6 (R364, R365). -/
def profileRestricted (kind x : Nat) : Bool := (kind != 1 && bits x 16 5 != 0) || (kind != 6 && bits x 0 16 != 0)

/-! ## Partition commands (R355, R356) -/

/-- Sets RESULT of PARTSTAT, with the offending unit (R355). -/
def partResult (s : State) (result kind unit : Nat) : State :=
  { s with partstat := BitVec.ofNat 64 (result + unit * 2 ^ 4 + kind * 2 ^ 16) }

/-- Whether PARTCMD finds a partition busy (R356). -/
def partBusy (s : State) (part : Nat) : Bool :=
  ((mapGet s.parts part).map ownsAny).getD false && drainOf s.drainPart part != .drained

/-- Clears the reservations of the cells of clusters that leave a partition (R361). -/
def clearReservations (s : State) (clusters : List Nat) : State :=
  (clusters.flatMap fun c => (List.range 8).map fun i => 8 * c + i).foldl
    (fun s cell => regPut { s with governor := mapErase s.governor cell } (pfReg (0x2000 + 8 * cell)) 0) s

/-- Whether partition commands are taken (R408, R410): none before STATE 2. -/
def commandsOpen (s : State) : Bool := decide (s.bringup ≥ 2)

/-- The checks of PARTCMD OP 00, in order: RESULT with KIND and UNIT (R356). -/
def defineResult (s : State) (part x : Nat) : Nat × Nat × Nat :=
  let p := partOfDesc x
  if s.bringup = 8 ∨ bits x 3072 1024 + bits x 2020 28 ≠ 0 then (5, 0, 0)
  else if partBusy s part then (3, 0, 0)
  else match conflictIn s part p with
    | some (kind, unit) => (1, kind, unit)
    | none =>
      if p.clusters.isEmpty || p.banks.isEmpty || p.channels.isEmpty || p.larder.isEmpty then (2, 0, 0)
      else if !((List.range 8).all fun kind => profilesFit p kind fun v => profile s v kind) then (4, 0, 0)
      else (0, 0, 0)

/-- PARTCMD_DEFINE (R356). Defines or replaces a partition from PARTDESC, as a whole or not at all. -/
def execPartcmdDefine (part : Nat) (s : State) : Host.Outcome State Fault Refusal :=
  if !commandsOpen s then .next s
  else
    let x := partDesc s
    let r := defineResult s part x
    let s := partResult s r.1 r.2.1 r.2.2
    if r.1 ≠ 0 then .next s
    else
      let p := partOfDesc x
      let old := ((mapGet s.parts part).map (·.clusters)).getD []
      let s := clearReservations s (old.filter fun c => !p.clusters.contains c)
      .next { s with parts := mapSet s.parts part p }

/-- PARTCMD_DELETE (R356). Frees every unit of a partition. -/
def execPartcmdDelete (part : Nat) (s : State) : Host.Outcome State Fault Refusal :=
  if !commandsOpen s then .next s
  else if s.bringup = 8 then .next (partResult s 5 0 0)
  else if partBusy s part then .next (partResult s 3 0 0)
  else
    let old := ((mapGet s.parts part).map (·.clusters)).getD []
    let s := clearReservations s old
    .next (partResult { s with parts := mapErase s.parts part } 0 0 0)

/-! ## Reservations, profiles and policies (R359, R361, R365, R397) -/

/-- CELLRES_WRITE (R361). Reserves a cell for a VF whose partition owns it, or returns it to the pool. -/
def execCellresWrite (cell : Nat) (value : BitVec 64) (s : State) : Host.Outcome State Fault Refusal :=
  let v := bits value.toNat 15 1
  let vf := bits value.toNat 0 10
  let owned := match partOf s vf with
    | none => false
    | some (_, p) => ownsCell p cell
  if v = 1 ∧ owned = false then .next (partResult s 1 0 0)
  else .next (regPut s (pfReg (0x2000 + 8 * cell)) (v * 2 ^ 15 + vf))

/-- Sets the bucket of a VF at the arbiters of a kind to DEPTH (R365, R372). -/
def fillBuckets (s : State) (vf kind depth : Nat) (units : List Nat) : State :=
  { s with buckets := units.foldl (fun m u => mapSet m (bucketKey kind u vf) ((1024 * depth : Nat) : Int)) s.buckets }

/-- The VFs and kinds whose buckets are to be filled, with one more (R372). -/
def addRefill (s : State) (vf kind : Nat) : State :=
  { s with refills := s.refills.filter (fun r => r != (vf, kind)) ++ [(vf, kind)] }

/-- BKT_PROFILE_WRITE (R364, R365, R372). An accepted profile sets the VF's buckets of the kind to DEPTH tokens from the next fabric
cycle. -/
def execBktProfileWrite (vf kind : Nat) (value : BitVec 64) (s : State) : Host.Outcome State Fault Refusal :=
  let x := value.toNat
  if kind ≥ 8 then .next s
  else if profileReserved x then .next (partResult s 5 0 0)
  else if profileRestricted kind x then .next (partResult s 4 0 0)
  else match partOf s vf with
    | none => .next (partResult (regPut s (pageReg vf (0x80 + 8 * kind)) x) 0 0 0)
    | some (_, p) =>
      if profilesFit p kind fun v => if v = vf then x else profile s v kind then
        .next (partResult (addRefill (regPut s (pageReg vf (0x80 + 8 * kind)) x) vf kind) 0 0 0)
      else .next (partResult s 4 0 0)

/-- POLICY_WRITE (R359). TENANT and CEIL take effect when the VF is next DRAINED; the other fields at once. -/
def execPolicyWrite (vf : Nat) (value : BitVec 64) (s : State) : Host.Outcome State Fault Refusal :=
  .next (regPut s (pageReg vf 0) (bits value.toNat 43 21 * 2 ^ 43))

/-- QASSIGN_WRITE (R397). Assigns a package queue that no other VF's slot holds. -/
def execQassignWrite (vf q : Nat) (value : BitVec 64) (s : State) : Host.Outcome State Fault Refusal :=
  let v := bits value.toNat 63 1
  let num := bits value.toNat 0 12
  let held := (List.range 1024).any fun o => o != vf && (List.range 64).any fun i =>
    let x := regGet s (pageReg o (0x100 + 8 * i))
    bits x 63 1 == 1 && bits x 0 12 == num
  if v = 1 ∧ held then .next (partResult s 1 0 0)
  else .next (regPut s (pageReg vf (0x100 + 8 * q)) (v * 2 ^ 63 + num))

/-! ## Time and tokens (R17, R366) -/

/-- Accrual at one arbiter over the VFs of its partition (R366): buckets, the overflow that is lent, and the sum of rates. -/
def accrueVfs (s : State) (kind unit : Nat) : List Nat → AMap Int × Nat × Nat → AMap Int × Nat × Nat
  | [], a => a
  | v :: r, (m, lent, rates) =>
    let x := profile s v kind
    if x = 0 ∧ (mapGet m (bucketKey kind unit v)).isNone then accrueVfs s kind unit r (m, lent, rates)
    else
      let c := (mapGet m (bucketKey kind unit v)).getD 0 + (rateOf x : Int)
      let top := ((1024 * depthIn x : Nat) : Int)
      let spill := if c > top then (c - top).toNat else 0
      accrueVfs s kind unit r (mapSet m (bucketKey kind unit v) (min c top), (if bits x 31 1 = 1 then lent + spill else lent),
        rates + rateOf x)

/-- Accrual at one arbiter (R366); a pool does not fall below zero (log 27). -/
def accrueAt (kind : Nat) (vfs : List Nat) (s : State) (unit : Nat) : State :=
  let a := accrueVfs s kind unit vfs (s.buckets, 0, 0)
  let pool := (mapGet s.pools (poolKey kind unit)).getD 0 + a.2.1 + capacityOf kind - a.2.2
  { s with buckets := a.1, pools := mapSet s.pools (poolKey kind unit) (min pool (1024 * 65535)) }

/-- Accrual at every arbiter that a partition owns (R354, R363). -/
def accruePart (s : State) (p : Partition) : State :=
  (List.range 7).foldl (fun s kind => (arbitersOf p kind).foldl (accrueAt kind p.vfs) s) s

/-- Accrual at the walker of a stack group, which serves every partition with a cluster there (R343, R363; log 27). -/
def accrueWalker (s : State) (stack : Nat) : State :=
  let here := s.parts.filter fun e => (clusterStacks e.2).contains stack
  if here.isEmpty then s else accrueAt 7 (here.flatMap fun e => e.2.vfs) s stack

/-- Whether the cycle of a gang counts as held under an acted pre-emption (R380). -/
def heldUnder (s : State) (g : Gang) : Bool :=
  g.hold.isSome && sealedForPreempt g && !g.ended && !g.stopped
    && ((mapGet s.workgroups g.wg).map fun w => w.acted && w.phase == .running).getD false

/-- One arithmetic cycle passes. -/
def arithCycle (s : State) : State :=
  { s with acycle := s.acycle + 1
           gangs := mapAll (fun _ g => if heldUnder s g then { g with heldCycles := g.heldCycles + 1 } else g) s.gangs }

/-- One fabric cycle passes; an arithmetic cycle with it when its phase is due: the fabric clock runs at 1,400 MHz (R16, R17). -/
def passCycle (s : State) : State :=
  let phase := s.aphase + s.freq
  let s := { s with clock := s.clock + 1, fresh := [], aphase := if phase ≥ 1400 then phase - 1400 else phase }
  if phase ≥ 1400 then arithCycle s else s

/-- A pending pre-emption that was not acted on is acted on once save slots suffice (R382). -/
def retryPreempt (s : State) : State :=
  ((s.workgroups.filter fun e => e.2.preempt && !e.2.acted).map (·.1)).foldl actPreempt s

/-- The buckets whose profile was written in the cycle that ends start at DEPTH (R365, R372). -/
def fillDue (s : State) : State :=
  s.refills.foldl (fun s r => match partOf s r.1 with
    | none => s
    | some (_, p) => fillBuckets s r.1 r.2 (depthIn (profile s r.1 r.2)) (arbitersOf p r.2)) { s with refills := [] }

/-- Every bucket accrues its rate, and overflow and unowned capacity go to the pools (R366). -/
def accrueAll (s : State) : State :=
  (List.range 8).foldl accrueWalker (s.parts.foldl (fun s e => accruePart s e.2) s)

/-! ## Arbitration (R367) -/

/-- The place of a request in a round: owners by age, then borrowers by BPRIO, age and VF (R367, R372). -/
def requestOrder (s : State) (kind unit : Nat) (r : BucketRequest) : List Nat :=
  if (mapGet s.buckets (bucketKey kind unit r.vf)).getD 0 ≥ 1024 then [0, r.since, r.vf]
  else [1, 3 - bits (profile s r.vf kind) 29 2, r.since, r.vf]

/-- Places a request by its order. -/
def insertRequest (s : State) (kind unit : Nat) (r : BucketRequest) : List BucketRequest → List BucketRequest
  | [] => [r]
  | x :: l => if listBefore (requestOrder s kind unit r) (requestOrder s kind unit x) then r :: x :: l
              else x :: insertRequest s kind unit r l

/-- A transfer that waits for its tokens, as a request as old as its place among them (R367; log 59). -/
def Owed.request (o : Owed) (since : Nat) : BucketRequest := ⟨o.vf, o.tokens, since⟩

/-- Places a waiting transfer, with its number, by the order of its arbiter. -/
def insertOwed (s : State) (e : Owed × Nat) : List (Owed × Nat) → List (Owed × Nat)
  | [] => [e]
  | x :: l =>
    if listBefore (requestOrder s e.1.kind e.1.unit (e.1.request e.2)) (requestOrder s x.1.kind x.1.unit (x.1.request x.2)) then
      e :: x :: l
    else x :: insertOwed s e l

/-- A round grants the transfers that wait for their tokens, owners first, then those that borrow; the others wait on (R366, R367;
log 59). -/
def payOwed (s : State) : State :=
  let l := s.owed.zipIdx
  let r := (l.foldr (insertOwed s) []).foldl (fun (a : State × List Nat) e => match grant a.1 e.1.kind e.1.unit e.1.vf e.1.tokens with
    | some t => (t, a.2)
    | none => (a.1, a.2 ++ [e.2])) (s, [])
  { r.1 with owed := (l.filter fun e => r.2.contains e.2).map (·.1) }

/-- BUCKET_ACCRUAL (R366, R372). A fabric cycle passes: buckets whose profile was written start at DEPTH, and every bucket accrues its
rate; gangs that waited for a token that is there now are ready (R31). -/
def execBucketAccrual (s : State) : Host.Outcome State Fault Refusal :=
  .next (releaseTokens (payOwed (accrueAll (fillDue (retryPreempt (passCycle s))))))

/-- Grants one request, where its bucket or the pool serves it. -/
def grantOne (kind unit : Nat) (s : State) (r : BucketRequest) : State := (grant s kind unit r.vf r.tokens).getD s

/-- Whether an arbiter holds a bucket for a VF (R363). -/
def arbiterServes (s : State) (kind unit vf : Nat) : Bool :=
  match partOf s vf with
  | none => false
  | some (_, p) => (arbitersOf p kind).contains unit

/-- ARBITRATION_ROUND (R366, R367). An arbiter grants the requests of owners, then those that borrow. -/
def execArbitrationRound (kind unit : Nat) (requests : List BucketRequest) (s : State) : Host.Outcome State Fault Refusal :=
  let mine := requests.filter fun r => arbiterServes s kind unit r.vf
  .next ((mine.foldr (insertRequest s kind unit) []).foldl (grantOne kind unit) s)

/-! ## Reclaim (R369) -/

/-- The workgroups that satisfy a test become pending for pre-emption (R379). -/
def preemptAll (s : State) (mine : Workgroup → Bool) : State :=
  ((s.workgroups.filter fun e => mine e.2).map (·.1)).foldl requestPreempt s

/-- Whether a VF has a workgroup for a cell: a runnable one there, or a pre-empted one that may resume on it (R369, R383). -/
def wantsCell (s : State) (vf cell : Nat) : Bool :=
  s.workgroups.any fun e => e.2.vf == vf && ((e.2.phase == .runnable && e.2.cell == cell) ||
    (e.2.phase == .saved && (((mapGet s.launches (launchKey e.2.vf e.2.lslot)).map fun l =>
      l.stackGroups.contains (stackOf cell)).getD false)))

/-- CELL_RECLAIM (R369). The reserving VF has a workgroup for its cell: pre-emption of the borrowers becomes pending. -/
def execCellReclaim (cell : Nat) (s : State) : Host.Outcome State Fault Refusal :=
  match reserver s cell with
  | none => .next s
  | some v =>
    if wantsCell s v cell then .next (preemptAll s fun w => w.borrower && stands w cell && w.vf != v) else .next s

end Sys2Proof.Machine
end

