-- ==== Sys2Proof/Machine/FaultEvents.lean ====
section
/-! DEFINITION. Events of faults and pre-emption: MARK_OVERDUE (R323, R380), slices and PREEMPT (R379), saving and resuming
(R381 to R383), HANG (R376), failing links (R405), soft errors, poison and quarantine (R389 to R392), the thermal trip (R412),
throttling (R17), watch events (R386) and plates (R387). -/

namespace Sys2Proof.Machine

/-! ## MARK_OVERDUE (R323, R380) -/

/-- MARK_OVERDUE_COUNT (R323). A sealed gang would issue its 4,097th instruction after its last mark. -/
def execMarkOverdueCount (slot : Nat) (s : State) : Host.Outcome State Fault Refusal :=
  match mapGet s.gangs slot with
  | none => .next s
  | some g =>
    if g.sealed && !g.charged && !g.ended && !g.stopped && decide (g.markCount ≥ 4096) then
      .next (takeFault s slot g (lenAt s slot g) (precise .markOverdue 4096))
    else .next s

/-- MARK_OVERDUE_HELD (R380). A sealed gang has been held for 65,536 arithmetic cycles since its pre-emption was acted on. -/
def execMarkOverdueHeld (slot : Nat) (s : State) : Host.Outcome State Fault Refusal :=
  match mapGet s.gangs slot with
  | none => .next s
  | some g =>
    if heldUnder s g && decide (g.heldCycles ≥ 65536) then
      .next (takeFault s slot g (lenAt s slot g) (precise .markOverdue 0x10000))
    else .next s

/-! ## Pre-emption becomes pending (R379) -/

/-- Whether a runnable or pre-empted workgroup finds no entitled cell with enough free gang slots (R379). -/
def lacksCell (s : State) (w : Workgroup) : Bool :=
  match mapGet s.launches (launchKey w.vf w.lslot) with
  | none => false
  | some l =>
    let need := ((l.nodes[w.node]?).map gangsOf).getD 1
    (w.phase == .runnable || w.phase == .saved)
      && (if w.phase = .saved then l.stackGroups else [w.stack]).all fun st =>
        (entitledCells s w.vf st).all fun c => decide ((freeSlots s c).length < need)

/-- Whether the slice of a running workgroup on a pool cell has expired: 1,400 fabric cycles a microsecond (R16, R379). -/
def sliceOver (s : State) (w : Workgroup) : Bool :=
  let x := sliceReg s w.vf
  w.phase == .running && bits x 63 1 == 1 && (reserver s w.cell).isNone
    && decide (s.clock ≥ w.started + 1400 * bits x 0 32)

/-- SLICE_EXPIRY (R379). A slice expires while a workgroup of another VF of the partition has no free entitled cell. -/
def execSliceExpiry (wg : Nat) (s : State) : Host.Outcome State Fault Refusal :=
  match mapGet s.workgroups wg with
  | none => .next s
  | some w =>
    match partOf s w.vf with
    | none => .next s
    | some (_, p) =>
      if sliceOver s w && s.workgroups.any fun e => e.2.vf != w.vf && p.vfs.contains e.2.vf && lacksCell s e.2 then
        .next (requestPreempt s wg)
      else .next s

/-- PREEMPT_VF (R379). Pre-emption of every workgroup of a VF becomes pending. -/
def execPreemptVf (vf : Nat) (s : State) : Host.Outcome State Fault Refusal := .next (preemptAll s fun w => w.vf == vf)

/-- PREEMPT_PARTITION (R379). Pre-emption of every workgroup of a partition becomes pending. -/
def execPreemptPartition (part : Nat) (s : State) : Host.Outcome State Fault Refusal :=
  match mapGet s.parts part with
  | none => .next s
  | some p => .next (preemptAll s fun w => p.vfs.contains w.vf)

/-! ## Saving (R381, R382) -/

/-- Where a save slot of a VF and class begins: a PA of the partition for classes 0 and 1, a host bus address for classes 2 and 3
(R382). -/
def saveSlotAt (s : State) (vf rlc k : Nat) : Nat := bits (saveArea s vf rlc) 16 41 * 2 ^ 16 + 65536 * k

/-- A line of a save slot in device memory is locked in its home slice in class 0 (R371). -/
def saveLine (p : Partition) (vf wg rlc : Nat) (s : State) (pa : Nat) : State :=
  if rlc = 0 then l2Lock s (lineIn p (homeSlice p pa) vf pa) wg else s

/-- Writes a gang's shelf into a save slot, whose layout is not architectural: free bytes (R371, R382; log 1). Nothing is written
beyond the memory of the partition (log 23). -/
def saveInto (p : Partition) (vf wg rlc : Nat) (s : State) (k : Nat) : State :=
  let a := saveSlotAt s vf rlc k
  let b := freeBytes s 65536
  if rlc < 2 then
    if a + 65536 ≤ memorySize p then
      ((List.range 512).map fun i => a + 128 * i).foldl (saveLine p vf wg rlc) (paStore b.2 p vf a b.1)
    else s
  else hostPut b.2 ((List.range 65536).map (a + ·)) b.1

/-- Writes the shelves of a saved workgroup into its save slots (R381 step 4, R382). -/
def saveShelves (s : State) (wg : Nat) (w : Workgroup) : State :=
  match partOf s w.vf with
  | none => s
  | some (_, p) => w.saveSlots.foldl (saveInto p w.vf wg w.saveClass) s

/-- SAVE_COMPLETE (R70, R381). The shelves and records of a stopped workgroup are in the save area: its slots, record-window
slots and rings fall free. -/
def execSaveComplete (wg : Nat) (s : State) : Host.Outcome State Fault Refusal :=
  match mapGet s.workgroups wg with
  | none => .next s
  | some w =>
    let mine := s.gangs.filter fun e => e.2.wg == wg
    if w.phase ≠ .saving ∨ mine.any fun e => e.2.ended && !gangDone s e.1 e.2 then .next s
    else
      let ended := (mine.filter fun e => e.2.ended).map fun e => e.2.idx
      let s := saveShelves s wg w
      let window := w.records.map fun r => spadRead s w.cell (windowOffset r.index) 64
      .next { s with
        gangs := mapFilter (fun _ g => g.wg != wg) s.gangs
        workgroups := mapSet s.workgroups wg { w with phase := .saved, gone := w.gone ++ ended, borrower := false, window := window }
        window := mapFilter (fun _ x => x != wg) s.window
        rings := mapFilter (fun _ r => r.wg != wg) s.rings }

/-! ## Resuming (R324, R383) -/

/-- The registers that the mark a gang resumes from keeps (R319, R324). -/
def resumeRegs (n : Node) (g : Gang) : List (BitVec 10) :=
  if g.noMark then [] else match n.recipes.find? fun e => bits e 32 8 == g.lastMark.toNat with
    | none => []
    | some e => keptRegs e

/-- One register of every thread, as it was kept. -/
def restoreReg (from_ : Sparse 64) (x : BitVec 10) (m : Sparse 64) : List Nat → Sparse 64
  | [] => m
  | t :: r => restoreReg from_ x (wordSet m (regKey t x) (wordGet from_ (regKey t x))) r

/-- The kept registers of every thread over the launch values (R324). -/
def restoreRegs (from_ : Sparse 64) (m : Sparse 64) : List (BitVec 10) → Sparse 64
  | [] => m
  | x :: r => restoreRegs from_ (restoreReg from_ x m (List.range 32)) r

/-- The deferred faults that a pre-empted gang still takes: those that are raised at its next instruction, and those of copies
that it issued before its last mark (R293, R297, R381). -/
def keptFaults (g : Gang) : List Deferred :=
  g.deferred.filterMap fun d => match d.site with
    | .next | .report => some { d with site := .next }
    | .copy _ marks => if marks < g.marks then some d else none
    | .batch _ => none

/-- A gang as it resumes from its mark (R324): its mark state, every other register at its launch value. -/
def resumeGang (l : Launch) (n : Node) (w : Workgroup) (wg : Nat) (g : Gang) (accs : AMap Nat) : Gang :=
  let base := launchGang l n { w with launchFault := g.launchFault } wg g.idx
  let late := keptFaults g
  if g.noMark then { base with deferred := late }
  else
    let h := g.shelf
    { base with
      pc := h.resume % 2 ^ 57
      em := h.em
      pm := h.pm
      regs := restoreRegs h.regs base.regs (resumeRegs n g)
      sregs := h.sregs
      preds := h.preds
      conds := h.conds
      accs := accs
      fpstat := h.fpstat
      vstat := h.vstat
      batchClosed := h.batchClosed
      batchRetired := h.batchRetired
      openBatch := h.batchClosed.toNat
      deferred := late
      noMark := false
      lastMark := g.lastMark
      marks := g.marks
      gbar := h.gbar
      shelf := { h with copies := [] } }

/-- The producer's scratchpad ranges, barriers and rings in the new cell (R383). -/
def restoreShared (s : State) (cell : Nat) (h : Shelf) : State :=
  let s := h.spads.foldl (fun s r => spadWrite s cell r.1 r.2) s
  let s := h.bars.foldl (fun s r => spadWrite s cell r.1 r.2) s
  { s with rings := h.rings.foldl (fun m r => mapSet m (ringKey cell r.1) { r.2 with waiters := [] }) s.rings }

/-- Reissues the cancelled copies of a gang on their tokens (R383). -/
def reissueCopies (s : State) (slot cell : Nat) : List Copy → State
  | [] => s
  | c :: r =>
    reissueCopies (startCopy s { c with slot := slot, cell := cell, marks := 0, sent := [], fetched := [], data := none, counted := []
                                        written := [], hit := none, keys := [] }) slot cell r

/-- Restores a gang into a slot, ready from now on (R31), and frees its save slot (R382); where its bay has too few free tiles for those
it keeps, it waits for them (R383). -/
def restoreGang (l : Launch) (n : Node) (w : Workgroup) (wg : Nat) (s : State) (e : Gang × Nat) : State :=
  let tiles := if e.1.noMark then [] else e.1.shelf.tiles
  match bindKept e.2 tiles (unitOf s (bayOf e.2)) [] with
  | none => setGang s e.2 { resumeGang l n w wg e.1 [] with restoring := tiles, hold := some .interlock }
  | some (m, a) =>
    slotRestored (setGang (setUnit s (bayOf e.2) m) e.2 { resumeGang l n w wg e.1 a with ready := s.acycle }) wg e.1.idx

/-- Whether another pre-empted workgroup of the VF that could resume now, on whichever cell, comes before one (R78). -/
def resumeOutranked (s : State) (wg : Nat) (w : Workgroup) : Bool :=
  s.workgroups.any fun e => e.1 != wg && e.2.vf == w.vf && resumable s e.2
    && listBefore [e.2.preempted, e.2.node] [w.preempted, w.node]

/-- Whether the rings a workgroup kept are free in a cell (R301). -/
def ringsFree (s : State) (cell : Nat) (w : Workgroup) : Bool :=
  w.saved.all fun e => e.2.shelf.rings.all fun r => (mapGet s.rings (ringKey cell r.1)).isNone

/-- The workgroup as it stands on its new cell (R383); the save slots in which its gangs lie are in use until each of them resumes
(R382). -/
def resumedWorkgroup (s : State) (w : Workgroup) (cell : Nat) (slots places : List Nat) : Workgroup :=
  ({ w with
    phase := .running, cell := cell, stack := stackOf cell, preempt := false, acted := false, started := s.clock, saved := []
    records := (w.records.zip places).map fun e => { e.1 with index := e.2 }
    slots := (w.saved.zip slots).foldl (fun l e => listUpdate l e.1.1 fun _ => e.2) w.slots, window := []
    keptSlots := (w.saved.zip w.saveSlots).map fun e => (e.1.1, w.saveClass, e.2) } : Workgroup).hold
      ((slotsFor s w.vf cell w.slots.length).getD []) (rlcOf s w.vf)

/-- Puts the saved contents of record-window slots into new slots (R70, R383). -/
def restoreWindow (s : State) (cell : Nat) (l : List (List Byte × Nat)) : State :=
  l.foldl (fun s e => spadWrite s cell (windowOffset e.2) e.1) s

/-- WORKGROUP_RESUME (R78, R324, R383). A pre-empted workgroup is restored on an entitled cell: records, the producer's state,
cancelled copies, and every gang at its mark. -/
def execWorkgroupResume (wg cell : Nat) (slots : List Nat) (s : State) : Host.Outcome State Fault Refusal :=
  match mapGet s.workgroups wg with
  | none => .next s
  | some w =>
    match mapGet s.launches (launchKey w.vf w.lslot) with
    | none => .next s
    | some l =>
      match l.nodes[w.node]? with
      | none => .next s
      | some n =>
        if couldResume s w cell && slots.length == w.saved.length && goodSlots s cell slots && ringsFree s cell w
            && !resumeOutranked s wg w then
          let places := (freeWindowSlots s cell).take (capacity n)
          let w' := resumedWorkgroup s w cell slots places
          let t := restoreWindow (takeWindowSlots { s with workgroups := mapSet s.workgroups wg w' } cell wg places) cell (w.window.zip places)
          let t := w.saved.foldl (fun t e => restoreShared t cell e.2.shelf) t
          let pairs := (w.saved.map (·.2)).zip slots
          let t := pairs.foldl (fun t e => reissueCopies t e.2 cell e.1.shelf.copies) t
          .next (pairs.foldl (restoreGang l n w' wg) t)
        else .next s

/-! ## HANG (R376) -/

/-- Whether a launch waits only because its completion entry could not be written: it is not in flight for R376 (R342). -/
def entryWaits (s : State) (k : Nat) (l : Launch) : Bool :=
  let q := queueOf s (k / 64) l.queue
  q.stopped && q.rp.toNat == l.packet && l.phase != .running && l.phase != .starting

/-- HANG_RUNTIME (R376). A launch has been in flight for LIMIT ms: 1,400,000 fabric cycles a millisecond (R16). -/
def execHangRuntime (vf lslot : Nat) (s : State) : Host.Outcome State Fault Refusal :=
  let k := launchKey vf lslot
  match mapGet s.launches k, partOf s vf with
  | some l, some (part, _) =>
    let x := regGet s (pfReg (0x1000 + 8 * part))
    let limit := bits x 0 32
    if bits x 63 1 = 1 ∧ limit ≠ 0 ∧ s.clock ≥ l.started + 1400000 * limit ∧ entryWaits s k l = false then
      .next (partitionReset s part FaultCode.hang.code 0 (some ⟨k, 0, 0, 0, 0⟩))
    else .next s
  | _, _ => .next s

/-- HANG_UNIT_TIMEOUT (R376). A unit of a partition has left a request unanswered for 1 ms. -/
def execHangUnitTimeout (part : Nat) (s : State) : Host.Outcome State Fault Refusal :=
  .next (partitionReset s part FaultCode.hang.code 1 none)

/-! ## Links (R217, R293, R405) -/

/-- A link of another state, which the physical function hears of (R395, R403). -/
def setLink (s : State) (link : Nat) (st : LinkState) (peer : Nat) : State :=
  notify { s with links := mapSet s.links link ⟨st, peer⟩ } none 3

/-- The elements that something outstanding carries over a link. -/
def onLink (link : Nat) (r : Option (Nat × BitVec 64)) : Option (BitVec 64) :=
  match r with
  | some (k, m) => if k = link then some m else none
  | none => none

/-- A load outstanding on a link: its elements there, those that have yet to be written, and its address (R217). -/
def loadOnLink (link : Nat) (l : OutLoad) : Option (BitVec 64 × List Late × Nat) :=
  if l.complete then none else (onLink link l.remote).map fun m => (m, l.late, l.addr)

/-- A store outstanding on a link, in the same form (R405). -/
def storeOnLink (link : Nat) (x : OutStore) : Option (BitVec 64 × List Late × Nat) :=
  (onLink link x.remote).map fun m => (m, [], x.addr)

/-- The first gang with a load or a store outstanding on a link, and what is (R217, R405). -/
def lostAccess (link : Nat) : AMap Gang → Option (Nat × BitVec 64 × List Late × Nat)
  | [] => none
  | (slot, g) :: r =>
    match firstSome (loadOnLink link) g.loads, firstSome (storeOnLink link) g.stores with
    | some x, _ | none, some x => some (slot, x)
    | none, none => lostAccess link r

/-- The elements of an access that are missing as its link fails: at least one; which is not stated, so free (R217; log 1). -/
def missingOf (s : State) (m : BitVec 64) : BitVec 64 :=
  if Config.freeWord s.free &&& m = 0 then m else Config.freeWord s.free &&& m

/-- A load or store is lost with its link: elements that have arrived are written, those that have not leave their destinations
unchanged, and its gang takes FABRIC_LOSS with the mask of the missing ones (R217). -/
def loseAccess (s : State) (slot : Nat) (m : BitVec 64) (late : List Late) (addr : Nat) : State :=
  let missing := missingOf s m
  let s := putLate { s with free := s.free + 1 } slot (late.filter fun x => x.mask &&& missing == 0)
  match mapGet s.gangs slot with
  | none => s
  | some g => takeFault s slot g (lenAt s slot g) { precise .fabricLoss missing with logAddr := some addr }

/-- The copies with a unit outstanding on a link, and whether it is one that they read (R293). -/
def lostCopies (s : State) (link : Nat) : List (Nat × Copy × Bool) :=
  s.copies.filterMap fun e =>
    (e.2.sent.find? fun u => u.2 == link && (mapGet e.2.fetched u.1).isNone).map fun u => (e.1, e.2, decide (u.1 < 2 ^ 32))

/-- The matrix operations with a range outstanding on a link, the first of each gang (R270). -/
def lostOps (s : State) (link : Nat) : List (Nat × MatOp) :=
  s.matrix.flatMap fun u => u.2.queue.filterMap fun o =>
    if outstandingOn o link ≠ 0 ∧ (splitQueue o.slot u.2.queue).2 = some o then some (u.1, o) else none

/-- A matrix operation is lost with its link (R270). -/
def loseOp (link : Nat) (s : State) (e : Nat × MatOp) : State :=
  unitFails s e.2.slot e.1 e.2 (unitFault e.2.addr e.2.td .fabricLoss 0 (missingOf s (outstandingOn e.2 link)))

/-- The partition whose record is lost with a link, and the launch that sent it, unless it has been aborted since: one that nobody has
acknowledged (R86, R406). -/
def lostRecord (s : State) (link : Nat) : Option (Nat × Option Nat) :=
  match s.sends.find? fun x => x.2.2 == link with
  | none => none
  | some (k, _, _) => (partOf s (k % 65536 / 64)).map fun p => (p.1, if k < 65536 then some k else none)

/-- A link is FAILED, and what is outstanding on it ends with FABRIC_LOSS: the first load, store or record resets the partition;
copies and matrix operations keep it for their gangs (R217, R270, R293, R377, R405, R406). -/
def loseLink (s : State) (link peer : Nat) : State :=
  let t := setLink s link .failed peer
  match lostAccess link s.gangs with
  | some (slot, m, late, addr) => loseAccess t slot m late addr
  | none =>
    match lostRecord s link with
    | some (part, k) => partitionReset t part FaultCode.fabricLoss.code 0 (k.map fun k => ⟨k, 0, 0, 0, 0⟩)
    | none =>
      let t := (lostCopies s link).foldl (fun t c => failCopy t c.1 c.2.1 .fabricLoss 0 c.2.2) t
      (lostOps s link).foldl (loseOp link) { t with free := t.free + 1 }

/-- LINK_FAILURE (R217, R293, R405). A link exhausts its replay or retries. -/
def execLinkFailure (link : Nat) (s : State) : Host.Outcome State Fault Refusal :=
  .next (loseLink s link (((mapGet s.links link).map (·.peer)).getD 0))

/-! ## Soft errors (R389, R392) -/

/-- The partition that owns the channel of a line of HBM4E. -/
def lineOwner (s : State) (line : Nat) : Option (Nat × Partition) :=
  s.parts.find? fun e => e.2.channels.contains (128 * line / 2 ^ 31)

/-- Every code that is reported (R373). -/
def listedCodes : List (BitVec 8) :=
  ([.illegalOpcode, .reservedField, .illegalEncoding, .badRegister, .hazard, .emptyInterval, .malformedInterval,
    .abandonedOperand, .intDivide, .coordRange, .tdInvalid, .align, .translation, .protection, .poison, .watch, .recursionLimit,
    .nodeInvalid, .recordSize, .joinUnderflow, .copyRights, .barrierOverrun, .ringOrder, .accName, .planeFormat, .fabricLoss,
    .remoteReject, .markOverdue, .uncorrectable, .hang].map FaultCode.code) ++ (List.range 16).map fun n => BitVec.ofNat 8 (0xF0 + n)

/-- A free code among those that are reported (R373; log 24). -/
def freeCode (s : State) : BitVec 8 := (listedCodes[(Config.freeWord s.free).toNat % listedCodes.length]?).getD 0

/-- A log entry that only the physical function sees (R375); which code of R373 its CODE holds is not stated (log 24). -/
def quietEntry (s : State) (kind detail part : Nat) : State :=
  logAppend { s with free := s.free + 1 }
    ⟨kind, freeCode s, 0, detail, 0, part, 0, 0, 0, 0, 0, 0, 0, 0, 0⟩

/-- Whether a die carries units of a structure of R375: compute dies, numbered 0 to 3, carry the cells, L2 slices, larders and
scheduler shards; units that no partition owns stand on any of the six, with the I/O dies numbered 4 and 5 (R12; log 70). -/
def dieCarries (die detail : Nat) : Bool := if detail = 5 then decide (die < 6) else decide (die < 4 ∧ detail < 5)

/-- Whether a partition owns a unit of a structure on a compute die: a cell, a larder bank, an L2 bank (R12, R14, R354). -/
def ownsOn (p : Partition) (die detail : Nat) : Bool :=
  if detail = 3 then p.larder.any fun b => b / 32 == die
  else if detail = 2 then p.banks.any fun b => b / 256 == die
  else p.clusters.any fun c => c / 16 == die

/-- Whether an uncorrectable error may stand in a structure of a die and of a partition, or of none (R12, R392). An error in L2
is repaired or poisons its line instead (R389, R390). -/
def errorPlace (s : State) (part : Option Nat) (die detail : Nat) : Bool :=
  dieCarries die detail && detail != 2 && match part with
    | none => true
    | some k => detail != 5 && ((mapGet s.parts k).map fun p => ownsOn p die detail).getD false

/-- SRAM_UNCORRECTABLE (R377, R392). The error resets the partition that owns the unit, or every partition. -/
def execSramUncorrectable (part : Option Nat) (die detail : Nat) (s : State) : Host.Outcome State Fault Refusal :=
  if errorPlace s part die detail then
    let s := healthAdd s (healthUncorrected die detail)
    match part with
    | some p => .next (partitionReset s p FaultCode.uncorrectable.code detail none)
    | none => .next (resetAll s FaultCode.uncorrectable.code detail)
  else .next s

/-- SOFT_ERROR_CORRECTED (R389). A corrected error in a structure of a die that carries it is counted (R12). -/
def execSoftErrorCorrected (die kind : Nat) (s : State) : Host.Outcome State Fault Refusal :=
  if dieCarries die kind then .next (healthAdd s (healthCorrected die kind)) else .next s

/-- L2_LINE_REPAIR (R389). A clean L2 line with an uncorrectable error is invalidated and counted; the first in a line is
logged. `line` is the number of the L2 line: 2^36·cluster + line of HBM4E. -/
def execL2LineRepair (line : Nat) (s : State) : Host.Outcome State Fault Refusal :=
  match mapGet s.l2 line with
  | none => .next s
  | some e =>
    if e.dirty then .next s
    else
      let s := healthAdd { s with l2 := mapErase s.l2 line } (healthUncorrected (line / 2 ^ 36 / 16) 2)
      let mem := line % 2 ^ 36
      if s.repaired.contains mem then .next s
      else
        let s := { s with repaired := s.repaired ++ [mem] }
        match lineOwner s mem with
        | none => .next s
        | some (part, _) => .next (quietEntry s 3 2 part)

/-! ## Poison and quarantine (R390, R391) -/

/-- The partition physical address of a byte of HBM4E: the inverse of MapPA (R358). -/
def paOf (p : Partition) (key : Nat) : Nat :=
  let ch := key / 2 ^ 31
  let off := key % 2 ^ 31
  let n := p.channels.length
  let g := ((List.range n).map fun i => n * (off / 512) + i).find? fun g => (p.channels[(g + g / 4096) % n]?) == some ch
  (g.getD 0) * 512 + off % 512

/-- The bytes of a region of the quarantine list (R391). -/
def regionSize (size : Nat) : Nat := if size = 0 then 2 ^ 16 else if size = 1 then 2 ^ 24 else 2 ^ 34

/-- Whether a region holds a page. -/
def holdsPage (part pa : Nat) (q : Quarantine) : Bool := q.part == part && pa / regionSize q.size * regionSize q.size == q.base

/-- A region raised to the next size (R391). -/
def raiseRegion (q : Quarantine) : Quarantine :=
  let n := regionSize (q.size + 1)
  ⟨q.part, q.base / n * n, q.size + 1⟩

/-- Entries, each region once (R391). -/
def mergeRegions : List Quarantine → List Quarantine
  | [] => []
  | q :: r => q :: (mergeRegions r).filter fun x => x != q

/-- Coarsens a list until it fits 512 entries (R391). -/
def coarsen : Nat → List Quarantine → List Quarantine
  | 0, l => l
  | n + 1, l =>
    if l.length ≤ 512 then l
    else
      let least := l.foldl (fun m q => min m q.size) 2
      coarsen n (mergeRegions (l.map fun q => if q.size = least then raiseRegion q else q))

/-- Lists a quarantined page (R390, R391). -/
def quarantinePage (s : State) (part page : Nat) : State :=
  if s.quarantinedPages.contains (part, page) then s
  else
    let pa := page * 2 ^ 16
    let s := { s with quarantinedPages := s.quarantinedPages ++ [(part, page)], quarantined := min (s.quarantined + 1) (2 ^ 32 - 1) }
    if s.quarantine.any (holdsPage part pa) then s
    else { s with quarantine := coarsen 3 (s.quarantine ++ [⟨part, pa, 0⟩]) }

/-- LINE_POISON (R390, R391). A line of HBM4E has no valid copy: it is poisoned and logged, and its page is quarantined. -/
def execLinePoison (line : Nat) (s : State) : Host.Outcome State Fault Refusal :=
  if s.poison.contains line then .next s
  else
    let s := { s with poison := s.poison ++ [line] }
    match lineOwner s line with
    | none => .next s
    | some (part, p) => .next (quarantinePage (quietEntry s 4 0 part) part (paOf p (128 * line) / 2 ^ 16))

/-! ## Clock and temperature (R17, R412) -/

/-- THERMAL_TRIP (R377, R412). A die stands at 115 °C: UNCORRECTABLE with DETAIL 5 resets every partition, and the device holds
in reset. -/
def execThermalTrip (s : State) : Host.Outcome State Fault Refusal :=
  if anyDie s 115 && !s.trip then .next { resetAll s FaultCode.uncorrectable.code 5 with trip := true } else .next s

/-- THERMAL_TRIP_RELEASE (R412). Every die has fallen below 95 °C, and the device leaves its hold. -/
def execThermalTripRelease (s : State) : Host.Outcome State Fault Refusal :=
  if anyDie s 95 then .next s else .next { s with trip := false }

/-- What the sensors of a die and of the package's power report; a threshold once engaged holds until every die is below its
release, 5 °C lower (R412; log 71). -/
def sense (s : State) (r : SensorReport) : State :=
  let t := { s with temps := mapSet s.temps r.die r.temp, overPower := r.high }
  { t with warm := anyDie t 95 || (s.warm && anyDie t 90), deep := anyDie t 105 || (s.deep && anyDie t 100) }

/-- THROTTLE_CHANGE (R17, R395, R412). A die's temperature and the power are reported, and from STATE 4 on the arithmetic clock
takes the frequency that they give. -/
def execThrottleChange (report : SensorReport) (s : State) : Host.Outcome State Fault Refusal :=
  if report.die < 14 then
    let t := sense s report
    if s.bringup = 4 ∧ clockFor t ≠ s.freq then .next (notify { t with freq := clockFor t } none 3) else .next t
  else .next s

/-! ## Watch events and plates (R386, R387) -/

/-- WATCH_EVENT_WRITE (R385, R386). The oldest imprecise match is written to its VF's queue. -/
def execWatchEventWrite (s : State) : Host.Outcome State Fault Refusal :=
  match s.watch with
  | [] => .next s
  | e :: r => .next (writeWatch { s with watch := r } e)

/-- WEQSTAT_CLEAR (R386). OVF is cleared and DROPPED zeroed. -/
def execWeqstatClear (vf : Nat) (s : State) : Host.Outcome State Fault Refusal := .next (regPut s (vfReg vf 0x158) 0)

/-- PLATE_FIRE (R387). The management trigger. -/
def execPlateFire (s : State) : Host.Outcome State Fault Refusal := .next (plateTrigger s 1)

end Sys2Proof.Machine
end

