-- ==== Sys2Proof/Machine/Remote.lean ====
section
/-! DEFINITION. What arrives from other packages: remote records and their acknowledgements (R85, R86), remote loads, stores
and atomics (R405, R407), and bulk copies (R406). -/

namespace Sys2Proof.Machine

/-! ## Records (R85, R86) -/

/-- The partition that owns a link (R354). -/
def linkOwner (s : State) (link : Nat) : Option (Nat × Partition) := s.parts.find? fun e => ownsLink e.2 link

/-- Whether a link refuses what arrives on it: it has found a duplicate chip identifier (R24). -/
def linkRefuses (s : State) (link : Nat) : Bool := ((mapGet s.links link).map fun l => l.state == .duplicate).getD false

/-- Answers a remote record. -/
def answerRecord (s : State) (link chip : Nat) (accepted : Bool) : State :=
  { s with outbox := s.outbox ++ [.ack link chip accepted] }

/-- REMOTE_RECORD_ARRIVAL (R24, R85, R86). A record that arrives on a link enters the inbox of the launch that holds its TAG,
or is rejected; while the inbox is full the link holds it back. -/
def execRemoteRecordArrival (link source tag : Nat) (words : List (BitVec 64)) (s : State) :
    Host.Outcome State Fault Refusal :=
  match linkOwner s link with
  | none => .next (answerRecord s link source false)
  | some (_, p) =>
    if linkRefuses s link then .next (answerRecord s link source false)
    else match inboxAccept s p tag words source link none with
      | .full s => .next s
      | .rejected s => .next (answerRecord s link source false)
      | .accepted s => .next s

/-- Larder lines that LQUOTA of a node's shard leaves free (R85). -/
def quotaFree (s : State) (k : Nat) (l : Launch) (node stack : Nat) : Nat :=
  (((l.nodes[node]?).map (·.lquota)).getD 0) - quotaUsed s k l node stack

/-- The stack group of the shard with the most free larder lines under LQUOTA (R85); of several the lowest (DESIGN CHOICE: R85 does not
say which; log 78). -/
def roomiest (s : State) (k : Nat) (l : Launch) (node : Nat) : List Nat → Nat
  | [] => 0
  | [st] => st
  | st :: r =>
    let x := roomiest s k l node r
    if quotaFree s k l node st ≥ quotaFree s k l node x then st else x

/-- Acknowledges a record of an inbox (R86). -/
def acknowledge (s : State) (r : InRec) : State :=
  match r.sender with
  | some k => freeWindow s (k / 64) k r.source true
  | none => answerRecord s r.link r.source true

/-- The words of a record of an inbox, whose bytes somebody else has written: free, but for the node and the length that the
scheduler placed it under (R73; log 20). -/
def spoilWords (s : State) (words : List Word) : List Word × State :=
  let w := freeWords s words.length
  let h := putBits (putBits (recHead w.1) 0 12 (recNode words)) 40 2 (recLen words)
  (withHead w.1 (BitVec.ofNat 64 h), w.2)

/-- INBOX_TRANSFER (R85, R86). A record moves from the inbox to the shard with the most free larder lines, or under R72 from
that shard's stack group, and is acknowledged; one that finds no room stays. -/
def execInboxTransfer (vf lslot index : Nat) (s : State) : Host.Outcome State Fault Refusal :=
  let k := launchKey vf lslot
  match mapGet s.launches k with
  | none => .next s
  | some l =>
    match l.inbox[index]? with
    | none => .next s
    | some r =>
      if l.phase ≠ .running then .next s
      else
        let stack := roomiest s k l (recNode r.words) l.stackGroups
        match inboxRead s k l.cellar r.spots [] with
        | .stall s => .next s
        | .fail e s => .next (schedFails s k e)
        | .bytes b s =>
          let x := if b = r.image then (r.words, s) else spoilWords s r.words
          match placeRecord x.2 k stack x.1 with
          | .full => .next s
          | .stall s => .next s
          | .put s => .next (acknowledge (onLaunch s k fun l => { l with inbox := l.inbox.eraseIdx index }) r)

/-- The first record of a launch for a chip leaves the send windows. -/
def unsend (k chip : Nat) : List (Nat × Nat × Nat) → List (Nat × Nat × Nat)
  | [] => []
  | x :: r => if x.1 = k ∧ x.2.1 = chip then r else x :: unsend k chip r

/-- REMOTE_ACK (R86). An acknowledgement or a rejection frees a slot of the send window; it is that of an earlier launch of the slot,
which has been aborted, while one of its records is unanswered, and then concerns no other. -/
def execRemoteAck (vf lslot chip : Nat) (accepted : Bool) (s : State) : Host.Outcome State Fault Refusal :=
  let k := launchKey vf lslot
  if s.sends.any fun x => x.1 == orphanKey k && x.2.1 == chip then
    .next (freeWindow { s with sends := unsend (orphanKey k) chip s.sends } vf 65536 chip true)
  else
  let s := { s with sends := unsend k chip s.sends }
  if (mapGet s.windows (windowKey vf chip)).isNone then .next s
  else if ((mapGet s.launches k).map (·.unacked)).getD 0 = 0 then .next (freeWindow s vf 65536 chip true)
  else .next (freeWindow s vf k chip accepted)

/-! ## Remote accesses (R405, R407) -/

/-- REMWIN of a VF (R407). -/
def remwin (s : State) (vf : Nat) : Nat := regGet s (pageReg vf 0xC0)

/-- The VF in whose context an access of a tenant is served: the lowest whose window is enabled and matches (R407). -/
def windowOwner (s : State) (p : Partition) (tenant : Nat) : Option Nat :=
  (List.range 1024).find? fun v => p.vfs.contains v && bits (remwin s v) 63 1 == 1 && bits (remwin s v) 32 16 == tenant

/-- Whether an access from another package has to wait for a walk: the walker has no place, or walks the page, or is about to (R344);
its link holds it back meanwhile. -/
def walkWaits (s : State) (vf va : Nat) : Bool :=
  decide (walksOf s (schedStack s vf) ≥ 32) || ((missOf s vf va).map fun e => e.2.phase == .queued || e.2.phase == .walking).getD false

/-- Translates one address for an access from another package, at the walker that serves the scheduler for the VF: no page
request is posted, and no bucket is charged at the receiver (R342, R363; log 58). -/
def remotePage (s : State) (vf va : Nat) (acc : Access) : Option Nat × State :=
  if va ≥ 2 ^ 57 ∨ (missOf s vf va).isSome then (none, s)
  else
    let r := walkFull s (schedStack s vf) vf va
    let s := cacheWalk s vf r.2
    match r.1.for acc with
    | .ok e => (if (deniedBy e acc).isSome then none else some (e.pa + (va - e.va)), s)
    | _ => (none, s)

/-- Translates the parts of an access from another package, each in one page of 64 KiB. -/
def remoteParts (s : State) (vf : Nat) (acc : Access) : List (Nat × Nat) → List Nat → Option (List Nat) × State
  | [], out => (some out, s)
  | (va, n) :: r, out =>
    match remotePage s vf va acc with
    | (none, s) => (none, s)
    | (some a, s) => remoteParts s vf acc r (out ++ consecutive a n)

/-- How an access from another package stands: held back, failed, or translated. -/
inductive RemoteAt where
  | wait
  | fail (s : State)
  | ok (pas : List Nat) (s : State)
  deriving DecidableEq, Repr

/-- Translates the bytes of an access from another package. -/
def remoteBytes (s : State) (vf va n : Nat) (acc : Access) : RemoteAt :=
  let parts := pagesOf va n
  if parts.any fun e => walkWaits s vf e.1 then .wait
  else match remoteParts s vf acc parts [] with
    | (none, s) => .fail s
    | (some pas, s) => .ok pas s

/-- The access an operation makes (R340). -/
def remoteAccess : RemoteOp → Access
  | .load => .read
  | .store => .write
  | _ => .atomic

/-- Whether a window allows an operation (R407). -/
def windowAllows (w : Nat) : RemoteOp → Bool
  | .load => true
  | .store => bits w 62 1 == 1
  | _ => bits w 61 1 == 1

/-- Whether an operation arrives on a UALink station, which ports are not (R405, R406), with a size that it may have: 4 or 8
bytes for an atomic, and aligned. -/
def remoteAligned (a : RemoteAccess) : Bool :=
  decide (a.station < 24) && a.size != 0 && a.va % a.size == 0 && (a.op == .load || a.op == .store || a.size == 4 || a.size == 8)

/-- The integer type of an atomic of the link (R405). -/
def remoteType (a : RemoteAccess) : Ty :=
  if a.size = 4 then (if a.signed then .s32 else .n32) else if a.signed then .s64 else .n64

/-- The value that an atomic of the link leaves (R405). -/
def remoteValue (a : RemoteAccess) (old : Nat) : Nat :=
  if a.op = .cas then (if old = bytesToNat a.compare then bytesToNat a.data else old)
  else atomValue a.op (remoteType a) old (bytesToNat a.data)

/-- The lines of an access from outside in the home slice (R19, R407). -/
def touchHome (s : State) (vf : Nat) (p : Partition) (pas : List Nat) (store : Bool) : State :=
  touchIn s p (homeSlice p) vf 0 store pas

/-- Work that arrives from another package charges no bucket at the receiver (R363). -/
def uncharged (s t : State) : State := { t with buckets := s.buckets, pools := s.pools, owed := s.owed }

/-- Serves an access at physical addresses of a context (R194, R385, R407): the state, whether it read poison, and the bytes
returned. -/
def serveRemote (s : State) (vf : Nat) (p : Partition) (a : RemoteAccess) (pas : List Nat) : State × Bool × List Byte :=
  match a.op with
  | .load =>
    let r := locusRead s (.device p pas)
    (touchHome r.2.2 vf p pas false, r.2.1, r.1)
  | .store => (touchHome (locusWrite s 0 (.device p pas) a.data) vf p pas true, false, [])
  | _ =>
    let r := locusRead s (.device p pas)
    let s := locusWrite r.2.2 0 (.device p pas) (natToBytes a.size (remoteValue a (bytesToNat r.1)))
    let s := touchHome s vf p pas true
    let s := match matchBytes s vf true (consecutive a.va a.size) with
      | none => s
      | some m => { s with watch := s.watch ++ [⟨vf, 4, a.station + a.source * 2 ^ 32, m.va, m.bytes, m.wps, s.clock⟩] }
    (s, r.2.1, r.1)

/-- Answers an access. -/
def answerAccess (s : State) (link source : Nat) (ok poison : Bool) (data : List Byte) : State :=
  { s with outbox := s.outbox ++ [.response link source ok poison data] }

/-- REMOTE_ACCESS_ARRIVAL (R24, R342, R405, R407, R411). An access that arrives over UALink is served in the context of the
remote window that its tenant matches, or rejected; while the walker cannot take its walk the link holds it back (R344). -/
def execRemoteAccessArrival (acc : RemoteAccess) (s : State) : Host.Outcome State Fault Refusal :=
  let reject := answerAccess s acc.station acc.source false false []
  match linkOwner s acc.station with
  | none => .next reject
  | some (_, p) =>
    if linkRefuses s acc.station || !partReady s p || !remoteAligned acc then .next reject
    else match windowOwner s p acc.tenant with
      | none => .next reject
      | some vf =>
        if !windowAllows (remwin s vf) acc.op then .next reject
        else match remoteBytes s vf acc.va acc.size (remoteAccess acc.op) with
          | .wait => .next s
          | .fail t => .next (answerAccess (uncharged s t) acc.station acc.source false false [])
          | .ok pas t =>
            let r := serveRemote t vf p acc pas
            .next (answerAccess (uncharged s r.1) acc.station acc.source true r.2.1 r.2.2)

/-- UET_WRITE_ARRIVAL (R406, R407). A bulk copy from another pod is written in the context of the remote window that its
tenant matches, or rejected; while the walker cannot take its walk the link holds it back (R344). The answer names no chip. -/
def execUetWriteArrival (port tenant va : Nat) (bytes : List (BitVec 8)) (s : State) : Host.Outcome State Fault Refusal :=
  let link := 24 + port
  let reject := answerAccess s link 0 false false []
  match linkOwner s link with
  | none => .next reject
  | some (_, p) =>
    if linkRefuses s link || !partReady s p then .next reject
    else match windowOwner s p tenant with
      | none => .next reject
      | some vf =>
        if !windowAllows (remwin s vf) .store then .next reject
        else match remoteBytes s vf va bytes.length .write with
          | .wait => .next s
          | .fail t => .next (answerAccess (uncharged s t) link 0 false false [])
          | .ok pas t =>
            let t := touchHome (locusWrite t 0 (.device p pas) bytes) vf p pas true
            .next (answerAccess (uncharged s t) link 0 true false [])

end Sys2Proof.Machine
end

