-- ==== Sys2Proof/Machine/Survey.lean ====
section
/-! DEFINITION. What the host reads: the pages of the survey window (R401 to R403) and the registers of the BARs (R396, R397). A
read has no side effect, so no step stands for it; `SURVEY_REFRESH` takes the pages. -/

namespace Sys2Proof.Machine

/-! ## Pages of the survey window -/

/-- A page of 512 words, without its zeros. -/
def pageOf (word : Nat → Nat) : Sparse 64 :=
  (List.range 512).filterMap fun i => if BitVec.ofNat 64 (word i) = 0 then none else some (i, BitVec.ofNat 64 (word i))

/-- The header page (R403). -/
def headerWord (s : State) : Nat → Nat
  | 1 => identity s
  | 2 => s.freq * 2 ^ 16 + s.ready.toNat * 2 ^ 8 + s.bringup
  | _ => 0

/-- LSTATE (R403). -/
def linkCode : LinkState → Nat
  | .down => 0 | .training => 1 | .up => 2 | .failed => 3 | .duplicate => 4

/-- The link records of 32 bytes: stations 0 to 23, then ports (R401, R403). -/
def linkWord (s : State) (i : Nat) : Nat :=
  let k := i / 4
  let l := (mapGet s.links k).getD ⟨.down, 0⟩
  let part := ((linkOwner s k).map (·.1)).getD 0
  if k ≥ 28 then 0
  else match i % 4 with
    | 0 => l.peer % 2 ^ 21 * 2 ^ 43 + part % 16 * 2 ^ 4 + linkCode l.state
    | 1 => part / 16
    | _ => 0

/-- The mask of links that have found a duplicate chip identifier (R24). -/
def duplicates (s : State) : Nat :=
  (List.range 28).foldl (fun n k => if linkRefuses s k then n + 2 ^ k else n) 0

/-- An entry of the quarantine list (R391). -/
def quarantineWord (q : Quarantine) : Nat := 2 ^ 63 + q.base / 2 ^ 16 * 2 ^ 16 + q.part * 2 ^ 4 + q.size

/-- A health counter. -/
def healthOf (s : State) (k : Nat) : Nat := (mapGet s.health k).getD 0

/-- The health words (R401), from 0x1_0000; the places are the model's (log 25). -/
def healthWord (s : State) (i : Nat) : Nat :=
  if i = 0 then s.quarantined
  else if i = 1 then duplicates s
  else if i < 16 then 0
  else if i < 32 then (mapGet s.temps (i - 16)).getD 0
  else if i < 512 then 0
  else if i < 1024 then ((s.quarantine[i - 512]?).map quarantineWord).getD 0
  else if i < 1280 then healthOf s (4096 + (i - 1024))
  else if i < 1536 then healthOf s (8192 + (i - 1280))
  else if 2048 ≤ i ∧ i < 4096 then healthOf s (i - 2048)
  else 0

/-- The larder lines and the cellar lines that a VF holds (R403). -/
def cellarLinesOf (s : State) (vf : Nat) : Nat :=
  s.launches.foldl (fun n e => if e.1 / 64 = vf then e.2.shards.foldl (fun n h => n + h.2.cellar.length) n else n) 0

/-- The cells reserved for a VF (R361). -/
def reservedCells (s : State) (vf : Nat) : Nat := ((List.range 512).filter fun c => reserver s c == some vf).length

/-- CELLS of an occupancy record: of a count that its 8 bits do not hold the spec states no value (log 25). -/
def cellsField (s : State) (vf : Nat) : Nat :=
  let n := reservedCells s vf
  if n < 256 then n else (Config.diagnostic (1024 + vf) 0 s.clock).toNat % 256

/-- The occupancy record of a VF (R403). -/
def occupancyWord (s : State) (vf i : Nat) : Nat :=
  match i with
  | 0 =>
    (s.gangs.filter fun e => e.2.vf == vf).length % 2 ^ 16 * 2 ^ 48
      + (s.requests.filter fun r => r.vf == vf).length * 2 ^ 32 + cellsField s vf * 2 ^ 8
      + (s.launches.filter fun e => e.1 / 64 == vf).length
  | 1 => (s.larder.filter fun e => e.2 == vf).length * 2 ^ 32 + cellarLinesOf s vf
  | _ => 0

/-- The drain states (R401), from 0x4_0000. -/
def drainWord (s : State) (i : Nat) : Nat :=
  if i < 1024 then drainCode (drainOf s.drainVf i)
  else if i < 1056 then drainCode (drainOf s.drainPart (i - 1024))
  else if i = 1056 then drainCode s.drainDevice
  else 0

/-- A fault-log entry as a number of 512 bits (R375). -/
def logNat (e : LogEntry) : Nat :=
  e.seq + e.code.toNat * 2 ^ 16 + e.kind * 2 ^ 29 + e.grade * 2 ^ 32 + e.detail * 2 ^ 34 + e.vf * 2 ^ 38 + e.part * 2 ^ 48
    + e.lslot * 2 ^ 53 + e.gslot * 2 ^ 59 + e.node * 2 ^ 72 + e.queue * 2 ^ 84 + e.fence * 2 ^ 96 + e.addr * 2 ^ 135
    + e.tval.toNat * 2 ^ 192 + e.time % 2 ^ 64 * 2 ^ 256

/-- The newest entry of a log that stands at a place of its 255 (R401). -/
def logAt (l : List LogEntry) (place : Nat) : Option LogEntry := l.reverse.find? fun e => (e.seq - 1) % 255 == place

/-- The fault log of a partition in the window (R401). -/
def logWord (s : State) (part i : Nat) : Nat :=
  let l := (mapGet s.log part).getD []
  if i = 0 then (mapGet s.logSeq part).getD 0
  else if i < 8 then 0
  else match logAt (l.drop (l.length - 255)) (i / 8 - 1) with
    | none => 0
    | some e => bits (logNat e) (64 * (i % 8)) 64

/-- A word of a page of the survey window as it stands (R401). -/
def surveyWord (s : State) (page i : Nat) : Nat :=
  if page = 0 then headerWord s i
  else if page = 1 then linkWord s i
  else if page = 15 then 0
  else if 0x10 ≤ page ∧ page < 0x20 then healthWord s (512 * (page - 0x10) + i)
  else if 0x20 ≤ page ∧ page < 0x40 then occupancyWord s (32 * (page - 0x20) + i / 16) (i % 16)
  else if 0x40 ≤ page ∧ page < 0x43 then drainWord s (512 * (page - 0x40) + i)
  else if 0x80 ≤ page ∧ page < 0x100 then logWord s ((page - 0x80) / 4) (512 * ((page - 0x80) % 4) + i)
  else 0

/-! ## Reads of the survey window (R401, R402) -/

/-- A word of the survey window: page 15 holds the generations, read word by word; every other page stands as it was last
refreshed (R401). -/
def surveyRead (s : State) (page i : Nat) : Nat :=
  if page = 15 then (mapGet s.surveyGen i).getD 0 else (wordGet ((mapGet s.survey page).getD []) i).toNat

/-- Whether a VF may see a fault-log entry, by its word 0 (R402). -/
def entryVisible (vf w : Nat) : Bool := bits w 38 10 == vf && bits w 29 3 != 3 && bits w 29 3 != 4

/-- A word of a VF's survey view (R402). -/
def surveyView (s : State) (vf page i : Nat) : Nat :=
  let x := surveyRead s page i
  if page = 1 then (if ((linkOwner s (i / 4)).map fun a => ((partOf s vf).map fun b => a.1 == b.1).getD false).getD false then x else 0)
  else if 0x20 ≤ page ∧ page < 0x40 then (if 32 * (page - 0x20) + i / 16 = vf then x else 0)
  else if (page = 0x40 ∨ page = 0x41) then (if 512 * (page - 0x40) + i = vf then x else 0)
  else if 0x80 ≤ page then
    (if (page - 0x80) % 4 = 0 ∧ i < 8 then x
     else if entryVisible vf (surveyRead s page (i / 8 * 8)) then x else 0)
  else x

/-! ## Reads of registers (R5, R396 to R398) -/

/-- A register of a queue page (R398). -/
def readQueue (s : State) (vf q off : Nat) : Nat :=
  let x := queueOf s vf q
  match off with
  | 0x00 => x.qring.toNat
  | 0x08 => x.qlog.toNat
  | 0x10 => (if queueBusy s vf q then 4 else 0) + (if x.stopped then 2 else 0)
  | 0x18 => x.rp.toNat
  | 0x20 => x.wp.toNat
  | 0x28 => x.dbstat
  | _ => 0

/-- TLBSTAT (R345). -/
def tlbstat (s : State) (vf : Nat) : Nat :=
  (if (mapGet s.tlbBusy vf).isSome then 1 else 0) + (if s.tlbErr.contains vf then 2 else 0)

/-- A read of a VF's BAR0 (R396). -/
def readVf (s : State) (vf off : Nat) : Nat :=
  if off % 8 ≠ 0 then 0
  else if off = 0x18 then tlbstat s vf
  else if off = 0x20 then vfStatus s vf
  else if 0x40 ≤ off ∧ off < 0x60 then bits (wordGet s.events vf).toNat (64 * ((off - 0x40) / 8)) 64
  else if off = 0 ∨ off = 8 ∨ (0x100 ≤ off ∧ off < 0x160) then regGet s (vfReg vf off)
  else if 0x10000 ≤ off ∧ off < 0x50000 then readQueue s vf ((off - 0x10000) / 0x1000) (off % 0x1000)
  else if 0x100000 ≤ off ∧ off < 0x200000 then surveyView s vf ((off - 0x100000) / 0x1000) (off % 0x1000 / 8)
  else 0

/-- A read of a page of a VF in the physical function's BAR0; through the mirror at +0x1000 it returns what the VF's BAR0
returns (R397). -/
def readPage (s : State) (vf off : Nat) : Nat :=
  if off = 0x20 then tlbstat s vf
  else if off = 0x28 then vfStatus s vf
  else if off = 0x18 then 0
  else if off < 0x300 then regGet s (pageReg vf off)
  else if 0x1000 ≤ off then readVf s vf (off - 0x1000)
  else 0

/-- A word of a plate record; what is not architectural is diagnostic state (R388; log 12). -/
def plateWord (s : State) (k i : Nat) : Nat :=
  match s.plates[k]? with
  | none => 0
  | some r => ((r.words[i]?).getD (Config.diagnostic (4096 + k) i s.platestat.toNat)).toNat

/-- A read of the physical function's BAR0 (R397). -/
def readPf (s : State) (off : Nat) : Nat :=
  if off % 8 ≠ 0 then 0
  else if off = 0x208 then s.partstat.toNat
  else if off = 0x228 then s.platestat.toNat
  else if off < 0x200 ∨ off = 0x220 ∨ off = 0x238 ∨ (0x1000 ≤ off ∧ off < 0x1100) ∨ (0x2000 ≤ off ∧ off < 0x3000) then
    regGet s (pfReg off)
  else if 0x100000 ≤ off ∧ off < 0x200000 then surveyRead s ((off - 0x100000) / 0x1000) (off % 0x1000 / 8)
  else if 0x1000000 ≤ off ∧ off < 0x2000000 then plateWord s ((off - 0x1000000) / 256) (off % 256 / 8)
  else if 0x4000000 ≤ off ∧ off < 0x8000000 then readPage s ((off - 0x4000000) / 0x10000) (off % 0x10000)
  else 0

end Sys2Proof.Machine
end

