-- ==== Sys2Proof/Machine/HostEvents.lean ====
section
/-! DEFINITION. What the host and the fabric do to the device: queue registers (R378, R398, R399), events (R396), drain (R404),
apertures (R396, R397), the survey window (R401), links (R403), SPDM (R409), manifest and cold reset (R408, R410), and the
registers that have no row of their own (R5). -/

namespace Sys2Proof.Machine

/-! ## Queue registers (R378, R398, R399) -/

/-- The fields of QRING that are kept (R398). -/
def qringFields (v : BitVec 64) : BitVec 64 := v &&& 0xE1FFFFFFFFFFFF9F

/-- N of a QRING value (R398). -/
def ringLog (v : BitVec 64) : Nat := bits v.toNat 0 5

/-- Whether a value of QRING sets EN (R398). -/
def setsEn (v : BitVec 64) : Bool := v.getLsbD 61

/-- A write of QRING (R398, R399): it enables the queue from packet 0, disables it, or changes the fields of one that is
disabled. -/
def writeQring (s : State) (vf q : Nat) (v : BitVec 64) : State :=
  let x := queueOf s vf q
  match x.enabled, setsEn v with
  | true, true => s
  | true, false => setQueue s vf q { x with qring := x.qring &&& 0xDFFFFFFFFFFFFFFF }
  | false, false => setQueue s vf q { x with qring := qringFields v }
  | false, true =>
    if queueBusy s vf q || decide (ringLog v < 4) || decide (ringLog v > 16) then s
    else setQueue s vf q { x with qring := qringFields v, rp := 0, wp := 0, sp := 0, ended := [], bells := [] }

/-- QRING_ENABLE (R398, R399). Setting EN starts the queue afresh at packet 0. -/
def execQringEnable (vf q : Nat) (value : BitVec 64) (s : State) : Host.Outcome State Fault Refusal :=
  if setsEn value then .next (writeQring s vf q value) else .next s

/-- QRING_DISABLE (R399). Clearing EN withdraws the packets that have not started. -/
def execQringDisable (vf q : Nat) (value : BitVec 64) (s : State) : Host.Outcome State Fault Refusal :=
  if setsEn value then .next s else .next (writeQring s vf q value)

/-- QUEUE_RESUME (R342, R378, R398). STOPPED is cleared, and completion entries that wait are written. -/
def execQueueResume (vf q : Nat) (s : State) : Host.Outcome State Fault Refusal :=
  .next (retireAll (setQueue s vf q { queueOf s vf q with stopped := false }) vf q)

/-! ## The event vector (R396, R400) -/

/-- 64 bits of an event vector, at word `k`. -/
def eventMask (k : Nat) (mask : BitVec 64) : BitVec 256 := mask.zeroExtend 256 <<< (64 * k)

/-- EVENT_SET (R396). -/
def execEventSet (vf word : Nat) (mask : BitVec 64) (s : State) : Host.Outcome State Fault Refusal :=
  .next { s with events := wordSet s.events vf (wordGet s.events vf ||| eventMask word mask) }

/-- EVENT_CLEAR (R396). An event that a completion sets in the same fabric cycle stays set (R400). -/
def execEventClear (vf word : Nat) (mask : BitVec 64) (s : State) : Host.Outcome State Fault Refusal :=
  .next { s with
    events := wordSet s.events vf (wordGet s.events vf &&& ~~~(eventMask word mask &&& ~~~(wordGet s.fresh vf))) }

/-! ## Drain (R359, R404, R409) -/

/-- The VFs of a scope of DRAINCTL (R404). -/
def scopeVfs (s : State) (scope : DrainScope) (target : Nat) : List Nat :=
  match scope with
  | .vf => [target]
  | .partition => ((mapGet s.parts target).map (·.vfs)).getD []
  | .device => List.range 1024

/-- The drain state of a scope (R404). -/
def scopeDrain (s : State) (scope : DrainScope) (target : Nat) : Drain :=
  match scope with
  | .vf => drainOf s.drainVf target
  | .partition => drainOf s.drainPart target
  | .device => s.drainDevice

/-- Changes the drain state of a scope (R404). -/
def putDrain (s : State) (scope : DrainScope) (target : Nat) (d : Drain) : State :=
  match scope with
  | .vf => { s with drainVf := mapSet s.drainVf target d }
  | .partition => { s with drainPart := mapSet s.drainPart target d }
  | .device => { s with drainDevice := d }

/-- The bitmap of some units. -/
def bitmapOf (l : List Nat) : Nat := l.foldl (fun n k => if n / 2 ^ k % 2 = 1 then n else n + 2 ^ k) 0

/-- The descriptor of a partition (R354). -/
def descOfPart (p : Partition) : Nat :=
  bitmapOf p.clusters + bitmapOf p.banks * 2 ^ 64 + bitmapOf p.channels * 2 ^ 1088 + bitmapOf p.larder * 2 ^ 1344
    + bitmapOf p.copy * 2 ^ 1472 + bitmapOf p.fabric * 2 ^ 1984 + bitmapOf p.stations * 2 ^ 1992 + bitmapOf p.ports * 2 ^ 2016
    + bitmapOf p.vfs * 2 ^ 2048

/-- What block 4 digests: the partition's descriptor and the policy registers of its VFs (R409). -/
def measureInput (s : State) (vf : Nat) : Nat :=
  match partOf s vf with
  | none => 0
  | some (_, p) => descOfPart p + wordsToNat (p.vfs.map fun v => BitVec.ofNat 64 (policyReg s v)) * 2 ^ 4096

/-- A VF reaches DRAINED: TENANT and CEIL of its policy take effect, and block 4 is taken (R359, R409). -/
def takePolicy (s : State) (vf : Nat) : State :=
  let x := policyReg s vf
  { s with policy := mapSet s.policy vf (bits x 48 16, bits x 47 1 == 1)
           measured := mapSet s.measured vf (Config.digest 4 (measureInput s vf)) }

/-- The VFs whose effective state has become DRAINED take their policies (R359). -/
def settlePolicies (before after : State) (vfs : List Nat) : State :=
  (vfs.filter fun v => effectiveDrain before v != .drained && effectiveDrain after v == .drained).foldl takePolicy after

/-- DRAIN_RETURN (R404). Accepted packets continue. -/
def execDrainReturn (scope : DrainScope) (target : Nat) (s : State) : Host.Outcome State Fault Refusal :=
  .next (settlePolicies s (putDrain s scope target .running) (scopeVfs s scope target))

/-- Whether a queue holds an accepted packet that has not ended (R399, R404). -/
def holdsPacket (s : State) (k : Nat) (q : Queue) : Bool :=
  if q.enabled then q.rp != q.wp else queueBusy s (k / 64) (k % 64) || !q.ended.isEmpty

/-- Whether some queue of some VFs holds an accepted packet that has not ended (R404). -/
def scopeBusy (s : State) (vfs : List Nat) : Bool := s.queues.any fun e => vfs.contains (e.1 / 64) && holdsPacket s e.1 e.2

/-- DRAIN_COMPLETE (R404). A scope in DRAINING with no accepted packet left is DRAINED. -/
def execDrainComplete (scope : DrainScope) (target : Nat) (s : State) : Host.Outcome State Fault Refusal :=
  let vfs := scopeVfs s scope target
  if scopeDrain s scope target ≠ .draining ∨ scopeBusy s vfs then .next s
  else .next (settlePolicies s (putDrain s scope target .drained) vfs)

/-- DRAIN_ENTER (R359, R404). The scope is DRAINING, and DRAINED at once where it holds no accepted packet: it goes through DRAINING
also where it was DRAINED before. -/
def execDrainEnter (scope : DrainScope) (target : Nat) (s : State) : Host.Outcome State Fault Refusal :=
  let vfs := scopeVfs s scope target
  let t := putDrain s scope target .draining
  if scopeBusy s vfs then .next t else .next (settlePolicies t (putDrain s scope target .drained) vfs)

/-! ## Apertures (R396, R397) -/

/-- Whether the permissions of a stage-2 leaf allow an aperture access (R396; log 26). -/
def apertureMay (perm : BitVec 3) (reads writes : Bool) : Bool :=
  (!reads || perm.getLsbD 0) && (!writes || perm.getLsbD 1)

/-- The physical address behind an address of a VF's aperture, by stage 2 only; none where it is not present, not permitted, or
beyond the aperture (R396; log 26). -/
def apertureAt (s : State) (vf : Nat) (p : Partition) (reads writes : Bool) (ipa : Nat) : Option Nat × State :=
  if ipa ≥ 2 ^ (30 + (Config.aperture vf).val) then (none, s)
  else
    let stack := schedStack s vf
    let r := stage2 s stack vf p ipa false []
    let s := cacheWalk (charge s 7 stack vf 1) vf r.2
    match r.1 with
    | .ok pa _ perm => (if apertureMay perm reads writes then some pa else none, s)
    | .fail _ => (none, s)

/-- The physical addresses of the parts of an access behind an aperture, each in one page of 64 KiB. -/
def apertureParts (s : State) (vf : Nat) (p : Partition) (reads writes : Bool) :
    List (Nat × Nat) → List Nat → Option (List Nat) × State
  | [], out => (some out, s)
  | (a, n) :: r, out =>
    match apertureAt s vf p reads writes a with
    | (none, s) => (none, s)
    | (some x, s) => apertureParts s vf p reads writes r (out ++ consecutive x n)

/-- Whether an access through an aperture reads memory, and whether it writes it. -/
def barReads : BarOp → Bool
  | .write _ => false
  | _ => true
def barWrites : BarOp → Bool
  | .read => false
  | _ => true

/-- The bytes of an access through an aperture. -/
def barSize (size : Nat) : BarOp → Nat
  | .read => size
  | .write l | .atomic _ l _ => l.length

/-- Whether an access is one that PCIe has: an AtomicOp is FetchAdd, Swap or CAS on an aligned operand of 4 or 8 bytes, CAS of 16
too (R394; log 26). -/
def barLegal (addr : Nat) : BarOp → Bool
  | .read | .write _ => true
  | .atomic op l c =>
    addr % l.length == 0 && match op with
      | .add | .exch => l.length == 4 || l.length == 8
      | .cas => (l.length == 4 || l.length == 8 || l.length == 16) && c.length == l.length
      | _ => false

/-- The value that an AtomicOp leaves (R394). -/
def completerValue (op : RemoteOp) (old : Nat) (data compare : List (BitVec 8)) : Nat :=
  match op with
  | .exch => bytesToNat data
  | .cas => if old = bytesToNat compare then bytesToNat data else old
  | _ => (old + bytesToNat data) % 2 ^ (8 * data.length)

/-- The device answers an access through a BAR. -/
def answerBar (s : State) (f : Option Nat) (data : List Byte) : State := { s with outbox := s.outbox ++ [.bar f data] }

/-- An access through a BAR that reaches nothing: a read or an AtomicOp completes with some bytes, a write with none. -/
def missBar (s : State) (f : Option Nat) (op : BarOp) (data : List Byte) : State := if barReads op then answerBar s f data else s

/-- An access through an aperture that fails: all ones for a read, counted either way (R396). -/
def failBar (s : State) (vf size : Nat) (op : BarOp) : State :=
  missBar (healthAdd s (healthBar2 vf)) (some vf) op (List.replicate (barSize size op) 0xFF)

/-- Performs an access at physical addresses, and answers what reads (R394, R396, R397). -/
def serveBar (s : State) (vf : Nat) (f : Option Nat) (p : Partition) (pas : List Nat) (op : BarOp) : State :=
  match op with
  | .write l => touchHome (locusWrite s 0 (.device p pas) l) vf p pas true
  | .read =>
    let r := locusRead s (.device p pas)
    answerBar (touchHome r.2.2 vf p pas false) f r.1
  | .atomic o l c =>
    let r := locusRead s (.device p pas)
    let s := locusWrite r.2.2 0 (.device p pas) (natToBytes l.length (completerValue o (bytesToNat r.1) l c))
    answerBar (touchHome s vf p pas true) f r.1

/-- BAR2_ACCESS (R394, R396). A VF without a partition, or in MANIFEST_FAIL, reaches nothing; an AtomicOp that PCIe does not have
fails as an absent address does (log 26). While the walker has no place for its walk it waits at the link (R344). -/
def execBar2Access (vf addr size : Nat) (op : BarOp) (s : State) : Host.Outcome State Fault Refusal :=
  match partOf s vf with
  | none => .next (failBar s vf size op)
  | some (_, p) =>
    if !barLegal addr op then .next (failBar s vf size op)
    else if decide (walksOf s (schedStack s vf) ≥ 32) then .next s
    else match apertureParts s vf p (barReads op) (barWrites op) (pagesOf addr (barSize size op)) [] with
      | (none, s) => .next (failBar s vf size op)
      | (some pas, s) => .next (serveBar s vf (some vf) p pas op)

/-- Whether an access of the physical function's aperture lies in the memory of a partition (R397). -/
def pfReaches (p : Partition) (addr size : Nat) (op : BarOp) : Bool :=
  decide (addr + barSize size op ≤ memorySize p) && decide (addr + barSize size op ≤ 2 ^ 39) && barLegal addr op

/-- PF_BAR2_ACCESS (R394, R397). The partition that PFWINSEL names; beyond its memory what reads gets free values and a write does
nothing (log 26). The physical function touches no L2 line: none of R368's ways is its own (log 26). -/
def execPfBar2Access (addr size : Nat) (op : BarOp) (s : State) : Host.Outcome State Fault Refusal :=
  let free := freeBytes s (barSize size op)
  match mapGet s.parts (bits (regGet s (pfReg 0x238)) 0 5) with
  | some p =>
    if pfReaches p addr size op then
      .next { serveBar s 0 none p (consecutive addr (barSize size op)) op with l2 := s.l2, buckets := s.buckets, pools := s.pools, owed := s.owed }
    else .next (missBar free.2 none op free.1)
  | none => .next (missBar free.2 none op free.1)

/-! ## Survey window and links (R401, R403) -/

/-- SURVEY_REFRESH (R401, R410). A page is taken as a whole and its generation goes on to the next even value; page 15 has no
generation of its own. The window is live from STATE 2. -/
def execSurveyRefresh (page : Nat) (s : State) : Host.Outcome State Fault Refusal :=
  if s.bringup < 2 ∨ page ≥ 256 ∨ page = 15 then .next s
  else .next { s with survey := mapSet s.survey page (pageOf (surveyWord s page))
                      surveyGen := mapSet s.surveyGen page ((mapGet s.surveyGen page).getD 0 + 2) }

/-- LINK_STATE_CHANGE (R24, R403, R405). -/
def execLinkStateChange (link : Nat) (state : LinkState) (peer : Nat) (s : State) : Host.Outcome State Fault Refusal :=
  if state = .failed then .next (loseLink s link peer) else .next (setLink s link state peer)

/-! ## Attestation (R409) -/

/-- A manifest as a number. -/
def manifestNat (m : Manifest) : Nat :=
  m.stepping.toNat + m.pod.toNat * 2 ^ 8 + m.member.toNat * 2 ^ 19
    + m.digests.foldl (fun n d => n * 2 ^ 512 + d.toNat) m.rollback * 2 ^ 29

/-- Block 4 of a function: as taken when the VF was last DRAINED; otherwise the spec states none (R409). -/
def blockFour (s : State) (function : Nat) : BitVec 512 × State :=
  match (if function = 0 then none else mapGet s.measured (function - 1)) with
  | some d => (d, s)
  | none => (Config.digest s.free 5, { s with free := s.free + 1 })

/-- SPDM_REQUEST (R409). Function 0 is the physical function, v + 1 is VF v; the answer is the measurement block. In
MANIFEST_FAIL only the physical function is there (R408). -/
def execSpdmRequest (function block : Nat) (s : State) : Host.Outcome State Fault Refusal :=
  let send := fun (s : State) (d : BitVec 512) => { s with outbox := s.outbox ++ [.spdm function block d] }
  if function > 1024 ∨ (s.bringup = 8 ∧ function ≠ 0) then .next s
  else match block with
    | 1 => .next (send s (Config.digest 1 0))
    | 2 => .next (send s (Config.digest 2 0))
    | 3 => .next (send s (Config.digest 3 (manifestNat s.manifest)))
    | 4 => .next (send (blockFour s function).2 (blockFour s function).1)
    | _ => .next s

/-! ## Manifest and bring-up (R408, R410) -/

/-- MANIFEST_UPDATE (R24, R408). The manifest waits for the next cold reset. -/
def execManifestUpdate (manifest : Manifest) (s : State) : Host.Outcome State Fault Refusal :=
  .next { s with staged := some manifest }

/-- Whether a manifest verifies: its signature, and a rollback counter that is not lower (R408). -/
def manifestOk (s : State) (m : Manifest) : Bool := m.signatureValid && decide (s.rollback ≤ m.rollback)

/-- What a cold reset leaves as it was: what lies outside the device, its memory until a stack group zeroes it (R410), the
installed manifest (R24), the rollback counter, the temperatures, the hold of a thermal trip while a die stands at 95 °C or above
(R412), and the model's own fields. -/
def afterColdReset (s : State) : State :=
  { State.reset with
    agenda := s.agenda
    free := s.free
    nextId := s.nextId
    manifest := s.manifest
    rollback := s.rollback
    temps := s.temps
    overPower := s.overPower
    warm := s.warm
    deep := s.deep
    dram := s.dram
    voids := s.voids
    trip := s.trip && anyDie s 95
    poison := s.poison
    host := s.host
    messages := s.messages
    outbox := s.outbox }

/-- COLD_RESET (R408, R410). A manifest that verifies is installed and the survey window goes live with STATE 2; one that fails
leaves MANIFEST_FAIL. What POD, MEMBER and the identity word read there is not stated beyond R24: the model lets them stand as the
last installed manifest gave them, and as 0 where none has been installed (DESIGN CHOICE; log 5). -/
def execColdReset (s : State) : Host.Outcome State Fault Refusal :=
  let m := s.staged.getD s.manifest
  let t := afterColdReset s
  if manifestOk s m then .next (notify { t with manifest := m, rollback := m.rollback, bringup := 2 } none 3)
  else .next (notify { t with staged := some m, bringup := 8 } none 3)

/-- The memory, larder and L2 slices of a stack group are zero (R410). -/
def zeroStack (s : State) (stack : Nat) : State :=
  { s with
    dram := s.dram.filter fun c => c.1 / 2 ^ 31 / 32 != stack
    voids := mapFilter (fun l _ => l / 2 ^ 24 / 32 != stack) s.voids
    poison := s.poison.filter fun l => l / 2 ^ 24 / 32 != stack
    larder := mapFilter (fun k _ => k / 32768 != stack) s.larder
    joins := mapFilter (fun k _ => k / 32768 != stack) s.joins
    larderGen := mapFilter (fun k _ => k / 32768 != stack) s.larderGen
    l2 := mapFilter (fun k _ => k / 2 ^ 36 / 8 != stack) s.l2 }

/-- Whether a stack group is the next to come up (R410). -/
def nextStack (s : State) (stack : Nat) : Bool :=
  (s.bringup == 2 || s.bringup == 3) && decide (stack < 8) && !s.ready.getLsbD stack
    && (List.range stack).all fun k => s.ready.getLsbD k

/-- STACK_GROUP_READY (R17, R410). After the last group STATE is 4 and the arithmetic clock rises to 700 MHz, or to what
the temperatures allow (R412). -/
def execStackGroupReady (stack : Nat) (s : State) : Host.Outcome State Fault Refusal :=
  if nextStack s stack then
    let t := { zeroStack s stack with ready := s.ready ||| (1 <<< stack), bringup := if stack = 7 then 4 else 3
                                      freq := if stack = 7 then clockFor s else s.freq }
    .next (if stack = 0 ∨ stack = 7 then notify t none 3 else t)
  else .next s

/-! ## Registers without a row of their own (R5, R6) -/

/-- Writes a register under the mask of its RW fields; RSV and RO fields ignore the write (R5, R6). -/
def maskedPut (s : State) (r : Nat) (mask v : Nat) : State := regPut s r (Nat.land v mask)

/-- A write to a queue page (R398). -/
def writeQueuePage (s : State) (vf q off : Nat) (v : BitVec 64) : State :=
  let x := queueOf s vf q
  if off = 0 ∧ x.enabled = false ∧ setsEn v = false then writeQring s vf q v
  else if off = 8 ∧ x.enabled = false then setQueue s vf q { x with qlog := v &&& 0x1FFFFFFFFFFFFF0 }
  else s

/-- A write to a VF's BAR0 (R384, R386, R396): TDBASE, the watchpoints and the watch event queue; ERR of TLBSTAT is cleared by
writing 1 (R345). -/
def writeVf (s : State) (vf off : Nat) (v : BitVec 64) : State :=
  let put := fun mask => maskedPut s (vfReg vf off) mask v.toNat
  if off = 0 then put 0x1FFFFFFFFFF0000
  else if off = 0x18 then (if v.getLsbD 1 then { s with tlbErr := s.tlbErr.filter fun x => x != vf } else s)
  else if 0x100 ≤ off ∧ off < 0x140 ∧ off % 16 = 0 then put 0xE1FFFFFFFFFFFFF0
  else if 0x100 ≤ off ∧ off < 0x140 ∧ off % 16 = 8 then put 0xFFFFFFFFFFFFFFFF
  else if off = 0x140 then put 0x1FFFFFFFFFFF000
  else if off = 0x150 then put 0x7F
  else if 0x10000 ≤ off ∧ off < 0x50000 then writeQueuePage s vf ((off - 0x10000) / 0x1000) (off % 0x1000) v
  else s

/-- A write to the page of a VF (R360, R379, R382, R397, R407). -/
def writePage (s : State) (vf off : Nat) (v : BitVec 64) : State :=
  let put := fun mask => maskedPut s (pageReg vf off) mask v.toNat
  if off = 0x20 then writeVf s vf 0x18 v
  else if off = 0x28 then (if v.getLsbD 0 then { s with clamped := s.clamped.filter fun x => x != vf } else s)
  else if off = 0x30 then put 0x80000000FFFFFFFF
  else if 0x40 ≤ off ∧ off < 0x60 ∧ off % 8 = 0 then put 0x1FFFFFFFFFFFFFF
  else if off = 0xC0 then put 0xE000FFFF00000000
  else if 0x1000 ≤ off then writeVf s vf (off - 0x1000) v
  else s

/-- A write to the physical function's BAR0 (R354, R376, R387, R397). The PARTDESC window keeps every bit that is written, its reserved
bits too, so that PARTCMD finds them set (DESIGN CHOICE between R6 and R356; log 7). A reserved OP of PARTCMD gives RESERVED (R356). FIRE of
PLATECTL acts after the fields are written. -/
def writePf (s : State) (off : Nat) (v : BitVec 64) : State :=
  let put := fun mask => maskedPut s (pfReg off) mask v.toNat
  if off < 0x200 ∧ off % 8 = 0 then put 0xFFFFFFFFFFFFFFFF
  else if off = 0x220 then (if v.getLsbD 8 then plateTrigger (put 0x8F) 1 else put 0x8F)
  else if off = 0x200 then (if commandsOpen s && v.getLsbD 63 then partResult s 5 0 0 else s)
  else if off = 0x238 then put 0x1F
  else if 0x1000 ≤ off ∧ off < 0x1100 ∧ off % 8 = 0 then put 0x80000000FFFFFFFF
  else if 0x4000000 ≤ off ∧ off < 0x8000000 then writePage s ((off - 0x4000000) / 0x10000) (off % 0x10000) v
  else s

/-- REGISTER_WRITE (R5, R396, R397). A write to a register of the physical function (none) or of a VF that has no row of its
own; every other offset ignores it. -/
def execRegisterWrite (function : Option Nat) (offset : Nat) (value : BitVec 64) (s : State) :
    Host.Outcome State Fault Refusal :=
  match function with
  | none => .next (writePf s offset value)
  | some vf => if vf < 1024 ∧ offset < 2 ^ 21 then .next (writeVf s vf offset value) else .next s

end Sys2Proof.Machine
end

