-- ==== Sys2Proof/Machine/Translation.lean ====
section
/-! DEFINITION. Events of translation: walks (R339, R344), page requests and replies (R347 to R350), host translations (R351,
R352), invalidation (R345, R346) and the roots (R338, R348). -/

namespace Sys2Proof.Machine

/-! ## Walks -/

/-- The queues among some requesters: for one the scheduler waits to write a completion entry. -/
def queuesOf (l : List Source) : List Nat :=
  l.filterMap fun
    | .scheduler task => if task < 2 ^ 20 then none else some (task - 2 ^ 20)
    | _ => none

/-- Gangs that wait on a translation try again first; completion entries that wait are tried again at once (R342). -/
def wake (s : State) (l : List Source) : State :=
  (queuesOf l).foldl (fun s k => retireAll s (k / 64) (k % 64))
    { s with agenda := (l.filterMap fun x => match x with
        | .gang k | .descriptor k | .fetch k => some (Turn.issue k)
        | _ => none) ++ s.agenda }

/-- The place of a queued miss among those of its walker: owners by age, then borrowers (R367). -/
def walkOrder (s : State) (stack : Nat) (e : Nat × Miss) : List Nat := requestOrder s 7 stack ⟨e.2.vf, 1, e.1⟩

/-- The queued miss whose turn it is at the walker of a stack group (R367). -/
def firstWalk (s : State) (stack : Nat) : Option (Nat × Miss) :=
  (s.misses.filter fun e => e.2.phase == .queued && stackOf e.2.cell == stack).foldl (fun best e => match best with
    | none => some e
    | some b => if listBefore (walkOrder s stack e) (walkOrder s stack b) then some e else some b) none

/-- A walker with a free place takes a miss that its bucket serves: the walk reads the tables from the roots as they stand, and the walk
cache keeps what it read (R339, R343). -/
def startWalk (s : State) (stack : Nat) (e : Nat × Miss) : State :=
  match grant s 7 stack e.2.vf 1 with
  | none => s
  | some s =>
    let r := walkFull s stack e.2.vf e.2.va
    { cacheWalk s e.2.vf r.2 with misses := mapSet s.misses e.1 { e.2 with phase := .walking, result := r.1 } }

/-- TRANSLATION_WALK (R339, R344, R367). The walker of a queued miss, where it has fewer than 32 walks, takes the miss whose turn
it is. -/
def execTranslationWalk (miss : Nat) (s : State) : Host.Outcome State Fault Refusal :=
  match mapGet s.misses miss with
  | none => .next s
  | some m =>
    let stack := stackOf m.cell
    if m.phase ≠ .queued ∨ walksOf s stack ≥ 32 then .next s
    else match firstWalk s stack with
      | none => .next s
      | some e => .next (startWalk s stack e)

/-- The accesses of an ACC field (R347). -/
def accesses (acc : BitVec 4) : List Access :=
  [Access.read, .write, .fetch, .atomic].filter fun a => accBit a &&& acc != 0

/-- The accesses of a miss that a walk's checks allow (R339, R340). -/
def allowedAcc (acc : BitVec 4) (r : WalkResult) : BitVec 4 :=
  (accesses acc).foldl (fun (m : BitVec 4) a => match r.for a with
    | .denied _ => m
    | _ => m ||| accBit a) 0

/-- The page request a walk asks for. -/
def absentOf : WalkResult → Option (Nat × Nat × Bool)
  | .checked _ _ r => absentOf r
  | .absent ipa level table => some (ipa, level, table)
  | _ => none

/-- Fails a miss: whoever waits on it hears its result (R341, R344). -/
def failMiss (s : State) (miss : Nat) (m : Miss) (r : WalkResult) : State :=
  let s := { s with misses := if m.waiters.isEmpty then mapErase s.misses miss
                              else mapSet s.misses miss { m with phase := .failed, result := r } }
  wake s m.waiters

/-- The entry of a walk fills the TLBs of every cell that asked for it (R343, R344). -/
def fillCells (e : TlbEntry) (l : List Nat) (s : State) : State := l.foldl (fillTlb · e ·) s

/-- A miss whose walk has found its page: the scheduler, which has no TLB, has still to hear of it (R343); others find it in theirs. -/
def servedMiss (s : State) (miss : Nat) (m : Miss) : State :=
  let held := m.waiters.filter fun
    | .scheduler _ => true
    | _ => false
  { s with misses := if held.isEmpty then mapErase s.misses miss else mapSet s.misses miss { m with phase := .failed, waiters := held } }

/-- A walk ends (R344, R347): its entry is cached, or a page request is posted, or its requesters fail. Those whose access a check
before the missing entry denies hear it when the request is posted. -/
def endWalk (s : State) (miss : Nat) (m : Miss) : State :=
  match m.result with
  | .ok e => wake (fillCells e m.cells (servedMiss s miss m)) m.waiters
  | r =>
    match absentOf r with
    | none => failMiss s miss m r
    | some (ipa, level, table) =>
      let acc := allowedAcc m.acc r
      if acc = 0 then failMiss s miss m r
      else match postRequest s m.vf m.va ipa level table acc m.source m.cell with
        | .off => failMiss s miss m r.unanswered
        | .full => { s with misses := mapSet s.misses miss { m with phase := .queued, result := .none } }
        | .posted id s => wake { s with misses := mapSet s.misses miss { m with phase := .requested id } } m.waiters

/-- WALK_COMPLETE (R339, R344, R347). A walk ends; one that an invalidation overtook is walked again (R346). -/
def execWalkComplete (miss : Nat) (s : State) : Host.Outcome State Fault Refusal :=
  match mapGet s.misses miss with
  | none => .next s
  | some m =>
    if m.phase ≠ .walking then .next s
    else
      let stale := s.tlbBusy.any fun e => e.2.contains miss
      let s := { s with tlbBusy := mapAll (fun _ l => l.filter fun k => k != miss) s.tlbBusy }
      if stale then .next { s with misses := mapSet s.misses miss { m with phase := .queued, result := .none } }
      else .next (endWalk s miss m)

/-! ## Page requests (R349, R350) -/

/-- A reply reaches the misses that wait on its request. -/
def replyMiss (failed : Bool) (vf id : Nat) (s : State) (e : Nat × Miss) : State :=
  if e.2.vf = vf ∧ e.2.phase = .requested id then
    if failed then failMiss s e.1 e.2 e.2.result.unanswered
    else { s with misses := mapSet s.misses e.1 { e.2 with phase := .queued, result := .none } }
  else s

/-- PRREPLY (R349, R350). A reply that names an outstanding request frees its slot and restarts or fails the walks that wait;
any other is counted. -/
def execPrreply (value : BitVec 64) (s : State) : Host.Outcome State Fault Refusal :=
  let x := value.toNat
  let status := bits x 62 2
  let vf := bits x 48 10
  let id := bits x 0 6
  let hits := fun (r : PageRequest) => r.vf == vf && r.id == id && r.seq == bits x 32 16
  if status ≤ 1 ∧ s.requests.any hits then
    .next (s.misses.foldl (replyMiss (status == 1) vf id) { s with requests := s.requests.filter fun r => !hits r })
  else .next (healthAdd s (healthReply vf))

/-! ## Host translations (R351, R352) -/

/-- The first host translation in progress of a page, in the ATS or the PRI phase, whose request has been sent. -/
def atsFind (s : State) (vf page : Nat) (pri : Bool) : Option AtsMiss :=
  s.atsMisses.find? fun m => m.vf == vf && m.page == page && m.pri == pri && !m.queued && !m.failed

/-- Replaces a host translation in progress. -/
def atsPut (s : State) (old new : AtsMiss) : State := { s with atsMisses := s.atsMisses.map fun m => if m = old then new else m }

/-- The Page Request Messages of a function that are outstanding (R352). -/
def priSent (s : State) (vf : Nat) : Nat := (s.atsMisses.filter fun m => m.vf == vf && m.pri && !m.queued && !m.failed).length

/-- Sends the first page request of a function that waits, where the allocation that the host has set allows one more (R352). -/
def priNext (s : State) (vf : Nat) : State :=
  match s.atsMisses.find? fun m => m.vf == vf && m.pri && m.queued && !m.failed with
  | none => s
  | some m =>
    if priSent s vf < (mapGet s.priLimit vf).getD 0 then
      { atsPut s m { m with queued := false } with outbox := s.outbox ++ [.pri m.vf m.page] }
    else s

/-- A host translation fails with cause 0x6, or goes to PRI where the host has enabled it (R352). -/
def atsDeny (s : State) (m : AtsMiss) (pri : Bool) : State :=
  if pri then priNext (atsPut s m { m with pri := true, queued := true }) m.vf
  else wake (if m.waiters.isEmpty then { s with atsMisses := s.atsMisses.filter fun x => x != m }
             else atsPut s m { m with failed := true }) m.waiters

/-- Whether granted permissions deny some access that waits. -/
def atsLacks (acc : BitVec 4) (r w : Bool) : Bool := (acc &&& 9 != 0 && !r) || (acc &&& 10 != 0 && !w)

/-- ATS_COMPLETION (R343, R351, R352). A granted page is cached in the TLBs of the clusters that asked; a denial goes to PRI or
fails. -/
def execAtsCompletion (vf page : Nat) (answer : AtsAnswer) (s : State) : Host.Outcome State Fault Refusal :=
  match atsFind s vf page false with
  | none => .next s
  | some m =>
    match answer with
    | .granted host r w =>
      let s := m.places.foldl (fillAts ⟨0, vf, page, host, r, w⟩) s
      if atsLacks m.acc r w then .next (wake (atsDeny s m (s.priEnabled.contains vf)) m.waiters)
      else .next (wake { s with atsMisses := s.atsMisses.filter fun x => x != m } m.waiters)
    | .denied => .next (atsDeny s m (s.priEnabled.contains vf))
    | .unsupported => .next (atsDeny s m false)

/-- ATS_INVALIDATE_REQUEST (R351). The matching entries are dropped before the request is answered. -/
def execAtsInvalidateRequest (vf page count : Nat) (s : State) : Host.Outcome State Fault Refusal :=
  .next { s with ats := s.ats.filter fun e => !(e.vf == vf && decide (page ≤ e.page ∧ e.page < page + count))
                 outbox := s.outbox ++ [.atsInvalidated vf page] }

/-- PRI_RESPONSE (R352). On Success ATS is tried again; on any other response the elements fail. -/
def execPriResponse (vf page : Nat) (success : Bool) (s : State) : Host.Outcome State Fault Refusal :=
  match atsFind s vf page true with
  | none => .next s
  | some m =>
    if success then .next (priNext { atsPut s m { m with pri := false } with outbox := s.outbox ++ [.ats vf page] } vf)
    else .next (priNext (atsDeny s m false) vf)

/-! ## Invalidation (R345, R346) -/

/-- Whether a miss holds an entry that the scheduler has still to hear of. -/
def foundMiss (m : Miss) : Bool := m.phase == .failed && match m.result with
  | .ok _ => true
  | _ => false

/-- A TLBINV command: dropped with ERR while BUSY, or for an OP a guest may not use; otherwise it drops the entries of a test
and the VF's walk-cache entries, and waits for the walks in flight. -/
def tlbinv (s : State) (vf : Nat) (allowed : Bool) (gone : TlbEntry → Bool) : State :=
  if (mapGet s.tlbBusy vf).isSome || !allowed then
    { s with tlbErr := if s.tlbErr.contains vf then s.tlbErr else s.tlbErr ++ [vf] }
  else
    { s with tlb := s.tlb.filter fun e => !(e.vf == vf && gone e)
             misses := mapFilter (fun _ m => !(m.vf == vf && foundMiss m)) s.misses
             walkCache := s.walkCache.filter fun e => e.vf != vf
             tlbBusy := mapSet s.tlbBusy vf ((s.misses.filter fun e => e.2.vf == vf && e.2.phase == .walking).map (·.1)) }

/-- Whether an entry was formed from a stage-1 page that overlaps some pages of 64 KiB (R346). -/
def formedFrom (page count : Nat) (e : TlbEntry) : Bool :=
  let lo := e.va - e.va % e.page1
  e.page1 != 0 && decide (lo < (page + count + 1) * 2 ^ 16) && decide (page * 2 ^ 16 < lo + e.page1)

/-- TLBINV_STAGE1_RANGE (R345, R346). `count` is COUNT: the pages of the range minus 1. -/
def execTlbinvStage1Range (vf : Nat) (_physical : Bool) (page count : Nat) (s : State) : Host.Outcome State Fault Refusal :=
  .next (tlbinv s vf true (formedFrom page count))

/-- TLBINV_STAGE1_ALL (R345, R346). -/
def execTlbinvStage1All (vf : Nat) (_physical : Bool) (s : State) : Host.Outcome State Fault Refusal :=
  .next (tlbinv s vf true fun _ => true)

/-- TLBINV_STAGE2_RANGE (R345, R346). Every combined entry of the VF is dropped; a guest may not issue it. -/
def execTlbinvStage2Range (vf : Nat) (physical : Bool) (_page _count : Nat) (s : State) : Host.Outcome State Fault Refusal :=
  .next (tlbinv s vf physical fun _ => true)

/-- TLBINV_ALL (R345, R346). A guest may not issue it. -/
def execTlbinvAll (vf : Nat) (physical : Bool) (s : State) : Host.Outcome State Fault Refusal :=
  .next (tlbinv s vf physical fun _ => true)

/-- TLBINV_COMPLETE (R346). BUSY returns to 0 once every walk that began before the command has ended. -/
def execTlbinvComplete (vf : Nat) (s : State) : Host.Outcome State Fault Refusal :=
  match mapGet s.tlbBusy vf with
  | some [] => .next { s with tlbBusy := mapErase s.tlbBusy vf }
  | _ => .next s

/-! ## Roots (R338, R348) -/

/-- The fields of a root register: EN and ADDR (R338). -/
def rootFields (v : BitVec 64) : Nat := bits v.toNat 63 1 * 2 ^ 63 + bits v.toNat 14 38 * 2 ^ 14

/-- S1ROOT_WRITE (R338). -/
def execS1rootWrite (vf : Nat) (value : BitVec 64) (s : State) : Host.Outcome State Fault Refusal :=
  .next (regPut s (vfReg vf 0x8) (rootFields value))

/-- S2ROOT_WRITE (R338). -/
def execS2rootWrite (vf : Nat) (value : BitVec 64) (s : State) : Host.Outcome State Fault Refusal :=
  .next (regPut s (pageReg vf 0x8) (rootFields value))

/-- PRQBASE_WRITE (R348). Ignored while the VF has a request outstanding. -/
def execPrqbaseWrite (vf : Nat) (value : BitVec 64) (s : State) : Host.Outcome State Fault Refusal :=
  if s.requests.any fun r => r.vf == vf then .next s
  else .next (regPut s (pageReg vf 0x10) (bits value.toNat 63 1 * 2 ^ 63 + bits value.toNat 11 46 * 2 ^ 11))

end Sys2Proof.Machine
end

