-- ==== Sys2Proof/Machine/Dispatch.lean ====
section
/-! DEFINITION. One arm per row of the opcode table, each one call of its meaning. -/

namespace Sys2Proof.Machine

def exec (i : Instr) (s : State) : Host.Outcome State Fault Refusal :=
  match i with
  | .smov f => Sys2Proof.Machine.execSmov f s
  | .smovi f => Sys2Proof.Machine.execSmovi f s
  | .sadd f => Sys2Proof.Machine.execSadd f s
  | .ssub f => Sys2Proof.Machine.execSsub f s
  | .smul f => Sys2Proof.Machine.execSmul f s
  | .smulh f => Sys2Proof.Machine.execSmulh f s
  | .sdiv f => Sys2Proof.Machine.execSdiv f s
  | .srem f => Sys2Proof.Machine.execSrem f s
  | .sand f => Sys2Proof.Machine.execSand f s
  | .sor f => Sys2Proof.Machine.execSor f s
  | .sxor f => Sys2Proof.Machine.execSxor f s
  | .snot f => Sys2Proof.Machine.execSnot f s
  | .sshl f => Sys2Proof.Machine.execSshl f s
  | .sshr f => Sys2Proof.Machine.execSshr f s
  | .ssar f => Sys2Proof.Machine.execSsar f s
  | .smin f => Sys2Proof.Machine.execSmin f s
  | .smax f => Sys2Proof.Machine.execSmax f s
  | .scmp f => Sys2Proof.Machine.execScmp f s
  | .ssel f => Sys2Proof.Machine.execSsel f s
  | .sclz f => Sys2Proof.Machine.execSclz f s
  | .spopc f => Sys2Proof.Machine.execSpopc f s
  | .sbfx f => Sys2Proof.Machine.execSbfx f s
  | .sbfi f => Sys2Proof.Machine.execSbfi f s
  | .imov f => Sys2Proof.Machine.execImov f s
  | .imovShort f => Sys2Proof.Machine.execImovShort f s
  | .imovi f => Sys2Proof.Machine.execImovi f s
  | .imoviShort f => Sys2Proof.Machine.execImoviShort f s
  | .iadd f => Sys2Proof.Machine.execIadd f s
  | .iaddShort f => Sys2Proof.Machine.execIaddShort f s
  | .isub f => Sys2Proof.Machine.execIsub f s
  | .isubShort f => Sys2Proof.Machine.execIsubShort f s
  | .imul f => Sys2Proof.Machine.execImul f s
  | .imulShort f => Sys2Proof.Machine.execImulShort f s
  | .imulh f => Sys2Proof.Machine.execImulh f s
  | .idiv f => Sys2Proof.Machine.execIdiv f s
  | .irem f => Sys2Proof.Machine.execIrem f s
  | .iand f => Sys2Proof.Machine.execIand f s
  | .iandShort f => Sys2Proof.Machine.execIandShort f s
  | .ior f => Sys2Proof.Machine.execIor f s
  | .iorShort f => Sys2Proof.Machine.execIorShort f s
  | .ixor f => Sys2Proof.Machine.execIxor f s
  | .ixorShort f => Sys2Proof.Machine.execIxorShort f s
  | .inot f => Sys2Proof.Machine.execInot f s
  | .inotShort f => Sys2Proof.Machine.execInotShort f s
  | .ishl f => Sys2Proof.Machine.execIshl f s
  | .ishlShort f => Sys2Proof.Machine.execIshlShort f s
  | .ishr f => Sys2Proof.Machine.execIshr f s
  | .ishrShort f => Sys2Proof.Machine.execIshrShort f s
  | .isar f => Sys2Proof.Machine.execIsar f s
  | .isarShort f => Sys2Proof.Machine.execIsarShort f s
  | .imin f => Sys2Proof.Machine.execImin f s
  | .iminShort f => Sys2Proof.Machine.execIminShort f s
  | .imax f => Sys2Proof.Machine.execImax f s
  | .imaxShort f => Sys2Proof.Machine.execImaxShort f s
  | .icmp f => Sys2Proof.Machine.execIcmp f s
  | .isel f => Sys2Proof.Machine.execIsel f s
  | .iclz f => Sys2Proof.Machine.execIclz f s
  | .iclzShort f => Sys2Proof.Machine.execIclzShort f s
  | .ipopc f => Sys2Proof.Machine.execIpopc f s
  | .ipopcShort f => Sys2Proof.Machine.execIpopcShort f s
  | .ibfx f => Sys2Proof.Machine.execIbfx f s
  | .ibfi f => Sys2Proof.Machine.execIbfi f s
  | .imad f => Sys2Proof.Machine.execImad f s
  | .iabs f => Sys2Proof.Machine.execIabs f s
  | .iabsShort f => Sys2Proof.Machine.execIabsShort f s
  | .ineg f => Sys2Proof.Machine.execIneg f s
  | .inegShort f => Sys2Proof.Machine.execInegShort f s
  | .irot f => Sys2Proof.Machine.execIrot f s
  | .sfrom f => Sys2Proof.Machine.execSfrom f s
  | .pset f => Sys2Proof.Machine.execPset f s
  | .pmov f => Sys2Proof.Machine.execPmov f s
  | .pand f => Sys2Proof.Machine.execPand f s
  | .por f => Sys2Proof.Machine.execPor f s
  | .pxor f => Sys2Proof.Machine.execPxor f s
  | .pnot f => Sys2Proof.Machine.execPnot f s
  | .pdec f => Sys2Proof.Machine.execPdec f s
  | .ptoi f => Sys2Proof.Machine.execPtoi f s
  | .vote f => Sys2Proof.Machine.execVote f s
  | .bra f => Sys2Proof.Machine.execBra f s
  | .braShort f => Sys2Proof.Machine.execBraShort f s
  | .brv f => Sys2Proof.Machine.execBrv f s
  | .jmpi f => Sys2Proof.Machine.execJmpi f s
  | .call f => Sys2Proof.Machine.execCall f s
  | .ret f => Sys2Proof.Machine.execRet f s
  | .sloop f => Sys2Proof.Machine.execSloop f s
  | .rcv f => Sys2Proof.Machine.execRcv f s
  | .rcvShort f => Sys2Proof.Machine.execRcvShort f s
  | .exit f => Sys2Proof.Machine.execExit f s
  | .exitShort f => Sys2Proof.Machine.execExitShort f s
  | .quit f => Sys2Proof.Machine.execQuit f s
  | .quitShort f => Sys2Proof.Machine.execQuitShort f s
  | .nop f => Sys2Proof.Machine.execNop f s
  | .nopShort f => Sys2Proof.Machine.execNopShort f s
  | .emset f => Sys2Proof.Machine.execEmset f s
  | .emget f => Sys2Proof.Machine.execEmget f s
  | .fmov f => Sys2Proof.Machine.execFmov f s
  | .fmovShort f => Sys2Proof.Machine.execFmovShort f s
  | .fadd f => Sys2Proof.Machine.execFadd f s
  | .faddShort f => Sys2Proof.Machine.execFaddShort f s
  | .fsub f => Sys2Proof.Machine.execFsub f s
  | .fsubShort f => Sys2Proof.Machine.execFsubShort f s
  | .fmul f => Sys2Proof.Machine.execFmul f s
  | .fmulShort f => Sys2Proof.Machine.execFmulShort f s
  | .ffma f => Sys2Proof.Machine.execFfma f s
  | .fdiv f => Sys2Proof.Machine.execFdiv f s
  | .fsqrt f => Sys2Proof.Machine.execFsqrt f s
  | .fmin f => Sys2Proof.Machine.execFmin f s
  | .fminShort f => Sys2Proof.Machine.execFminShort f s
  | .fmax f => Sys2Proof.Machine.execFmax f s
  | .fmaxShort f => Sys2Proof.Machine.execFmaxShort f s
  | .fabs f => Sys2Proof.Machine.execFabs f s
  | .fabsShort f => Sys2Proof.Machine.execFabsShort f s
  | .fneg f => Sys2Proof.Machine.execFneg f s
  | .fnegShort f => Sys2Proof.Machine.execFnegShort f s
  | .fcmp f => Sys2Proof.Machine.execFcmp f s
  | .fclass f => Sys2Proof.Machine.execFclass f s
  | .frnd f => Sys2Proof.Machine.execFrnd f s
  | .fscale f => Sys2Proof.Machine.execFscale f s
  | .fexp2 f => Sys2Proof.Machine.execFexp2 f s
  | .flog2 f => Sys2Proof.Machine.execFlog2 f s
  | .frcpa f => Sys2Proof.Machine.execFrcpa f s
  | .fmovIv f => Sys2Proof.Machine.execFmovIv f s
  | .faddIv f => Sys2Proof.Machine.execFaddIv f s
  | .fsubIv f => Sys2Proof.Machine.execFsubIv f s
  | .fmulIv f => Sys2Proof.Machine.execFmulIv f s
  | .ffmaIv f => Sys2Proof.Machine.execFfmaIv f s
  | .fdivIv f => Sys2Proof.Machine.execFdivIv f s
  | .fsqrtIv f => Sys2Proof.Machine.execFsqrtIv f s
  | .fminIv f => Sys2Proof.Machine.execFminIv f s
  | .fmaxIv f => Sys2Proof.Machine.execFmaxIv f s
  | .fabsIv f => Sys2Proof.Machine.execFabsIv f s
  | .fnegIv f => Sys2Proof.Machine.execFnegIv f s
  | .fcmpIv f => Sys2Proof.Machine.execFcmpIv f s
  | .ivmk f => Sys2Proof.Machine.execIvmk f s
  | .ivlo f => Sys2Proof.Machine.execIvlo f s
  | .ivhi f => Sys2Proof.Machine.execIvhi f s
  | .ivmid f => Sys2Proof.Machine.execIvmid f s
  | .ivwid f => Sys2Proof.Machine.execIvwid f s
  | .ivhull f => Sys2Proof.Machine.execIvhull f s
  | .ivmeet f => Sys2Proof.Machine.execIvmeet f s
  | .ivin f => Sys2Proof.Machine.execIvin f s
  | .ivsplit f => Sys2Proof.Machine.execIvsplit f s
  | .ivchk f => Sys2Proof.Machine.execIvchk f s
  | .bisect f => Sys2Proof.Machine.execBisect f s
  | .cvt f => Sys2Proof.Machine.execCvt f s
  | .bxpk f => Sys2Proof.Machine.execBxpk f s
  | .bxupk f => Sys2Proof.Machine.execBxupk f s
  | .ldt f => Sys2Proof.Machine.execLdt f s
  | .stt f => Sys2Proof.Machine.execStt f s
  | .ldu f => Sys2Proof.Machine.execLdu f s
  | .stu f => Sys2Proof.Machine.execStu f s
  | .line f => Sys2Proof.Machine.execLine f s
  | .shfx f => Sys2Proof.Machine.execShfx f s
  | .gath f => Sys2Proof.Machine.execGath f s
  | .scat f => Sys2Proof.Machine.execScat f s
  | .rebal f => Sys2Proof.Machine.execRebal f s
  | .pref f => Sys2Proof.Machine.execPref f s
  | .cflush f => Sys2Proof.Machine.execCflush f s
  | .cinv f => Sys2Proof.Machine.execCinv f s
  | .tdset f => Sys2Proof.Machine.execTdset f s
  | .tdget f => Sys2Proof.Machine.execTdget f s
  | .tdinv f => Sys2Proof.Machine.execTdinv f s
  | .atomAdd f => Sys2Proof.Machine.execAtomAdd f s
  | .atomMin f => Sys2Proof.Machine.execAtomMin f s
  | .atomMax f => Sys2Proof.Machine.execAtomMax f s
  | .atomAnd f => Sys2Proof.Machine.execAtomAnd f s
  | .atomOr f => Sys2Proof.Machine.execAtomOr f s
  | .atomXor f => Sys2Proof.Machine.execAtomXor f s
  | .atomExch f => Sys2Proof.Machine.execAtomExch f s
  | .acas f => Sys2Proof.Machine.execAcas f s
  | .fence f => Sys2Proof.Machine.execFence f s
  | .wait f => Sys2Proof.Machine.execWait f s
  | .mlds f => Sys2Proof.Machine.execMlds f s
  | .mswap f => Sys2Proof.Machine.execMswap f s
  | .mswapShort f => Sys2Proof.Machine.execMswapShort f s
  | .maccz f => Sys2Proof.Machine.execMaccz f s
  | .macc f => Sys2Proof.Machine.execMacc f s
  | .mdrn f => Sys2Proof.Machine.execMdrn f s
  | .msto f => Sys2Proof.Machine.execMsto f s
  | .mrd f => Sys2Proof.Machine.execMrd f s
  | .mfence f => Sys2Proof.Machine.execMfence f s
  | .mfenceShort f => Sys2Proof.Machine.execMfenceShort f s
  | .mrel f => Sys2Proof.Machine.execMrel f s
  | .vacczSign f => Sys2Proof.Machine.execVacczSign f s
  | .vacczGt f => Sys2Proof.Machine.execVacczGt f s
  | .vacczTopk f => Sys2Proof.Machine.execVacczTopk f s
  | .vaccSign f => Sys2Proof.Machine.execVaccSign f s
  | .vaccGt f => Sys2Proof.Machine.execVaccGt f s
  | .vaccTopk f => Sys2Proof.Machine.execVaccTopk f s
  | .vtest f => Sys2Proof.Machine.execVtest f s
  | .tkins f => Sys2Proof.Machine.execTkins f s
  | .cpy f => Sys2Proof.Machine.execCpy f s
  | .cpym f => Sys2Proof.Machine.execCpym f s
  | .binit f => Sys2Proof.Machine.execBinit f s
  | .bexp f => Sys2Proof.Machine.execBexp f s
  | .barv f => Sys2Proof.Machine.execBarv f s
  | .bwait f => Sys2Proof.Machine.execBwait f s
  | .btry f => Sys2Proof.Machine.execBtry f s
  | .rresInit f => Sys2Proof.Machine.execRresInit f s
  | .rres f => Sys2Proof.Machine.execRres f s
  | .rcmt f => Sys2Proof.Machine.execRcmt f s
  | .racq f => Sys2Proof.Machine.execRacq f s
  | .rrel f => Sys2Proof.Machine.execRrel f s
  | .gbar f => Sys2Proof.Machine.execGbar f s
  | .gbarShort f => Sys2Proof.Machine.execGbarShort f s
  | .emit f => Sys2Proof.Machine.execEmit f s
  | .emith f => Sys2Proof.Machine.execEmith f s
  | .emitr f => Sys2Proof.Machine.execEmitr f s
  | .jinit f => Sys2Proof.Machine.execJinit f s
  | .jarr f => Sys2Proof.Machine.execJarr f s
  | .fbm f => Sys2Proof.Machine.execFbm f s
  | .fbmShort f => Sys2Proof.Machine.execFbmShort f s
  | .trap f => Sys2Proof.Machine.execTrap f s
  | .trapShort f => Sys2Proof.Machine.execTrapShort f s
  | .tret f => Sys2Proof.Machine.execTret f s
  | .tretShort f => Sys2Proof.Machine.execTretShort f s
  | .rdsr f => Sys2Proof.Machine.execRdsr f s
  | .wrsr f => Sys2Proof.Machine.execWrsr f s
  | .plate f => Sys2Proof.Machine.execPlate f s
  | .plateShort f => Sys2Proof.Machine.execPlateShort f s
  | .brk f => Sys2Proof.Machine.execBrk f s
  | .brkShort f => Sys2Proof.Machine.execBrkShort f s
  | .rcvTimeout slot => Sys2Proof.Machine.execRcvTimeout slot s
  | .loadComplete slot => Sys2Proof.Machine.execLoadComplete slot s
  | .storeComplete slot => Sys2Proof.Machine.execStoreComplete slot s
  | .matrixOpComplete bay slot => Sys2Proof.Machine.execMatrixOpComplete bay slot s
  | .markOverdueCount slot => Sys2Proof.Machine.execMarkOverdueCount slot s
  | .markOverdueHeld slot => Sys2Proof.Machine.execMarkOverdueHeld slot s
  | .copyComplete copy => Sys2Proof.Machine.execCopyComplete copy s
  | .copyFault copy why source => Sys2Proof.Machine.execCopyFault copy why source s
  | .barrierRootArrival => Sys2Proof.Machine.execBarrierRootArrival s
  | .barrierBroadcast cell => Sys2Proof.Machine.execBarrierBroadcast cell s
  | .barrierOverrun slot => Sys2Proof.Machine.execBarrierOverrun slot s
  | .doorbell vf q w => Sys2Proof.Machine.execDoorbell vf q w s
  | .launchStart vf => Sys2Proof.Machine.execLaunchStart vf s
  | .entryEnqueue vf lslot => Sys2Proof.Machine.execEntryEnqueue vf lslot s
  | .launchCompletion vf lslot => Sys2Proof.Machine.execLaunchCompletion vf lslot s
  | .workgroupGather vf lslot node stack cell => Sys2Proof.Machine.execWorkgroupGather vf lslot node stack cell s
  | .flushTimeout vf lslot node stack cell => Sys2Proof.Machine.execFlushTimeout vf lslot node stack cell s
  | .shadowPrefetchComplete wg => Sys2Proof.Machine.execShadowPrefetchComplete wg s
  | .workgroupLaunch wg slots => Sys2Proof.Machine.execWorkgroupLaunch wg slots s
  | .governorReassign cell vf lslot node => Sys2Proof.Machine.execGovernorReassign cell vf lslot node s
  | .emissionReplace slot => Sys2Proof.Machine.execEmissionReplace slot s
  | .workgroupEnd wg => Sys2Proof.Machine.execWorkgroupEnd wg s
  | .remoteRecordArrival link source tag words => Sys2Proof.Machine.execRemoteRecordArrival link source tag words s
  | .inboxTransfer vf lslot index => Sys2Proof.Machine.execInboxTransfer vf lslot index s
  | .remoteAck vf lslot chip accepted => Sys2Proof.Machine.execRemoteAck vf lslot chip accepted s
  | .remoteAccessArrival acc => Sys2Proof.Machine.execRemoteAccessArrival acc s
  | .uetWriteArrival port tenant va bytes => Sys2Proof.Machine.execUetWriteArrival port tenant va bytes s
  | .translationWalk miss => Sys2Proof.Machine.execTranslationWalk miss s
  | .walkComplete miss => Sys2Proof.Machine.execWalkComplete miss s
  | .prreply value => Sys2Proof.Machine.execPrreply value s
  | .atsCompletion vf page answer => Sys2Proof.Machine.execAtsCompletion vf page answer s
  | .atsInvalidateRequest vf page count => Sys2Proof.Machine.execAtsInvalidateRequest vf page count s
  | .priResponse vf page success => Sys2Proof.Machine.execPriResponse vf page success s
  | .tlbinvStage1Range vf physical page count => Sys2Proof.Machine.execTlbinvStage1Range vf physical page count s
  | .tlbinvStage1All vf physical => Sys2Proof.Machine.execTlbinvStage1All vf physical s
  | .tlbinvStage2Range vf physical page count => Sys2Proof.Machine.execTlbinvStage2Range vf physical page count s
  | .tlbinvAll vf physical => Sys2Proof.Machine.execTlbinvAll vf physical s
  | .tlbinvComplete vf => Sys2Proof.Machine.execTlbinvComplete vf s
  | .s1rootWrite vf value => Sys2Proof.Machine.execS1rootWrite vf value s
  | .s2rootWrite vf value => Sys2Proof.Machine.execS2rootWrite vf value s
  | .prqbaseWrite vf value => Sys2Proof.Machine.execPrqbaseWrite vf value s
  | .partcmdDefine part => Sys2Proof.Machine.execPartcmdDefine part s
  | .partcmdDelete part => Sys2Proof.Machine.execPartcmdDelete part s
  | .cellresWrite cell value => Sys2Proof.Machine.execCellresWrite cell value s
  | .bktProfileWrite vf kind value => Sys2Proof.Machine.execBktProfileWrite vf kind value s
  | .policyWrite vf value => Sys2Proof.Machine.execPolicyWrite vf value s
  | .qassignWrite vf q value => Sys2Proof.Machine.execQassignWrite vf q value s
  | .bucketAccrual => Sys2Proof.Machine.execBucketAccrual s
  | .arbitrationRound kind unit requests => Sys2Proof.Machine.execArbitrationRound kind unit requests s
  | .cellReclaim cell => Sys2Proof.Machine.execCellReclaim cell s
  | .sliceExpiry wg => Sys2Proof.Machine.execSliceExpiry wg s
  | .preemptVf vf => Sys2Proof.Machine.execPreemptVf vf s
  | .preemptPartition part => Sys2Proof.Machine.execPreemptPartition part s
  | .saveComplete wg => Sys2Proof.Machine.execSaveComplete wg s
  | .workgroupResume wg cell slots => Sys2Proof.Machine.execWorkgroupResume wg cell slots s
  | .hangRuntime vf lslot => Sys2Proof.Machine.execHangRuntime vf lslot s
  | .hangUnitTimeout part => Sys2Proof.Machine.execHangUnitTimeout part s
  | .linkFailure link => Sys2Proof.Machine.execLinkFailure link s
  | .sramUncorrectable part die detail => Sys2Proof.Machine.execSramUncorrectable part die detail s
  | .softErrorCorrected die kind => Sys2Proof.Machine.execSoftErrorCorrected die kind s
  | .l2LineRepair line => Sys2Proof.Machine.execL2LineRepair line s
  | .linePoison line => Sys2Proof.Machine.execLinePoison line s
  | .thermalTrip => Sys2Proof.Machine.execThermalTrip s
  | .throttleChange report => Sys2Proof.Machine.execThrottleChange report s
  | .watchEventWrite => Sys2Proof.Machine.execWatchEventWrite s
  | .weqstatClear vf => Sys2Proof.Machine.execWeqstatClear vf s
  | .plateFire => Sys2Proof.Machine.execPlateFire s
  | .qringEnable vf q value => Sys2Proof.Machine.execQringEnable vf q value s
  | .qringDisable vf q value => Sys2Proof.Machine.execQringDisable vf q value s
  | .queueResume vf q => Sys2Proof.Machine.execQueueResume vf q s
  | .eventSet vf word mask => Sys2Proof.Machine.execEventSet vf word mask s
  | .eventClear vf word mask => Sys2Proof.Machine.execEventClear vf word mask s
  | .drainEnter scope target => Sys2Proof.Machine.execDrainEnter scope target s
  | .drainReturn scope target => Sys2Proof.Machine.execDrainReturn scope target s
  | .drainComplete scope target => Sys2Proof.Machine.execDrainComplete scope target s
  | .bar2Access vf addr size op => Sys2Proof.Machine.execBar2Access vf addr size op s
  | .pfBar2Access addr size op => Sys2Proof.Machine.execPfBar2Access addr size op s
  | .surveyRefresh page => Sys2Proof.Machine.execSurveyRefresh page s
  | .linkStateChange link state peer => Sys2Proof.Machine.execLinkStateChange link state peer s
  | .spdmRequest function block => Sys2Proof.Machine.execSpdmRequest function block s
  | .manifestUpdate manifest => Sys2Proof.Machine.execManifestUpdate manifest s
  | .coldReset => Sys2Proof.Machine.execColdReset s
  | .stackGroupReady stack => Sys2Proof.Machine.execStackGroupReady stack s
  | .registerWrite function offset value => Sys2Proof.Machine.execRegisterWrite function offset value s
  | .brkRelease slot => Sys2Proof.Machine.execBrkRelease slot s
  | .thermalTripRelease => Sys2Proof.Machine.execThermalTripRelease s

end Sys2Proof.Machine
end

