-- ==== Sys2Proof/Machine/Step.lean ====
section
/-! DEFINITION. One step of the package: the next move, run or at rest. -/

namespace Sys2Proof.Machine

/-- One step: the next move of `selectMove`; a row of the table runs by `exec`. -/
def step (s : State) : Host.Outcome State Fault Refusal :=
  match selectMove s with
  | .run i s' => exec i s'
  | .rest s' => .next s'

/-- The state with an instruction where the next step fetches it: a loaded program of one gang whose first instruction is the
given word (log 10). -/
def State.withFetchWord (s : State) (nbits w : Nat) : State := placeCode (loaded s) nbits w

end Sys2Proof.Machine
end

