-- ==== Sys2Proof/Safety.lean ====
section
/-! DEFINITION. What counts as a safe run: a run of steps that ends neither in a fault nor in a refusal of the model. -/

namespace Sys2Proof

/-- A state from which `n` steps give a next state. -/
def safeFor (n : Nat) (s : Machine.State) : Prop := ∃ t, core.run n s = .next t

end Sys2Proof
end

