-- ==== Sys2Proof/Certificates/Slice0/Obligations.lean ====
section
/-! DEFINITION. Statements about the machine for the provers, and the words they are said in. -/

namespace Sys2Proof.Claims

open Sys2Proof.Machine

/-! ## What issuing an instruction leaves -/

/-- The gang `g` is the current one, the descriptors of the origins of opcode `opc` wait on no translation, the spans of those
origins lie in their files, and no name that the instruction touches is pending (R41, R111). -/
def Ready (opc : Nat) (f : Fields) (s : State) (g : Gang) : Prop :=
  mapGet s.gangs s.cur = some g ∧ rankAt s s.cur g opc f = .known ∧ hazard s g opc f = none

/-- A gang without what every issue writes: the PC, the pending scoreboard, the count of R323, the cycle from which it is ready
(R31), and the progress of an instruction that was held (R31, R215). -/
def kept (g : Gang) : Gang :=
  { g with pc := 0, pending := [], markCount := 0, ready := 0, hold := none, charged := false, operands := none, emit := none, done := 0,
           failed := [], poisoned := 0, skipWatch := false }

/-- The gang has issued an instruction: it stands at `pc`, distances have shrunk by one, `ps` are pending, and the instruction
counts toward R323 (R40, R41). -/
def Issued (g g' : Gang) (pc : Nat) (ps : List Pending) : Prop :=
  g'.pc = pc ∧ g'.pending = agePending g.pending ++ ps ∧ g'.markCount = g.markCount + 1 ∧ g'.hold = none

/-- `i` completes: the next state is `s` but for the gang in the current slot, which is now `g'` and is ready for its next
instruction from the next arithmetic cycle (R31). -/
def StepsTo (i : Instr) (s0 s : State) (g' : Gang) : Prop :=
  g'.ready = s0.acycle + 1 ∧ ∃ t, exec i s0 = .next t ∧ t = { s with gangs := t.gangs } ∧ mapGet t.gangs s0.cur = some g' ∧
    ∀ k, k ≠ s0.cur → mapGet t.gangs k = mapGet s0.gangs k

/-- Thread `t` participates: it is in EM and passes the guard (R28). -/
def takesPart (g : Gang) (f : Fields) (t : Nat) : Bool := g.em.getLsbD t && guardPasses g f.grd t

/-- Some thread participates. -/
def anyPart (g : Gang) (f : Fields) : Bool := (List.range 32).any (takesPart g f)

/-- Where `ok` holds, `i` writes `val t` to register D of every participating thread `t`, readable at distance `dist`, and
changes nothing else of the machine; with no participating thread it only issues (R28, R30, R33, R40). -/
def LaneWritesWhere (ok : State → Gang → Prop) (i : Instr) (opc : Nat) (f : Fields) (dist : Nat)
    (val : State → Gang → Nat → Word) : Prop :=
  ∀ s g, Ready opc f s g → ok s g →
    ∃ g', StepsTo i s s g' ∧
      (∀ t < 32, ∀ x, wordGet g'.regs (regKey t x)
        = if takesPart g f t ∧ x = f.d then val s g t else wordGet g.regs (regKey t x)) ∧
      kept g' = kept { g with regs := g'.regs } ∧
      Issued g g' (nextPc g f.len) (if anyPart g f then pendD opc f dist else [])

/-- `i` writes `val t` to register D of every participating thread `t`, whatever the state. -/
def LaneWrites (i : Instr) (opc : Nat) (f : Fields) (dist : Nat) (val : State → Gang → Nat → Word) : Prop :=
  LaneWritesWhere (fun _ _ => True) i opc f dist val

/-- `i` writes `val t` to predicate D of every participating thread `t`, and changes nothing else of the machine. -/
def PredWrites (i : Instr) (opc : Nat) (f : Fields) (dist : Nat) (val : State → Gang → Nat → BitVec 2) : Prop :=
  ∀ s g, Ready opc f s g →
    ∃ g', StepsTo i s s g' ∧
      (∀ t < 32, ∀ n < 8, getPred g' t n
        = if takesPart g f t ∧ n = bits f.d.toNat 0 3 then val s g t else getPred g t n) ∧
      kept g' = kept { g with preds := g'.preds } ∧
      Issued g g' (nextPc g f.len) (if anyPart g f then pendD opc f dist else [])

/-- A slot that comes later in the order of this arithmetic cycle has written register `k` of the b files in the same cycle (R31,
R38). -/
def Overtaken (s : State) (k : Nat) : Prop :=
  ∃ j, mapGet s.bTurn k = some (s.acycle, j) ∧ (s.cur + 4 - s.acycle % 4) % 4 < (j + 4 - s.acycle % 4) % 4

/-- Register `k` of the b files is the one that D names, in the bay of the current gang, and no later slot has written it in this
cycle (R33, R38). -/
def WritesShared (s : State) (f : Fields) (k : Nat) : Prop :=
  16 * bayOf s.cur ≤ k ∧ RegName.ofSpec f.d = some (.b (k - 16 * bayOf s.cur)) ∧ ¬ Overtaken s k

/-- Where `go` holds, `i` writes `v` to the s register or to the bay's b register that D names, readable at distance `dist`,
and goes on at `pc`; of the writes of one arithmetic cycle to a b register that of the latest slot stands; it changes nothing else
of the machine (R30, R33, R38). -/
def SetsUniform (i : Instr) (opc : Nat) (f : Fields) (dist : Nat) (s : State) (g : Gang) (go : Bool) (v : Word) (pc : Nat) :
    Prop :=
  ∃ g' bregs turn, StepsTo i s { s with bregs := bregs, bTurn := turn } g' ∧
    (∀ n, wordGet g'.sregs n = if go ∧ RegName.ofSpec f.d = some (.s n) then v else wordGet g.sregs n) ∧
    (∀ k, (go ∧ WritesShared s f k → wordGet bregs k = v ∧ mapGet turn k = some (s.acycle, s.cur)) ∧
      (¬ (go ∧ WritesShared s f k) → wordGet bregs k = wordGet s.bregs k ∧ mapGet turn k = mapGet s.bTurn k)) ∧
    kept g' = kept { g with sregs := g'.sregs } ∧
    Issued g g' pc (if go then pendD opc f dist else [])

/-- Where its guard passes, `i` writes a value to D, and goes on with the next instruction (R30, R43). -/
def UniformWrites (i : Instr) (opc : Nat) (f : Fields) (dist : Nat) (val : State → Gang → Word) : Prop :=
  ∀ s g, Ready opc f s g → SetsUniform i opc f dist s g (condPasses g f.grd) (val s g) (nextPc g f.len)

/-- `i` goes on at `pc` and changes nothing of the machine but the gang, which is as `g1`. -/
def Becomes (i : Instr) (s : State) (g g1 : Gang) (pc : Nat) : Prop :=
  ∃ g', StepsTo i s s g' ∧ kept g' = kept g1 ∧ Issued g g' pc []

/-- `m` is the mask of the participating threads. -/
def Participating (g : Gang) (f : Fields) (m : Mask) : Prop := ∀ t < 32, m.getLsbD t = takesPart g f t

/-- The instruction faults: the next state is the one that taking the fault leaves of `s`, so the instruction has no effect of
its own (R327, R328). -/
def Faults (i : Instr) (s : State) (g : Gang) (len : Form) (code : FaultCode) (tval : Word) : Prop :=
  exec i s = .next (takeFault s s.cur g (formNum len) (precise code tval))

/-- Where `go` holds, `i` writes `v` to condition D, and changes nothing else of the machine (R34). -/
def SetsCond (i : Instr) (opc : Nat) (f : Fields) (dist : Nat) (s : State) (g : Gang) (go v : Bool) : Prop :=
  ∃ g', StepsTo i s s g' ∧
    (∀ n < 4, getCond g' n = if go ∧ n = bits f.d.toNat 0 3 then v else getCond g n) ∧
    kept g' = kept { g with conds := g'.conds } ∧
    Issued g g' (nextPc g f.len) (if go then pendD opc f dist else [])

/-! ## Integer values, as the spec gives them (R153 to R158) -/

/-- The low w bits of a source. -/
def lo (ty : Ty) (x : Word) : BitVec ty.width := x.setWidth ty.width
/-- A w-bit result, zero-filled above. -/
def up {w : Nat} (x : BitVec w) : Word := x.setWidth 64
/-- A source at twice its width, by its type's signedness. -/
def wide (ty : Ty) (x : Word) : BitVec (2 * ty.width) :=
  if ty.isSigned then (lo ty x).signExtend (2 * ty.width) else (lo ty x).setWidth (2 * ty.width)
/-- a < b by the type's signedness. -/
def less (ty : Ty) (a b : Word) : Bool := if ty.isSigned then (lo ty a).slt (lo ty b) else (lo ty a).ult (lo ty b)

/-- Trunc(a / b). -/
def quotient (ty : Ty) (a b : Word) : Word :=
  up (if ty.isSigned then (lo ty a).sdiv (lo ty b) else (lo ty a).udiv (lo ty b))
/-- a − b · Trunc(a / b). -/
def remainder (ty : Ty) (a b : Word) : Word :=
  up (if ty.isSigned then (lo ty a).srem (lo ty b) else (lo ty a).umod (lo ty b))
/-- The amount of a shift or rotate: b[7:0]. -/
def shiftBy (b : Word) : Nat := (b.setWidth 8).toNat
/-- Leading zero bits. -/
def leadingZeros {w : Nat} (x : BitVec w) : Nat := ((List.range w).takeWhile fun k => !x.getMsbD k).length
/-- One bits. -/
def onesCount {w : Nat} (x : BitVec w) : Nat := ((List.range w).filter x.getLsbD).length
/-- Bits p to p + l − 1 of a, cut at the width and extended by the type's signedness; 0 from the width on. -/
def extracted (ty : Ty) (p l : Nat) (a : Word) : Word :=
  let x := (lo ty a).extractLsb' p (min l (ty.width - p))
  if p ≥ ty.width then 0 else up (if ty.isSigned then x.signExtend ty.width else x.setWidth ty.width)
/-- `base` with its bits p to p + l − 1, below the width, taken from the low bits of a. -/
def inserted (ty : Ty) (p l : Nat) (a base : Word) : Word :=
  let m : BitVec ty.width := (BitVec.allOnes ty.width >>> (ty.width - min l ty.width)) <<< p
  up (lo ty base &&& ~~~m ||| lo ty a <<< p &&& m)
/-- The six conditions of family CC. -/
def holds (cc : Nat) (ty : Ty) (a b : Word) : Bool :=
  match cc with
  | 0 => lo ty a == lo ty b
  | 1 => lo ty a != lo ty b
  | 2 => less ty a b
  | 3 => !less ty b a
  | 4 => less ty b a
  | _ => !less ty a b

/-- What the opcodes of one source compute (R154 to R156), by function. -/
def unaryOp (fn : Nat) (f : Fields) (a : Word) : Word :=
  let ty := tyOf f
  match fn with
  | 0x00 => up (lo ty a)
  | 0x0B => up (~~~lo ty a)
  | 0x13 => BitVec.ofNat 64 (leadingZeros (lo ty a))
  | 0x14 => BitVec.ofNat 64 (onesCount (lo ty a))
  | 0x15 => extracted ty (f.imm.extractLsb' 0 6).toNat (f.imm.extractLsb' 6 7).toNat a
  | 0x18 => up (if ty.isSigned && (lo ty a).msb then -lo ty a else lo ty a)
  | _ => up (-lo ty a)

/-- What the opcodes of two sources compute (R154, R155), by function; the divides apart. -/
def binaryOp (fn : Nat) (f : Fields) (a b : Word) : Word :=
  let ty := tyOf f
  match fn with
  | 0x02 => up (lo ty a + lo ty b)
  | 0x03 => up (lo ty a - lo ty b)
  | 0x04 => up (lo ty a * lo ty b)
  | 0x05 => up ((wide ty a * wide ty b).extractLsb' ty.width ty.width)
  | 0x08 => up (lo ty a &&& lo ty b)
  | 0x09 => up (lo ty a ||| lo ty b)
  | 0x0A => up (lo ty a ^^^ lo ty b)
  | 0x0C => up (lo ty a <<< shiftBy b)
  | 0x0D => up (lo ty a >>> shiftBy b)
  | 0x0E => up ((lo ty a).sshiftRight (shiftBy b))
  | 0x0F => if less ty a b then up (lo ty a) else up (lo ty b)
  | 0x10 => if less ty a b then up (lo ty b) else up (lo ty a)
  | _ => up ((lo ty a).rotateLeft (shiftBy b))

/-- Result distances of the integer opcodes (R176). -/
def intDistance (fn : Nat) (f : Fields) : Nat :=
  match fn with
  | 0x04 | 0x05 | 0x17 => if (tyOf f).width = 64 then 5 else 3
  | 0x06 | 0x07 => if (tyOf f).width = 64 then 18 else 10
  | _ => 1

/-- Source A of thread `t`. -/
def srcA (f : Fields) (s : State) (g : Gang) (t : Nat) : Word := readReg s s.cur g t f.a
/-- Source B of thread `t`, a register. -/
def srcB (f : Fields) (s : State) (g : Gang) (t : Nat) : Word := readReg s s.cur g t f.b
/-- Source C of thread `t`, a register. -/
def srcC (f : Fields) (s : State) (g : Gang) (t : Nat) : Word := readReg s s.cur g t f.c
/-- Source B of a BI instruction: a register, or with SEL the sign-extended constant (R102). -/
def srcBI (f : Fields) (s : State) (g : Gang) (t : Nat) : Word :=
  if f.imm.getLsbD 30 then (f.imm.setWidth 30).signExtend 64 else srcB f s g t

/-- The place of a predicate value between false and true. -/
def rank (x : BitVec 2) : Nat := if x = triF then 0 else if x = triT then 2 else 1
/-- The predicate value of a place. -/
def ofRank (n : Nat) : BitVec 2 := if n = 0 then triF else if n = 1 then triU else triT

/-- A byte address plus four times a signed word offset, in 57 bits (R165). -/
def wordsFrom (pc : Nat) {n : Nat} (offset : BitVec n) : Nat := (BitVec.ofNat 57 pc + 4 * offset.signExtend 57).toNat

/-- Another gang of the workgroup of `g` runs on, or all the others have ended. -/
def RunsOn (s : State) (g : Gang) : Prop :=
  (∃ k h, k ≠ s.cur ∧ mapGet s.gangs k = some h ∧ h.wg = g.wg ∧ h.ended = false ∧ h.stopped = false) ∨
    ∀ e ∈ s.gangs, e.1 ≠ s.cur → e.2.wg = g.wg → e.2.ended = true

/-- Of the gangs of the workgroup of `g` that have not ended there is another, and each but `g` has stopped for a pre-emption. -/
def OthersStopped (s : State) (g : Gang) : Prop :=
  (∃ e ∈ s.gangs, e.1 ≠ s.cur ∧ e.2.wg = g.wg ∧ e.2.ended = false) ∧
    ∀ e ∈ s.gangs, e.1 ≠ s.cur → e.2.wg = g.wg → e.2.ended = false → e.2.stopped = true

/-- The gang `g` has ended: it has no thread, path or name left, of its loads the atomics alone, and no tile of its bay is bound
to its slot (R173). Where the others have stopped for a pre-emption, the save of their workgroup begins (R381). -/
def Ended (i : Instr) (s : State) (g : Gang) : Prop :=
  (OthersStopped s g → ∃ t, exec i s = .next t ∧ (mapGet t.gangs s.cur).map (·.ended) = some true ∧
    ((mapGet s.workgroups g.wg).isSome = true → (mapGet t.workgroups g.wg).map (·.phase) = some .saving)) ∧
  (RunsOn s g → ∃ t g', exec i s = .next t ∧ t = { s with gangs := t.gangs, matrix := t.matrix } ∧ mapGet t.gangs s.cur = some g' ∧
    (∀ k, k ≠ s.cur → mapGet t.gangs k = mapGet s.gangs k) ∧
    g'.ended = true ∧ g'.em = 0 ∧ g'.pm = 0 ∧ g'.stack = [] ∧ g'.accs = [] ∧ g'.loads = g.loads.filter (·.atomic) ∧
    g'.stores = g.stores ∧
    (∀ b, b ≠ bayOf s.cur → mapGet t.matrix b = mapGet s.matrix b) ∧
    ∀ m, mapGet t.matrix (bayOf s.cur) = some m → ∀ n x, mapGet m.tiles n = some x → x.owner ≠ some s.cur)

end Sys2Proof.Claims

open Sys2Proof Sys2Proof.Machine Sys2Proof.Claims

/-! ## Integer instructions -/

/-- R154 to R156: the uniform integer opcodes, the divides, SCMP and SSEL apart. -/
def Obligations.UniformIntegerResults : Prop :=
  ∀ f : Fields,
    (∀ r ∈ [(0x00, Instr.smov f), (0x0B, .snot f), (0x13, .sclz f), (0x14, .spopc f), (0x15, .sbfx f)],
      UniformWrites r.2 r.1 f 1 fun s g => unaryOp r.1 f (srcA f s g 0)) ∧
    (∀ r ∈ [(0x02, Instr.sadd f), (0x03, .ssub f), (0x04, .smul f), (0x05, .smulh f), (0x08, .sand f), (0x09, .sor f),
        (0x0A, .sxor f), (0x0C, .sshl f), (0x0D, .sshr f), (0x0E, .ssar f), (0x0F, .smin f), (0x10, .smax f)],
      UniformWrites r.2 r.1 f (intDistance r.1 f) fun s g => binaryOp r.1 f (srcA f s g 0) (srcBI f s g 0)) ∧
    (UniformWrites (.smovi f) 0x01 f 1 fun _ _ => up (lo (tyOf f) (f.imm.signExtend 64))) ∧
    (UniformWrites (.sbfi f) 0x16 f 1 fun s g =>
      inserted (tyOf f) (f.imm.extractLsb' 0 6).toNat (f.imm.extractLsb' 6 7).toNat (srcA f s g 0) (srcB f s g 0)) ∧
    (UniformWrites (.ssel f) 0x12 f 1 fun s g =>
      up (lo (tyOf f) (if readPred g 0 f.c = triT then srcA f s g 0 else srcB f s g 0))) ∧
    (∀ s g, Ready 0x11 f s g →
      SetsCond (.scmp f) 0x11 f 1 s g (condPasses g f.grd)
        (holds (f.imm.extractLsb' 0 4).toNat (tyOf f) (srcA f s g 0) (srcB f s g 0)))

/-- R154 to R157: the lane integer opcodes in their medium and long forms, the divides and SFROM apart. -/
def Obligations.LaneIntegerResults : Prop :=
  ∀ f : Fields,
    (∀ r ∈ [(0x00, Instr.imov f), (0x0B, .inot f), (0x13, .iclz f), (0x14, .ipopc f), (0x15, .ibfx f), (0x18, .iabs f),
        (0x19, .ineg f)],
      LaneWrites r.2 (0x40 + r.1) f 1 fun s g t => unaryOp r.1 f (srcA f s g t)) ∧
    (∀ r ∈ [(0x02, Instr.iadd f), (0x03, .isub f), (0x04, .imul f), (0x05, .imulh f), (0x08, .iand f), (0x09, .ior f),
        (0x0A, .ixor f), (0x0C, .ishl f), (0x0D, .ishr f), (0x0E, .isar f), (0x0F, .imin f), (0x10, .imax f),
        (0x1A, .irot f)],
      LaneWrites r.2 (0x40 + r.1) f (intDistance r.1 f) fun s g t => binaryOp r.1 f (srcA f s g t) (srcBI f s g t)) ∧
    (LaneWrites (.imovi f) 0x41 f 1 fun _ _ _ => up (lo (tyOf f) (f.imm.signExtend 64))) ∧
    (LaneWrites (.ibfi f) 0x56 f 1 fun s g t =>
      inserted (tyOf f) (f.imm.extractLsb' 0 6).toNat (f.imm.extractLsb' 6 7).toNat (srcA f s g t) (srcB f s g t)) ∧
    (LaneWrites (.isel f) 0x52 f 1 fun s g t =>
      up (lo (tyOf f) (if readPred g t f.c = triT then srcA f s g t else srcB f s g t))) ∧
    (LaneWrites (.imad f) 0x57 f (intDistance 0x17 f) fun s g t =>
      up (lo (tyOf f) (srcA f s g t) * lo (tyOf f) (srcB f s g t) + lo (tyOf f) (srcC f s g t))) ∧
    (PredWrites (.icmp f) 0x51 f 1 fun s g t =>
      triOf (holds (f.imm.extractLsb' 0 4).toNat (tyOf f) (srcA f s g t) (srcB f s g t)))

/-- R158: a divide by non-zero divisors completes. -/
def Obligations.NonzeroDivideResults : Prop :=
  ∀ f : Fields,
    let ty := tyOf f
    let uni : State → Gang → Prop := fun s g => lo ty (srcBI f s g 0) ≠ 0
    let lanes : State → Gang → Prop := fun s g => ∀ t < 32, takesPart g f t → lo ty (srcBI f s g t) ≠ 0
    (∀ s g, Ready 0x06 f s g → uni s g →
      SetsUniform (.sdiv f) 0x06 f (intDistance 0x06 f) s g (condPasses g f.grd)
        (quotient ty (srcA f s g 0) (srcBI f s g 0)) (nextPc g f.len)) ∧
    (∀ s g, Ready 0x07 f s g → uni s g →
      SetsUniform (.srem f) 0x07 f (intDistance 0x07 f) s g (condPasses g f.grd)
        (remainder ty (srcA f s g 0) (srcBI f s g 0)) (nextPc g f.len)) ∧
    LaneWritesWhere lanes (.idiv f) 0x46 f (intDistance 0x06 f)
      (fun s g t => quotient ty (srcA f s g t) (srcBI f s g t)) ∧
    LaneWritesWhere lanes (.irem f) 0x47 f (intDistance 0x07 f)
      (fun s g t => remainder ty (srcA f s g t) (srcBI f s g t))

/-! ## Predicates -/

/-- R161, R162: the predicate instructions. -/
def Obligations.PredicateResults : Prop :=
  ∀ f : Fields,
    let a := fun (_ : State) g t => readPred g t f.a
    let b := fun (_ : State) g t => readPred g t f.b
    PredWrites (.pset f) 0x80 f 1 (fun _ _ _ => f.imm.extractLsb' 0 2) ∧
    PredWrites (.pmov f) 0x81 f 1 a ∧
    PredWrites (.pand f) 0x82 f 1 (fun s g t => ofRank (min (rank (a s g t)) (rank (b s g t)))) ∧
    PredWrites (.por f) 0x83 f 1 (fun s g t => ofRank (max (rank (a s g t)) (rank (b s g t)))) ∧
    PredWrites (.pxor f) 0x84 f 1 (fun s g t =>
      if rank (a s g t) = 1 ∨ rank (b s g t) = 1 then triU else if a s g t = b s g t then triF else triT) ∧
    PredWrites (.pnot f) 0x85 f 1 (fun s g t => ofRank (2 - rank (a s g t))) ∧
    PredWrites (.pdec f) 0x86 f 1 (fun s g t => if a s g t = triU then b s g t else a s g t) ∧
    LaneWrites (.ptoi f) 0x87 f 1 (fun s g t => (a s g t).setWidth 64)

/-- R160, R163: VOTE and SFROM write one value for the gang; with no participating thread they write nothing. -/
def Obligations.VoteAndThreadCopyResults : Prop :=
  ∀ (f : Fields) (s : State) (g : Gang),
    let yes := fun t => readPred g t f.a == triT
    (Ready 0x88 f s g → f.imm.extractLsb' 0 3 = 0#3 →
      SetsCond (.vote f) 0x88 f 2 s g (anyPart g f) ((List.range 32).any fun t => takesPart g f t && yes t)) ∧
    (Ready 0x88 f s g → f.imm.extractLsb' 0 3 = 1#3 →
      SetsCond (.vote f) 0x88 f 2 s g (anyPart g f) ((List.range 32).all fun t => !takesPart g f t || yes t)) ∧
    (∀ v : Mask, Ready 0x88 f s g → f.imm.extractLsb' 0 3 = 2#3 →
      (∀ t < 32, v.getLsbD t = (takesPart g f t && yes t)) →
      SetsUniform (.vote f) 0x88 f 2 s g (anyPart g f) (v.setWidth 64) (nextPc g f.len)) ∧
    (∀ v : Mask, Ready 0x88 f s g → f.imm.extractLsb' 0 3 = 3#3 →
      (∀ t < 32, v.getLsbD t = (takesPart g f t && yes t)) →
      SetsUniform (.vote f) 0x88 f 2 s g (anyPart g f) (BitVec.ofNat 64 (onesCount v)) (nextPc g f.len)) ∧
    (∀ t, Ready 0x5B f s g →
      (anyPart g f → match (f.imm.extractLsb' 5 3).toNat with
        | 0 => t = (f.imm.extractLsb' 0 5).toNat
        | 1 => takesPart g f t ∧ ∀ u < t, ¬ takesPart g f u
        | 2 => takesPart g f t ∧ ∀ u < 32, takesPart g f u → u ≤ t
        | _ => t = (srcB f s g 0).toNat % 32) →
      SetsUniform (.sfrom f) 0x5B f 3 s g (anyPart g f) (up (lo (tyOf f) (srcA f s g t))) (nextPc g f.len))

/-! ## Control flow -/

/-- R165, R167, R174: BRA, JMPI, RET and NOP change the PC alone. -/
def Obligations.JumpsMoveOnlyThePc : Prop :=
  (∀ (f : Fields) (s : State) (g : Gang),
    let indirect := (codeBaseOf s g + (srcA f s g 0 &&& 0xFFFFFFFC).toNat) % 2 ^ 57
    let go := fun pc => if condPasses g f.grd then pc else nextPc g f.len
    (Ready 0x90 f s g → Becomes (.bra f) s g g (go (wordsFrom g.pc f.imm))) ∧
    (Ready 0x92 f s g → Becomes (.jmpi f) s g g (go indirect)) ∧
    (Ready 0x94 f s g → Becomes (.ret f) s g g (go indirect)) ∧
    (Ready 0x99 f s g → Becomes (.nop f) s g g (nextPc g f.len))) ∧
  ∀ (w : ShortFields) (s : State) (g : Gang),
    (Ready 0x90 (expandShort 0x90 w) s g → Becomes (.braShort w) s g g (wordsFrom g.pc w.imm6)) ∧
    (Ready 0x99 (expandShort 0x99 w) s g → Becomes (.nopShort w) s g g ((g.pc + 4) % 2 ^ 57))

/-- R168, R169, R175: CALL, SLOOP and EMGET write a uniform register; EMSET writes EM. -/
def Obligations.UniformControlResults : Prop :=
  ∀ (f : Fields) (s : State) (g : Gang),
    let go := condPasses g f.grd
    let count := readReg s s.cur g 0 f.d - 1
    (Ready 0x93 f s g →
      SetsUniform (.call f) 0x93 f 1 s g go ((BitVec.ofNat 32 (nextPc g f.len) - BitVec.ofNat 32 (codeBaseOf s g)).setWidth 64)
        (if go then wordsFrom g.pc f.imm else nextPc g f.len)) ∧
    (Ready 0x95 f s g →
      SetsUniform (.sloop f) 0x95 f 1 s g go count
        (if go ∧ count ≠ 0 then wordsFrom g.pc f.imm else nextPc g f.len)) ∧
    (Ready 0x9B f s g → SetsUniform (.emget f) 0x9B f 1 s g go (g.pm ++ g.em) (nextPc g f.len)) ∧
    (Ready 0x9A f s g →
      Becomes (.emset f) s g { g with em := if go then (srcA f s g 0).setWidth 32 &&& g.pm else g.em } (nextPc g f.len))

/-- R44, R166: the three outcomes of BRV. -/
def Obligations.BranchOnThreadsDiverges : Prop :=
  ∀ (f : Fields) (s : State) (g : Gang) (m : Mask), Ready 0x91 f s g → Participating g f m →
    let target := wordsFrom g.pc (f.imm.extractLsb' 15 16)
    let rcv := (g.pc + 4 * (f.imm.extractLsb' 0 15).toNat) % 2 ^ 57
    let entry : StackEntry := ⟨rcv, nextPc g f.len, g.pm &&& ~~~m, g.em &&& ~~~m, 0, 0, none, 0, 0, none⟩
    if m = 0 then Becomes (.brv f) s g g (nextPc g f.len)
    else if m = g.em then Becomes (.brv f) s g g target
    else Becomes (.brv f) s g { g with em := m, pm := m, stack := entry :: g.stack } target

/-- R46, R170: what RCV does at an empty stack, away from the top entry's address, where a path is pending (it parks), and where
the other path has arrived (it reconverges). That a short form whose D is c0 to c3 reports to it is the model's choice between R107
and R170 (log entry 72). -/
def Obligations.ReconvergenceParksThenJoins : Prop :=
  ∀ (i : Instr) (f : Fields) (s : State) (g : Gang),
    i = .rcv f ∧ f.grd = 0 ∨ (∃ w, i = .rcvShort w ∧ f = expandShort 0x96 w) → Ready 0x96 f s g →
    match g.stack with
    | [] => Becomes i s g g (nextPc g f.len)
    | e :: rest =>
      if e.rcv ≠ g.pc then Becomes i s g g (nextPc g f.len)
      else if e.pendPm ≠ 0 then
        Becomes i s g { g with em := e.pendEm, pm := e.pendPm,
                               stack := { e with pendPm := 0, pendEm := 0, pendPc := 0, arrPm := e.arrPm ||| g.pm,
                                                 arrEm := e.arrEm ||| g.em, parkedAt := some s.acycle,
                                                 timeout := (f.imm.extractLsb' 0 16).toNat, resume := nextPc g f.len,
                                                 report := if f.d = 0 then none else some (bits f.d.toNat 0 3) } :: rest }
          (e.pendPc % 2 ^ 57)
      else
        ∃ g', StepsTo i s s g' ∧ g'.em = e.arrEm ||| g.em ∧ g'.pm = e.arrPm ||| g.pm ∧ g'.stack = rest ∧
          (∀ n < 4, getCond g' n = if f.d ≠ 0 ∧ n = bits f.d.toNat 0 3 then false else getCond g n) ∧
          kept g' = kept { g with em := g'.em, pm := g'.pm, stack := g'.stack, conds := g'.conds } ∧
          Issued g g' (nextPc g f.len) (if f.d = 0 then [] else [⟨.cond (bits f.d.toNat 0 3), .distance 1⟩])

/-- R47, R48, R170: where the running path stands at an instruction boundary without being held, the top entry holds a parked
path and no pending one, and its timeout, which is not 0, has run since the path parked, the timeout switches paths: the running
path becomes the pending one, the parked path goes on after its RCV alone, and its report becomes true. An arrival at the RCV in
the cycle of the expiry wins. Where any of this fails the event does not occur. -/
def Obligations.ExpiredTimeoutSwitchesPaths : Prop :=
  (∀ (s : State) (slot : Nat) (g : Gang) (e : StackEntry) (rest : List StackEntry) (parked : Nat),
     mapGet s.gangs slot = some g → g.stack = e :: rest → g.hold = none → e.parkedAt = some parked → e.arrPm ≠ 0 →
     e.pendPm = 0 → e.timeout ≠ 0 → parked + e.timeout ≤ s.acycle → (g.pc = e.rcv → s.acycle ≠ parked + e.timeout) →
     ∃ g', exec (.rcvTimeout slot) s = .next (setGang s slot g') ∧
       g'.em = e.arrEm ∧ g'.pm = e.arrPm ∧ g'.pc = e.resume ∧
       g'.stack = { e with pendPc := g.pc, pendPm := g.pm, pendEm := g.em, arrPm := 0, arrEm := 0, parkedAt := none } :: rest ∧
       (∀ n < 4, getCond g' n = if e.report = some n then true else getCond g n) ∧
       g' = { g with em := g'.em, pm := g'.pm, pc := g'.pc, stack := g'.stack, conds := g'.conds }) ∧
  ∀ (s : State) (slot : Nat) (g : Gang), mapGet s.gangs slot = some g →
    (∀ e rest parked, g.stack = e :: rest → g.hold = none → e.parkedAt = some parked → e.arrPm ≠ 0 → e.pendPm = 0 →
      e.timeout ≠ 0 → s.acycle < parked + e.timeout ∨ g.pc = e.rcv ∧ s.acycle = parked + e.timeout) →
    exec (.rcvTimeout slot) s = .next s

/-- R46, R171, R172: EXIT ends the participating threads, and QUIT all of them. A path that is left without a thread goes on
with the top entry that has one, as though it had arrived there, which writes the report false (log 61); with none the gang
ends, and where the others of its workgroup have stopped for a pre-emption the save of the workgroup begins (R381). A deferred
fault that the gang leaves escalates at its end instead (R270, R293). -/
def Obligations.ThreadsExitAndGangsQuit : Prop :=
  (∀ (i : Instr) (f : Fields) (s : State) (g : Gang) (m : Mask),
    i = .exit f ∨ (∃ w, i = .exitShort w ∧ f = expandShort 0x97 w) → Ready 0x97 f s g → Participating g f m →
    let left := g.stack.map fun e =>
      { e with pendPm := e.pendPm &&& ~~~m, pendEm := e.pendEm &&& ~~~m, arrPm := e.arrPm &&& ~~~m, arrEm := e.arrEm &&& ~~~m }
    if m = 0 then Becomes i s g g (nextPc g f.len)
    else if g.pm &&& ~~~m ≠ 0 then
      Becomes i s g { g with em := g.em &&& ~~~m, pm := g.pm &&& ~~~m, stack := left } (nextPc g f.len)
    else match left.dropWhile fun e => e.pendPm == 0 && e.arrPm == 0 with
      | [] =>
        ((∀ d ∈ g.deferred, d.site = .next) → Ended i s g) ∧
        (∀ a d r, g.deferred = a ++ d :: r → (∀ x ∈ a, x.site = .next) → d.site ≠ .next →
          exec i s = .next (takeFault s s.cur g (formNum f.len) { d.fault with escalates := true }))
      | e :: rest =>
        (e.pendPm ≠ 0 →
          Becomes i s g { g with em := e.pendEm, pm := e.pendPm, stack := { e with pendPm := 0, pendEm := 0 } :: rest }
            (e.pendPc % 2 ^ 57)) ∧
        (e.pendPm = 0 → e.arrPm ≠ 0 → ∀ n, e.report = some n →
          Becomes i s g { g with em := e.arrEm, pm := e.arrPm, stack := rest, conds := g.conds &&& ~~~(1#4 <<< n) }
            (e.resume % 2 ^ 57)) ∧
        (e.pendPm = 0 → e.arrPm ≠ 0 → e.report = none →
          Becomes i s g { g with em := e.arrEm, pm := e.arrPm, stack := rest } (e.resume % 2 ^ 57))) ∧
  ∀ (i : Instr) (f : Fields) (s : State) (g : Gang),
    i = .quit f ∨ (∃ w, i = .quitShort w ∧ f = expandShort 0x98 w) → Ready 0x98 f s g →
    if condPasses g f.grd then
      ((∀ d ∈ g.deferred, d.site = .next) → Ended i s g) ∧
      (∀ a d r, g.deferred = a ++ d :: r → (∀ x ∈ a, x.site = .next) → d.site ≠ .next →
        exec i s = .next (takeFault s s.cur g (formNum f.len) { d.fault with escalates := true }))
    else Becomes i s g g (nextPc g f.len)

namespace Sys2Proof.Claims

/-- The format of an instruction's type. -/
def fmt (f : Fields) : Fmt := fmtOf (tyOf f)
/-- The pattern of source A. -/
def patA (f : Fields) (s : State) (g : Gang) (t : Nat) : Nat := (srcA f s g t).toNat % 2 ^ (fmt f).width
/-- The pattern of source B. -/
def patB (f : Fields) (s : State) (g : Gang) (t : Nat) : Nat := (srcB f s g t).toNat % 2 ^ (fmt f).width
/-- The pattern of source C. -/
def patC (f : Fields) (s : State) (g : Gang) (t : Nat) : Nat := (srcC f s g t).toNat % 2 ^ (fmt f).width

/-- FPSTAT gains the flags that the participating threads raise, and loses none (R36). -/
def Raises (g g' : Gang) (f : Fields) (flags : Nat → FlagSet) : Prop :=
  ∀ j, g'.fpstat.getLsbD j
    = (g.fpstat.getLsbD j || (List.range 32).any fun t => takesPart g f t && (flags t).getLsbD j)

/-- No participating thread holds an abandoned encoding in the sources given (R145). -/
def NoneAbandoned (f : Fields) (srcs : List (Fields → State → Gang → Nat → Nat)) (s : State) (g : Gang) : Prop :=
  ∀ t < 32, takesPart g f t → ∀ src ∈ srcs, (fmt f).isAbandoned (src f s g t) = false

/-- Where `ok` holds, `i` writes `val t k` to the k-th of the `n` registers from D, in every participating thread `t`, raises the
flags, and changes nothing else (R239). -/
def SpanWrites (ok : State → Gang → Prop) (i : Instr) (opc : Nat) (f : Fields) (dist n : Nat)
    (val : State → Gang → Nat → Nat → Word) (flags : State → Gang → Nat → FlagSet) : Prop :=
  ∀ s g, Ready opc f s g → ok s g →
    ∃ g', StepsTo i s s g' ∧
      (∀ t < 32, ∀ x, wordGet g'.regs (regKey t x)
        = if takesPart g f t ∧ (x - f.d).toNat < n then val s g t (x - f.d).toNat else wordGet g.regs (regKey t x)) ∧
      Raises g g' f (flags s g) ∧
      kept g' = kept { g with regs := g'.regs, fpstat := g'.fpstat } ∧
      Issued g g' (nextPc g f.len) (if anyPart g f then pendD opc f dist else [])

/-- Where no source is abandoned, `i` writes the pattern of `val t` to D of every participating thread, raises the flags of
those values, and changes nothing else (R239). -/
def FloatWrites (srcs : List (Fields → State → Gang → Nat → Nat)) (i : Instr) (opc : Nat) (f : Fields) (dist : Nat)
    (val : State → Gang → Nat → Nat × FlagSet) : Prop :=
  SpanWrites (NoneAbandoned f srcs) i opc f dist 1 (fun s g t _ => BitVec.ofNat 64 (val s g t).1) fun s g t => (val s g t).2

/-- A result of `op` on values that are not NaN; a NaN operand gives the default NaN, with NV where one signals (R125). -/
def onValues (k : Fmt) (xs : List Nat) (r : Nat × FlagSet) : Nat × FlagSet :=
  if xs.any fun x => (k.value x).isNan then (k.nan, if xs.any fun x => (k.value x).isSnan then flagNV else 0) else r

/-- The floating-point operations of two sources (R240, R241, R245), by function. -/
def floatBinary (fn : Nat) (f : Fields) (x y : Nat) : Nat × FlagSet :=
  let k := fmt f
  let mode := (Rounding.ofCode f.rnd.toNat).getD .rne
  let a := k.value x
  let b := k.value y
  let product : FVal := if (a.isZero && b.isInf) || (a.isInf && b.isZero) then .nan true else a.mul b
  let sum := fun c : FVal => if a.isInf && c.isInf && a.isNeg != c.isNeg then FVal.nan true else FVal.add (mode == .rd) a c
  match fn with
  | 0x01 => onValues k [x, y] (match sum b with
    | .nan _ => (k.nan, flagNV)
    | v => k.roundVal mode v)
  | 0x02 => onValues k [x, y] (match sum b.neg with
    | .nan _ => (k.nan, flagNV)
    | v => k.roundVal mode v)
  | 0x03 => onValues k [x, y] (match product with
    | .nan _ => (k.nan, flagNV)
    | v => k.roundVal mode v)
  | 0x05 => onValues k [x, y] (divFloat k mode a b)
  | 0x07 => pickFloat k true x y
  | _ => pickFloat k false x y

/-- The floating-point operations of one source (R240, R242, R245), by function. -/
def floatUnary (fn : Nat) (f : Fields) (x : Nat) : Nat × FlagSet :=
  let k := fmt f
  let mode := (Rounding.ofCode f.rnd.toNat).getD .rne
  let sign := 2 ^ (k.width - 1)
  match fn with
  | 0x06 => onValues k [x] (sqrtFloat k mode (k.value x))
  | 0x09 => (if x / sign % 2 = 1 then x - sign else x, 0)
  | 0x0A => (if x / sign % 2 = 1 then x - sign else x + sign, 0)
  | 0x0D => onValues k [x] (integralFloat k mode x (k.value x))
  | 0x0F => onValues k [x] (exp2Float k mode (k.value x))
  | 0x10 => onValues k [x] (log2Float k mode (k.value x))
  | _ => onValues k [x] (reciprocal k (k.value x))

/-- The result distances of class 0x3 (R262). -/
def floatDistance (fn : Nat) (f : Fields) : Nat :=
  match fn with
  | 0x05 | 0x06 => if tyOf f = .f64 then 20 else 12
  | 0x07 | 0x08 | 0x09 | 0x0A => 2
  | 0x0F | 0x10 => if tyOf f = .f64 then 24 else 14
  | _ => 4

/-- The exact value of a sign, a significand and an exponent. -/
def exact (neg : Bool) (m : Nat) (e : Int) : ℚ := (if neg then -1 else 1) * (m : ℚ) * (2 : ℚ) ^ e

/-- x lies at or below the value of a pattern. -/
def AtMost (x : ℝ) : FVal → Prop
  | .fin n m e => x ≤ (exact n m e : ℝ)
  | .inf n => n = false
  | .nan _ => False

/-- x lies at or above the value of a pattern. -/
def AtLeast (x : ℝ) : FVal → Prop
  | .fin n m e => (exact n m e : ℝ) ≤ x
  | .inf n => n = true
  | .nan _ => False

/-! ## Rounding, as the spec gives it (R124, R126) -/

/-- The value of a magnitude: what the bits `n` below the sign bit stand for in a format whose exponent goes on above its
largest. A larger `n` is a larger value. -/
def magValue (k : Fmt) (n : Nat) : ℚ :=
  let ex := n / 2 ^ k.fbits
  let fr : ℚ := (n % 2 ^ k.fbits : Nat)
  if ex = 0 then fr * 2 ^ (k.emin - k.fbits) else (2 ^ k.fbits + fr) * 2 ^ ((ex : ℤ) - k.bias - k.fbits)

/-- `n` is the greatest magnitude at or below x. -/
def RoundsDown (k : Fmt) (x : ℝ) (n : Nat) : Prop := (magValue k n : ℝ) ≤ x ∧ x < (magValue k (n + 1) : ℝ)

/-- `n` is the least magnitude at or above x. -/
def RoundsUp (k : Fmt) (x : ℝ) (n : Nat) : Prop := x ≤ (magValue k n : ℝ) ∧ ∀ m < n, (magValue k m : ℝ) < x

/-- `n` is the magnitude nearest to x, of two the one of even significand. -/
def RoundsNearest (k : Fmt) (x : ℝ) (n : Nat) : Prop :=
  ∀ m, m ≠ n → |(magValue k n : ℝ) - x| < |(magValue k m : ℝ) - x| ∨ (|(magValue k n : ℝ) - x| = |(magValue k m : ℝ) - x| ∧ n % 2 = 0)

/-- The five modes, on the magnitude x of a number with the sign `neg`. -/
def RoundsMag (k : Fmt) (mode : Rounding) (neg : Bool) (x : ℝ) (n : Nat) : Prop :=
  match mode with
  | .rne => RoundsNearest k x n
  | .rz => RoundsDown k x n
  | .ru => if neg then RoundsDown k x n else RoundsUp k x n
  | .rd => if neg then RoundsUp k x n else RoundsDown k x n
  | .ro => ∃ m, RoundsDown k x m ∧ (((magValue k m : ℝ) = x ∧ n = m) ∨ ((magValue k m : ℝ) ≠ x ∧ n = m ||| 1))

/-- x is tiny after rounding: rounded to `p` bits with an unbounded exponent it lies below the least normal value. -/
def IsTiny (k : Fmt) (p : Nat) (mode : Rounding) (neg : Bool) (x : ℝ) : Prop :=
  let least : ℝ := 2 ^ k.emin
  let unit : ℝ := 2 ^ (k.emin - p)
  match mode with
  | .rne => x < least - unit / 2
  | .rz | .ro => x < least
  | .ru => if neg then x < least else x ≤ least - unit
  | .rd => if neg then x ≤ least - unit else x < least

/-- The flags of a rounding of x to the value y of a magnitude within range. -/
def RoundFlags (k : Fmt) (p : Nat) (mode : Rounding) (neg : Bool) (x : ℝ) (y : ℚ) (fl : FlagSet) : Prop :=
  ((y : ℝ) = x → fl = 0) ∧ ((y : ℝ) ≠ x → IsTiny k p mode neg x → fl = flagNX ||| flagUF) ∧
    ((y : ℝ) ≠ x → ¬IsTiny k p mode neg x → fl = flagNX)

/-- The mode takes an overflow to an infinity. -/
def toInfinity (mode : Rounding) (neg : Bool) : Bool :=
  match mode with
  | .rne => true
  | .ru => !neg
  | .rd => neg
  | _ => false

/-- `r` is the pattern and the flags of the number of magnitude x and sign `neg`, rounded to an IEEE format. -/
def Rounds (k : Fmt) (mode : Rounding) (neg : Bool) (x : ℝ) (r : Nat × FlagSet) : Prop :=
  ∃ n, RoundsMag k mode neg x n ∧
    (n ≤ k.maxMag → r.1 = k.signed neg n ∧ RoundFlags k (k.fbits + 1) mode neg x (magValue k n) r.2) ∧
    (k.maxMag < n → r = (k.signed neg (if toInfinity mode neg then k.infMag else k.maxMag), flagOF ||| flagNX))

/-- The same for a finite number that is narrowed to FP8 (R128). -/
def RoundsFp8 (k : Fmt) (sat : Bool) (mode : Rounding) (neg : Bool) (x : ℝ) (r : Nat × FlagSet) : Prop :=
  ∃ n, RoundsMag k mode neg x n ∧
    (n ≤ k.maxMag → r.1 = k.signed neg n ∧ RoundFlags k (k.fbits + 1) mode neg x (magValue k n) r.2) ∧
    (k.maxMag < n → r =
      if toInfinity mode neg then
        (if sat then (k.signed neg k.maxMag, flagSAT ||| flagOF ||| flagNX)
         else (k.signed neg (if k.ocp then k.nan else k.infMag), flagOF ||| flagNX))
      else (k.signed neg k.maxMag, flagNX))

/-- `n` is the magnitude x of a number of sign `neg` rounded to an integer (R242, R259). -/
def RoundsInt (mode : Rounding) (neg : Bool) (x : ℝ) (n : Nat) : Prop :=
  let down := fun (n : Nat) => (n : ℝ) ≤ x ∧ x < n + 1
  let up := fun (n : Nat) => x ≤ n ∧ (n : ℝ) < x + 1
  match mode with
  | .rne => |(n : ℝ) - x| < 1 / 2 ∨ (|(n : ℝ) - x| = 1 / 2 ∧ n % 2 = 0)
  | .rz => down n
  | .ru => if neg then down n else up n
  | .rd => if neg then up n else down n
  | .ro => ∃ m, down m ∧ (((m : ℝ) = x ∧ n = m) ∨ ((m : ℝ) ≠ x ∧ n = m ||| 1))

/-- y is the value nearest to x among those of at most `p` significand bits that are multiples of the least subnormal. -/
def NearestShort (k : Fmt) (p : Nat) (x : ℝ) (y : ℚ) : Prop :=
  let short := fun (z : ℚ) => ∃ (c : Nat) (q : ℤ), c < 2 ^ p ∧ k.emin - k.fbits ≤ q ∧ z = c * 2 ^ q
  short y ∧ ∀ z, short z → |(y : ℝ) - x| ≤ |(z : ℝ) - x|

/-- A real number lies in an interval with the given values of its bounds. -/
def Within (z : ℝ) (b : FVal × FVal) : Prop := AtLeast z b.1 ∧ AtMost z b.2

/-- The values of the bounds of an interval that is not empty (R141). -/
def ProperBounds (b : FVal × FVal) : Prop :=
  b.1.isNan = false ∧ b.2.isNan = false ∧ b.1 ≠ .inf false ∧ b.2 ≠ .inf true ∧ FVal.lt b.2 b.1 = false

/-- `x` is the least interval that holds every number of `q`: no pattern is a better bound, and a zero bound is −0 below and +0
above (R141, R142). -/
def Tightest (k : Fmt) (q : ℝ → Prop) (x : Iv) : Prop :=
  x.1 < 2 ^ k.width ∧ x.2 < 2 ^ k.width ∧
  (∀ z, q z → Within z (k.value x.1, k.value x.2)) ∧
  (∀ y < 2 ^ k.width, (∀ z, q z → AtLeast z (k.value y)) → FVal.lt (k.value x.1) (k.value y) = false) ∧
  (∀ y < 2 ^ k.width, (∀ z, q z → AtMost z (k.value y)) → FVal.lt (k.value y) (k.value x.2) = false) ∧
  (k.mag x.1 = 0 → x.1 = k.signed true 0) ∧ (k.mag x.2 = 0 → x.2 = 0)

/-- The IEEE formats (R124). -/
def ieee : List Fmt := [fmtF64, fmtF32, fmtF16, fmtBf16]

/-- What BxPack leaves of the values `vs`, none of them a NaN: the shared exponent `x`, the shift `d` of each group and the
magnitude `q` of each element (R129, R131). -/
def BxPacks (mode : Rounding) (mb : Nat) (vs : Nat → FVal) (x : Nat) (d q : Nat → Nat) (sat : Bool) : Prop :=
  let size := fun (i : Nat) => match vs i with
    | .fin _ m e => exact false m e
    | _ => 0
  let ratio := fun (i : Nat) (x d : Nat) => (size i / 2 ^ ((x : ℤ) - 126 - d - mb) : ℚ)
  let fits := fun (i x d : Nat) => ∃ n, RoundsInt mode false (ratio i x d : ℝ) n ∧ n ≤ 2 ^ mb - 1
  let some_ := fun (p : Nat → Prop) => ∃ i < 16, p i
  let start := fun (e : ℤ) => (∀ i < 16, size i < 2 ^ (e + 1)) ∧ (some_ fun i => 2 ^ e ≤ size i)
  let low := fun (x : Nat) => (∃ e : ℤ, start e ∧ x = (e + 127).toNat) ∨ ((∀ i < 16, size i = 0) ∧ x = 0)
  let all := fun (x : Nat) => ∀ i < 16, fits i x 0
  let group := fun (g d : Nat) => (∀ i < 16, i / 4 = g → fits i x d)
  (∃ x0, low x0 ∧ (∀ y, x0 ≤ y → y < x → y ≤ 254 → ¬all y) ∧ x ≤ 254 ∧ ((x0 ≤ x ∧ all x) ∨ (x = 254 ∧ ∀ y, x0 ≤ y → y ≤ 254 → ¬all y))) ∧
  (sat = true ↔ (some_ fun i => (vs i).isInf = true) ∨ ∃ x0, low x0 ∧ ∀ y, x0 ≤ y → y ≤ 254 → ¬all y) ∧
  (∀ g < 4, d g ≤ 3 ∧
    let infinite := ∃ i < 16, i / 4 = g ∧ (vs i).isInf = true
    (infinite → d g = 0) ∧ (¬infinite → (∀ e ≤ 3, d g < e → ¬group g e) ∧ (group g (d g) ∨ d g = 0))) ∧
  ∀ i < 16, if (vs i).isInf = true then q i = 2 ^ mb - 1
    else ∃ n, RoundsInt mode false (ratio i x (d (i / 4)) : ℝ) n ∧ q i = if sat then min n (2 ^ mb - 1) else n

end Sys2Proof.Claims

/-! ## Plain floating point -/

/-- R240 to R245: the plain floating-point instructions of class 0x3 that compute a number. That FEXP2 and FLOG2 are correctly
rounded rests on the model's 320 bits (log entry 13); O17 says by rounding what the functions named here return. -/
def Obligations.FloatArithmeticResults : Prop :=
  ∀ f : Fields,
    (∀ r ∈ [(0x01, Instr.fadd f), (0x02, .fsub f), (0x03, .fmul f), (0x05, .fdiv f), (0x07, .fmin f), (0x08, .fmax f)],
      FloatWrites [patA, patB] r.2 (0xC0 + r.1) f (floatDistance r.1 f) fun s g t =>
        floatBinary r.1 f (patA f s g t) (patB f s g t)) ∧
    (∀ r ∈ [(0x06, Instr.fsqrt f), (0x09, .fabs f), (0x0A, .fneg f), (0x0D, .frnd f), (0x0F, .fexp2 f), (0x10, .flog2 f),
        (0x11, .frcpa f)],
      FloatWrites [patA] r.2 (0xC0 + r.1) f (floatDistance r.1 f) fun s g t => floatUnary r.1 f (patA f s g t)) ∧
    (FloatWrites [patA, patB, patC] (.ffma f) 0xC4 f 4 fun s g t =>
      let k := fmt f
      let a := k.value (patA f s g t)
      let b := k.value (patB f s g t)
      if (a.isZero && b.isInf) || (a.isInf && b.isZero) then (k.nan, flagNV)
      else onValues k [patA f s g t, patB f s g t, patC f s g t]
        (addFloat k ((Rounding.ofCode f.rnd.toNat).getD .rne) (a.mul b) (k.value (patC f s g t)))) ∧
    (FloatWrites [patA] (.fscale f) 0xCE f 4 fun s g t =>
      let k := fmt f
      onValues k [patA f s g t] (match k.value (patA f s g t) with
        | .fin n m e =>
          if m = 0 then (patA f s g t, 0)
          else k.round ((Rounding.ofCode f.rnd.toNat).getD .rne) n m (e + ((srcB f s g t).setWidth 32).toInt)
        | _ => (patA f s g t, 0)))

/-- R240, R243, R244: FMOV copies, FCLASS classifies, and FCMP compares, undecided where an operand is a NaN. -/
def Obligations.FloatMoveClassCompare : Prop :=
  ∀ f : Fields,
    (LaneWrites (.fmov f) 0xC0 f 1 fun s g t => BitVec.ofNat 64 (patA f s g t)) ∧
    (LaneWrites (.fclass f) 0xCC f 2 fun s g t =>
      let k := fmt f
      let x := patA f s g t
      let subnormal := x % 2 ^ (k.width - 1) < 2 ^ k.fbits
      1 <<< (if x = k.abandoned 1 then 10 else if x = k.abandoned 2 then 11
        else match k.value x with
          | .inf true => 0
          | .fin true 0 _ => 3
          | .fin true _ _ => if subnormal then 2 else 1
          | .fin false 0 _ => 4
          | .fin false _ _ => if subnormal then 5 else 6
          | .inf false => 7
          | .nan true => 8
          | .nan false => 9)) ∧
    (∀ s g, Ready 0xCB f s g → NoneAbandoned f [patA, patB] s g →
      let a := fun t => (fmt f).value (patA f s g t)
      let b := fun t => (fmt f).value (patB f s g t)
      let nan := fun t => (a t).isNan || (b t).isNan
      ∃ g', StepsTo (.fcmp f) s s g' ∧
        (∀ t < 32, ∀ n < 8, getPred g' t n
          = if takesPart g f t ∧ n = bits f.d.toNat 0 3 then
              (if nan t then triU else triOf (match (f.imm.extractLsb' 0 4).toNat with
                | 0 => !FVal.lt (a t) (b t) && !FVal.lt (b t) (a t)
                | 1 => FVal.lt (a t) (b t) || FVal.lt (b t) (a t)
                | 2 => FVal.lt (a t) (b t)
                | 3 => !FVal.lt (b t) (a t)
                | 4 => FVal.lt (b t) (a t)
                | _ => !FVal.lt (a t) (b t)))
            else getPred g t n) ∧
        Raises g g' f (fun t => if (a t).isSnan || (b t).isSnan then flagNV else 0) ∧
        kept g' = kept { g with preds := g'.preds, fpstat := g'.fpstat } ∧
        Issued g g' (nextPc g f.len) (if anyPart g f then pendD 0xCB f 2 else []))

/-- R97, R98, R154, R155, R240, R241: a short form of classes 0x1 and 0x3 does what the internal word it expands to does. -/
def Obligations.ShortFormResults : Prop :=
  (∀ w : ShortFields,
     let x := fun fn => expandShort (0x40 + fn) w
     (∀ r ∈ [(0x00, Instr.imovShort w), (0x0B, .inotShort w), (0x13, .iclzShort w), (0x14, .ipopcShort w),
         (0x18, .iabsShort w), (0x19, .inegShort w)],
       LaneWrites r.2 (0x40 + r.1) (x r.1) 1 fun s g t => unaryOp r.1 (x r.1) (srcA (x r.1) s g t)) ∧
     (∀ r ∈ [(0x02, Instr.iaddShort w), (0x03, .isubShort w), (0x04, .imulShort w), (0x08, .iandShort w),
         (0x09, .iorShort w), (0x0A, .ixorShort w), (0x0C, .ishlShort w), (0x0D, .ishrShort w), (0x0E, .isarShort w),
         (0x0F, .iminShort w), (0x10, .imaxShort w)],
       LaneWrites r.2 (0x40 + r.1) (x r.1) (intDistance r.1 (x r.1)) fun s g t =>
         binaryOp r.1 (x r.1) (srcA (x r.1) s g t) (srcBI (x r.1) s g t)) ∧
     (LaneWrites (.imoviShort w) 0x41 (x 0x01) 1 fun _ _ _ => up (lo (tyOf (x 0x01)) ((x 0x01).imm.signExtend 64)))) ∧
  (∀ w : ShortFields,
     let x := fun fn => expandShort (0xC0 + fn) w
     (∀ r ∈ [(0x01, Instr.faddShort w), (0x02, .fsubShort w), (0x03, .fmulShort w), (0x07, .fminShort w),
         (0x08, .fmaxShort w)],
       FloatWrites [patA, patB] r.2 (0xC0 + r.1) (x r.1) (floatDistance r.1 (x r.1)) fun s g t =>
         floatBinary r.1 (x r.1) (patA (x r.1) s g t) (patB (x r.1) s g t)) ∧
     (∀ r ∈ [(0x09, Instr.fabsShort w), (0x0A, .fnegShort w)],
       FloatWrites [patA] r.2 (0xC0 + r.1) (x r.1) (floatDistance r.1 (x r.1)) fun s g t =>
         floatUnary r.1 (x r.1) (patA (x r.1) s g t)) ∧
     (LaneWrites (.fmovShort w) 0xC0 (x 0) 1 fun s g t => BitVec.ofNat 64 (patA (x 0) s g t)))

namespace Sys2Proof.Claims

/-- The values of the bounds of an interval operand (R140). -/
def bounds (f : Fields) (s : State) (g : Gang) (t : Nat) (x : BitVec 10) : FVal × FVal :=
  ((fmt f).value (readIv s s.cur g (tyOf f) t x).1, (fmt f).value (readIv s s.cur g (tyOf f) t x).2)

/-- Every participating thread holds, in each source given, a proper interval, or an empty one where the source takes it
(R141, R142). -/
def GoodIntervals (f : Fields) (srcs : List (BitVec 10 × Bool)) (s : State) (g : Gang) : Prop :=
  ∀ t < 32, takesPart g f t → ∀ x ∈ srcs,
    let c := (fmt f).classIv (readIv s s.cur g (tyOf f) t x.1)
    c = .proper ∨ (x.2 = true ∧ c = .empty)

/-- The words of an interval: one register, or the pair of `.iv64` (R140, R236). -/
def ivWord (f : Fields) (x : Iv) (k : Nat) : Word :=
  if tyOf f = .iv64 then BitVec.ofNat 64 (if k = 0 then x.1 else x.2) else BitVec.ofNat 64 (x.1 + x.2 * 2 ^ 32)

/-- Where its sources are good, `i` writes an interval and raises its flags. -/
def IvWrites (srcs : List (BitVec 10 × Bool)) (i : Instr) (opc : Nat) (f : Fields) (dist : Nat)
    (val : State → Gang → Nat → Iv × FlagSet) : Prop :=
  SpanWrites (GoodIntervals f srcs) i opc f dist (ivRegs (tyOf f)) (fun s g t k => ivWord f (val s g t).1 k)
    fun s g t => (val s g t).2

/-- Where its sources are good, `i` writes a plain value and raises its flags. -/
def IvQueries (srcs : List (BitVec 10 × Bool)) (i : Instr) (opc : Nat) (f : Fields) (dist : Nat)
    (val : State → Gang → Nat → Nat × FlagSet) : Prop :=
  SpanWrites (GoodIntervals f srcs) i opc f dist 1 (fun s g t _ => BitVec.ofNat 64 (val s g t).1) fun s g t => (val s g t).2

/-- Where its sources are good, `i` writes predicate D of every participating thread and changes nothing else. -/
def IvTests (srcs : List (BitVec 10 × Bool)) (i : Instr) (opc : Nat) (f : Fields) (val : State → Gang → Nat → BitVec 2) :
    Prop :=
  ∀ s g, Ready opc f s g → GoodIntervals f srcs s g →
    ∃ g', StepsTo i s s g' ∧
      (∀ t < 32, ∀ n < 8, getPred g' t n
        = if takesPart g f t ∧ n = bits f.d.toNat 0 3 then val s g t else getPred g t n) ∧
      kept g' = kept { g with preds := g'.preds } ∧
      Issued g g' (nextPc g f.len) (if anyPart g f then pendD opc f 2 else [])

/-- The greater of two values that are not NaN. -/
def greater (x y : FVal) : FVal := if FVal.lt x y then y else x
/-- The lesser of two values that are not NaN. -/
def lesser (x y : FVal) : FVal := if FVal.lt y x then y else x
/-- A product in which 0 · ∞ is 0 (R247). -/
def zeroSafe (a b : FVal) : FVal := if (a.isZero && b.isInf) || (a.isInf && b.isZero) then .fin false 0 0 else a.mul b

/-- The exact bounds of an interval operation of two operands (R247, R251), by function. -/
def exactHull (fn : Nat) (a b : FVal × FVal) : FVal × FVal :=
  match fn with
  | 0x01 => (FVal.add true a.1 b.1, FVal.add false a.2 b.2)
  | 0x02 => (FVal.add true a.1 b.2.neg, FVal.add false a.2 b.1.neg)
  | 0x03 =>
    let p := zeroSafe a.1 b.1
    let q := zeroSafe a.1 b.2
    let r := zeroSafe a.2 b.1
    let u := zeroSafe a.2 b.2
    (lesser (lesser p q) (lesser r u), greater (greater p q) (greater r u))
  | 0x07 => (lesser a.1 b.1, lesser a.2 b.2)
  | 0x08 => (greater a.1 b.1, greater a.2 b.2)
  | _ => (lesser a.1 b.1, greater a.2 b.2)

/-- The `n` registers from `x` on are v, y or z registers. -/
def VyzNames (x : BitVec 10) (n : Nat) : Prop := ∀ j < n, ∃ r, RegName.ofSpec (x + BitVec.ofNat 10 j) = some r ∧ FileSet.vyz.has r = true

/-- Where `ok` holds, `i` completes, and in every participating thread each real number that `values` names lies in one of the
intervals it leaves in `dsts`; it writes no register but theirs, from D on, and no flag but FPSTAT's. -/
def Encloses (i : Instr) (opc : Nat) (f : Fields) (dist : Nat) (ok : State → Gang → Prop) (dsts : List (BitVec 10))
    (values : State → Gang → Nat → ℝ → Prop) : Prop :=
  VyzNames f.d (dsts.length * ivRegs (tyOf f)) → ∀ s g, Ready opc f s g → ok s g →
    ∃ g', StepsTo i s s g' ∧
      (∀ t < 32, takesPart g f t → ∀ z, values s g t z → ∃ d ∈ dsts, Within z (bounds f s g' t d)) ∧
      (∀ t < 32, ∀ x, (takesPart g f t ∧ (x - f.d).toNat < dsts.length * ivRegs (tyOf f)) ∨
        wordGet g'.regs (regKey t x) = wordGet g.regs (regKey t x)) ∧
      kept g' = kept { g with regs := g'.regs, fpstat := g'.fpstat } ∧
      Issued g g' (nextPc g f.len) (if anyPart g f then pendD opc f dist else [])

end Sys2Proof.Claims

/-! ## Intervals -/

/-- R246 to R248, R251, R252: the instructions that write an interval. Which operand TVAL of IVMK names is the model's reading
(log entry 43); O17 and O18 say what the functions named here return. -/
def Obligations.IntervalArithmeticResults : Prop :=
  ∀ f : Fields,
    let k := fmt f
    let ab := [(f.a, false), (f.b, false)]
    let slow := if tyOf f = .iv64 then 24 else 14
    (∀ r ∈ [(0x01, Instr.faddIv f, 4), (0x02, .fsubIv f, 4), (0x03, .fmulIv f, 6), (0x07, .fminIv f, 2), (0x08, .fmaxIv f, 2)],
      IvWrites ab r.2.1 (0x100 + r.1) f r.2.2 fun s g t =>
        let h := exactHull r.1 (bounds f s g t f.a) (bounds f s g t f.b)
        k.hull h.1 h.2) ∧
    (IvWrites (ab ++ [(f.c, false)]) (.ffmaIv f) 0x104 f 6 fun s g t =>
      let h := exactHull 0x03 (bounds f s g t f.a) (bounds f s g t f.b)
      let c := bounds f s g t f.c
      k.hull (FVal.add true h.1 c.1) (FVal.add false h.2 c.2)) ∧
    (IvWrites ab (.fdivIv f) 0x105 f slow fun s g t =>
      let a := bounds f s g t f.a
      let b := bounds f s g t f.b
      k.divIv a.1 a.2 b.1 b.2) ∧
    (IvWrites [(f.a, false)] (.fsqrtIv f) 0x106 f slow fun s g t =>
      let a := bounds f s g t f.a
      k.sqrtIv a.1 a.2) ∧
    (IvWrites [(f.a, false)] (.fabsIv f) 0x109 f 2 fun s g t =>
      let zero : FVal := .fin false 0 0
      let a := bounds f s g t f.a
      if FVal.lt a.1 zero = false then k.hull a.1 a.2
      else if FVal.lt zero a.2 = false then k.hull a.2.neg a.1.neg
      else k.hull zero (greater a.1.neg a.2)) ∧
    (IvWrites [(f.a, false)] (.fnegIv f) 0x10A f 2 fun s g t =>
      let a := bounds f s g t f.a
      k.hull a.2.neg a.1.neg) ∧
    (IvWrites [(f.a, true), (f.b, true)] (.ivhull f) 0x125 f 2 fun s g t =>
      let h := exactHull 0x25 (bounds f s g t f.a) (bounds f s g t f.b)
      k.hull h.1 h.2) ∧
    (SpanWrites (fun _ _ => True) (.fmovIv f) 0x100 f 1 (ivRegs (tyOf f))
      (fun s g t j => ivWord f (readIv s s.cur g (tyOf f) t f.a) j) fun _ _ _ => 0) ∧
    (SpanWrites (fun s g => NoneAbandoned f [patA, patB] s g ∧ ∀ t < 32, takesPart g f t →
        (patA f s g t, patB f s g t) = k.emptyIv ∨
          ((k.value (patA f s g t)).isNan = false ∧ (k.value (patB f s g t)).isNan = false ∧
            k.value (patA f s g t) ≠ .inf false ∧ k.value (patB f s g t) ≠ .inf true ∧
            FVal.lt (k.value (patB f s g t)) (k.value (patA f s g t)) = false))
      (.ivmk f) 0x120 f 4 (ivRegs (tyOf f))
      (fun s g t j => ivWord f (if (patA f s g t, patB f s g t) = k.emptyIv then k.emptyIv
        else (k.hull (k.value (patA f s g t)) (k.value (patB f s g t))).1) j)
      fun s g t => if (patA f s g t, patB f s g t) = k.emptyIv then 0
        else (k.hull (k.value (patA f s g t)) (k.value (patB f s g t))).2)

/-- R249, R251, R253, R254: the instructions that query an interval; IVSPLIT writes both halves, and IVMEET the intersection,
with a predicate under .e. The flags of IVMID and IVWID are the model's reading (log entry 43); O17 says what the midpoint and
the width are. -/
def Obligations.IntervalQueryAndSplitResults : Prop :=
  (∀ f : Fields,
     let k := fmt f
     let lo := fun s g t => (bounds f s g t f.a).1
     let hi := fun s g t => (bounds f s g t f.a).2
     let b := fun s g t => bounds f s g t f.b
     (IvQueries [(f.a, true)] (.ivlo f) 0x121 f 2 fun s g t => ((readIv s s.cur g (tyOf f) t f.a).1, 0)) ∧
     (IvQueries [(f.a, true)] (.ivhi f) 0x122 f 2 fun s g t => ((readIv s s.cur g (tyOf f) t f.a).2, 0)) ∧
     (IvQueries [(f.a, false)] (.ivmid f) 0x123 f 4 fun s g t => k.midpoint (lo s g t) (hi s g t)) ∧
     (IvQueries [(f.a, false)] (.ivwid f) 0x124 f 4 fun s g t => k.widthIv (lo s g t) (hi s g t)) ∧
     (IvTests [(f.a, false), (f.b, false)] (.fcmpIv f) 0x10B f fun s g t =>
       let lt := FVal.lt
       let al := lo s g t
       let ah := hi s g t
       let bl := (b s g t).1
       let bh := (b s g t).2
       let point := !lt al ah && !lt ah al && !lt ah bl && !lt bl ah && !lt bl bh && !lt bh bl
       let apart := lt ah bl || lt bh al
       let tri := fun (t f : Bool) => if t then triT else if f then triF else triU
       match (f.imm.extractLsb' 0 4).toNat with
       | 0 => tri point apart
       | 1 => tri apart point
       | 2 => tri (lt ah bl) (!lt al bh)
       | 3 => tri (!lt bl ah) (lt bh al)
       | 4 => tri (lt bh al) (!lt bl ah)
       | _ => tri (!lt al bh) (lt ah bl)) ∧
     (IvTests [(f.a, false), (f.b, true)] (.ivin f) 0x127 f fun s g t =>
       let bl := (b s g t).1
       let bh := (b s g t).2
       if k.classIv (readIv s s.cur g (tyOf f) t f.b) = .empty then triF
       else if FVal.lt (lo s g t) bl = false ∧ FVal.lt bh (hi s g t) = false then triT
       else if FVal.lt (hi s g t) bl ∨ FVal.lt bh (lo s g t) then triF else triU) ∧
     (IvTests [(f.a, true)] (.ivchk f) 0x129 f fun s g t =>
       if k.classIv (readIv s s.cur g (tyOf f) t f.a) = .empty then triF
       else if (lo s g t).isInf || (hi s g t).isInf then triU else triT)) ∧
  (∀ f : Fields,
     let k := fmt f
     let n := ivRegs (tyOf f)
     let mid := fun s g t => k.midpoint (bounds f s g t f.a).1 (bounds f s g t f.a).2
     let low := fun s g t => greater (bounds f s g t f.a).1 (bounds f s g t f.b).1
     let high := fun s g t => lesser (bounds f s g t f.a).2 (bounds f s g t f.b).2
     let meet := fun s g t => if FVal.lt (high s g t) (low s g t) then (k.emptyIv, 0) else k.hull (low s g t) (high s g t)
     (SpanWrites (GoodIntervals f [(f.a, false)]) (.ivsplit f) 0x128 f 4 (2 * n)
       (fun s g t j =>
         let m := k.value (mid s g t).1
         if j < n then ivWord f (k.hull (bounds f s g t f.a).1 m).1 j
         else ivWord f (k.hull m (bounds f s g t f.a).2).1 (j - n))
       fun s g t => (mid s g t).2) ∧
     (f.imm.getLsbD 0 = false →
       SpanWrites (fun s g => GoodIntervals f [(f.a, false), (f.b, false)] s g ∧
           ∀ t < 32, takesPart g f t → FVal.lt (high s g t) (low s g t) = false)
         (.ivmeet f) 0x126 f 2 n (fun s g t j => ivWord f (meet s g t).1 j) fun s g t => (meet s g t).2) ∧
     (f.imm.getLsbD 0 = true → ∀ s g, Ready 0x126 f s g → GoodIntervals f [(f.a, true), (f.b, true)] s g →
       ∃ g', StepsTo (.ivmeet f) s s g' ∧
         (∀ t < 32, ∀ x, wordGet g'.regs (regKey t x)
           = if takesPart g f t ∧ (x - f.d).toNat < n then ivWord f (meet s g t).1 (x - f.d).toNat
             else wordGet g.regs (regKey t x)) ∧
         (∀ t < 32, ∀ p < 8, getPred g' t p
           = if takesPart g f t ∧ p = bits f.c.toNat 0 3 then (if FVal.lt (high s g t) (low s g t) then triF else triT)
             else getPred g t p) ∧
         Raises g g' f (fun t => (meet s g t).2) ∧
         kept g' = kept { g with regs := g'.regs, preds := g'.preds, fpstat := g'.fpstat } ∧
         Issued g g' (nextPc g f.len)
           (if anyPart g f then pendD 0x126 f 2 ++ [⟨.pred (bits f.c.toNat 0 3), .distance 2⟩] else [])))

/-- R124 to R126, R128, R130, R131, R240 to R242, R245, R248, R251, R253, R259: what the functions that round return, said by
the value that they round: a rounding toward −∞ is never above the exact value, one toward +∞ never below it, one toward zero
lies between, and a finite result without NX is exact; a value of a format rounds to itself; then rounding itself, division,
square root, FRCPA, FRND, FMIN and FMAX, FEXP2 and FLOG2 (whose distance from the irrational value that is rounded is the
model's, log 13), the midpoint and the width of an interval (whose flags are the model's reading, log 43), interval division and
square root, conversions to integers and to FP8 (whose NaN corners are the model's reading, log 42), and the elements of BX
blocks. -/
def Obligations.DirectedRoundingBounds : Prop :=
  (∀ k ∈ ieee, ∀ (neg : Bool) (m : Nat) (e : Int),
     let x : ℝ := exact neg m e
     AtLeast x (k.value (k.round .rd neg m e).1) ∧
     AtMost x (k.value (k.round .ru neg m e).1) ∧
     (if neg then AtMost x (k.value (k.round .rz neg m e).1) else AtLeast x (k.value (k.round .rz neg m e).1)) ∧
     ∀ mode, (k.round mode neg m e).2 &&& flagNX = 0 →
       ∃ n' m' e', k.value (k.round mode neg m e).1 = .fin n' m' e' ∧ exact n' m' e' = x) ∧
  (∀ k ∈ ieee, ∀ x < 2 ^ k.width, (k.value x).isNan = false → ∀ mode, k.roundVal mode (k.value x) = (x, 0)) ∧
  (∀ k ∈ ieee, ∀ (mode : Rounding) (neg : Bool) (m : Nat) (e : Int), Rounds k mode neg (exact false m e : ℝ) (k.round mode neg m e)) ∧
  (∀ k ∈ ieee, ∀ (mode : Rounding) (na nb : Bool) (ma mb : Nat) (ea eb : Int), 0 < ma → 0 < mb →
     let a : ℝ := exact false ma ea
     let b : ℝ := exact false mb eb
     let num := FVal.fin na ma ea
     let den := FVal.fin nb mb eb
     let sign := na != nb
     Rounds k mode sign (a / b) (divFloat k mode num den) ∧
     divFloat k mode num (.fin nb 0 eb) = (k.signed sign k.infMag, flagDZ) ∧
     divFloat k mode (.inf na) den = (k.signed sign k.infMag, 0) ∧
     divFloat k mode (.inf na) (.fin nb 0 eb) = (k.signed sign k.infMag, 0) ∧
     divFloat k mode num (.inf nb) = (k.signed sign 0, 0) ∧
     divFloat k mode (.fin na 0 ea) den = (k.signed sign 0, 0) ∧
     divFloat k mode (.fin na 0 ea) (.inf nb) = (k.signed sign 0, 0) ∧
     divFloat k mode (.fin na 0 ea) (.fin nb 0 eb) = (k.nan, flagNV) ∧
     divFloat k mode (.inf na) (.inf nb) = (k.nan, flagNV) ∧
     Rounds k mode false √a (sqrtFloat k mode (.fin false ma ea)) ∧
     sqrtFloat k mode (.fin na 0 ea) = (k.signed na 0, 0) ∧
     sqrtFloat k mode (.inf false) = (k.infMag, 0) ∧
     sqrtFloat k mode (.fin true ma ea) = (k.nan, flagNV) ∧ sqrtFloat k mode (.inf true) = (k.nan, flagNV) ∧
     (let p := min 12 (k.fbits + 1)
      let r := reciprocal k num
      ∃ y, NearestShort k p (1 / a) y ∧
        (y ≤ magValue k k.maxMag → (∃ n ≤ k.maxMag, r.1 = k.signed na n ∧ magValue k n = y) ∧
          RoundFlags k p .rne na (1 / a) y r.2) ∧
        (magValue k k.maxMag < y → r = (k.signed na k.infMag, flagOF ||| flagNX))) ∧
     reciprocal k (.fin na 0 ea) = (k.signed na k.infMag, flagDZ) ∧ reciprocal k (.inf na) = (k.signed na 0, 0)) ∧
  (∀ k ∈ ieee, ∀ (mode : Rounding), ∀ x < 2 ^ k.width,
     (∀ neg m e, k.value x = .fin neg m e →
       ∃ i n, RoundsInt mode neg (exact false m e : ℝ) i ∧ n ≤ k.maxMag ∧ magValue k n = i ∧
         integralFloat k mode x (k.value x) = (k.signed neg n, if (i : ℚ) = exact false m e then 0 else flagNX)) ∧
     (∀ neg, k.value x = .inf neg → integralFloat k mode x (k.value x) = (x, 0)) ∧
     ∀ y < 2 ^ k.width, ∀ less : Bool,
       let a := k.value x
       let b := k.value y
       let r := pickFloat k less x y
       (a.isNan → b.isNan → r = (k.nan, if a.isSnan || b.isSnan then flagNV else 0)) ∧
       (a.isNan → b.isNan = false → r = (y, if a.isSnan then flagNV else 0)) ∧
       (a.isNan = false → b.isNan → r = (x, if b.isSnan then flagNV else 0)) ∧
       (a.isNan = false → b.isNan = false → r.2 = 0 ∧ (r.1 = x ∨ r.1 = y) ∧
         (∀ v ∈ [a, b], (if less then FVal.lt v (k.value r.1) else FVal.lt (k.value r.1) v) = false) ∧
         (a.isZero → b.isZero → (k.value r.1).isNeg = if less then a.isNeg || b.isNeg else a.isNeg && b.isNeg))) ∧
  (∀ k ∈ ieee, ∀ (mode : Rounding), ∀ x < 2 ^ k.width, ∀ neg m e, k.value x = .fin neg m e →
     let a : ℝ := exact neg m e
     let r := exp2Float k mode (k.value x)
     let l := log2Float k mode (k.value x)
     (|a| < 2 ^ 16 → (∃ v : ℝ, |v - 2 ^ a| ≤ 2 ^ a / 2 ^ 90 ∧ Rounds k mode false v r ∧ ((∃ i : ℤ, a = i) → v = 2 ^ a)) ∧
       ((¬∃ i : ℤ, a = i) → r.2 &&& flagNX ≠ 0)) ∧
     (2 ^ 16 ≤ a → ∃ v : ℝ, 2 ^ (2 ^ 16) ≤ v ∧ Rounds k mode false v r) ∧
     (a ≤ -2 ^ 16 → ∃ v : ℝ, 0 < v ∧ v * 2 ^ (2 ^ 16) ≤ 1 ∧ Rounds k mode false v r) ∧
     (0 < a → (∃ (n : Bool) (v : ℝ), 0 ≤ v ∧ |(if n then -v else v) - Real.logb 2 a| ≤ 1 / 2 ^ 250 ∧ Rounds k mode n v l ∧
         ((∃ i : ℤ, a = 2 ^ i) → (if n then -v else v) = Real.logb 2 a)) ∧
       ((¬∃ i : ℤ, a = 2 ^ i) → l.2 &&& flagNX ≠ 0)) ∧
     (m = 0 → l = (k.signed true k.infMag, flagDZ)) ∧ (a < 0 → l = (k.nan, flagNV)) ∧
     exp2Float k mode (.inf neg) = (if neg then 0 else k.infMag, 0) ∧
     log2Float k mode (.inf neg) = (if neg then (k.nan, flagNV) else (k.infMag, 0))) ∧
  (∀ k ∈ ieee, ∀ (na nb : Bool) (ma mb : Nat) (ea eb : Int),
     let a := exact na ma ea
     let b := exact nb mb eb
     let mid := (a + b) / 2
     (∃ r, Rounds k .rne (decide (mid < 0)) (|mid| : ℚ) r ∧
       k.midpoint (.fin na ma ea) (.fin nb mb eb) = (if k.mag r.1 = 0 then 0 else r.1, r.2 &&& flagNX)) ∧
     k.midpoint (.inf true) (.fin nb mb eb) = (k.signed true k.maxMag, 0) ∧
     k.midpoint (.fin na ma ea) (.inf false) = (k.maxMag, 0) ∧ k.midpoint (.inf true) (.inf false) = (0, 0) ∧
     (a ≤ b → ∃ r, Rounds k .ru false (b - a : ℚ) r ∧
       k.widthIv (.fin na ma ea) (.fin nb mb eb) = (r.1, r.2 &&& flagNX)) ∧
     ∀ v w, v.isInf || w.isInf → k.widthIv v w = (k.infMag, 0)) ∧
  (∀ k ∈ ieee, ∀ a b : FVal × FVal, ProperBounds a → ProperBounds b →
     let zero := fun (x : FVal × FVal) => x.1.isZero = true ∧ x.2.isZero = true
     let r := k.divIv a.1 a.2 b.1 b.2
     let w := k.sqrtIv a.1 a.2
     (zero b → r = (k.emptyIv, flagDZ)) ∧
     (zero a → ¬zero b → r = ((k.signed true 0, 0), 0)) ∧
     (¬zero a → ¬zero b →
       Tightest k (fun z => ∃ x y, Within x a ∧ Within y b ∧ y ≠ 0 ∧ z = x / y) r.1 ∧ (r.2 &&& flagDZ ≠ 0 ↔ Within 0 b)) ∧
     ((∀ x, Within x a → x < 0) → w = (k.emptyIv, flagNV)) ∧
     ((∃ x, Within x a ∧ 0 ≤ x) → Tightest k (fun z => ∃ x, Within x a ∧ 0 ≤ x ∧ z = √x) w.1 ∧ w.2 &&& flagNV = 0)) ∧
  (∀ (ty : Ty) (mode : Rounding) (neg : Bool) (m : Nat) (e : Int), ty.isInt →
     let least : ℤ := if ty.isSigned then -2 ^ (ty.width - 1) else 0
     let most : ℤ := if ty.isSigned then 2 ^ (ty.width - 1) - 1 else 2 ^ ty.width - 1
     let word := fun (i : ℤ) => up (BitVec.ofInt ty.width i)
     (∃ n : Nat, RoundsInt mode neg (exact false m e : ℝ) n ∧
       let i : ℤ := if neg then -n else n
       toInt ty mode (.fin neg m e) =
         if i < least then (word least, flagNV) else if most < i then (word most, flagNV)
         else (word i, if (n : ℚ) = exact false m e then 0 else flagNX)) ∧
     toInt ty mode (.inf neg) = (word (if neg then least else most), flagNV) ∧ ∀ sig, toInt ty mode (.nan sig) = (0, flagNV)) ∧
  (∀ (ty : Ty) (sat : Bool) (mode : Rounding) (neg : Bool) (m : Nat) (e : Int),
     let k := fmtOf ty
     (k ∈ ieee → Rounds k mode neg (exact false m e : ℝ) (toFloat ty sat mode neg (.fin neg m e)) ∧
       toFloat ty sat mode neg (.inf neg) = (k.signed neg k.infMag, 0) ∧
       ∀ sig, toFloat ty sat mode neg (.nan sig) = (k.nan, if sig then flagNV else 0)) ∧
     (ty.isFp8 → RoundsFp8 k sat mode neg (exact false m e : ℝ) (toFloat ty sat mode neg (.fin neg m e)) ∧
       toFloat ty sat mode neg (.inf neg) =
         (if sat then (k.signed neg k.maxMag, flagSAT) else if ty = .e4m3 then (k.signed neg k.nan, flagNV)
          else (k.signed neg k.infMag, 0)) ∧
       ∀ sig, toFloat ty sat mode neg (.nan sig) = (k.signed neg k.nan, if sig then flagNV else 0))) ∧
  (∀ (ty : Ty) (mb : Nat), (ty, mb) ∈ [(Ty.bx3, 2), (.bx5, 4), (.bx8, 7)] →
     (∀ (b : BitVec 144), ∀ i < 16,
       let x := (b.extractLsb' 0 8).toNat
       let d := (b.extractLsb' (8 + 2 * (i / 4)) 2).toNat
       (x = 255 → (bxElement ty b.toNat i).isNan = true) ∧
       (x ≠ 255 → ∃ q e, bxElement ty b.toNat i = .fin (b.getLsbD (16 + (1 + mb) * i + mb)) q e ∧
         exact false q e = (b.extractLsb' (16 + (1 + mb) * i) mb).toNat * 2 ^ ((x : ℤ) - 127 - d - mb + 1))) ∧
     ∀ (mode : Rounding) (vs : List FVal), vs.length = 16 →
       ((∃ v ∈ vs, v.isNan = true) → bxPack ty mode vs = (255, flagNV)) ∧
       ((∀ v ∈ vs, v.isNan = false) →
         let at_ := fun i => vs[i]?.getD (.inf false)
         ∃ x d q sat, BxPacks mode mb at_ x d q sat ∧
           (bxPack ty mode vs).1 = x + ((List.range 4).map fun g => d g * 2 ^ (8 + 2 * g)).sum
             + ((List.range 16).map fun i => (q i + if (at_ i).isNeg then 2 ^ mb else 0) * 2 ^ (16 + (1 + mb) * i)).sum ∧
           (sat = true → (bxPack ty mode vs).2 = flagSAT ||| flagOF ||| flagNX) ∧
           let same := ∀ i < 16, ∀ n m e, at_ i = .fin n m e → (q i : ℚ) = exact false m e / 2 ^ ((x : ℤ) - 127 - d (i / 4) - mb + 1)
           (sat = false → same → (bxPack ty mode vs).2 = 0) ∧ (sat = false → ¬same → (bxPack ty mode vs).2 = flagNX)))

/-- R140, R247, R248, R251, R252, R254: what an interval instruction leaves holds every value that its operation has on the real
numbers of its operands: sums, differences, products, quotients and roots, minima and maxima, magnitudes and negatives, the
numbers of either operand of IVHULL, the common ones of IVMEET's, those of IVSPLIT's operand in one half or the other, and those
between the bounds of IVMK. -/
def Obligations.IntervalResultsEnclose : Prop :=
  ∀ f : Fields, tyOf f = .iv32 ∨ tyOf f = .iv64 →
    let n := ivRegs (tyOf f)
    let a := fun (s : State) (g : Gang) (t : Nat) (x : ℝ) => Within x (bounds f s g t f.a)
    let b := fun (s : State) (g : Gang) (t : Nat) (x : ℝ) => Within x (bounds f s g t f.b)
    let c := fun (s : State) (g : Gang) (t : Nat) (x : ℝ) => Within x (bounds f s g t f.c)
    let one := GoodIntervals f [(f.a, false)]
    let two := GoodIntervals f [(f.a, false), (f.b, false)]
    let slow := if tyOf f = .iv64 then 24 else 14
    let of1 := fun (op : ℝ → ℝ) s g t z => ∃ x, a s g t x ∧ z = op x
    let of2 := fun (op : ℝ → ℝ → ℝ) s g t z => ∃ x y, a s g t x ∧ b s g t y ∧ z = op x y
    let both := fun s g t z => a s g t z ∧ b s g t z
    Encloses (.faddIv f) 0x101 f 4 two [f.d] (of2 fun x y => x + y) ∧
    Encloses (.fsubIv f) 0x102 f 4 two [f.d] (of2 fun x y => x - y) ∧
    Encloses (.fmulIv f) 0x103 f 6 two [f.d] (of2 fun x y => x * y) ∧
    Encloses (.ffmaIv f) 0x104 f 6 (GoodIntervals f [(f.a, false), (f.b, false), (f.c, false)]) [f.d]
      (fun s g t z => ∃ x y w, a s g t x ∧ b s g t y ∧ c s g t w ∧ z = x * y + w) ∧
    Encloses (.fdivIv f) 0x105 f slow two [f.d] (fun s g t z => ∃ x y, a s g t x ∧ b s g t y ∧ y ≠ 0 ∧ z = x / y) ∧
    Encloses (.fsqrtIv f) 0x106 f slow one [f.d] (fun s g t z => ∃ x, a s g t x ∧ 0 ≤ x ∧ z = √x) ∧
    Encloses (.fminIv f) 0x107 f 2 two [f.d] (of2 min) ∧
    Encloses (.fmaxIv f) 0x108 f 2 two [f.d] (of2 max) ∧
    Encloses (.fabsIv f) 0x109 f 2 one [f.d] (of1 fun x => |x|) ∧
    Encloses (.fnegIv f) 0x10A f 2 one [f.d] (of1 fun x => -x) ∧
    Encloses (.ivhull f) 0x125 f 2 (GoodIntervals f [(f.a, true), (f.b, true)]) [f.d] (fun s g t z => a s g t z ∨ b s g t z) ∧
    Encloses (.ivsplit f) 0x128 f 4 one [f.d, f.d + BitVec.ofNat 10 n] a ∧
    Encloses (.ivmk f) 0x120 f 4
      (fun s g => NoneAbandoned f [patA, patB] s g ∧
        ∀ t < 32, takesPart g f t → ProperBounds ((fmt f).value (patA f s g t), (fmt f).value (patB f s g t)))
      [f.d] (fun s g t z => Within z ((fmt f).value (patA f s g t), (fmt f).value (patB f s g t))) ∧
    (f.imm.getLsbD 0 = false →
      Encloses (.ivmeet f) 0x126 f 2 (fun s g => two s g ∧ ∀ t < 32, takesPart g f t → ∃ z, both s g t z) [f.d] both) ∧
    (f.imm.getLsbD 0 = true → ∀ s g, Ready 0x126 f s g → GoodIntervals f [(f.a, true), (f.b, true)] s g →
      VyzNames f.d n →
      ∃ g', StepsTo (.ivmeet f) s s g' ∧ (∀ t < 32, takesPart g f t → ∀ z, both s g t z → Within z (bounds f s g' t f.d)) ∧
        (∀ t < 32, takesPart g f t → (∃ z, both s g t z) → getPred g' t (bits f.c.toNat 0 3) = triT) ∧
        ∀ t < 32, ∀ x, (takesPart g f t ∧ (x - f.d).toNat < n) ∨ wordGet g'.regs (regKey t x) = wordGet g.regs (regKey t x))

/-! ## Conversions -/

/-- R258 to R261: CVT, BXPK and BXUPK. FP8 NaNs and the flags of conversions to intervals are the model's reading (log entry
42); O17 says what the functions named here return. -/
def Obligations.ConversionResults : Prop :=
  ∀ f : Fields,
    let src := (Ty.ofCode (f.imm.extractLsb' 0 5).toNat).getD .s8
    let mode := (Rounding.ofCode f.rnd.toNat).getD .rne
    let sat := f.imm.getLsbD 5
    let pat := fun s g t => (srcA f s g t).toNat % 2 ^ (fmtOf src).width
    let num := fun s g t => if src.isInt then exactInt (intValue src (srcA f s g t)) else (fmtOf src).value (pat s g t)
    let plain := fun s g => src.isInt = false → ∀ t < 32, takesPart g f t → (fmtOf src).isAbandoned (pat s g t) = false
    let words := fun s g t (n : Nat) => (List.range n).map fun i => readReg s s.cur g t (f.a + BitVec.ofNat 10 i)
    let packed := fun s g t => bxPack (tyOf f) mode ((words s g t 16).map fun w => fmtF64.value w.toNat)
    ((tyOf f).isInt → src.isInt →
      SpanWrites (fun _ _ => True) (.cvt f) 0x140 f 4 1
        (fun s g t _ =>
          let i := intValue src (srcA f s g t)
          let r := intRange (tyOf f)
          (BitVec.ofInt (tyOf f).width (if sat then max r.1 (min r.2 i) else i)).setWidth 64)
        fun _ _ _ => 0) ∧
    ((tyOf f).isInt → src.isInt = false → src.isIv = false →
      SpanWrites plain (.cvt f) 0x140 f 4 1 (fun s g t _ => (toInt (tyOf f) mode (num s g t)).1)
        fun s g t => (toInt (tyOf f) mode (num s g t)).2) ∧
    ((tyOf f).isInt = false → (tyOf f).isIv = false → src.isIv = false →
      let r := fun s g t => toFloat (tyOf f) sat mode (!src.isInt && (fmtOf src).isNeg (pat s g t)) (num s g t)
      SpanWrites plain (.cvt f) 0x140 f 4 1 (fun s g t _ => BitVec.ofNat 64 (r s g t).1) fun s g t => (r s g t).2) ∧
    ((tyOf f).isIv → src.isIv = false →
      let r := fun s g t => (fmt f).hull (num s g t) (num s g t)
      SpanWrites (fun s g => plain s g ∧ ∀ t < 32, takesPart g f t → ∃ n m e, num s g t = .fin n m e) (.cvt f) 0x140 f 4
        (ivRegs (tyOf f)) (fun s g t j => ivWord f (r s g t).1 j) fun s g t => (r s g t).2 &&& flagNX) ∧
    ((tyOf f).isIv → src.isIv →
      let x := fun s g t => readIv s s.cur g src t f.a
      let r := fun s g t => (fmt f).hull ((fmtOf src).value (x s g t).1) ((fmtOf src).value (x s g t).2)
      SpanWrites
        (fun s g => ∀ t < 32, takesPart g f t → (fmtOf src).classIv (x s g t) = .proper ∨ (fmtOf src).classIv (x s g t) = .empty)
        (.cvt f) 0x140 f 4 (ivRegs (tyOf f))
        (fun s g t j => ivWord f (if (fmtOf src).classIv (x s g t) = .empty then (fmt f).emptyIv else (r s g t).1) j)
        fun s g t => if (fmtOf src).classIv (x s g t) = .empty then 0 else (r s g t).2 &&& (flagNX ||| flagOF)) ∧
    (SpanWrites (fun s g => ∀ t < 32, takesPart g f t → ∀ w ∈ words s g t 16, fmtF64.isAbandoned w.toNat = false)
      (.bxpk f) 0x141 f 8 (bxRegs (tyOf f)) (fun s g t i => BitVec.ofNat 64 ((packed s g t).1 / 2 ^ (64 * i)))
      fun s g t => (packed s g t).2) ∧
    SpanWrites (fun _ _ => True) (.bxupk f) 0x142 f 3 16
      (fun s g t i =>
        let block := ((words s g t (bxRegs (tyOf f))).foldr (fun w n => w.toNat + 2 ^ 64 * n) 0) % 2 ^ (tyOf f).width
        BitVec.ofNat 64 (fmtF64.roundVal .rne (bxElement (tyOf f) block i)).1)
      fun _ _ _ => 0

namespace Sys2Proof.Claims

/-! ## Accesses of memory -/

/-- The gang issues the instruction anew: no element of it is complete or has failed (R215). -/
def Fresh (g : Gang) : Prop := g.done = 0 ∧ g.failed = [] ∧ g.poisoned = 0 ∧ g.operands = none

/-- The descriptor of the immediate is at hand and passes steps 7a and 7b of R214: `s1` is the state with the cell's copy. -/
def Described (f : Fields) (td : Nat) (typed : Bool) (s : State) (g : Gang) (s1 : State) (d : Desc) : Prop :=
  g.operands = none ∧ (∃ w, fetchDesc s s.cur g td = .ok w s1 ∧ descOf w = d) ∧ d.ok = true ∧ (typed → typeAgrees (tyOf f) d.type)

/-- Every element passes steps 7c to 7e: it lies in range, or reads and drops under BMODE 1; it is aligned, and it lies below
the limit of its space (R184, R185). -/
def Placed (d : Desc) (els : List Elem) : Prop :=
  ∀ e ∈ els, (e.coords = none → d.bmode = true) ∧
    ∀ c, e.coords = some c → (d.locate c).base % d.alignment = 0 ∧
      ∀ lim, d.limit = some lim → (d.locate c).addr + unitBytes d.type ≤ lim

/-- A place in the package's memories or the host's, none of its bytes poisoned: no register window and no other package. -/
def Local (s : State) : Locus → Prop
  | .device p pas => pasPoisoned s p pas = false
  | .scratch _ _ => True
  | .host _ => True
  | _ => False

/-- A place outside the record-window slots of other workgroups (R70). -/
def Owned (s : State) (wg : Nat) : Locus → Prop
  | .scratch _ offs => ∀ o ∈ offs, foreignSlot s wg o = false
  | _ => True

/-- The single bytes of a place: which memory, and where in it. -/
def cells : Locus → List (Nat × Nat)
  | .device p pas => pas.map fun a => (0, dramKey p a)
  | .scratch cell offs => offs.map fun o => (2 + cell, o)
  | .host l => l.map fun a => (1, a)
  | _ => []

/-- One byte of memory: of HBM4E, of a cell's scratchpad, or of the host. -/
def peek (s : State) (q : Nat × Nat) : Byte :=
  if q.1 = 0 then dramByte s q.2 else if q.1 = 1 then wordGet s.host q.2 else spadByte s (q.1 - 2) q.2

/-- `q` names a byte: an offset in a scratchpad lies below its size (R18). -/
def IsByte (q : Nat × Nat) : Prop := 2 ≤ q.1 → q.2 < 2 ^ 20

/-- The bytes of a place. -/
def bytesAt (s : State) (l : Locus) : List Byte := (cells l).map (peek s)

/-- Every item reaches a local place (R340, R351). -/
def Reached (s s1 : State) (g : Gang) (d : Desc) (acc : Access) (items : List Item) (loc : Item → Locus) : Prop :=
  ∀ it ∈ items, reach s1 s.cur g d it.c1 it.va it.size acc (.gang s.cur) = .ok (loc it) ∧ Local s1 (loc it)

/-- No watchpoint of the context matches (R384). -/
def Unwatched (s : State) (g : Gang) (atomic : Bool) (items : List Item) : Prop :=
  g.skipWatch = true ∨ ∀ it ∈ items, matchBytes s g.vf atomic (consecutive it.va it.size) = none

/-- No two items share a byte, and no item names a byte twice. -/
def Disjoint (items : List Item) (loc : Item → Locus) : Prop :=
  (∀ it ∈ items, (cells (loc it)).Nodup) ∧ items.Pairwise fun a b => ∀ q ∈ cells (loc a), q ∉ cells (loc b)

/-- What an access may change beside the gang: the cell's descriptor copies, L2 and the tokens it takes or asks for (R363, R366),
misses that ended, SCOPE_CLAMPED. -/
def OnlyGangAndCaches (s t : State) : Prop :=
  t = { s with gangs := t.gangs, descs := t.descs, l2 := t.l2, buckets := t.buckets, pools := t.pools, owed := t.owed
               clamped := t.clamped, nextId := t.nextId, misses := t.misses, atsMisses := t.atsMisses } ∧
  ∀ k, k ≠ s.cur → mapGet t.gangs k = mapGet s.gangs k

/-- As `OnlyGangAndCaches`, and the memories, the launch's record of effects (R374), and the count of free values. -/
def OnlyGangCachesMemory (s t : State) : Prop :=
  t = { s with gangs := t.gangs, descs := t.descs, l2 := t.l2, buckets := t.buckets, pools := t.pools, owed := t.owed
               clamped := t.clamped, nextId := t.nextId, misses := t.misses, atsMisses := t.atsMisses, dram := t.dram
               spad := t.spad, host := t.host, poison := t.poison, launches := t.launches, free := t.free } ∧
  ∀ k, k ≠ s.cur → mapGet t.gangs k = mapGet s.gangs k

/-- The gang has one more load outstanding, none of it from another package; its destinations are pending until a WAIT counts
past it (R41, R216). -/
def LoadOutstanding (s : State) (g g' : Gang) (atomic : Bool) (td : Nat) (names : List Name) (pc : Nat) : Prop :=
  g'.loads = g.loads ++ [⟨s.nextId, atomic, false, 0, td, g.pc, none, []⟩] ∧
    Issued g g' pc (names.map fun n => ⟨n, .load s.nextId⟩)

/-- The gang has one more store outstanding, none of it to another package (R216). -/
def StoreOutstanding (s : State) (g g' : Gang) (pc : Nat) : Prop :=
  g'.stores = g.stores ++ [⟨s.nextId, g.pc, none⟩] ∧ Issued g g' pc []

/-- The load counter, or the store counter, and the requests of the link let `n` elements issue (R216, R405). -/
def LoadRoom (s1 : State) (g : Gang) (d : Desc) (n : Nat) : Prop := loadsFull g = false ∧ linkFull s1 g.vf d n = false
/-- As `LoadRoom`, of stores. -/
def StoreRoom (s1 : State) (g : Gang) (d : Desc) (n : Nat) : Prop := storesFull g = false ∧ linkFull s1 g.vf d n = false

/-- The participating threads, in ascending order. -/
def parts (g : Gang) (f : Fields) : List Nat := (List.range 32).filter (takesPart g f)

/-- Elements of a lane access: one to a participating thread (R219). -/
def lanes (s : State) (g : Gang) (f : Fields) (d : Desc) : List Elem :=
  (parts g f).map fun t => ⟨t, t, coordsAt s s.cur g f d t⟩

/-- The words that a load leaves for an element: those of its image, or +0 out of range (R184, R212). -/
def loaded (s : State) (f : Fields) (d : Desc) (loc : Item → Locus) (e : Elem) : List Word :=
  match e.coords with
  | none => List.replicate (elemRegs (tyOf f)) 0
  | some c =>
    loadImage d (tyOf f)
      (bytesAt s (loc ⟨elemBit e.bit, e.thread, e.bit, (d.locate c).addr, unitBytes d.type, coord1 c, (d.locate c).elem⟩))
      (d.locate c).elem

/-- A load of the elements `els` completes its issue: every element's registers hold what its place holds, memory is as it
was, and the load is outstanding. -/
def Loads (i : Instr) (opc : Nat) (f : Fields) (s : State) (g : Gang) (d : Desc) (els : List Elem) (loc : Item → Locus) :
    Prop :=
  ∃ t g', exec i s = .next t ∧ OnlyGangAndCaches s t ∧ mapGet t.gangs s.cur = some g' ∧
    (∀ e ∈ els, ∀ k < elemRegs (tyOf f),
      wordGet g'.regs (regKey e.thread (elemSpec (tyOf f) f.d e.bit + BitVec.ofNat 10 k))
        = (loaded s f d loc e)[k]?.getD 0) ∧
    (∀ u x, (∀ e ∈ els, ∀ k < elemRegs (tyOf f), e.thread = u → x ≠ elemSpec (tyOf f) f.d e.bit + BitVec.ofNat 10 k) →
      wordGet g'.regs (regKey u x) = wordGet g.regs (regKey u x)) ∧
    kept g' = kept { g with regs := g'.regs, loads := g'.loads } ∧
    LoadOutstanding s g g' false (memTd f) (destNames opc f) (nextPc g f.len)

/-- `n` registers from `x` on are s or b registers. -/
def UniformNames (x : BitVec 10) (n : Nat) : Prop :=
  ∀ k < n, ∃ r, RegName.ofSpec (x + BitVec.ofNat 10 k) = some r ∧ FileSet.sb.has r = true

/-- The `n` s or b registers from `x` on hold the words `val`, but for a b register in which the write of a later slot of this
arithmetic cycle stands (R38); every other s and b register is as it was. -/
def UniformHolds (s t : State) (g g' : Gang) (x : BitVec 10) (n : Nat) (val : Nat → Word) : Prop :=
  (∀ k < n, (∀ b, RegName.ofSpec (x + BitVec.ofNat 10 k) = some (.b b) → ¬ Overtaken s (16 * bayOf s.cur + b)) →
    readReg t s.cur g' 0 (x + BitVec.ofNat 10 k) = val k) ∧
  (∀ j, (∀ k < n, RegName.ofSpec (x + BitVec.ofNat 10 k) ≠ some (.s j)) → wordGet g'.sregs j = wordGet g.sregs j) ∧
  ∀ j, (∀ k < n, ∀ b, RegName.ofSpec (x + BitVec.ofNat 10 k) = some (.b b) → j = 16 * bayOf s.cur + b → Overtaken s j) →
    wordGet t.bregs j = wordGet s.bregs j

/-- Byte `a` of a cell's register window is the first byte of register `x` of thread `u` of the gang in a slot (R39). -/
def NamesRegister (cell a slot u : Nat) (x : BitVec 10) : Prop :=
  ∃ q k : Nat, q < 4 ∧ k < 4 ∧ u < 32 ∧ slot = 16 * cell + 4 * q + k ∧
    ((∃ n < 128, x = BitVec.ofNat 10 n ∧ a = 0x22800 * q + 8 * (128 * (32 * k + u) + n)) ∨
     (∃ n < 8, x = BitVec.ofNat 10 (0x100 + n) ∧ a = 0x22800 * q + 0x20000 + 8 * (8 * (32 * k + u) + n)) ∨
     ∃ n < 2, x = BitVec.ofNat 10 (0x200 + n) ∧ a = 0x22800 * q + 0x22000 + 8 * (2 * (32 * k + u) + n))

/-- The register at byte `a` of a cell's window reads as `v`: zero where its slot holds no gang (R39). -/
def WindowHas (s : State) (cell a : Nat) (v : Word) : Prop :=
  ∃ slot u x, NamesRegister cell a slot u x ∧ v = ((mapGet s.gangs slot).map fun h => wordGet h.regs (regKey u x)).getD 0

/-- No register that the elements of a load read through the window is one that the load itself writes. -/
def ReadsApart (f : Fields) (s : State) (d : Desc) (els : List Elem) : Prop :=
  ∀ e ∈ els, ∀ c, e.coords = some c → ∀ k < elemRegs (tyOf f), ∀ u x,
    NamesRegister (cellOf s.cur) ((d.locate c).addr + 8 * k) s.cur u x →
    ∀ e' ∈ els, ∀ j < elemRegs (tyOf f), e'.thread = u → x ≠ elemSpec (tyOf f) f.d e'.bit + BitVec.ofNat 10 j

/-- A load of the elements `els` through the register window completes its issue: every element's registers hold what the registers
at its place hold, or +0 out of range, nothing else of the machine's contents changes, and the load is outstanding (R39). -/
def WindowLoads (i : Instr) (opc : Nat) (f : Fields) (s : State) (g : Gang) (d : Desc) (els : List Elem) : Prop :=
  d.space = 2 → ReadsApart f s d els →
  ∃ t g', exec i s = .next t ∧ OnlyGangAndCaches s t ∧ mapGet t.gangs s.cur = some g' ∧
    (∀ e ∈ els, ∀ k < elemRegs (tyOf f), ∀ v,
      (match e.coords with
        | none => v = 0
        | some c => WindowHas s (cellOf s.cur) ((d.locate c).addr + 8 * k) v) →
      wordGet g'.regs (regKey e.thread (elemSpec (tyOf f) f.d e.bit + BitVec.ofNat 10 k)) = v) ∧
    (∀ u x, (∀ e ∈ els, ∀ k < elemRegs (tyOf f), e.thread = u → x ≠ elemSpec (tyOf f) f.d e.bit + BitVec.ofNat 10 k) →
      wordGet g'.regs (regKey u x) = wordGet g.regs (regKey u x)) ∧
    kept g' = kept { g with regs := g'.regs, loads := g'.loads } ∧
    LoadOutstanding s g g' false (memTd f) (destNames opc f) (nextPc g f.len)

/-- A store of the elements `els` through the register window completes its issue: the registers at every element's place hold its
data where their slot holds a gang, and otherwise nothing is written; no other register, and nothing but the registers of other gangs,
changes; and the store is outstanding (R39). -/
def WindowStores (i : Instr) (f : Fields) (uniform : Bool) (s s1 : State) (g : Gang) (d : Desc) (els : List Elem) : Prop :=
  let named := fun (slot u : Nat) (x : BitVec 10) (w : Word) => ∃ e ∈ els, ∃ c, e.coords = some c ∧ ∃ k < elemRegs (tyOf f),
    NamesRegister (cellOf s.cur) ((d.locate c).addr + 8 * k) slot u x ∧
      w = readReg s s.cur g (if uniform then 0 else e.thread) (elemSpec (tyOf f) f.c e.bit + BitVec.ofNat 10 k)
  d.space = 2 → StoreRoom s1 g d els.length →
  (els.Pairwise fun a b => ∀ c c', a.coords = some c → b.coords = some c' → (d.locate c).addr ≠ (d.locate c').addr) →
  ∃ t g', exec i s = .next t ∧
    t = { s with gangs := t.gangs, descs := t.descs, l2 := t.l2, buckets := t.buckets, pools := t.pools, owed := t.owed
                 clamped := t.clamped, nextId := t.nextId, misses := t.misses, atsMisses := t.atsMisses
                 launches := t.launches, free := t.free } ∧
    mapGet t.gangs s.cur = some g' ∧
    (∀ slot h, mapGet s.gangs slot = some h → ∃ h', mapGet t.gangs slot = some h' ∧ (slot ≠ s.cur → h' = { h with regs := h'.regs }) ∧
      ∀ u x, (∀ w, named slot u x w → wordGet h'.regs (regKey u x) = w) ∧
        ((∀ w, ¬ named slot u x w) → wordGet h'.regs (regKey u x) = wordGet h.regs (regKey u x))) ∧
    (∀ slot, mapGet s.gangs slot = none → mapGet t.gangs slot = none) ∧
    kept g' = kept { g with regs := g'.regs, stores := g'.stores, sealed := g'.sealed } ∧
    StoreOutstanding s g g' (nextPc g f.len)

/-- The units a store writes: its items, or the blocks of a BX tensor (R195). -/
def unitsOf (f : Fields) (d : Desc) (items : List Item) (data : Item → List Word) : List Item :=
  if (tyOf f).isBx then (mergeBlocks d data items).map fun e => e.2.1 else items

/-- The bytes and flags of a unit (R195, R212). -/
def imageOf (f : Fields) (s : State) (d : Desc) (items : List Item) (data : Item → List Word) (loc : Item → Locus)
    (it : Item) : List Byte × FlagSet :=
  if (tyOf f).isBx then
    let news := ((mapGet (mergeBlocks d data items) (blockAt d it)).map (·.2)).getD []
    storeBlock d (tyOf f) (if news.length < 16 then bytesAt s (loc it) else []) news
  else storeImage d (tyOf f) (data it)

/-- A store of the elements `els` completes its issue: every unit's place holds its image, every other byte of memory is as it
was, the flags of narrowing are raised, and the store is outstanding. -/
def Stores (i : Instr) (f : Fields) (uniform : Bool) (s s1 : State) (g : Gang) (d : Desc) (els : List Elem)
    (loc : Item → Locus) : Prop :=
  let data := fun it => storeData s s.cur g f (tyOf f) uniform it
  let items := itemsOf d (unitBytes d.type) els
  let units := unitsOf f d items data
  let image := imageOf f s d items data loc
  (∀ it ∈ items, (tyOf f).isFp8 ∨ (tyOf f).isBx → fmtF64.isAbandoned ((data it).headD 0).toNat = false) →
  StoreRoom s1 g d els.length → Reached s s1 g d .write items loc → (∀ it ∈ items, Owned s1 g.wg (loc it)) →
  Unwatched s1 g false items → Disjoint units loc → (∀ a b, a.va = b.va → a.c1 = b.c1 → loc a = loc b) →
  ((tyOf f).isBx → items.Pairwise fun a b => blockAt d a = blockAt d b → loc a = loc b ∧ a.elem ≠ b.elem) →
  ∃ t g', exec i s = .next t ∧ OnlyGangCachesMemory s t ∧ mapGet t.gangs s.cur = some g' ∧
    (∀ it ∈ units, bytesAt t (loc it) = (image it).1) ∧
    (∀ q, IsByte q → (∀ it ∈ units, q ∉ cells (loc it)) → peek t q = peek s q) ∧
    (∀ j, g'.fpstat.getLsbD j = (g.fpstat.getLsbD j || units.any fun it => (image it).2.getLsbD j)) ∧
    kept g' = kept { g with fpstat := g'.fpstat, stores := g'.stores, sealed := g'.sealed } ∧
    StoreOutstanding s g g' (nextPc g f.len)

/-- Elements of a gather or scatter by flat index: element j of thread t at bit 32·j + t (R223). -/
def flats (s : State) (g : Gang) (f : Fields) (d : Desc) : List Elem := gathElems s s.cur g f d (parts g f)

/-- The element of a uniform access (R221). -/
def single (s : State) (g : Gang) (f : Fields) (d : Desc) : List Elem := [⟨0, 0, coordsAt s s.cur g f d 0⟩]

end Sys2Proof.Claims

/-! ## Loads and stores -/

/-- R39, R212, R219, R223: LDT and GATH. Every space but that of another chip, whose bytes arrive later (O30 completes such a load),
and every layout but sparse lines are covered; through the register window the registers read are those that R39 names. That
registers are written at issue while the load is pending, and the order of the checks, are the model's readings (log entries 30
and 45). -/
def Obligations.LaneLoadsReadMemory : Prop :=
  ∀ (f : Fields) (s s1 : State) (g : Gang) (d : Desc) (loc : Item → Locus), Fresh g → anyPart g f → d.layout ≠ 2 →
    (Ready 0x180 f s g → Described f (memTd f) true s g s1 d → Placed d (lanes s g f d) → LoadRoom s1 g d (lanes s g f d).length →
      Reached s s1 g d .read (itemsOf d (unitBytes d.type) (lanes s g f d)) loc →
      Loads (.ldt f) 0x180 f s g d (lanes s g f d) loc) ∧
    (Ready 0x186 f s g → Described f (memTd f) true s g s1 d → Placed d (flats s g f d) → LoadRoom s1 g d (flats s g f d).length →
      Reached s s1 g d .read (itemsOf d (unitBytes d.type) (flats s g f d)) loc →
      Loads (.gath f) 0x186 f s g d (flats s g f d) loc) ∧
    (Ready 0x180 f s g → Described f (memTd f) true s g s1 d → Placed d (lanes s g f d) → LoadRoom s1 g d (lanes s g f d).length →
      WindowLoads (.ldt f) 0x180 f s g d (lanes s g f d)) ∧
    (Ready 0x186 f s g → Described f (memTd f) true s g s1 d → Placed d (flats s g f d) → LoadRoom s1 g d (flats s g f d).length →
      WindowLoads (.gath f) 0x186 f s g d (flats s g f d))

/-- R38, R39, R221: LDU loads one element for the gang, into s or b registers, also through the register window; in a b register the
write of the latest slot of a cycle stands. That registers are written at issue while the load is pending is the model's reading
(log entry 30). -/
def Obligations.UniformLoadReadsMemory : Prop :=
  ∀ (f : Fields) (s s1 : State) (g : Gang) (d : Desc) (loc : Item → Locus), Fresh g → condPasses g f.grd → LoadRoom s1 g d 1 →
    d.layout ≠ 2 → Ready 0x182 f s g → Described f (memTd f) true s g s1 d → Placed d (single s g f d) →
    UniformNames f.d (elemRegs (tyOf f)) →
    ∀ val : Nat → Word,
    (Reached s s1 g d .read (itemsOf d (unitBytes d.type) (single s g f d)) loc ∧
        (∀ k, val k = (loaded s f d loc ⟨0, 0, coordsAt s s.cur g f d 0⟩)[k]?.getD 0) ∨
      d.space = 2 ∧ ∀ k < elemRegs (tyOf f), match coordsAt s s.cur g f d 0 with
        | none => val k = 0
        | some c => WindowHas s (cellOf s.cur) ((d.locate c).addr + 8 * k) (val k)) →
    ∃ t g', exec (.ldu f) s = .next t ∧ OnlyGangAndCaches { s with bregs := t.bregs, bTurn := t.bTurn } t ∧
      mapGet t.gangs s.cur = some g' ∧ UniformHolds s t g g' f.d (elemRegs (tyOf f)) val ∧
      kept g' = kept { g with sregs := g'.sregs, loads := g'.loads } ∧
      LoadOutstanding s g g' false (memTd f) (destNames 0x182 f) (nextPc g f.len)

/-- R39, R195, R212, R219, R221, R223: STT, STU and SCAT, also through the register window, where a slot without a gang takes no
write. That a store is performed at its issue and the order of the checks are the model's readings (log entries 6, 30 and 45). -/
def Obligations.StoresWriteExactlyTheirUnits : Prop :=
  ∀ (f : Fields) (s s1 : State) (g : Gang) (d : Desc) (loc : Item → Locus), Fresh g → d.layout = 0 →
    (Ready 0x181 f s g → anyPart g f → Described f (memTd f) true s g s1 d → Placed d (lanes s g f d) →
      Stores (.stt f) f false s s1 g d (lanes s g f d) loc) ∧
    (Ready 0x183 f s g → condPasses g f.grd → Described f (memTd f) true s g s1 d → Placed d (single s g f d) →
      Stores (.stu f) f true s s1 g d (single s g f d) loc) ∧
    (Ready 0x187 f s g → anyPart g f → Described f (memTd f) true s g s1 d → Placed d (flats s g f d) →
      Stores (.scat f) f false s s1 g d (flats s g f d) loc) ∧
    (Ready 0x181 f s g → anyPart g f → Described f (memTd f) true s g s1 d → Placed d (lanes s g f d) →
      WindowStores (.stt f) f false s s1 g d (lanes s g f d)) ∧
    (Ready 0x183 f s g → condPasses g f.grd → Described f (memTd f) true s g s1 d → Placed d (single s g f d) →
      WindowStores (.stu f) f true s s1 g d (single s g f d)) ∧
    (Ready 0x187 f s g → anyPart g f → Described f (memTd f) true s g s1 d → Placed d (flats s g f d) →
      WindowStores (.scat f) f false s s1 g d (flats s g f d))

/-- R39, R222: LINE gives thread t the t-th four bytes of the line of its element, in the register window those of a register. That
each four bytes are permuted of their own and that registers are written at issue are the model's readings (log entries 30 and
48). -/
def Obligations.LineLoadsFourBytesPerThread : Prop :=
  ∀ (f : Fields) (s s1 : State) (g : Gang) (d : Desc) (loc : Nat → Locus) (c : List Int), Fresh g → anyPart g f →
    LoadRoom s1 g d (parts g f).length → d.layout ≠ 2 → Ready 0x184 f s g → Described f (memTd f) false s g s1 d →
    coordsAt s s.cur g f d 0 = some c →
    let line := (d.locate c).addr - (d.locate c).addr % 128
    (∀ lim, d.limit = some lim → line < lim) →
    ∀ val : Nat → Word,
    ((∀ u ∈ parts g f, reach s1 s.cur g d (coord1 c) (line + 4 * u) 4 .read (.gang s.cur) = .ok (loc u) ∧ Local s1 (loc u)) ∧
        (∀ u, val u = BitVec.ofNat 64 (bytesToNat (bytesAt s (loc u)))) ∨
      d.space = 2 ∧ (∀ u ∈ parts g f, ∀ v, WindowHas s (cellOf s.cur) (line + 8 * (u / 2)) v →
          val u = (v.extractLsb' (32 * (u % 2)) 32).setWidth 64) ∧
        ∀ u ∈ parts g f, ∀ w, w ∈ parts g f → ¬ NamesRegister (cellOf s.cur) (line + 8 * (u / 2)) s.cur w f.d) →
    ∃ t g', exec (.line f) s = .next t ∧ OnlyGangAndCaches s t ∧ mapGet t.gangs s.cur = some g' ∧
      (∀ u < 32, ∀ x, wordGet g'.regs (regKey u x)
        = if takesPart g f u ∧ x = f.d then val u else wordGet g.regs (regKey u x)) ∧
      kept g' = kept { g with regs := g'.regs, loads := g'.loads } ∧
      LoadOutstanding s g g' false (memTd f) (destNames 0x184 f) (nextPc g f.len)

/-- R142, R145, R158, R184, R185, R214, R238: a zero divisor, an abandoned operand, an interval operand that is abandoned,
malformed or, where the operation does not take it, empty, and an access out of range without BMODE or not aligned fault; TVAL
is the mask of the threads or elements, and nothing is read or written. What a fault of several kinds reports first is R215;
where R215 is silent it is the model's reading (log entries 14 and 45), which nothing here rests on. -/
def Obligations.OperandFaultsNameTheThreads : Prop :=
  (∀ (f : Fields) (s : State) (g : Gang),
     (∀ r ∈ [(0x06, Instr.sdiv f), (0x07, .srem f)],
       Ready r.1 f s g → condPasses g f.grd → lo (tyOf f) (srcBI f s g 0) = 0 → Faults r.2 s g f.len .intDivide 1) ∧
     (∀ r ∈ [(0x46, Instr.idiv f), (0x47, .irem f)], ∀ m : Mask,
       Ready r.1 f s g → m ≠ 0 →
       (∀ t < 32, m.getLsbD t = (takesPart g f t && lo (tyOf f) (srcBI f s g t) == 0)) →
       Faults r.2 s g f.len .intDivide (m.setWidth 64))) ∧
  (∀ (f : Fields) (s : State) (g : Gang) (m : Mask),
     let bad := fun src : Fields → State → Gang → Nat → Nat => fun t => takesPart g f t && (fmt f).isAbandoned (src f s g t)
     m ≠ 0 →
     (∀ r ∈ [(0xC1, Instr.fadd f), (0xC2, .fsub f), (0xC3, .fmul f), (0xC4, .ffma f), (0xC5, .fdiv f), (0xC6, .fsqrt f),
         (0xC7, .fmin f), (0xC8, .fmax f), (0xC9, .fabs f), (0xCA, .fneg f), (0xCB, .fcmp f), (0xCD, .frnd f), (0xCE, .fscale f),
         (0xCF, .fexp2 f), (0xD0, .flog2 f), (0xD1, .frcpa f)],
       Ready r.1 f s g → (∀ t < 32, m.getLsbD t = bad patA t) →
       Faults r.2 s g f.len .abandonedOperand (m.setWidth 64 ||| 0x100000000)) ∧
     (∀ r ∈ [(0xC1, Instr.fadd f), (0xC2, .fsub f), (0xC3, .fmul f), (0xC4, .ffma f), (0xC5, .fdiv f), (0xC7, .fmin f),
         (0xC8, .fmax f), (0xCB, .fcmp f)],
       Ready r.1 f s g → (∀ t < 32, bad patA t = false) → (∀ t < 32, m.getLsbD t = bad patB t) →
       Faults r.2 s g f.len .abandonedOperand (m.setWidth 64 ||| 0x200000000)) ∧
     (Ready 0xC4 f s g → (∀ t < 32, bad patA t = false ∧ bad patB t = false) → (∀ t < 32, m.getLsbD t = bad patC t) →
       Faults (.ffma f) s g f.len .abandonedOperand (m.setWidth 64 ||| 0x300000000))) ∧
  (∀ (f : Fields) (s : State) (g : Gang) (m : Mask) (c : IvClass) (code : FaultCode),
     (c, code) ∈ [(IvClass.abandoned, FaultCode.abandonedOperand), (.malformed, .malformedInterval), (.empty, .emptyInterval)] →
     let cls := fun t x => (fmt f).classIv (readIv s s.cur g (tyOf f) t x)
     m ≠ 0 →
     ∀ r ∈ [(0x101, Instr.faddIv f), (0x102, .fsubIv f), (0x103, .fmulIv f), (0x104, .ffmaIv f), (0x105, .fdivIv f),
         (0x106, .fsqrtIv f), (0x107, .fminIv f), (0x108, .fmaxIv f), (0x109, .fabsIv f), (0x10A, .fnegIv f),
         (0x10B, .fcmpIv f), (0x123, .ivmid f), (0x124, .ivwid f), (0x127, .ivin f), (0x128, .ivsplit f)],
       Ready r.1 f s g → (∀ t < 32, m.getLsbD t = (takesPart g f t && cls t f.a == c)) →
       (∀ t < 32, takesPart g f t → cls t f.a = c ∨ cls t f.a = .proper) →
       Faults r.2 s g f.len code (m.setWidth 64 ||| 0x100000000)) ∧
  (∀ (f : Fields) (s s1 : State) (g : Gang) (d : Desc) (m : BitVec 64), Fresh g → anyPart g f → d.layout = 0 → m ≠ 0 →
     Described f (memTd f) true s g s1 d →
     ∀ r ∈ [(0x180, Instr.ldt f), (0x181, .stt f), (0x1C0, .atomAdd f), (0x1D0, .acas f)], Ready r.1 f s g →
     let els := lanes s g f d
     let misaligned := fun (e : Elem) => match e.coords with
       | some c => decide ((d.locate c).base % d.alignment ≠ 0)
       | none => false
     (d.bmode = false → (∀ n < 64, m.getLsbD n = els.any fun e => e.bit == n && e.coords.isNone) →
       exec r.2 s = .next (takeFault s1 s.cur g (formNum f.len) (precise .coordRange m))) ∧
     ((∀ e ∈ els, e.coords = none → d.bmode = true) → (∀ n < 64, m.getLsbD n = els.any fun e => e.bit == n && misaligned e) →
       exec r.2 s = .next (takeFault s1 s.cur g (formNum f.len) (precise .align m))))

/-- R225, R226: SHFX and REBAL. -/
def Obligations.ShuffleAndRebalanceResults : Prop :=
  ∀ f : Fields,
    (∀ s g, Ready 0x185 f s g →
      let z := 2 ^ (5 - (f.imm.extractLsb' 8 3).toNat)
      let n := (f.imm.extractLsb' 3 5).toNat
      let mode := (f.imm.extractLsb' 0 3).toNat
      mode ≤ 4 → (f.imm.extractLsb' 8 3).toNat ≤ 4 →
      let source := fun t =>
        let lo := t / z * z
        if mode = 0 then lo + ((srcB f s g t).setWidth 5).toNat % z
        else if mode = 1 then (if lo + n ≤ t then t - n else t)
        else if mode = 2 then (if t + n < lo + z then t + n else t)
        else if mode = 3 then (if (t ^^^ n) / z = t / z then t ^^^ n else t)
        else if n < z then lo + n else t
      ∃ g', StepsTo (.shfx f) s s g' ∧
        (∀ t < 32, ∀ x, wordGet g'.regs (regKey t x)
          = if takesPart g f t ∧ (x - f.d).toNat < elemRegs (tyOf f) then
              BitVec.ofNat 64 ((readReg s s.cur g (source t) (f.a + (x - f.d))).toNat % 2 ^ min 64 (tyOf f).width)
            else wordGet g.regs (regKey t x)) ∧
        kept g' = kept { g with regs := g'.regs } ∧
        Issued g g' (nextPc g f.len) (if anyPart g f then pendD 0x185 f 4 else [])) ∧
    (∀ s g, Ready 0x188 f s g →
      let n := fun t => (srcA f s g t).toNat % 2 ^ 32
      let below := fun t => (((List.range 32).filter fun u => u < t && takesPart g f u).map n).sum
      let total := (((List.range 32).filter (takesPart g f)).map n).sum
      let item := fun t => (srcB f s g 0).toNat + ((List.range 32).filter fun u => u < t && takesPart g f u).length
      ∃ g', StepsTo (.rebal f) s s g' ∧
        (∀ t < 32, takesPart g f t →
          let out := wordGet g'.regs (regKey t f.d)
          let flag := getPred g' t (bits f.c.toNat 0 3)
          match (f.imm.extractLsb' 0 2).toNat with
          | 0 =>
            (∀ u < 32, takesPart g f u → below u ≤ item t → item t < below u + n u →
              out = BitVec.ofNat 64 (u * 2 ^ 32 + (item t - below u)) ∧ flag = triT) ∧
            (total ≤ item t → out = BitVec.allOnes 64 ∧ flag = triF)
          | 1 => out = BitVec.ofNat 64 (below t) ∧ flag = triOf (n t > 0)
          | _ => out = BitVec.ofNat 64 total ∧ flag = triOf (total > 0)) ∧
        (∀ t < 32, ∀ x, (takesPart g f t ∧ x = f.d) ∨ wordGet g'.regs (regKey t x) = wordGet g.regs (regKey t x)) ∧
        (∀ t < 32, ∀ p < 8, (takesPart g f t ∧ p = bits f.c.toNat 0 3) ∨ getPred g' t p = getPred g t p) ∧
        kept g' = kept { g with regs := g'.regs, preds := g'.preds } ∧
        Issued g g' (nextPc g f.len)
          (if anyPart g f then pendD 0x188 f 6 ++ [⟨.pred (bits f.c.toNat 0 3), .distance 6⟩] else []))

/-- R230: PREF, CFLUSH and CINV change no register and no byte of memory; CFLUSH leaves the lines in scope clean, and CINV
leaves them out of the slices in scope, but for a line that a saved shelf locks (R371). Which lines are in scope by the elements'
bytes is the model's reading (log entry 60), and so is that the lines are clean or gone at issue while the operation is still
outstanding as a store (log entry 30). -/
def Obligations.CacheInstructionsKeepData : Prop :=
  ∀ (f : Fields) (s s1 : State) (g : Gang) (d : Desc) (loc : Item → Locus),
    let items := itemsOf d (unitBytes d.type) (lanes s g f d)
    (Ready 0x189 f s g → ∃ t g', exec (.pref f) s = .next t ∧ OnlyGangAndCaches s t ∧ mapGet t.gangs s.cur = some g' ∧
      kept g' = kept g ∧ Issued g g' (nextPc g f.len) []) ∧
    ∀ r ∈ [(0x18A, Instr.cflush f, false), (0x18B, .cinv f, true)], Fresh g → anyPart g f → storesFull g = false →
      d.layout ≠ 2 → Ready r.1 f s g → Described f (memTd f) false s g s1 d → Placed d (lanes s g f d) →
      (d.space = 0 → Reached s s1 g d .read items loc ∧ Unwatched s1 g false items) →
      ∃ t g', exec r.2.1 s = .next t ∧ OnlyGangAndCaches s t ∧ mapGet t.gangs s.cur = some g' ∧
        (d.space ≠ 0 → t.l2 = s.l2) ∧
        (d.space = 0 → ∀ it ∈ items, ∀ p l, loc it = .device p l → ∀ a ∈ l, dramKey p a / 128 < 2 ^ 36 →
          ∀ c, cacheClusters s.cur f p a c → ∀ e, mapGet t.l2 (2 ^ 36 * c + dramKey p a / 128) = some e →
            (r.2.2 = false ∨ e.locked ≠ none) ∧ e.dirty = false) ∧
        kept g' = kept { g with stores := g'.stores } ∧ StoreOutstanding s g g' (nextPc g f.len)

/-- R178, R189, R231: TDGET reads words of the cell's copy where there is one, otherwise of the table entry, into s or b
registers; TDSET writes the table entry and the cell's copy; TDINV drops copies. That TDGET leaves no copy is the model's
reading (log entry 44), and so is that TDGET's registers hold the words, and TDSET's write is performed, at issue (log entry
30). -/
def Obligations.DescriptorInstructionResults : Prop :=
  ∀ (f : Fields) (s : State) (g : Gang), condPasses g f.grd →
    let key := descKey (cellOf s.cur) g.vf (memTd f)
    let first := (f.imm.extractLsb' 0 3).toNat
    let n := if f.imm.getLsbD 3 then 1 else 8 - first
    let va := tdbase s g.vf + 64 * memTd f + 8 * first
    let regs := fun x => (List.range n).map fun k => readReg s s.cur g 0 (x + BitVec.ofNat 10 k)
    let gets := fun (val : Nat → Word) =>
      ∃ t g', exec (.tdget f) s = .next t ∧ OnlyGangAndCaches { s with bregs := t.bregs, bTurn := t.bTurn } t ∧
        mapGet t.gangs s.cur = some g' ∧ t.descs = s.descs ∧ UniformHolds s t g g' f.d n val ∧ kept g' = kept { g with sregs := g'.sregs, loads := g'.loads } ∧
        LoadOutstanding s g g' false (memTd f) (destNames 0x18D f) (nextPc g f.len)
    (∀ w, Ready 0x18D f s g → loadsFull g = false → mapGet s.descs key = some w → w.length = 8 → UniformNames f.d n →
      gets fun k => w[first + k]?.getD 0) ∧
    (∀ l, Ready 0x18D f s g → Fresh g → loadsFull g = false → mapGet s.descs key = none → UniformNames f.d n →
      reach s s.cur g tableDesc 0 va (8 * n) .read (.gang s.cur) = .ok l → Local s l →
      gets fun k => BitVec.ofNat 64 (bytesToNat (((bytesAt s l).drop (8 * k)).take 8))) ∧
    (∀ l, Ready 0x18C f s g → Fresh g → storesFull g = false →
      reach s s.cur g tableDesc 0 va (8 * n) .write (.gang s.cur) = .ok l → Local s l → (cells l).Nodup →
      Unwatched s g false [⟨1, 0, 0, va, 8 * n, 0, 0⟩] →
      ∃ t g', exec (.tdset f) s = .next t ∧ OnlyGangCachesMemory s t ∧ mapGet t.gangs s.cur = some g' ∧
        bytesAt t l = (regs f.a).flatMap (fun w => natToBytes 8 w.toNat) ∧
        (∀ q, IsByte q → q ∉ cells l → peek t q = peek s q) ∧
        (∀ w, mapGet s.descs key = some w → mapGet t.descs key = some (w.take first ++ regs f.a ++ w.drop (first + n))) ∧
        (mapGet s.descs key = none → mapGet t.descs key = none) ∧
        (∀ k, k ≠ key → mapGet t.descs k = mapGet s.descs k) ∧
        kept g' = kept { g with stores := g'.stores } ∧ StoreOutstanding s g g' (nextPc g f.len)) ∧
    (Ready 0x18E f s g →
      ∃ t g', exec (.tdinv f) s = .next t ∧ t = { s with gangs := t.gangs, descs := t.descs } ∧
        mapGet t.gangs s.cur = some g' ∧ (∀ k, k ≠ s.cur → mapGet t.gangs k = mapGet s.gangs k) ∧
        (∀ k, mapGet t.descs k
          = if k = key ∧ f.imm.getLsbD 3 = false ∨
              f.imm.getLsbD 3 = true ∧ descKey (cellOf s.cur) g.vf 0 ≤ k ∧ k < descKey (cellOf s.cur) g.vf 0 + 1024
            then none else mapGet s.descs k) ∧
        kept g' = kept g ∧ Issued g g' (nextPc g f.len) [])

namespace Sys2Proof.Claims

/-- The elements of an atomic, in thread order, when no two threads name one unit. -/
def atomItems (s : State) (g : Gang) (f : Fields) (d : Desc) : List Item := itemsOf d (unitBytes d.type) (lanes s g f d)

/-- The low bits of a register of a thread, as an atomic of the type takes them. -/
def operandOf (f : Fields) (x : BitVec 10) (s : State) (g : Gang) (t : Nat) : Nat :=
  (readReg s s.cur g t x).toNat % 2 ^ (tyOf f).width

/-- An atomic completes its issue: D of each participating thread holds the unit's old value, the unit holds `new` of it, every
other byte of memory is as it was, the gang is sealed, and a load is outstanding (R216, R227, R322). -/
def Exchanges (i : Instr) (opc : Nat) (op : RemoteOp) (f : Fields) (new : State → Gang → Nat → Nat → Nat) : Prop :=
  ∀ (s s1 : State) (g : Gang) (d : Desc) (loc : Item → Locus), Ready opc f s g → Fresh g → anyPart g f →
    LoadRoom s1 g d (lanes s g f d).length → d.layout = 0 → Described f (memTd f) true s g s1 d → Placed d (lanes s g f d) → atomSupported d op (tyOf f) = true →
    ((tyOf f).isFloat → NoneAbandoned f [patC] s g) →
    let items := atomItems s g f d
    let old := fun it => bytesToNat (bytesAt s (loc it))
    Reached s s1 g d .atomic items loc → (∀ it ∈ items, Owned s1 g.wg (loc it)) → Unwatched s1 g true items →
    Disjoint items loc →
    ∃ t g', exec i s = .next t ∧ OnlyGangCachesMemory s t ∧ mapGet t.gangs s.cur = some g' ∧
      (∀ it ∈ items, wordGet g'.regs (regKey it.thread f.d) = BitVec.ofNat 64 (old it)) ∧
      (∀ u < 32, takesPart g f u → coordsAt s s.cur g f d u = none → wordGet g'.regs (regKey u f.d) = 0) ∧
      (∀ u x, (takesPart g f u = false ∨ x ≠ f.d) → u < 32 → wordGet g'.regs (regKey u x) = wordGet g.regs (regKey u x)) ∧
      (∀ it ∈ items, bytesAt t (loc it) = natToBytes (unitBytes (tyOf f)) (new s g it.thread (old it))) ∧
      (∀ q, IsByte q → (∀ it ∈ items, q ∉ cells (loc it)) → peek t q = peek s q) ∧
      g'.sealed = true ∧ kept g' = kept { g with regs := g'.regs, loads := g'.loads, sealed := true } ∧
      LoadOutstanding s g g' true (memTd f) (destNames opc f) (nextPc g f.len)

/-- What an integer atomic leaves of an old value x and an operand c (R227). -/
def atomLeaves (op : RemoteOp) (f : Fields) (x c : Nat) : Nat :=
  let ty := tyOf f
  let w := fun n => BitVec.ofNat 64 n
  match op with
  | .add => (lo ty (w x) + lo ty (w c)).toNat
  | .min => if less ty (w c) (w x) then c else x
  | .max => if less ty (w x) (w c) then c else x
  | .and => x &&& c
  | .or => x ||| c
  | .xor => x ^^^ c
  | _ => c

end Sys2Proof.Claims

/-! ## Atomics, FENCE and WAIT -/

/-- R227, R229: ATOM on integers. That D holds the old value and the unit is changed at issue, with the access outstanding, is the
model's (log entry 30). -/
def Obligations.IntegerAtomicResults : Prop :=
  ∀ f : Fields, (tyOf f).isInt →
    ∀ r ∈ [(0x1C0, RemoteOp.add, Instr.atomAdd f), (0x1C1, .min, .atomMin f), (0x1C2, .max, .atomMax f),
        (0x1C3, .and, .atomAnd f), (0x1C4, .or, .atomOr f), (0x1C5, .xor, .atomXor f), (0x1C6, .exch, .atomExch f)],
      Exchanges r.2.2 r.1 r.2.1 f fun s g t x => atomLeaves r.2.1 f x (operandOf f f.c s g t)

/-- R227, R228, R229: ATOM on floating-point numbers, and ACAS. That D holds the old value and the unit is changed at issue, with
the access outstanding, is the model's (log entry 30). -/
def Obligations.FloatAtomicAndCompareSwapResults : Prop :=
  ∀ f : Fields,
    ((tyOf f).isFloat →
      (Exchanges (.atomAdd f) 0x1C0 .add f fun s g t x =>
        let k := fmt f
        let c := operandOf f f.c s g t
        (onValues k [x, c] (addFloat k .rne (k.value x) (k.value c))).1) ∧
      (Exchanges (.atomMin f) 0x1C1 .min f fun s g t x => (pickFloat (fmt f) true x (operandOf f f.c s g t)).1) ∧
      (Exchanges (.atomMax f) 0x1C2 .max f fun s g t x => (pickFloat (fmt f) false x (operandOf f f.c s g t)).1) ∧
      (Exchanges (.atomExch f) 0x1C6 .exch f fun s g t _ => operandOf f f.c s g t)) ∧
    ((tyOf f).isFloat = false →
      Exchanges (.acas f) 0x1D0 .cas f fun s g t x =>
        if x = operandOf f f.c s g t then operandOf f (f.c + 1) s g t else x)

/-- R208, R216, R218, R232, R233, R268, R270, R293: FENCE has no effect in an execution in program order (the model's, log 6).
WAIT completes when what may stay outstanding is within its counts: the loads it counts past are acquired, and every closed batch
but those it allows retires, which makes its flags and counts readable in FPSTAT and VSTAT, moves BATCH[31:16] and clears the
destinations; unless a load it counts past has read poison, or a matrix operation of a batch it retires, or a copy on a token it
names, has left a fault, which it raises instead (a poisoned load first, which is the model's order, log 45). Loads and stores
complete oldest first. -/
def Obligations.WaitAcquiresCompletedLoads : Prop :=
  (∀ (f : Fields) (s : State) (g : Gang), Ready 0x1D1 f s g →
    ∃ t g', exec (.fence f) s = .next t ∧ t = { s with gangs := t.gangs, clamped := t.clamped } ∧
      mapGet t.gangs s.cur = some g' ∧ (∀ k, k ≠ s.cur → mapGet t.gangs k = mapGet s.gangs k) ∧
      kept g' = kept g ∧ Issued g g' (nextPc g f.len) []) ∧
  (∀ (f : Fields) (s : State) (g : Gang), Ready 0x1D2 f s g → condPasses g f.grd →
    let nLoads := (f.imm.extractLsb' 18 6).toNat
    let nStores := (f.imm.extractLsb' 12 6).toNat
    let nBatches := (f.imm.extractLsb' 8 4).toNat
    let past := g.loads.take (g.loads.length - nLoads)
    let open_ := (g.loads.filter fun l => !l.complete).length
    (open_ > nLoads ∨ g.stores.length > nStores ∨ closedIncomplete s s.cur g > nBatches →
      exec (.wait f) s = .next (holdGang s s.cur .wait)) ∧
    ((∃ e ∈ s.copies, e.2.slot = s.cur ∧ (f.imm.extractLsb' 0 8).getLsbD e.2.token = true) →
      exec (.wait f) s = .next (holdGang s s.cur .wait)) ∧
    (open_ ≤ nLoads → g.stores.length ≤ nStores → closedIncomplete s s.cur g ≤ nBatches →
      (∀ e ∈ s.copies, e.2.slot = s.cur → (f.imm.extractLsb' 0 8).getLsbD e.2.token = false) →
      let upto := g.openBatch - nBatches
      let raises := fun (d : Deferred) => match d.site with
        | .batch n => n < upto
        | .copy k _ => (f.imm.extractLsb' 0 8).getLsbD k = true
        | _ => False
      let retired := g.batches.filter fun b => decide (b.n < upto)
      (∀ a l r, past = a ++ l :: r → (∀ x ∈ a, x.poison = 0) → l.poison ≠ 0 →
        ∃ d : GFault, d.code = .poison ∧ d.tval = BitVec.ofNat 64 (l.poison.toNat + l.td * 2 ^ 32) ∧ d.logAddr = some l.addr ∧
          let g' := { g with loads := g.loads.map fun x => if x.id = l.id then { x with poison := 0 } else x }
          exec (.wait f) s = .next (takeFault (setGang s s.cur g') s.cur g' (formNum f.len) d)) ∧
      (∀ a d r, (∀ l ∈ past, l.poison = 0) → g.deferred = a ++ d :: r → (∀ x ∈ a, ¬ raises x) → raises d →
        let g' := { g with deferred := g.deferred.filter fun x => x != d }
        exec (.wait f) s = .next (takeFault (setGang s s.cur g') s.cur g' (formNum f.len) d.fault)) ∧
      ((∀ l ∈ past, l.poison = 0) → (∀ d ∈ g.deferred, ¬ raises d) →
        ∃ g', StepsTo (.wait f) s s g' ∧ g'.loads = g.loads.drop (g.loads.length - nLoads) ∧
          g'.batches = (g.batches.filter fun b => decide (upto ≤ b.n)) ∧
          g'.pending = agePending (g.pending.filter fun p => match p.kind with
            | .load id => past.all fun l => l.id != id
            | .batch n => decide (upto ≤ n)
            | _ => true) ∧
          (∀ j, g'.fpstat.getLsbD j = (g.fpstat.getLsbD j || retired.any fun b => b.flags.getLsbD j)) ∧
          (g'.vstat.extractLsb' 0 32).toNat
            = min ((g.vstat.extractLsb' 0 32).toNat + (retired.map (·.abandoned)).sum) (2 ^ 32 - 1) ∧
          (g'.vstat.extractLsb' 32 31).toNat
            = min ((g.vstat.extractLsb' 32 31).toNat + (retired.map (·.skipped)).sum) (2 ^ 31 - 1) ∧
          g'.vstat.getLsbD 63 = (g.vstat.getLsbD 63 || retired.any (·.order)) ∧
          (∀ a b, retired = a ++ [b] → g'.batchRetired = BitVec.ofNat 16 (b.n + 1)) ∧
          (retired = [] → g'.batchRetired = g.batchRetired) ∧
          g'.pc = nextPc g f.len ∧ g'.markCount = g.markCount + 1 ∧ g'.hold = none ∧
          kept g' = kept { g with loads := g'.loads, batches := g'.batches, fpstat := g'.fpstat, vstat := g'.vstat
                                  batchRetired := g'.batchRetired }))) ∧
  ∀ (s : State) (slot : Nat) (g : Gang), mapGet s.gangs slot = some g →
    (∀ a l r, g.loads = a ++ l :: r → (∀ x ∈ a, x.complete = true) → l.complete = false → l.late = [] →
      exec (.loadComplete slot) s
        = .next (setGang s slot { g with loads := a ++ { l with complete := true, remote := none } :: r })) ∧
    (∀ a l r, g.loads = a ++ l :: r → (∀ x ∈ a, x.complete = true) → l.complete = false →
      (∀ x ∈ l.late, ∀ k, RegName.ofSpec x.reg ≠ some (.s k) ∧ RegName.ofSpec x.reg ≠ some (.b k)) →
      l.late.Pairwise (fun x y => (x.thread, x.reg) ≠ (y.thread, y.reg)) →
      ∃ t g', exec (.loadComplete slot) s = .next t ∧ t = { s with gangs := t.gangs } ∧ mapGet t.gangs slot = some g' ∧
        (∀ k, k ≠ slot → mapGet t.gangs k = mapGet s.gangs k) ∧
        g' = { g with regs := g'.regs, loads := a ++ { l with complete := true, remote := none, late := [] } :: r } ∧
        (∀ x ∈ l.late, wordGet g'.regs (regKey x.thread x.reg) = x.value) ∧
        ∀ k, (∀ x ∈ l.late, k ≠ regKey x.thread x.reg) → wordGet g'.regs k = wordGet g.regs k) ∧
    (∀ x r, g.stores = x :: r → exec (.storeComplete slot) s = .next (setGang s slot { g with stores := r }))

namespace Sys2Proof.Claims

/-- The bay of the current gang. -/
def here (s : State) : Nat := bayOf s.cur

/-- The plane pair of the bay is free, or the gang's workgroup holds it (R265). -/
def PairFree (s : State) (g : Gang) : Prop := (unitOf s (here s)).claim = none ∨ (unitOf s (here s)).claim = some g.wg

/-- `i` hands `op` to the bay's unit, where there is one: it stands last in the queue, in the gang's open batch; the names in
`names` are pending until that batch retires; of the unit, the tiles become `tiles` and the claim the workgroup's where `claims`;
nothing else of the machine changes but descriptor copies with the lines and tokens that fetching them takes, the launch's record
of effects, and the gang's own bindings and seal (R41, R265, R268). -/
def HandsOver (i : Instr) (f : Fields) (s : State) (g : Gang) (op : Option MatOp) (names : List Name) (claims : Bool)
    (tiles : AMap Tile → Prop) (accs : AMap Nat) (seals : Bool) : Prop :=
  ∃ t g' u, exec i s = .next t ∧
    t = { s with gangs := t.gangs, matrix := t.matrix, descs := t.descs, launches := t.launches, l2 := t.l2, buckets := t.buckets
                 pools := t.pools, owed := t.owed, nextId := s.nextId + op.toList.length } ∧
    mapGet t.gangs s.cur = some g' ∧ (∀ k, k ≠ s.cur → mapGet t.gangs k = mapGet s.gangs k) ∧
    mapGet t.matrix (here s) = some u ∧ (∀ b, b ≠ here s → mapGet t.matrix b = mapGet s.matrix b) ∧
    u = { unitOf s (here s) with queue := (unitOf s (here s)).queue ++ op.toList, tiles := u.tiles, claim := u.claim } ∧
    (claims → u.claim = some g.wg) ∧ (claims = false → u.claim = (unitOf s (here s)).claim) ∧ tiles u.tiles ∧
    g'.accs = accs ∧ g'.sealed = (g.sealed || seals) ∧ (op.isSome → ∃ b ∈ g'.batches, b.n = g.openBatch) ∧
    kept g' = kept { g with accs := g'.accs, sealed := g'.sealed, batches := g'.batches } ∧
    Issued g g' (nextPc g f.len) (names.map fun n => ⟨n, .batch g.openBatch⟩)

/-- The gang holds as an interlock, its name `x` unbound, the plane pair claimed, and the tiles of the unit as `tiles` says (R31,
R267). -/
def HoldsForTile (i : Instr) (s : State) (g : Gang) (x : BitVec 10) (tiles : AMap Tile → Prop) : Prop :=
  ∃ t u, exec i s = .next t ∧
    t = { s with gangs := t.gangs, matrix := t.matrix, descs := t.descs, l2 := t.l2, buckets := t.buckets, pools := t.pools
                 owed := t.owed } ∧
    mapGet t.gangs s.cur = some { g with accs := mapErase g.accs x.toNat, hold := some .interlock } ∧
    (∀ k, k ≠ s.cur → mapGet t.gangs k = mapGet s.gangs k) ∧
    mapGet t.matrix (here s) = some u ∧ (∀ b, b ≠ here s → mapGet t.matrix b = mapGet s.matrix b) ∧
    u = { unitOf s (here s) with tiles := u.tiles, claim := some g.wg } ∧ tiles u.tiles

/-- The fields of an operation that every instruction of the unit gives it. -/
def opOf (kind : MatKind) (f : Fields) (s : State) (g : Gang) (m : Mask) : MatOp :=
  { MatOp.of kind f s.cur g [] with threads := m, seq := s.nextId }

/-- Some queued operation of the unit works on tile `k`. -/
def inUse (u : Matrix) (k : Nat) : Bool := u.queue.any fun o => o.tile == k

/-- `k` is the free tile of least number. -/
def FirstFree (u : Matrix) (k : Nat) : Prop := k < 16 ∧ mapGet u.tiles k = none ∧ ∀ j < k, mapGet u.tiles j ≠ none

/-- No tile is free. -/
def NoneFree (u : Matrix) : Prop := ∀ j < 16, mapGet u.tiles j ≠ none

/-- Every tile without a name is kept by a queued operation. -/
def RetiringInUse (u : Matrix) : Prop := ∀ j t, mapGet u.tiles j = some t → t.owner = none → inUse u j = true

/-- What is left of tile `j` when the name that tile `old` had goes: it retires while a queued operation works on it. -/
def leftOf (u : Matrix) (old j : Nat) : Option Tile :=
  if j = old then (if inUse u old then (mapGet u.tiles old).map fun x => { x with owner := none } else none) else mapGet u.tiles j

/-- The coordinates of the participating rows that lie in range (R184, R274). -/
def rowsOf (s : State) (g : Gang) (f : Fields) (d : Desc) : AMap (List Int) := rowCoords (lanes s g f d)

/-- The threshold of a verdict chain: 0, a register as it stands at issue, or a cell read when the unit begins (R279). -/
def Threshold (f : Fields) (s1 : State) (s : State) (g : Gang) (kind : ChainKind) (th : Word) (cell : Option (Desc × Nat)) :
    Prop :=
  match kind with
  | .plain | .sign => th = 0 ∧ cell = none
  | .gt => th = readReg s s.cur g 0 f.c ∧ cell = none
  | .topk => th = 0 ∧ ∃ d s2, (∀ x, cellAt s1 s.cur g f.c x = .go d s2) ∧ cell = some (d, f.c.toNat)

/-- An exact value, as a rational number, of a value that is neither a NaN nor an infinity. -/
def ratOf : FVal → Option ℚ
  | .fin n m e => some (exact n m e)
  | _ => none

end Sys2Proof.Claims

/-! ## The matrix unit -/

/-- R265, R267, R271, R273 to R276, R278 to R281, R283: MLDS hands the unit a load of the shadow plane; MACC and VACC an
accumulation into the tile that D is bound to; MACCZ and VACCZ bind D to the free tile of least number first, which starts at
+0, while the tile D had retires (where none is free, that one is taken as soon as no queued operation works on it, and until
then the gang holds), also where no thread participates; MDRN, MRD, VTEST, MSTO and TKINS hand over an operation on a bound tile
or a top-k structure. Binding whatever the mask, and discarding operations behind a faulted one, are the model's readings (log
entries 19 and 47). -/
def Obligations.MatrixOperationsAreQueued : Prop :=
  (∀ (f : Fields) (s s1 : State) (g : Gang) (d : Desc) (m : Mask), Ready 0x200 f s g → anyPart g f → Participating g f m →
     PairFree s g → unitFaulted g = false → d.layout ≠ 2 → Described f (memTd f) true s g s1 d →
     rowFault d (chunkSpan d) (chunkSpan d) (lanes s g f d) = none →
     HandsOver (.mlds f) f s g
       (some { opOf .mlds f s g m with desc := d, td := memTd f, hint := memHint f, coords := rowsOf s g f d,
                                       plane := 1 - (unitOf s (here s)).active })
       [] true (· = (unitOf s (here s)).tiles) g.accs false) ∧
  (∀ (f : Fields) (s s1 : State) (g : Gang) (d : Desc) (m : Mask) (th : Word) (cell : Option (Desc × Nat)) (k : Nat),
     anyPart g f → Participating g f m → PairFree s g → unitFaulted g = false →
     Described f (memTd f) true s g s1 d → rowFault d (chunkSpan d) (chunkSpan d) (lanes s g f d) = none →
     let unit := unitOf s (here s)
     let agrees := fun (kind : ChainKind) => planeAgrees (planeOf unit unit.active) g d (kind != .plain) = true
     let op := fun (kind : ChainKind) => some
       { opOf (if kind = .plain then .macc else .vacc) f s g m with
         desc := d, td := memTd f, hint := memHint f, coords := rowsOf s g f d, plane := unit.active, tile := k, chain := kind
         threshold := th, cell := cell, data := outStarts s g f d (lanes s g f d) }
     (∀ r ∈ [(0x203, Instr.macc f, ChainKind.plain), (0x244, .vaccSign f, .sign), (0x245, .vaccGt f, .gt),
         (0x246, .vaccTopk f, .topk)],
       Ready r.1 f s g → agrees r.2.2 → Threshold f s1 s g r.2.2 th cell →
       mapGet g.accs f.d.toNat = some k → (∃ t, mapGet unit.tiles k = some t ∧ t.kind = r.2.2) →
       HandsOver r.2.1 f s g (op r.2.2) [] true (· = unit.tiles) g.accs false) ∧
     (∀ r ∈ [(0x202, Instr.maccz f, ChainKind.plain), (0x240, .vacczSign f, .sign), (0x241, .vacczGt f, .gt),
         (0x242, .vacczTopk f, .topk)],
       Ready r.1 f s g → agrees r.2.2 → Threshold f s1 s g r.2.2 th cell →
       let binds := fun (left : Nat → Option Tile) =>
         HandsOver r.2.1 f s g (op r.2.2) [] true
           (fun tiles => ∀ j, mapGet tiles j = if j = k then some (Tile.fresh r.2.2 s.cur) else left j)
           (mapSet g.accs f.d.toNat k) false
       (mapGet g.accs f.d.toNat = none → FirstFree unit k → binds (mapGet unit.tiles)) ∧
       (mapGet g.accs f.d.toNat = none → NoneFree unit → HoldsForTile r.2.1 s g f.d (· = unit.tiles)) ∧
       ∀ old x, mapGet g.accs f.d.toNat = some old → mapGet unit.tiles old = some x → RetiringInUse unit →
         (FirstFree unit k → binds (leftOf unit old)) ∧
         (NoneFree unit → inUse unit old = false → old < 16 → k = old → binds (leftOf unit old)) ∧
         (NoneFree unit → inUse unit old = true →
           HoldsForTile r.2.1 s g f.d fun tiles => ∀ j, mapGet tiles j = leftOf unit old j))) ∧
  (∀ (f : Fields) (s : State) (g : Gang) (k : Nat), anyPart g f = false → PairFree s g →
     let unit := unitOf s (here s)
     ∀ r ∈ [(0x202, Instr.maccz f, ChainKind.plain), (0x240, .vacczSign f, .sign), (0x241, .vacczGt f, .gt),
         (0x242, .vacczTopk f, .topk)],
       Ready r.1 f s g → mapGet g.accs f.d.toNat = none → FirstFree unit k →
       HandsOver r.2.1 f s g none [] true
         (fun tiles => ∀ j, mapGet tiles j = if j = k then some (Tile.fresh r.2.2 s.cur) else mapGet unit.tiles j)
         (mapSet g.accs f.d.toNat k) false) ∧
  (∀ (f : Fields) (s s1 : State) (g : Gang) (m : Mask) (k : Nat), anyPart g f → Participating g f m → unitFaulted g = false →
     let same := fun tiles => tiles = (unitOf s (here s)).tiles
     (Ready 0x204 f s g → mapGet g.accs f.a.toNat = some k →
       HandsOver (.mdrn f) f s g
         (some { opOf .mdrn f s g m with tile := k, dst := f.d, column := 8 * (f.imm.extractLsb' 0 2).toNat })
         (destNames 0x204 f) false same g.accs false) ∧
     (Ready 0x206 f s g → mapGet g.accs f.a.toNat = some k →
       HandsOver (.mrd f) f s g (some { opOf .mrd f s g m with tile := k, dst := f.d, column := (f.imm.extractLsb' 0 5).toNat })
         (destNames 0x206 f) false same g.accs false) ∧
     (Ready 0x248 f s g → mapGet g.accs f.a.toNat = some k →
       (∃ t, mapGet (unitOf s (here s)).tiles k = some t ∧ t.kind ≠ .plain) →
       HandsOver (.vtest f) f s g
         (some { opOf .vtest f s g m with tile := k, dst := f.d, data := (parts g f).map fun t => (t, srcB f s g t) })
         (destNames 0x248 f) false same g.accs false) ∧
     (∀ d, Ready 0x205 f s g → mapGet g.accs f.c.toNat = some k → Described f (memTd f) true s g s1 d →
       storeRowLayout d = true → rowFault d (spanOf d.type) 32 (lanes s g f d) = none →
       let rows := rowsOf s g f d
       let items := rows.map fun e =>
         (⟨elemBit e.1, e.1, e.1, (d.rowSpan e.2 32).1, (d.rowSpan e.2 32).2, d.permCoord e.2, 0⟩ : Item)
       HandsOver (.msto f) f s g
         (some { opOf .msto f s g m with desc := d, td := memTd f, hint := memHint f, coords := rows, tile := k }) [] false same g.accs (storeSeals s g d (memTd f) items)) ∧
     (∀ d c cell s2, Ready 0x249 f s g → Described f (memTd f) false s g s1 d → topkDesc d = true →
       coordsAt s s.cur g f d 0 = some c → topkFault s s.cur d (some c) (m.setWidth 64) = none →
       (∀ x, cellAt s1 s.cur g f.d x = .go cell s2) →
       HandsOver (.tkins f) f s g
         (some { opOf .tkins f s g m with desc := d, td := memTd f, coords := [(0, c)], cell := some (cell, f.d.toNat)
                                          data := (parts g f).map fun t => (t, srcC f s g t) })
         [] false same g.accs true))

/-- R267, R268, R272, R277: MSWAP exchanges the planes once no MLDS handed to the unit before it issued is left, and holds until
then; MFENCE closes the open batch, and MREL frees a name. -/
def Obligations.PlaneSwapBatchCloseAndRelease : Prop :=
  ∀ (i : Instr) (f : Fields) (s : State) (g : Gang), condPasses g f.grd →
    let unit := unitOf s (here s)
    (i = .mswap f ∨ (∃ w, i = .mswapShort w ∧ f = expandShort 0x201 w) → Ready 0x201 f s g → PairFree s g →
      ((∃ o ∈ unit.queue, o.kind = .mlds ∧ o.seq < g.issuedAt) →
        exec i s = .next (holdGang (setUnit s (here s) { unit with claim := some g.wg }) s.cur .interlock)) ∧
      ((∀ o ∈ unit.queue, o.kind = .mlds → g.issuedAt ≤ o.seq) →
      ∃ t g', exec i s = .next t ∧ t = { s with gangs := t.gangs, matrix := t.matrix } ∧
        mapGet t.matrix (here s) = some { unit with active := 1 - unit.active, claim := some g.wg } ∧
        (∀ b, b ≠ here s → mapGet t.matrix b = mapGet s.matrix b) ∧
        mapGet t.gangs s.cur = some g' ∧ (∀ k, k ≠ s.cur → mapGet t.gangs k = mapGet s.gangs k) ∧
        kept g' = kept g ∧ Issued g g' (nextPc g f.len) [])) ∧
    (i = .mfence f ∨ (∃ w, i = .mfenceShort w ∧ f = expandShort 0x207 w) → Ready 0x207 f s g →
      closedIncomplete s s.cur g < 16 →
      ∃ g', StepsTo i s s g' ∧ g'.batchClosed = g.batchClosed + 1 ∧ g'.openBatch = g.openBatch + 1 ∧
        (∃ b ∈ g'.batches, b.n = g.openBatch) ∧ (∀ b ∈ g.batches, b ∈ g'.batches) ∧
        kept g' = kept { g with batches := g'.batches, openBatch := g'.openBatch, batchClosed := g'.batchClosed } ∧
        Issued g g' (nextPc g f.len) []) ∧
    (∀ k x, i = .mrel f → Ready 0x208 f s g → mapGet g.accs f.a.toNat = some k → mapGet s.matrix (here s) = some unit →
      mapGet unit.tiles k = some x →
      ∃ t g' u, exec i s = .next t ∧ t = { s with gangs := t.gangs, matrix := t.matrix } ∧
        mapGet t.gangs s.cur = some g' ∧ (∀ k, k ≠ s.cur → mapGet t.gangs k = mapGet s.gangs k) ∧
        mapGet g'.accs f.a.toNat = none ∧ (∀ j, j ≠ f.a.toNat → mapGet g'.accs j = mapGet g.accs j) ∧
        mapGet t.matrix (here s) = some u ∧ u = { unit with tiles := u.tiles } ∧
        mapGet u.tiles k = (if inUse unit k then some { x with owner := none } else none) ∧
        (RetiringInUse unit → ∀ j, j ≠ k → mapGet u.tiles j = mapGet unit.tiles j) ∧
        kept g' = kept { g with accs := g'.accs } ∧ Issued g g' (nextPc g f.len) []) ∧
    (i = .mrel f → Ready 0x208 f s g → mapGet g.accs f.a.toNat = none →
      ∃ g', StepsTo i s s g' ∧ kept g' = kept g ∧ Issued g g' (nextPc g f.len) [])

namespace Sys2Proof.Claims

/-- The oldest operation of the unit of a bay is `op`, of the gang `g` in a slot, and nothing of it has been fetched; `x` is its
tile (R269, R270). -/
def Heads (s : State) (bay slot : Nat) (g : Gang) (u : Matrix) (op : MatOp) (rest : List MatOp) : Prop :=
  mapGet s.gangs slot = some g ∧ mapGet s.matrix bay = some u ∧ u.queue = op :: rest ∧ op.slot = slot ∧
    op.fetched = [] ∧ op.sent = [] ∧ op.failed = [] ∧ g.batches.Pairwise fun a b => a.n < b.n

/-- What a batch holds of flags and counts until it retires (R268). -/
def batchOf (g : Gang) (n : Nat) : Batch := (g.batches.find? fun b => b.n == n).getD ⟨n, 0, 0, 0, false⟩

/-- Batch `n` of a gang gains flags, counts and a break of the order, and no other batch changes (R268). -/
def Gains (g g' : Gang) (n : Nat) (fl : FlagSet) (abandoned skipped : Nat) (order : Bool) : Prop :=
  let b := batchOf g n
  batchOf g' n = ⟨n, b.flags ||| fl, b.abandoned + abandoned, b.skipped + skipped, b.order || order⟩ ∧
    ∀ k, k ≠ n → batchOf g' k = batchOf g k

/-- The unit performs `op`, which leaves the queue: the next state is `s1` but for the gang, which is now `g'`, and the unit, which
is now `u'`; its batch gains what is said; a tile that has a name or another operation to serve stays as it is, but for the
operation's own (R267, R269). -/
def Performs (bay slot : Nat) (s s1 : State) (g : Gang) (u : Matrix) (op : MatOp) (rest : List MatOp) (g' : Gang) (u' : Matrix)
    (abandoned skipped : Nat) (order : Bool) : Prop :=
  ∃ t fl, exec (.matrixOpComplete bay slot) s = .next t ∧ t = { s1 with gangs := t.gangs, matrix := t.matrix } ∧
    mapGet t.gangs slot = some g' ∧ (∀ k, k ≠ slot → mapGet t.gangs k = mapGet s.gangs k) ∧
    mapGet t.matrix bay = some u' ∧ (∀ b, b ≠ bay → mapGet t.matrix b = mapGet s.matrix b) ∧
    u'.queue = rest ∧ u'.claim = u.claim ∧ u'.active = u.active ∧
    (∀ j y, j ≠ op.tile → mapGet u.tiles j = some y → y.owner.isSome ∨ inUse u' j → mapGet u'.tiles j = some y) ∧
    Gains g g' op.batch fl abandoned skipped order

/-- The flags of batch `n` have grown by those of `fl i` for the numbers below 32 · 32 that `p` picks. -/
def GainsFlags (g g' : Gang) (n : Nat) (p : Nat → Nat → Prop) (fl : Nat → Nat → FlagSet) : Prop :=
  ∀ j, (batchOf g' n).flags.getLsbD j = true ↔
    (batchOf g n).flags.getLsbD j = true ∨ ∃ r < 32, ∃ c < 32, p r c ∧ (fl r c).getLsbD j = true

/-- An element of a tile. -/
def elem (x : Tile) (r c : Nat) : Word := wordGet x.elems (tileKey r c)

/-- `out` is the element `w` of a tile, drained to an IEEE format (R139, R275). -/
def Drains (k : Fmt) (mode : Rounding) (w : Word) (out : Nat × FlagSet) : Prop :=
  (∀ v, v = 1 ∨ v = 2 → w = BitVec.ofNat 64 (fmtF64.abandoned v) → out = (k.abandoned v, 0)) ∧
  (isAbandoned64 w = false →
    (∀ n m e, fmtF64.value w.toNat = .fin n m e → Rounds k mode n (exact false m e : ℝ) out) ∧
    (∀ n, fmtF64.value w.toNat = .inf n → out = (k.signed n k.infMag, 0)) ∧
    ((fmtF64.value w.toNat).isNan = true → out = (k.nan, 0)))

/-- `out` is the verdict of element `w` of a tile (R281). -/
def VerdictIs (x : Tile) (w : Word) (out : BitVec 2) : Prop :=
  let v := fmtF64.value w.toNat
  let th := fmtF64.value x.threshold.toNat
  let decided := (x.kind = .sign ∨ x.kind = .gt) ∧ x.complete = true ∧ v.isNan = false ∧ th.isNan = false
  (w = BitVec.ofNat 64 (fmtF64.abandoned 2) → out = triT) ∧ (w = BitVec.ofNat 64 (fmtF64.abandoned 1) → out = triF) ∧
    (isAbandoned64 w = false → decided → out = if FVal.lt th v then triT else triF) ∧
    (isAbandoned64 w = false → ¬decided → out = triU)

/-- The rows that an operation reads are at hand: it goes on with `rows` from the state `s1`. -/
def RowsAre (s : State) (slot : Nat) (g : Gang) (op : MatOp) (coords : AMap (List Int)) (s1 : State) (rows : AMap Row) : Prop :=
  (∀ k, opRows s slot g op coords k = k s1 rows) ∧ rows.map (·.1) = coords.map (·.1) ∧ (rows.map (·.1)).Nodup ∧
    (∀ e ∈ rows, e.1 < 32) ∧ s1.gangs = s.gangs ∧ s1.matrix = s.matrix

/-- The values of a row of a descriptor, multiplied by its scale (R187). -/
def scaled (d : Desc) (r : Row) : List FVal := r.vals.map (FVal.scaleBy d.scale)

/-- What an operation streams past column `c` for row `r`: a chunk of the row and of the column, or a product of +0 for a row out of
range (R273, R274). -/
def chunkOf (p : Plane) (d : Desc) (rows : AMap Row) (r c : Nat) : List FVal × List FVal :=
  match mapGet rows r with
  | some row => (scaled d row, planeColumn p c row.vals.length)
  | none => ([FVal.zero], [FVal.zero])

/-- `ws` are the entries of a top-k structure in their order: SCORE descending, then ID ascending, −0 equal to +0 (R283). -/
def TopkSorted (l : List Nat) : Prop :=
  l.Pairwise fun a b =>
    let x := fmtF32.value (a % 2 ^ 32)
    let y := fmtF32.value (b % 2 ^ 32)
    FVal.lt y x = true ∨ (FVal.lt x y = false ∧ a / 2 ^ 32 ≤ b / 2 ^ 32)

/-- Insert of R283, on the entries of a structure of capacity `cap` and its threshold cell. -/
def TopkStep (cap : Nat) (w : Nat) (a b : List Nat × Nat) : Prop :=
  let v := fmtF32.value (w % 2 ^ 32)
  let last := (a.1.getLast?).getD 0
  let takes := fun (l : List Nat) => (b.1.Perm (l ++ [w])) ∧ TopkSorted b.1 ∧
    b.2 = if b.1.length = cap then (pickFloat fmtF32 false a.2 ((b.1.getLast?).getD 0 % 2 ^ 32)).1 else a.2
  (v.isNan = true → b = a) ∧
  (v.isNan = false → a.1.length < cap → takes a.1) ∧
  (v.isNan = false → cap ≤ a.1.length → FVal.lt (fmtF32.value (last % 2 ^ 32)) v = true → takes a.1.dropLast) ∧
  (v.isNan = false → cap ≤ a.1.length → FVal.lt (fmtF32.value (last % 2 ^ 32)) v = false → b = a)

/-- Insert for each of some entries, one at a time (R283). -/
def TopkRun (cap : Nat) : List Nat → List Nat × Nat → List Nat × Nat → Prop
  | [], a, b => a = b
  | w :: r, a, b => ∃ c, TopkStep cap w a c ∧ TopkRun cap r c b

end Sys2Proof.Claims

/-- R133, R134, R139, R142, R146 to R148, R185, R269, R271, R273 to R276, R280, R281, R283: the unit performs a gang's oldest
operation. A drain leaves the rounded elements of the tile in the registers from its destination, in the operation's threads;
VTEST leaves verdicts; MLDS fills the plane, with +0 in the columns that are not loaded; MACC adds a chunk to every element that
is not abandoned; VACC first decides elements at the boundary, unless the order is or has been broken (the rows of one VACC
stand at one boundary, log 65); MSTO writes the images of the rows and no other byte; TKINS applies the threads one at a time in
some order. The operation leaves the queue, and its batch holds the flags and counts. The order of lines in a sparse slot, no
write before the last fault check, and positions at and above 0xE0 of a headed line are the model's readings (log entries 16, 18
and 48). -/
def Obligations.UnitPerformsDrains : Prop :=
  ∀ (s : State) (bay slot : Nat) (g : Gang) (u : Matrix) (op : MatOp) (rest : List MatOp), Heads s bay slot g u op rest →
    let d := op.desc
    let part := fun r => op.threads.getLsbD r = true
    let mode := opMode op
    let src := Source.matrix slot
    let caches := fun (s1 : State) => s1 = { s with l2 := s1.l2, buckets := s1.buckets, pools := s1.pools, owed := s1.owed }
    (∀ x, mapGet u.tiles op.tile = some x → fmtOf (opTy op) ∈ ieee →
      ∀ n, (op.kind = .mdrn ∧ n = 8) ∨ (op.kind = .mrd ∧ n = 1) → op.column + n ≤ 32 →
      ∃ (g' : Gang) (u' : Matrix) (out : Nat → Nat → Nat × FlagSet), Performs bay slot s s g u op rest g' u' 0 0 false ∧ u'.planes = u.planes ∧
        (∀ r c, Drains (fmtOf (opTy op)) mode (elem x r c) (out r c)) ∧
        (∀ r < 32, ∀ q, wordGet g'.regs (regKey r q)
          = if part r ∧ (q - op.dst).toNat < n then BitVec.ofNat 64 (out r (op.column + (q - op.dst).toNat)).1
            else wordGet g.regs (regKey r q)) ∧
        GainsFlags g g' op.batch (fun r c => part r ∧ op.column ≤ c ∧ c < op.column + n) (fun r c => (out r c).2) ∧
        g' = { g with regs := g'.regs, batches := g'.batches }) ∧
    (∀ x, mapGet u.tiles op.tile = some x → op.kind = .vtest →
      ∃ (g' : Gang) (u' : Matrix) (out : Nat → BitVec 2), Performs bay slot s s g u op rest g' u' 0 0 false ∧ u'.planes = u.planes ∧
        (∀ r, VerdictIs x (elem x r (((mapGet op.data r).getD 0).toNat % 32)) (out r)) ∧
        (∀ r < 32, ∀ p < 8, getPred g' r p
          = if part r ∧ p = bits op.dst.toNat 0 3 then out r else getPred g r p) ∧
        GainsFlags g g' op.batch (fun _ _ => False) (fun _ _ => 0) ∧
        g' = { g with preds := g'.preds, batches := g'.batches }) ∧
    (∀ loc : Nat → Locus, d.layout ≠ 2 → (op.coords.map (·.1)).Nodup → (∀ e ∈ op.coords, e.1 < 32) →
      let span := chunkSpan d
      let bytes := fun (e : Nat × List Int) => bytesAt s (loc e.1)
      (∀ e ∈ op.coords, let r := d.rowSpan e.2 span
        0 < r.2 ∧ reach s slot g d (d.permCoord e.2) r.1 r.2 .read src = .ok (loc e.1) ∧ Local s (loc e.1)) →
      (d.headed = true → ∀ e ∈ op.coords, headerOk d (bytesToNat ((bytes e).take 16)) false = true) →
      ∃ s1 rows, RowsAre s slot g op op.coords s1 rows ∧ caches s1 ∧ ∀ e ∈ op.coords, ∃ row, mapGet rows e.1 = some row ∧
        row.vals.length = span ∧ (d.headed = true → row.header = bytesToNat ((bytes e).take 16)) ∧
        let body := if d.headed then (bytes e).drop 16 else bytes e
        ∀ i < span, row.vals[i]? = some
          (if i < d.below e.2 span then
            (if d.type.isBx then bxElement d.type (bytesToNat ((body.drop (i / 16 * blockBytes d.type)).take (blockBytes d.type))) (i % 16)
             else (fmtOf d.type).value (bytesToNat ((body.drop (i * unitBytes d.type)).take (unitBytes d.type))))
           else FVal.zero)) ∧
    (∀ s1 rows, op.kind = .mlds → RowsAre s slot g op op.coords s1 rows → op.plane < u.planes.length →
      (∀ e ∈ rows, e.2.vals.length ≤ 512) →
      ∃ (g' : Gang) (u' : Matrix) (p : Plane), Performs bay slot s s1 g u op rest g' u' 0 0 false ∧ g' = { g with batches := g'.batches } ∧
        u'.planes.length = u.planes.length ∧ u'.planes[op.plane]? = some p ∧
        (∀ j, j ≠ op.plane → u'.planes[j]? = u.planes[j]?) ∧
        p.filled = true ∧ p.ty = d.ty ∧ p.layout = d.layout ∧ p.scale = d.scale ∧ p.depth = chunkSpan d ∧ p.wg = g.wg ∧
        p.spoilt = none ∧
        (∀ c < 32, ∀ i < 512, wordGet p.elems (512 * c + i) = match (mapGet rows c).bind fun r => (scaled d r)[i]? with
          | some v => BitVec.ofNat 64 (fmtF64.roundVal .rne v).1
          | none => 0) ∧
        ∀ c < 32, mapGet p.bounds c = if d.headed then (mapGet rows c).map Row.bound else none) ∧
    (∀ s1 rows x, op.kind = .macc → RowsAre s slot g op op.coords s1 rows → mapGet u.tiles op.tile = some x →
      x.owner.isSome ∨ inUse { u with queue := rest } op.tile →
      let p := planeOf u op.plane
      let sum := fun r c => accumulate (elem x r c) (chunkOf p d rows r c).1 (chunkOf p d rows r c).2
      let adds := fun r c => ((mapGet rows r).isSome ∨ part r ∧ mapGet op.coords r = none) ∧ isAbandoned64 (elem x r c) = false
      ∃ (g' : Gang) (u' : Matrix) (x' : Tile), Performs bay slot s s1 g u op rest g' u' 0 0 false ∧ g' = { g with batches := g'.batches } ∧ u'.planes = u.planes ∧
        mapGet u'.tiles op.tile = some x' ∧ x' = { x with elems := x'.elems } ∧
        (∀ r < 32, ∀ c < 32, (adds r c → elem x' r c = (sum r c).1) ∧ (¬adds r c → elem x' r c = elem x r c)) ∧
        GainsFlags g g' op.batch adds fun r c => (sum r c).2) ∧
    (∀ s1 rows x, op.kind = .vacc → op.cell = none → mapGet u.tiles op.tile = some x →
      RowsAre s slot g op (op.coords.filter fun e => !rowAbandoned { x with threshold := op.threshold } e.1) s1 rows →
      (op.coords.map (·.1)).Nodup → (∀ e ∈ op.coords, part e.1) → x.owner.isSome ∨ inUse { u with queue := rest } op.tile →
      let p := planeOf u op.plane
      let bnd := fun c => (mapGet p.bounds c).getD 0
      let rises := ∃ e ∈ rows, (∃ old, mapGet x.lastEa e.1 = some old ∧ old < e.2.bound) ∨
        ∃ c < 32, ∃ old, mapGet x.lastEb c = some old ∧ old < bnd c
      let off := x.orderOff = true ∨ rises
      let key := tileKey
      let c0 := fun r => ((mapGet op.coords r).getD []).headD 0
      let verdict := fun r c (row : Row) => decideVerdict (elem x r c) row.bound (bnd c) d.scale p.scale
        (d.extents.headD 0 - (c0 r).toNat) ((mapGet x.chunks (key r c)).getD 0) ((mapGet x.emax (key r c)).getD 0)
        (fmtF64.value op.threshold.toNat) (op.chain == .topk)
      let decided := fun r c v => ¬off ∧ isAbandoned64 (elem x r c) = false ∧ ∃ row, mapGet rows r = some row ∧ verdict r c row = v ∧ v ≠ 0
      ∃ (g' : Gang) (u' : Matrix) (x' : Tile) (ab sk : Nat) (ord : Bool) (mid : Nat → Nat → Word),
        Performs bay slot s s1 g u op rest g' u' ab sk ord ∧ g' = { g with batches := g'.batches } ∧
        u'.planes = u.planes ∧ mapGet u'.tiles op.tile = some x' ∧ x'.kind = x.kind ∧ x'.owner = x.owner ∧
        x'.threshold = op.threshold ∧
        (∀ r < 32, ∀ c < 32, (∀ v, decided r c v → mid r c = BitVec.ofNat 64 (fmtF64.abandoned v)) ∧
          ((∀ v, ¬decided r c v) → mid r c = elem x r c)) ∧
        let dead := fun r => ∀ c < 32, isAbandoned64 (mid r c) = true
        let sum := fun r c => accumulate (mid r c) (chunkOf p d rows r c).1 (chunkOf p d rows r c).2
        let adds := fun r c => part r ∧ ¬dead r ∧ isAbandoned64 (mid r c) = false
        let beyond := ∃ e ∈ rows, ¬dead e.1 ∧ ∃ v ∈ e.2.vals, beyondBound e.2.bound v = true
        (∀ r < 32, ∀ c < 32,
          (adds r c → elem x' r c = (sum r c).1 ∧
            mapGet x'.chunks (key r c) = some ((mapGet x.chunks (key r c)).getD 0 + 1) ∧
            (∀ q : ℤ, ∀ y, ratOf (fmtF64.value (sum r c).1.toNat) = some y → 2 ^ q ≤ |y| → |y| < 2 ^ (q + 1) →
              mapGet x'.emax (key r c) = some (max ((mapGet x.emax (key r c)).getD 0) (q + 1022).toNat))) ∧
          (¬adds r c → elem x' r c = mid r c ∧ mapGet x'.chunks (key r c) = mapGet x.chunks (key r c) ∧
            mapGet x'.emax (key r c) = mapGet x.emax (key r c))) ∧
        (∀ r < 32, (∀ row, mapGet rows r = some row → ¬dead r → mapGet x'.lastEa r = some row.bound) ∧
          (mapGet rows r = none ∨ dead r → mapGet x'.lastEa r = mapGet x.lastEa r)) ∧
        (∀ c < 32, ((∃ e ∈ rows, ¬dead e.1) → mapGet x'.lastEb c = some (bnd c)) ∧
          ((∀ e ∈ rows, dead e.1) → mapGet x'.lastEb c = mapGet x.lastEb c)) ∧
        (x'.orderOff = true ↔ off ∨ beyond) ∧ (ord = true ↔ rises ∨ (¬off ∧ beyond)) ∧
        (x'.complete = true ↔ x.complete = true ∨ ∃ r < 32, part r ∧
          (if (mapGet op.coords r).isSome then c0 r else ((mapGet op.data r).getD 0).toInt) + chunkSpan d ≥ d.extents.headD 0) ∧
        (∃ l : List (Nat × Nat), l.Nodup ∧ (∀ q, q ∈ l ↔ q.1 < 32 ∧ q.2 < 32 ∧ ∃ v, decided q.1 q.2 v) ∧ ab = l.length) ∧
        (∃ l : List Nat, l.Nodup ∧ (∀ r, r ∈ l ↔ r < 32 ∧ part r ∧ dead r) ∧ sk = l.length) ∧
        GainsFlags g g' op.batch adds fun r c => (sum r c).2) ∧
    (∀ (x : Tile) (loc old : Nat → Locus), op.kind = .msto → mapGet u.tiles op.tile = some x → (op.coords.map (·.1)).Nodup →
      (∀ e ∈ op.coords, e.1 < 32 ∧ rowHasAbandoned op x e.1 e.2 = false) →
      (∀ r ∈ partialBlocks op, reach s slot g d r.c1 r.va r.size .write src = .ok (old r.thread) ∧ Local s (old r.thread)) →
      let before := fun (e : Nat × List Int) => if (partialBlocks op).any (·.thread == e.1) then bytesAt s (old e.1) else []
      let image := fun (e : Nat × List Int) => storeRow op x e.1 e.2 (before e)
      (∀ e ∈ op.coords, (image e).1 ≠ [] ∧
        reach s slot g d (d.permCoord e.2) (d.rowSpan e.2 32).1 (image e).1.length .write src = .ok (loc e.1) ∧
        Local s (loc e.1) ∧ Owned s g.wg (loc e.1) ∧ (cells (loc e.1)).Nodup) →
      op.coords.Pairwise (fun a b => ∀ q ∈ cells (loc a.1), q ∉ cells (loc b.1)) →
      ∃ (s1 : State) (g' : Gang) (u' : Matrix), Performs bay slot s s1 g u op rest g' u' 0 0 false ∧ u'.planes = u.planes ∧ g' = { g with batches := g'.batches } ∧
        s1 = { s with dram := s1.dram, spad := s1.spad, host := s1.host, poison := s1.poison, watch := s1.watch, l2 := s1.l2
                      buckets := s1.buckets, pools := s1.pools, owed := s1.owed } ∧
        (∀ e ∈ op.coords, bytesAt s1 (loc e.1) = (image e).1) ∧
        (∀ q, IsByte q → (∀ e ∈ op.coords, q ∉ cells (loc e.1)) → peek s1 q = peek s q) ∧
        (d.layout = 0 → fmtOf (opTy op) ∈ ieee → (opTy op).isBx = false → d.scale = 0 → ∀ e ∈ op.coords, ∃ out : Nat → Nat × FlagSet,
          (∀ c, Drains (fmtOf (opTy op)) mode (elem x e.1 c) (out c)) ∧
          (image e).1 = (List.range (d.below e.2 32)).flatMap fun c => natToBytes (unitBytes (opTy op)) (out c).1) ∧
        ∀ j, (batchOf g' op.batch).flags.getLsbD j = true ↔
          (batchOf g op.batch).flags.getLsbD j = true ∨ ∃ e ∈ op.coords, (image e).2.getLsbD j = true) ∧
    (∀ c cell idx l cap entries, op.kind = .tkins → op.coords = [(0, c)] → op.cell = some (cell, idx) → d.space = 1 →
      let cid := cellOf slot
      let place := fun n => (consecutive (d.locate c).addr n).map (permuteAddr d.perm (coord1 c))
      let struct := fun (s : State) n => (place n).map (spadByte s cid)
      let image := fun (l : List Nat) => natToBytes 8 (cap + l.length * 2 ^ 32) ++ natToBytes 8 0 ++ l.flatMap (natToBytes 8)
      1 ≤ cap → cap ≤ 64 → entries.length ≤ cap → (∀ e ∈ entries, e < 2 ^ 64 ∧ (fmtF32.value (e % 2 ^ 32)).isNan = false) →
      TopkSorted entries → struct s (image entries).length = image entries → op.threads ≠ 0 →
      (∀ a ∈ place (16 + 8 * cap), a < 0xE8000) →
      reach s slot g cell 0 cell.base 4 .atomic src = .ok l → Local s l → Owned s g.wg l → (cells l).Nodup → (cells l).length = 4 →
      (∀ a ∈ place (16 + 8 * cap), (2 + cid, a) ∉ cells l) →
      ∃ (s1 : State) (g' : Gang) (u' : Matrix) (ws entries' : List Nat) (cell' : Nat), Performs bay slot s s1 g u op rest g' u' 0 0 false ∧ u'.planes = u.planes ∧
        g' = { g with batches := g'.batches } ∧
        s1 = { s with dram := s1.dram, spad := s1.spad, host := s1.host, poison := s1.poison, watch := s1.watch, free := s1.free
                      l2 := s1.l2, buckets := s1.buckets, pools := s1.pools, owed := s1.owed } ∧
        ws.Perm ((threadsOf op.threads).map fun t => ((mapGet op.data t).getD 0).toNat) ∧
        TopkRun cap ws (entries, bytesToNat (bytesAt s l)) (entries', cell') ∧
        struct s1 (image entries').length = image entries' ∧ bytesAt s1 l = natToBytes 4 cell' ∧
        ∀ q, IsByte q → q ∉ cells l → (∀ a ∈ place (16 + 8 * cap), q ≠ (2 + cid, a)) → peek s1 q = peek s q)

/-- R137, R138, R146, R147: a chunk of finite products is added to a finite accumulator exactly and rounded once; a zero result
is −0 only where the accumulator and every product are zeros of negative sign; a NaN, a product of zero and infinity, or
infinities of opposite sign give the default NaN with NV (an accumulator that is a NaN too, log 17), and otherwise an infinity
gives itself. A verdict is below where the accumulator with its bound and slack is not above the threshold, above where it is
above without them and the chain is not TOPK, and none otherwise. -/
def Obligations.ChunkSumRoundsOnce : Prop :=
  (∀ (acc : Word) (xs ys : List FVal) (a : ℚ) (qs : List ℚ), ratOf (fmtF64.value acc.toNat) = some a →
    xs.length = ys.length → (∀ v ∈ xs ++ ys, ratOf v ≠ none) →
    qs.map some = List.zipWith (fun x y => ratOf (x.mul y)) xs ys →
    ∃ n m e, exact n m e = a + qs.sum ∧
      (a + qs.sum = 0 → (n = true ↔
        (fmtF64.value acc.toNat).isNeg = true ∧ ∀ p ∈ List.zipWith FVal.mul xs ys, p.isNeg = true ∧ p.isZero = true)) ∧
      accumulate acc xs ys = (BitVec.ofNat 64 (fmtF64.round .rne n m e).1, (fmtF64.round .rne n m e).2)) ∧
  (∀ (acc : Word) (xs ys : List FVal), xs.length = ys.length →
    let a := fmtF64.value acc.toNat
    let ps := List.zipWith FVal.mul xs ys
    let wrong := a.isNan = true ∨ ∃ q ∈ xs.zip ys, q.1.isNan = true ∨ q.2.isNan = true ∨ (q.1.isZero = true ∧ q.2.isInf = true) ∨
      (q.1.isInf = true ∧ q.2.isZero = true)
    let has := fun n => FVal.inf n ∈ a :: ps
    (wrong ∨ (has true ∧ has false) → accumulate acc xs ys = (BitVec.ofNat 64 fmtF64.nan, flagNV)) ∧
    ∀ n, ¬wrong → has n → ¬has (!n) → accumulate acc xs ys = (BitVec.ofNat 64 (fmtF64.signed n fmtF64.infMag), 0)) ∧
  (∀ (w : Word) (ea eb nrem j emax : Nat) (sa sb : Int) (t : FVal) (topk : Bool),
    let v := decideVerdict w ea eb sa sb nrem j emax t topk
    ((ratOf (fmtF64.value w.toNat) = none ∨ t.isNan = true ∨ ea = 255 ∨ eb = 255) → v = 0) ∧
    ∀ S, ratOf (fmtF64.value w.toNat) = some S → t.isNan = false → ea ≠ 255 → eb ≠ 255 →
      let bound : ℚ := if ea = 0 ∨ eb = 0 ∨ nrem = 0 then 0 else nrem * 2 ^ ((ea : ℤ) + eb - 254 + sa + sb)
      let slack : ℚ := j * 2 ^ ((emax : ℤ) - 1022 - 52)
      let below := AtMost (S + bound + slack : ℚ) t
      let above := topk = false ∧ ¬AtMost (S - bound - slack : ℚ) t
      (below → v = 1) ∧ (¬below → above → v = 2) ∧ (¬below → ¬above → v = 0))

namespace Sys2Proof.Claims

/-! ## Copies, barriers and rings -/

/-- `i` answers the next state `t`, in which the current gang is `g'` and every other gang is as it was. -/
def Leaves (i : Instr) (s t : State) (g' : Gang) : Prop :=
  exec i s = .next t ∧ mapGet t.gangs s.cur = some g' ∧ ∀ k, k ≠ s.cur → mapGet t.gangs k = mapGet s.gangs k

/-- No fault of an earlier copy waits for the gang (R293). -/
def NoLateCopy (g : Gang) : Prop := ∀ d ∈ g.deferred, ∀ k m, d.site ≠ .copy k m

/-- The first fault that an earlier copy has left the gang is raised instead of what `i` does (R293). -/
def RaisesCopy (i : Instr) (len : Form) (s : State) (g : Gang) : Prop :=
  ∀ a d r, g.deferred = a ++ d :: r → (∀ x ∈ a, ∀ k m, x.site ≠ .copy k m) → (∃ k m, d.site = .copy k m) →
    let g' := { g with deferred := g.deferred.filter fun x => x != d }
    exec i s = .next (takeFault (setGang s s.cur g') s.cur g' (formNum len) d.fault)

/-- The workgroup of the gang is resident and is not being saved, so a late fault reaches the gang (R297). -/
def Reportable (s : State) (g : Gang) : Prop :=
  g.ended = false ∧ ∃ w, mapGet s.workgroups g.wg = some w ∧ w.phase ≠ .saving ∧ w.phase ≠ .saved

/-- The MEM operand names the barrier at offset `a` of the issuing cell; `s1` is the state with the cell's descriptor copy
(R295). -/
def NamesBarrier (f : Fields) (s : State) (g : Gang) (s1 : State) (a : Nat) : Prop :=
  ∃ w d c, fetchDesc s s.cur g (memTd f) = .ok w s1 ∧ d = descOf w ∧ d.ok = true ∧ d.layout = 0 ∧ d.space = 1 ∧ d.type = .b64 ∧
    c = coordsFrom [] (memDisp f) (originAt s s.cur g f.a d.rank) ∧ inRange c d.extents = true ∧
    a = permuteAddr d.perm (coord1 c) (d.locate c).addr ∧ a % 16 = 0 ∧ a < 0xE8000

/-- PHASE of a barrier object (R294). -/
def phaseIn (x : Nat) : Nat := bits x 0 8
/-- OVR. -/
def ovrIn (x : Nat) : Nat := bits x 8 1
/-- SENT. -/
def sentIn (x : Nat) : Nat := bits x 9 1
/-- PARR. -/
def parrIn (x : Nat) : Nat := bits x 80 16
/-- NARR. -/
def narrIn (x : Nat) : Nat := bits x 64 16
/-- PBYTES. -/
def pbytesIn (x : Nat) : Nat := bits x 96 32
/-- MODE. -/
def modeIn (x : Nat) : Nat := bits x 62 2

/-- `y` holds these changing fields, and the configuration of `x` (R294). -/
def ObjectIs (x y phase ovr sent parr pbytes : Nat) : Prop :=
  phaseIn y = phase ∧ ovrIn y = ovr ∧ sentIn y = sent ∧ parrIn y = parr ∧ pbytesIn y = pbytes ∧ bits y 10 70 = bits x 10 70

/-- The number of a barrier in the table of arrived leaves. -/
def barKey (cell a : Nat) : Nat := 2 ^ 20 * cell + a

/-- Evaluate() at a barrier whose object now holds these fields (R296): it stays, flips, or, a leaf, arrives at its root; a
root that flips sends each arrived leaf its broadcast. -/
def Settles (s t : State) (cell a phase ovr sent parr pbytes : Nat) (d : Doer) : Prop :=
  let x := barGet s cell a
  let y := barGet t cell a
  let flipped := ObjectIs x y ((phase + 1) % 256) ovr sent (narrIn x) 0
  if parr ≠ 0 ∨ pbytes ≠ 0 ∨ (modeIn x = 1 ∧ sent = 1) then
    ObjectIs x y phase ovr sent parr pbytes ∧ t.broadcasts = s.broadcasts ∧ t.rootArrivals = s.rootArrivals ∧ t.leaves = s.leaves
  else if modeIn x = 0 then
    flipped ∧ t.broadcasts = s.broadcasts ∧ t.rootArrivals = s.rootArrivals ∧ t.leaves = s.leaves
  else if modeIn x = 1 then
    ObjectIs x y phase ovr 1 (narrIn x) 0 ∧ t.broadcasts = s.broadcasts ∧ t.leaves = s.leaves ∧
      t.rootArrivals = s.rootArrivals ++ [⟨cell, a, cell / 8 * 8 + bits x 59 3, bits x 40 16 * 16, d⟩]
  else modeIn x = 2 →
    flipped ∧ t.rootArrivals = s.rootArrivals ∧
      t.broadcasts = s.broadcasts ++ ((mapGet s.leaves (barKey cell a)).getD []).map (fun l => ⟨l.1, l.2, d⟩) ∧
      ∀ k, mapGet t.leaves k = if k = barKey cell a then none else mapGet s.leaves k

/-- Every byte but those of the barrier is as it was. -/
def OnlyObject (s t : State) (cell a : Nat) : Prop :=
  ∀ q, IsByte q → ¬(q.1 = 2 + cell ∧ a ≤ q.2 ∧ q.2 < a + 16) → peek t q = peek s q

/-- Of the machine, a barrier operation changes the gang, descriptor copies, which go through L2 (R190, R363), scratchpads and the
barrier tree's messages. -/
def OnlyBarriers (s t : State) : Prop :=
  t = { s with gangs := t.gangs, descs := t.descs, l2 := t.l2, buckets := t.buckets, pools := t.pools, owed := t.owed
               spad := t.spad, broadcasts := t.broadcasts, rootArrivals := t.rootArrivals, leaves := t.leaves }

/-- Of the machine, `t` differs from `s` in its gangs and in descriptor copies alone. -/
def OnlyGangsAndCopies (s t : State) : Prop :=
  t = { s with gangs := t.gangs, descs := t.descs, l2 := t.l2, buckets := t.buckets, pools := t.pools, owed := t.owed }

/-- BARRIER_OVERRUN as R297 reports it for an instruction of a gang. -/
def overrunOf (s : State) (g : Gang) (a : Nat) : Deferred :=
  ⟨.report, ⟨.barrierOverrun, BitVec.ofNat 64 (a + cellOf s.cur % 8 * 2 ^ 20), 1, false, some g.pc, 0⟩⟩

/-- The gang in the current slot, as the one responsible for what it does. -/
def self (s : State) (g : Gang) : Doer := ⟨g.vf, g.lslot, g.wg, s.cur, g.idx, none, g.pc⟩

/-- Ring RNUM of the issuing cell is initialised, and the workgroup's (R301). -/
def OwnsRing (f : Fields) (s : State) (g : Gang) (r : Ring) : Prop :=
  mapGet s.rings (16 * cellOf s.cur + bits f.imm.toNat 0 4) = some r ∧ r.wg = g.wg

/-- Slots of a ring in a state. -/
def slotsIn (r : Ring) (x : RingSlot) : Nat := (r.slots.filter fun y => y == x).length

/-- `i` turns ring RNUM into one that differs from `r` as `r'` does, apart from who waits for it; nothing else of the machine
changes but the gang. -/
def MovesRing (i : Instr) (f : Fields) (s : State) (r' : Ring) (g' : Gang) : Prop :=
  ∃ t ws, Leaves i s t g' ∧ t = { s with gangs := t.gangs, rings := t.rings } ∧
    ∀ k, mapGet t.rings k
      = if k = 16 * cellOf s.cur + bits f.imm.toNat 0 4 then some { r' with waiters := ws } else mapGet s.rings k

/-- A slot value: offset, index, counter (R300). -/
def slotWord (r : Ring) (k n : Nat) : Word := BitVec.ofNat 64 (r.base + k * r.size + k * 2 ^ 24 + n * 2 ^ 32)

/-- RRES and RACQ with the slot `k` at their pointer: `r'` is the ring after, D is the slot value with the count `n`, and the
.q predicate is true (R302, R304). -/
def TakesSlot (i : Instr) (opc : Nat) (f : Fields) (s : State) (g : Gang) (r r' : Ring) (k n : Nat) : Prop :=
  ∃ g', MovesRing i f s r' g' ∧
    (∀ t < 32, ∀ x, wordGet g'.regs (regKey t x)
      = if takesPart g f t ∧ x = f.d then slotWord r k n else wordGet g.regs (regKey t x)) ∧
    (∀ t < 32, ∀ p < 8, getPred g' t p
      = if f.imm.getLsbD 4 = true ∧ takesPart g f t ∧ p = bits f.c.toNat 0 3 then triT else getPred g t p) ∧
    kept g' = kept { g with regs := g'.regs, preds := g'.preds } ∧
    Issued g g' (nextPc g f.len)
      (pendD opc f 4 ++ if f.imm.getLsbD 4 then [⟨.pred (bits f.c.toNat 0 3), .distance 4⟩] else [])

/-- RRES and RACQ without a slot: .q leaves false in its predicate; otherwise the gang is held (R302). -/
def MissesSlot (i : Instr) (f : Fields) (s : State) (g : Gang) (r : Ring) : Prop :=
  (f.imm.getLsbD 4 = true → ∃ g', MovesRing i f s r g' ∧
    (∀ t < 32, ∀ p < 8, getPred g' t p
      = if takesPart g f t ∧ p = bits f.c.toNat 0 3 then triF else getPred g t p) ∧
    kept g' = kept { g with preds := g'.preds } ∧
    Issued g g' (nextPc g f.len) [⟨.pred (bits f.c.toNat 0 3), .distance 4⟩]) ∧
  (f.imm.getLsbD 4 = false →
    MovesRing i f s r { g with hold := some (.ring (cellOf s.cur) (bits f.imm.toNat 0 4)) })

/-- The lowest participating thread. -/
def Lowest (g : Gang) (f : Fields) (t : Nat) : Prop := t < 32 ∧ takesPart g f t ∧ ∀ u < t, takesPart g f u = false

/-- RCMT and RREL on slot `k`, in the state `want`: it becomes `new`, and the gang is sealed (R302, R322). -/
def ReturnsSlot (i : Instr) (f : Fields) (s : State) (g : Gang) (r : Ring) (k : Nat) (want new : RingSlot) : Prop :=
  (k < r.slots.length → r.slots[k]? = some want →
    ∃ g' slots, MovesRing i f s { r with slots := slots } g' ∧
      (∀ j, slots[j]? = if j = k then some new else r.slots[j]?) ∧
      kept g' = kept { g with sealed := true } ∧ Issued g g' (nextPc g f.len) []) ∧
  (k < r.slots.length → r.slots[k]? ≠ some want →
    Faults i s g f.len .ringOrder (BitVec.ofNat 64 (bits f.imm.toNat 0 4 + k * 2 ^ 4))) ∧
  (r.slots.length ≤ k →
    Faults i s g f.len .ringOrder (BitVec.ofNat 64 (bits f.imm.toNat 0 4 + k * 2 ^ 4 + 4 * 2 ^ 10)))

/-- The gangs of the workgroup that a GBAR of a level gathers beside the issuing one (R303). -/
def Gathered (s : State) (g : Gang) (level k : Nat) (h : Gang) : Prop :=
  mapGet s.gangs k = some h ∧ k ≠ s.cur ∧ h.wg = g.wg ∧ h.ended = false ∧ (level = 0 → bayOf k = bayOf s.cur)

/-- Arrivals of a gang at a level. -/
def arrivals (g : Gang) (level : Nat) : Nat := if level = 0 then g.gbar.1 else g.gbar.2

/-- The descriptors of a copy pass R288; `s2` is the state with their copies in the cell. -/
def CopyChecked (f : Fields) (s s2 : State) (g : Gang) (dd ds target : Desc) (bar : Option Nat) (scratch : Bool) : Prop :=
  (∃ w w' s1, fetchDesc s s.cur g (bits f.imm.toNat 21 10) = .ok w s1 ∧ descOf w = dd ∧ dd.ok = true ∧
    fetchDesc s1 s.cur g (bits f.imm.toNat 11 10) = .ok w' s2 ∧ descOf w' = ds ∧ ds.ok = true) ∧
  g.idx = ((nodeOf s g).map (·.producer)).getD 0 ∧ (∃ n p, partOf s g.vf = some (n, p) ∧ cellOf s.cur ∈ p.copy) ∧
  copyAgrees dd ds scratch = true ∧
  let dat := originAt s s.cur g f.a dd.rank
  let sat := originAt s s.cur g f.b ds.rank
  tileAligned dd dat = true ∧ tileAligned ds sat = true ∧ bar.getD 0 % 16 = 0 ∧ (dd.bmode = false → inRange dat dd.extents = true) ∧
  (ds.bmode = false → inRange sat ds.extents = true) ∧ copyPlace s2 target ds dat sat bar = none ∧
  (s.copies.filter fun e => e.2.slot == s.cur).length < 32

/-- `i` hands copy `c` to the engine and changes nothing else but the gang, descriptor copies, the launch's record of effects
(R374) and a ring. -/
def StartsCopy (i : Instr) (f : Fields) (s : State) (g : Gang) (c : Copy) (rings : AMap Ring → Prop) : Prop :=
  ∃ t g', Leaves i s t g' ∧
    t = { s with gangs := t.gangs, descs := t.descs, l2 := t.l2, buckets := t.buckets, pools := t.pools, owed := t.owed
                 launches := t.launches, copies := t.copies, rings := t.rings, nextId := s.nextId + 1 } ∧
    (∀ k, mapGet t.copies k = if k = s.nextId then some c else mapGet s.copies k) ∧ rings t.rings ∧
    kept g' = kept { g with sealed := g.sealed || c.bar.isSome || c.ring.isSome } ∧ Issued g g' (nextPc g f.len) []

/-- The place in a receiving cell of a place in a scratchpad (R291). -/
def inCell (k : Nat) : Locus → Locus
  | .scratch _ offs => .scratch k offs
  | l => l

/-- It is the turn of a copy: of its gang, no earlier copy on its token is outstanding, no earlier access waits in the matrix unit,
and no earlier load or store is outstanding (R204, R206). -/
def HasTurn (s : State) (id : Nat) (c : Copy) : Prop :=
  (∀ e ∈ s.copies, e.1 < id → e.2.slot = c.slot → e.2.token ≠ c.token) ∧
  (∀ m, mapGet s.matrix (bayOf c.slot) = some m → ∀ o ∈ m.queue, o.slot = c.slot → o.seq < id →
    o.kind = .mdrn ∨ o.kind = .mrd ∨ o.kind = .vtest) ∧
  ∀ g, mapGet s.gangs c.slot = some g → (∀ l ∈ g.loads, l.id < id → l.complete = true) ∧ ∀ x ∈ g.stores, id ≤ x.id

/-- The first `count` units of a copy's tile reach local places, in whose order the bytes pair up (R188, R289). -/
def TileReached (s : State) (c : Copy) (id : Nat) (d : Desc) (origin : List Int) (acc : Access) (count : Nat)
    (loc : Nat → Option Locus) : Prop :=
  ∀ (n : Nat) (u : TileUnit), n < count → (tileUnits d origin)[n]? = some u →
    match u.place with
    | none => loc n = none
    | some (a, c1) =>
      ∃ l, loc n = some l ∧ reach s (16 * c.cell) (copyGang c.vf c.lslot c.wg c.idx) d c1 a u.size acc (c.source s id) = .ok l ∧
        Local s l ∧ (cells l).length = u.size ∧ (∀ cell offs, l = .scratch cell offs → cell = c.cell ∧ ∀ o ∈ offs, o < 0xE8000)

/-- The cell that a copy is to write, and the receiving cells after it; none after its own cell, where it is no CPYM (R291). -/
def NextCell (s : State) (c : Copy) (k : Nat) (rest : List Nat) : Prop :=
  if c.mask = none then k = c.cell ∧ rest = [] else ((receivers s c).filter fun x => !c.counted.contains x) = k :: rest

/-- The fault of a copy (R293). -/
def copyFaultOf (c : Copy) (code : FaultCode) (detail : Nat) (source : Bool) : GFault :=
  let tval := 1 + (if source then c.srcTd else c.dstTd) * 2 ^ 32 + c.token * 2 ^ 42 + (if source then 2 ^ 45 else 0)
  ⟨code, BitVec.ofNat 64 tval, 1, false, some c.addr, detail⟩

/-- A copy leaves the engine, and its fault waits for its gang (R293). -/
def LeavesFault (s t : State) (id : Nat) (c : Copy) (g : Gang) (fl : GFault) : Prop :=
  t.copies = mapErase s.copies id ∧ ∀ k, mapGet t.gangs k = if k = c.slot then
    some { g with deferred := g.deferred ++ [⟨.copy c.token c.marks, fl⟩] } else mapGet s.gangs k

/-- The failures that a cause of COPY_FAULT stands for (R293). -/
def causes (why : CopyFailure) (code : FaultCode) : Prop :=
  (∃ n, why = .translation n) ∧ (code = .translation ∨ code = .protection ∨ code = .remoteReject)

end Sys2Proof.Claims

/-! ## Asynchronous instructions -/

/-- R286, R293 to R297, R304, R305: the barrier instructions, of which BWAIT and BTRY raise the fault that an earlier copy has left
instead; and what the barrier logic does of its own: an arrival at a root, a broadcast at a leaf, which comes before the operations
of its cycle, the report of an overrun. Which gang is responsible for an overrun of another cell is the model's reading (log
entry 51). -/
def Obligations.BarrierResults : Prop :=
  (∀ (f : Fields) (s : State) (g : Gang), anyPart g f →
    (Ready 0x285 f s g → RaisesCopy (.bwait f) f.len s g) ∧ (Ready 0x286 f s g → RaisesCopy (.btry f) f.len s g)) ∧
  (∀ (f : Fields) (s s1 : State) (g : Gang) (a : Nat), anyPart g f → NamesBarrier f s g s1 a →
    let cell := cellOf s.cur
    let x := barGet s cell a
    let cfg := (srcC f s g 0).toNat
    (Ready 0x282 f s g → bits cfg 16 24 = 0 → bits cfg 56 3 = 0 → bits cfg 62 2 ≠ 3 →
      (bits cfg 62 2 = 1 → bits cfg 40 16 * 16 < 0xE8000) →
      ∃ t g', Leaves (.binit f) s t g' ∧ OnlyBarriers s t ∧ OnlyObject s t cell a ∧
        ObjectIs (cfg / 2 ^ 40 * 2 ^ 40 + cfg % 2 ^ 16 * 2 ^ 64) (barGet t cell a) 0 0 0 (cfg % 2 ^ 16) 0 ∧
        kept g' = kept g ∧ Issued g g' (nextPc g f.len) []) ∧
    (Ready 0x283 f s g → pbytesIn x + cfg % 2 ^ 32 < 2 ^ 32 ∨ Reportable s g →
      let n := pbytesIn x + cfg % 2 ^ 32
      ∃ t g', Leaves (.bexp f) s t g' ∧ OnlyBarriers s t ∧ OnlyObject s t cell a ∧
        (n < 2 ^ 32 → ObjectIs x (barGet t cell a) (phaseIn x) (ovrIn x) (sentIn x) (parrIn x) n ∧ kept g' = kept g) ∧
        (2 ^ 32 ≤ n → ObjectIs x (barGet t cell a) (phaseIn x) 1 (sentIn x) (parrIn x) (2 ^ 32 - 1) ∧
          kept g' = kept { g with deferred := g.deferred ++ [overrunOf s g a] }) ∧
        Issued g g' (nextPc g f.len) []) ∧
    (Ready 0x284 f s g → parrIn x ≠ 0 ∨ Reportable s g →
      ∃ t g', Leaves (.barv f) s t g' ∧ OnlyBarriers s t ∧ OnlyObject s t cell a ∧
        (parrIn x ≠ 0 →
          Settles s t cell a (phaseIn x) (ovrIn x) (sentIn x) (parrIn x - 1) (pbytesIn x) (self s g) ∧
          g'.deferred = g.deferred) ∧
        (parrIn x = 0 →
          Settles s t cell a (phaseIn x) 1 (sentIn x) 0 (pbytesIn x) (self s g) ∧
          g'.deferred = g.deferred ++ [overrunOf s g a]) ∧
        (∀ t < 32, ∀ q, wordGet g'.regs (regKey t q)
          = if takesPart g f t ∧ q = f.d then BitVec.ofNat 64 (phaseIn x) else wordGet g.regs (regKey t q)) ∧
        kept g' = kept { g with regs := g'.regs, sealed := true, deferred := g'.deferred } ∧
        Issued g g' (nextPc g f.len) (pendD 0x284 f 4)) ∧
    (Ready 0x285 f s g → NoLateCopy g →
      ∃ t g', Leaves (.bwait f) s t g' ∧ OnlyGangsAndCopies s t ∧
        (phaseIn x ≠ cfg % 256 → kept g' = kept g ∧ Issued g g' (nextPc g f.len) []) ∧
        (phaseIn x = cfg % 256 → g' = { g with hold := some .barrier })) ∧
    (Ready 0x286 f s g → NoLateCopy g →
      ∃ t g', Leaves (.btry f) s t g' ∧ OnlyGangsAndCopies s t ∧
        (∀ t < 32, ∀ p < 8, getPred g' t p
          = if takesPart g f t ∧ p = bits f.d.toNat 0 3 then triOf (phaseIn x != cfg % 256) else getPred g t p) ∧
        kept g' = kept { g with preds := g'.preds } ∧ Issued g g' (nextPc g f.len) (pendD 0x286 f 4))) ∧
  (∀ (s : State) (r : RootArrival) (rest : List RootArrival), s.rootArrivals = r :: rest →
    r.rootOffset + 16 ≤ 2 ^ 20 →
    let x := barGet s r.rootCell r.rootOffset
    let key := barKey r.rootCell r.rootOffset
    let old := (mapGet s.leaves key).getD []
    parrIn x ≠ 0 → modeIn x = 2 → (r.leafCell, r.leafOffset) ∉ old →
    ∃ t, exec .barrierRootArrival s = .next t ∧ OnlyBarriers s t ∧ t.gangs = s.gangs ∧ OnlyObject s t r.rootCell r.rootOffset ∧
      Settles { s with rootArrivals := rest, leaves := mapSet s.leaves key (old ++ [(r.leafCell, r.leafOffset)]) } t
        r.rootCell r.rootOffset (phaseIn x) (ovrIn x) (sentIn x) (parrIn x - 1) (pbytesIn x) r.doer) ∧
  (∀ (s : State) (b : Broadcast) (before after : List Broadcast), s.broadcasts = before ++ b :: after →
    (∀ e ∈ before, e.cell ≠ b.cell) → b.offset + 16 ≤ 2 ^ 20 →
    let x := barGet s b.cell b.offset
    (∀ k, mapGet s.barTurn b.cell = some (s.acycle, k) → exec (.barrierBroadcast b.cell) s = .next s) ∧
    ((∀ k, mapGet s.barTurn b.cell ≠ some (s.acycle, k)) → ∃ t, exec (.barrierBroadcast b.cell) s = .next t ∧ OnlyBarriers s t ∧ t.gangs = s.gangs ∧ OnlyObject s t b.cell b.offset ∧
      Settles { s with broadcasts := before ++ after } t b.cell b.offset ((phaseIn x + 1) % 256) (ovrIn x) 0 (parrIn x)
        (pbytesIn x) b.doer)) ∧
  ∀ (s : State) (slot : Nat) (g : Gang) (fl : GFault) (a r : List Deferred), mapGet s.gangs slot = some g →
    g.deferred = a ++ ⟨.report, fl⟩ :: r → (∀ d ∈ a, d.site ≠ .report) →
    ∃ t, exec (.barrierOverrun slot) s = .next t ∧ t = { s with gangs := t.gangs } ∧
      ∀ k, mapGet t.gangs k = if k = slot then some { g with deferred := a ++ ⟨.next, fl⟩ :: r } else mapGet s.gangs k

/-- R293, R299 to R302, R304: RRES.init, RRES, RCMT, RACQ and RREL. RRES.init, RRES and RACQ raise the fault that an earlier copy
has left instead. Where the slot at RP is free and another gang was held before, RRES waits in its place of the order; that RRES.q
does so too, and is false only where the slot is not free, is the model's reading (log entry 50). -/
def Obligations.RingResults : Prop :=
  (∀ (f : Fields) (s : State) (g : Gang), anyPart g f →
    (Ready 0x287 f s g → RaisesCopy (.rresInit f) f.len s g ∧ RaisesCopy (.rres f) f.len s g) ∧
    (Ready 0x289 f s g → RaisesCopy (.racq f) f.len s g)) ∧
  ∀ (f : Fields) (s : State) (g : Gang), anyPart g f → NoLateCopy g →
    let num := bits f.imm.toNat 0 4
    let cell := cellOf s.cur
    let key := 16 * cell + num
    let cfg := (srcA f s g 0).toNat
    let size := bits cfg 12 12 * 128
    let base := bits cfg 0 12 * 256
    let slots := bits cfg 24 6 + 1
    let heldOn := fun (k : Nat) => ∃ h, mapGet s.gangs k = some h ∧ h.hold = some (.ring cell num)
    (Ready 0x287 f s g → f.imm.getLsbD 5 = true → cfg < 2 ^ 30 → 0 < size → size ≤ 512 * 128 → base + slots * size ≤ 0xE8000 →
      (∀ r, mapGet s.rings key = some r → r.wg = g.wg ∧ ∀ x ∈ r.slots, x = .free) →
      (∀ e ∈ s.gangs, e.1 ≠ s.cur → e.2.hold ≠ some (.ring cell num)) →
      ∃ g', MovesRing (.rresInit f) f s ⟨g.wg, base, size, List.replicate slots .free, 0, 0, []⟩ g' ∧
        kept g' = kept g ∧ Issued g g' (nextPc g f.len) []) ∧
    (∀ r, OwnsRing f s g r → Ready 0x287 f s g → f.imm.getLsbD 5 = false →
      (r.slots[r.rp]? = some .free → (∀ k ∈ r.waiters, k ≠ s.cur → ¬ heldOn k) →
        ∃ after, (∀ j, after[j]? = if j = r.rp then some .reserved else r.slots[j]?) ∧
          TakesSlot (.rres f) 0x287 f s g r { r with slots := after, rp := (r.rp + 1) % r.slots.length } r.rp
            (slotsIn r .free - 1)) ∧
      (∀ a k b, r.slots[r.rp]? = some .free → r.waiters = a ++ k :: b → (∀ j ∈ a, ¬ heldOn j) → heldOn k → k ≠ s.cur →
        MovesRing (.rres f) f s r { g with hold := some (.ring cell num) }) ∧
      (∀ x, r.slots[r.rp]? = some x → x ≠ .free → MissesSlot (.rres f) f s g r)) ∧
    (∀ r, OwnsRing f s g r → Ready 0x289 f s g →
      (r.slots[r.ap]? = some .filled →
        ∃ after, (∀ j, after[j]? = if j = r.ap then some .acquired else r.slots[j]?) ∧
          TakesSlot (.racq f) 0x289 f s g r { r with slots := after, ap := (r.ap + 1) % r.slots.length } r.ap
            (slotsIn r .filled - 1)) ∧
      (r.slots[r.ap]? ≠ some .filled → MissesSlot (.racq f) f s g r)) ∧
    (∀ r t, OwnsRing f s g r → Lowest g f t →
      (Ready 0x288 f s g → ReturnsSlot (.rcmt f) f s g r (bits (srcA f s g t).toNat 24 6) .reserved .filled) ∧
      (Ready 0x28A f s g → ReturnsSlot (.rrel f) f s g r (bits (srcA f s g t).toNat 24 6) .acquired .free))

/-- R287 to R293, R303: CPY and CPYM hand a tile copy to the engine, which in its turn moves the tile bit for bit, to one
receiving cell of a CPYM after another, counts its bytes there and commits its ring slot at the end. A copy that meets a translation failure
or poison in its turn, or whose remote side is lost, leaves its fault for its gang, or escalates where the gang has ended; GBAR
raises it, and completes once every other gang has arrived as often. That a copy reads its tile whole before it writes, unit by
unit, and the corners of tiles, are the model's readings (log entries 18 and 50). -/
def Obligations.CopyAndGangBarrierResults : Prop :=
  (∀ (f : Fields) (s s2 : State) (g : Gang) (dd ds : Desc), anyPart g f →
    let imm := f.imm.toNat
    let c := (srcC f s g 0).toNat
    let bar := if imm.testBit 7 then some (c % 2 ^ 20) else none
    let copy : Copy :=
      { slot := s.cur, vf := g.vf, lslot := g.lslot, wg := g.wg, idx := g.idx, cell := cellOf s.cur, token := bits imm 8 3
        dst := dd, src := ds, dstTd := bits imm 21 10, srcTd := bits imm 11 10
        dstAt := originAt s s.cur g f.a dd.rank, srcAt := originAt s s.cur g f.b ds.rank
        bar := bar, mask := none, ring := none, addr := g.pc, marks := g.marks, sent := [], fetched := [], data := none, counted := []
        written := [], hit := none, keys := [] }
    (Ready 0x280 f s g → (imm.testBit 7 → c < 2 ^ 20) → imm.testBit 6 = false → CopyChecked f s s2 g dd ds dd bar false →
      StartsCopy (.cpy f) f s g copy (· = s.rings)) ∧
    (∀ r, Ready 0x280 f s g → (imm.testBit 7 → c < 2 ^ 20) → imm.testBit 6 = true →
      let num := bits imm 2 4
      let key := 16 * cellOf s.cur + num
      mapGet s.rings key = some r → r.wg = g.wg → r.slots[r.rp]? = some .free → dd.tileBytes ≤ r.size →
      (∀ k ∈ r.waiters, k ≠ s.cur → ∀ h, mapGet s.gangs k = some h → h.hold ≠ some (.ring (cellOf s.cur) num)) →
      let target := { dd with base := r.base + r.rp * r.size }
      CopyChecked f s s2 g dd ds target bar true →
      StartsCopy (.cpy f) f s g { copy with dst := target, ring := some (num, r.rp) } fun rings =>
        ∃ r', (∀ k, mapGet rings k = if k = key then some r' else mapGet s.rings k) ∧
          (∀ j, r'.slots[j]? = if j = r.rp then some .reserved else r.slots[j]?) ∧ r'.rp = (r.rp + 1) % r.slots.length ∧
          r' = { r with slots := r'.slots, rp := r'.rp, waiters := r'.waiters }) ∧
    (Ready 0x281 f s g → imm.testBit 7 = true → imm.testBit 6 = false → bits c 20 12 = 0 → c < 2 ^ 40 →
      CopyChecked f s s2 g dd ds dd bar true →
      (bits c 32 8 ≠ 0 → StartsCopy (.cpym f) f s g { copy with mask := some (BitVec.ofNat 8 (bits c 32 8)) } (· = s.rings)) ∧
      (bits c 32 8 = 0 → ∃ t g', Leaves (.cpym f) s t g' ∧
        t = { s with gangs := t.gangs, descs := t.descs, l2 := t.l2, buckets := t.buckets, pools := t.pools, owed := t.owed
                     launches := t.launches } ∧
        kept g' = kept { g with sealed := true } ∧
        Issued g g' (nextPc g f.len) []))) ∧
  (∀ (s : State) (id : Nat) (c : Copy) (took put : Nat → Option Locus) (k : Nat) (rest : List Nat), mapGet s.copies id = some c →
    HasTurn s id c → c.sent = [] → c.fetched = [] → c.written = [] → c.hit = none → c.keys = [] → NextCell s c k rest →
    let us := tileUnits c.src c.srcAt
    let ud := tileUnits c.dst c.dstAt
    let size := c.src.tileBytes / us.length
    let bytes := fun n => match c.data, took n with
      | some l, _ => (l.drop (n * size)).take size
      | none, some x => bytesAt s x
      | none, none => List.replicate size 0
    (c.data = none → TileReached s c id c.src c.srcAt .read us.length took) →
    TileReached s c id c.dst c.dstAt .write ud.length put →
    (∀ l, c.data = some l → l.length = c.src.tileBytes ∧ ∀ (n : Nat) (u : TileUnit), us[n]? = some u → u.place = none →
      (l.drop (n * size)).take size = List.replicate size 0) →
    (c.mask ≠ none → c.dst.space = 1) → us.length = ud.length → (∀ u ∈ us ++ ud, u.size = size) →
    size * us.length = c.src.tileBytes → 0 < size → 0 < us.length →
    (∀ (n : Nat) (l : Locus), n < ud.length → put n = some l → (cells l).Nodup ∧
      (∀ cell offs, l = .scratch cell offs → ∀ o ∈ offs, ∀ b, c.bar = some b → o < b ∨ b + 16 ≤ o) ∧
      ∀ k < ud.length, k ≠ n → ∀ l', put k = some l' → ∀ q ∈ cells l, q ∉ cells l') →
    (∀ (u : TileUnit) (a c1 : Nat), u ∈ ud → u.place = some (a, c1) → matchBytes s c.vf false (consecutive a u.size) = none) →
    (∀ b, c.bar = some b → b + 16 ≤ 2 ^ 20 ∧ c.src.tileBytes ≤ pbytesIn (barGet s k b)) →
    ∃ t, exec (.copyComplete id) s = .next t ∧
      t = { s with copies := t.copies, dram := t.dram, spad := t.spad, host := t.host, poison := t.poison, l2 := t.l2
                   buckets := t.buckets, pools := t.pools, owed := t.owed, rings := t.rings, broadcasts := t.broadcasts
                   rootArrivals := t.rootArrivals, leaves := t.leaves } ∧
      (∀ (n : Nat) (l : Locus), n < ud.length → put n = some l → bytesAt t (inCell k l) = bytes n) ∧
      (∀ q, IsByte q → (∀ (n : Nat) (l : Locus), n < ud.length → put n = some l → q ∉ cells (inCell k l)) →
        (∀ b, c.bar = some b → ¬(q.1 = 2 + k ∧ b ≤ q.2 ∧ q.2 < b + 16)) → peek t q = peek s q) ∧
      (∀ b, c.bar = some b →
        let x := barGet s k b
        Settles s t k b (phaseIn x) (ovrIn x) (sentIn x) (parrIn x) (pbytesIn x - c.src.tileBytes)
          ⟨c.vf, c.lslot, c.wg, c.slot, c.idx, some c.token, c.addr⟩) ∧
      (∀ j, mapGet t.copies j = if j ≠ id then mapGet s.copies j else if rest = [] then none
        else some { c with data := some ((List.range us.length).flatMap bytes), counted := c.counted ++ [k] }) ∧
      (c.ring = none ∨ rest ≠ [] → t.rings = s.rings) ∧
      (∀ num n r, c.ring = some (num, n) → rest = [] → mapGet s.rings (16 * c.cell + num) = some r → r.slots[n]? = some .reserved →
        ∃ slots, (∀ j, slots[j]? = if j = n then some .filled else r.slots[j]?) ∧
          ∀ k, mapGet t.rings k = if k = 16 * c.cell + num then some { r with slots := slots } else mapGet s.rings k)) ∧
  (∀ (s : State) (id : Nat) (c : Copy) (source : Bool) (g : Gang), mapGet s.copies id = some c → mapGet s.gangs c.slot = some g →
    (if source then c.src else c.dst).space = 3 → (if source then c.src else c.dst).chip ≠ chipId s →
    let fl := copyFaultOf c .fabricLoss 0 source
    (g.ended = false →
      ∃ t, exec (.copyFault id .fabricLoss source) s = .next t ∧ LeavesFault s t id c g fl ∧
        t = { s with copies := t.copies, gangs := t.gangs, watch := t.watch } ∧
        (c.hit = none → t.watch = s.watch) ∧
        ∀ m, c.hit = some m → t.watch = s.watch ++ [⟨c.vf, 2, c.cell + c.token * 2 ^ 16, m.va, m.bytes, m.wps, s.clock⟩]) ∧
    (g.ended = true → c.hit = none →
      exec (.copyFault id .fabricLoss source) s
        = .next (takeFault { s with copies := mapErase s.copies id } c.slot g 0 { fl with escalates := true }))) ∧
  (∀ (s : State) (id : Nat) (c : Copy) (why : CopyFailure) (source : Bool), mapGet s.copies id = some c → ¬ HasTurn s id c →
    why ≠ .fabricLoss → exec (.copyFault id why source) s = .next s) ∧
  (∀ (s s' : State) (id : Nat) (c : Copy) (g : Gang) (why : CopyFailure) (took : Nat → Option Locus) (n k a c1 : Nat)
      (rest : List Nat) (u : TileUnit), mapGet s.copies id = some c → mapGet s.gangs c.slot = some g → g.ended = false →
    HasTurn s id c → c.sent = [] → c.fetched = [] → c.written = [] → c.hit = none → c.keys = [] → NextCell s c k rest →
    let source := c.source s id
    c.data = none → TileReached s c id c.src c.srcAt .read n took →
    (tileUnits c.src c.srcAt)[n]? = some u → u.place = some (a, c1) →
    let reached := reachUnit c.cell (copyGang c.vf c.lslot c.wg c.idx) c.src .read source s a c1 u.size
    (∀ code detail, causes why code → reached = .fail code detail s' →
      ∃ t, exec (.copyFault id why true) s = .next t ∧ LeavesFault s t id c g (copyFaultOf c code detail true) ∧
        t = { s with copies := t.copies, gangs := t.gangs, misses := (leaveFailed s source).misses
                     atsMisses := (leaveFailed s source).atsMisses, l2 := t.l2, buckets := t.buckets, pools := t.pools
                     owed := t.owed }) ∧
    (∀ p pas, why = .poison → reached = .ok (.device p pas) → pasPoisoned s p pas = true →
      ∃ t, exec (.copyFault id why true) s = .next t ∧ LeavesFault s t id c g (copyFaultOf c .poison 0 true) ∧
        t = { s with copies := t.copies, gangs := t.gangs, misses := (leaveFailed s source).misses
                     atsMisses := (leaveFailed s source).atsMisses, l2 := t.l2, buckets := t.buckets, pools := t.pools
                     owed := t.owed, free := t.free })) ∧
  (∀ (s s' : State) (id : Nat) (c : Copy) (g : Gang) (why : CopyFailure) (put : Nat → Option Locus) (n k a c1 : Nat)
      (rest : List Nat) (u : TileUnit) (code : FaultCode) (detail : Nat), mapGet s.copies id = some c →
    mapGet s.gangs c.slot = some g → g.ended = false → HasTurn s id c → c.sent = [] → c.fetched = [] → c.written = [] →
    c.hit = none → c.keys = [] → NextCell s c k rest → (∃ l, c.data = some l) →
    let source := c.source s id
    let ud := tileUnits c.dst c.dstAt
    (c.mask ≠ none → c.dst.space = 1) → (tileUnits c.src c.srcAt).length = ud.length →
    TileReached s c id c.dst c.dstAt .write n put → ud[n]? = some u → u.place = some (a, c1) →
    (∀ (u : TileUnit) (a c1 : Nat), u ∈ ud → u.place = some (a, c1) → matchBytes s c.vf false (consecutive a u.size) = none) →
    causes why code →
    reachUnit c.cell (copyGang c.vf c.lslot c.wg c.idx) c.dst .write source s a c1 u.size = .fail code detail s' →
    ∃ t, exec (.copyFault id why false) s = .next t ∧ LeavesFault s t id c g (copyFaultOf c code detail false) ∧
      t = { s with copies := t.copies, gangs := t.gangs, misses := (leaveFailed s source).misses
                   atsMisses := (leaveFailed s source).atsMisses, dram := t.dram, spad := t.spad, host := t.host
                   poison := t.poison, l2 := t.l2, buckets := t.buckets, pools := t.pools, owed := t.owed } ∧
      ∀ q, IsByte q → (∀ m l, m < n → put m = some l → q ∉ cells (inCell k l)) → peek t q = peek s q) ∧
  ∀ (i : Instr) (f : Fields) (s : State) (g : Gang), i = .gbar f ∨ (∃ w, i = .gbarShort w ∧ f = expandShort 0x28B w) →
    Ready 0x28B f s g → condPasses g f.grd →
    let level := bits f.imm.toNat 0 1
    let count := if level = 0 then (g.gbar.1 + 1, g.gbar.2) else (g.gbar.1, g.gbar.2 + 1)
    RaisesCopy i f.len s g ∧
    (NoLateCopy g → g.gbarIn = false → (∀ k h, Gathered s g level k h → arrivals g level < arrivals h level) →
      mapSorted s.gangs = true →
      ∃ g', StepsTo i s s g' ∧ kept g' = kept { g with gbar := count } ∧ Issued g g' (nextPc g f.len) []) ∧
    (NoLateCopy g → g.gbarIn = false → ∀ k h, Gathered s g level k h → arrivals h level ≤ arrivals g level →
      ∃ t, Leaves i s t { g with gbar := count, gbarIn := true, hold := some .gbar } ∧ t = { s with gangs := t.gangs }) ∧
    (NoLateCopy g → g.gbarIn = true → (∀ k h, Gathered s g level k h → arrivals g level ≤ arrivals h level) →
      mapSorted s.gangs = true →
      ∃ g', StepsTo i s s g' ∧ kept g' = kept { g with gbarIn := false } ∧ Issued g g' (nextPc g f.len) []) ∧
    (NoLateCopy g → g.gbarIn = true → ∀ k h, Gathered s g level k h → arrivals h level < arrivals g level →
      ∃ t, Leaves i s t { g with hold := some .gbar } ∧ t = { s with gangs := t.gangs })

namespace Sys2Proof.Claims

/-! ## Records and marks -/

/-- The words that thread `t` holds from register `x` on, for a record of a SIZE (R308). -/
def wordsAt (s : State) (g : Gang) (x : BitVec 10) (size t : Nat) : List Word :=
  (List.range (2 ^ (min size 2 + 1))).map fun k => readReg s s.cur g t (x + BitVec.ofNat 10 k)

/-- The header of a record as a queue holds it: DEPTH written, ENTRY and REMOTE cleared, JOIN inherited under .j (R308,
R312). -/
def carried (h : Word) (depth : Nat) (join : Option Nat) : Word :=
  let x := h &&& 0xFFFFE7FFFFFF0FFF ||| BitVec.ofNat 64 (depth % 16) <<< 12
  match join with
  | none => x
  | some j => x &&& 0xFFFFFF000000FFFF ||| BitVec.ofNat 64 (j % 2 ^ 24) <<< 16

/-- Thread `t` may emit words `w` (R309, R312). -/
def MayEmit (s : State) (g : Gang) (f : Fields) (t : Nat) (w : List Word) : Prop :=
  let h := (w.headD 0).toNat
  let node := bits h 0 12
  let here := nodeOfWg s g.wg
  ∃ n l, nodeOf s g = some n ∧ launchOf s g = some l ∧ node ∈ n.succs ∧ bits h 40 2 = Machine.sizeOf f ∧ bits h 45 3 = 0 ∧
    (l.nodes[node]?).map (·.rsize) = some (Machine.sizeOf f) ∧ (node = here → depthOf s g t + 1 ≤ n.rlimit)

/-- Every thread of .j has a live join, with room for the counts that the instruction adds (R312). -/
def MayJoin (s : State) (g : Gang) (f : Fields) : Prop :=
  isJoin f = true → ∀ t ∈ parts g f, ownJoin s g t ≠ 0 ∧
    ∃ j, liveJoin s g.vf g.lslot (ownJoin s g t) = some j ∧
      j.count + ((parts g f).filter fun u => ownJoin s g u == ownJoin s g t).length < 2 ^ 24

/-- The record that thread `t` places for words `w` (R308 to R312). -/
def placedWords (s : State) (g : Gang) (f : Fields) (t : Nat) (w : List Word) : List Word :=
  let node := bits (w.headD 0).toNat 0 12
  carried (w.headD 0) (if node = nodeOfWg s g.wg then depthOf s g t + 1 else 0)
    (if isJoin f then some (ownJoin s g t) else none) :: w.tail

/-- The join whose count a placement of thread `t` raises; 0 for none. -/
def raisedJoin (s : State) (g : Gang) (f : Fields) (t : Nat) : Nat := if isJoin f then ownJoin s g t else 0

/-- `i` places the emissions `items` of its threads. Blocking, it completes where every thread finds room in every order, the
threads having placed in some order; where no thread finds room it is held. Trying, the predicate C says who has placed
(R257, R310). `s1` is the state in which it begins to place, `one` how it places one emission. -/
def Emits (i : Instr) (f : Fields) (s s1 : State) (g : Gang) (one : PlaceOne) (items : AMap (List Emission)) (why : Hold)
    (queued : Bool) (ps : List Pending) : Prop :=
  let s0 := { s1 with free := s.free + items.length }
  let place := fun (x : State) (t : Nat) => placeAll one x t ((mapGet items t).getD [])
  let others := fun (t x : State) => ∀ k, k ≠ s.cur → mapGet t.gangs k = mapGet x.gangs k
  let leave := fun (x : State) => if queued then x.blocked.filter fun b => b.1 != s.cur else x.blocked
  let all := fun (order : List Nat) => order.foldl (fun (a : Bool × State) t => (a.1 && (place a.2 t).1, (place a.2 t).2)) (true, s0)
  let ordered := fun (order : List Nat) (x : State) => order.Perm (parts g f) ∧ all order = (true, x)
  let pred := ps ++ [⟨.pred (bits f.c.toNat 0 3), .distance 1⟩]
  ((∀ order : List Nat, order.Perm (parts g f) → ∃ (x : State) (h : Gang), all order = (true, x) ∧ mapGet x.gangs s.cur = some h) →
    ∃ order x h t g', ordered order x ∧ mapGet x.gangs s.cur = some h ∧ exec i s = .next t ∧
      mapGet t.gangs s.cur = some g' ∧ others t x ∧
      (isTry f = false → t = { x with gangs := t.gangs, blocked := leave x } ∧ kept g' = kept h ∧
        Issued g g' (nextPc g f.len) ps) ∧
      (isTry f = true → t = { x with gangs := t.gangs } ∧ kept g' = kept { h with preds := g'.preds } ∧
        (∀ u < 32, ∀ p < 8, getPred g' u p
          = if takesPart g f u ∧ p = bits f.c.toNat 0 3 then triT else getPred g u p) ∧
        Issued g g' (nextPc g f.len) pred)) ∧
  ((∀ e ∈ items, ∀ x ∈ e.2.head?, one s0 e.1 x = (false, s0)) →
    ∃ t g' h, exec i s = .next t ∧ mapGet s1.gangs s.cur = some h ∧ mapGet t.gangs s.cur = some g' ∧ others t s1 ∧
      (isTry f = false → t = { s0 with gangs := t.gangs, blocked := t.blocked } ∧
        g' = { h with emit := some items, hold := some why }) ∧
      (isTry f = true → t = { s0 with gangs := t.gangs } ∧ kept g' = kept { h with preds := g'.preds } ∧
        (∀ u < 32, ∀ p < 8, getPred g' u p
          = if takesPart g f u ∧ p = bits f.c.toNat 0 3 then triF else getPred g u p) ∧
        Issued g g' (nextPc g f.len) pred))

/-- The stack groups whose larders a record from stack group `t` tries, in order: its own, its partner, then the others from the
next one on (R72). -/
def tryOrder (groups : List Nat) (t : Nat) : List Nat :=
  (t :: (t ^^^ 1) :: (((List.range' 1 7).map fun k => (t + k) % 8).filter fun x => x ≠ t ^^^ 1)).filter (· ∈ groups)

/-- The larder lines charged to LQUOTA of a node's shard: its own, and those of the join entries of its continuations (R71, R83). -/
def chargedLines (s : State) (k : Nat) (l : Launch) (node stack : Nat) : Nat :=
  (shardOf l node stack).larder.length + (s.joins.filter fun e =>
    e.1 / 32768 == stack && e.2.vf == k / 64 && e.2.lslot == k % 64 && bits (e.2.words.headD 0).toNat 0 12 == node).length

/-- Cellar lines of a node over all its shards (R71). -/
def cellarLines (l : Launch) (node : Nat) : Nat :=
  ((l.shards.filter fun e => e.1 / 8 == node).map fun e => e.2.cellar.length).sum

/-- A record of node `node` from stack group `stack` stands in the launch's cellar line `x` of that shard, which it fills as its
last record; nothing else of the launch's queues changes (R71, R72). -/
def InCellar (s t : State) (k node stack : Nat) (x : CellarLine) (lines : List CellarLine) : Prop :=
  ∃ l l', mapGet s.launches k = some l ∧ mapGet t.launches k = some l' ∧
    (shardOf l' node stack).larder = (shardOf l node stack).larder ∧
    (shardOf l' node stack).cellar = lines ∧ x ∈ lines ∧
    ∀ n st, st < 8 → (n, st) ≠ (node, stack) → shardOf l' n st = shardOf l n st

/-- The emissions of an instruction, by thread. -/
def emissionsOf (g : Gang) (f : Fields) (e : Nat → List Emission) : AMap (List Emission) := (parts g f).map fun t => (t, e t)

/-- The reference of the join that thread `t` makes an arrival at: that of its record, unless it has arrived (R316). -/
def arrivalOf (s : State) (g : Gang) (t : Nat) : Option Nat :=
  match recordOf s g t with
  | none => none
  | some r => if r.arrived = true ∨ recJoin r.words = 0 then none else some (recJoin r.words)

/-- Arrivals that JARR makes at a reference: one for each record (R316). -/
def arrivalsAt (s : State) (g : Gang) (f : Fields) (ref : Nat) : Nat :=
  (((parts g f).filter fun t => arrivalOf s g t == some ref).map (recordNo s g)).dedup.length

/-- What the shelf holds of a gang under a recipe entry `e` (R319, R321). -/
def ShelfHolds (h : Shelf) (s : State) (g : Gang) (e : Nat) : Prop :=
  h.resume = codeBaseOf s g + bits e 0 32 ∧ h.sregs = g.sregs ∧ h.preds = g.preds ∧ h.conds = g.conds ∧ h.em = g.em ∧
    h.pm = g.pm ∧ h.fpstat = g.fpstat ∧ h.vstat = g.vstat ∧ h.batchClosed = g.batchClosed ∧
    h.batchRetired = g.batchRetired ∧
    (∀ k < bits e 40 4, ∀ t < 32, let x := BitVec.ofNat 10 (bits e (48 + 10 * k) 10)
      wordGet h.regs (regKey t x) = wordGet g.regs (regKey t x)) ∧
    (∀ k < 2, bits e (140 + 24 * k) 7 ≠ 0 →
      (256 * bits e (128 + 24 * k) 12, spadRead s (cellOf s.cur) (256 * bits e (128 + 24 * k) 12) (256 * bits e (140 + 24 * k) 7))
        ∈ h.spads) ∧
    (∀ k < bits e 208 3, (16 * bits e (224 + 16 * k) 16, spadRead s (cellOf s.cur) (16 * bits e (224 + 16 * k) 16) 16) ∈ h.bars) ∧
    (∀ k < 16, ∀ r, bits e (192 + k) 1 = 1 → mapGet s.rings (16 * cellOf s.cur + k) = some r → (k, r) ∈ h.rings) ∧
    ∀ k < 2, bits e (178 + 3 * k) 1 = 1 → ∀ n m x, mapGet g.accs (bits e (176 + 3 * k) 2) = some n →
      mapGet s.matrix (here s) = some m → mapGet m.tiles n = some x → (bits e (176 + 3 * k) 2, x) ∈ h.tiles

end Sys2Proof.Claims

/-! ## Records, joins and marks -/

/-- R308 to R316: EMIT, EMITH, EMITR, JINIT and JARR; R71, R72, R81: where a record goes. Unless another emitter blocked on the
node before, it goes to the larder of the first stack group in the order of R72 that has a free slot, or a line within LQUOTA;
otherwise to the cellar of its own shard, while CQUOTA allows a line. The own chip needs no link, a cellar line is written as its
record is placed, a join is counted with the arrivals of the same instruction, and a larder line of an earlier group goes before
a free slot in a cellar line: the model's readings (log entries 21, 22, 52 and 66). -/
def Obligations.RecordInstructionResults : Prop :=
  (∀ (f : Fields) (s : State) (g : Gang), anyPart g f → g.emit = none →
    let k := launchKey g.vf g.lslot
    let words := wordsAt s g f.a (Machine.sizeOf f)
    (Ready 0x2C0 f s g → (∀ t ∈ parts g f, MayEmit s g f t (words t)) → MayJoin s g f →
      Emits (.emit f) f s s g (placeEmit s.cur k)
        (emissionsOf g f fun t => [⟨placedWords s g f t (words t), raisedJoin s g f t, 0⟩]) .emission true []) ∧
    (∀ s1 w, Ready 0x2C1 f s g → fetchDesc s s.cur g (emithTd f) = .ok w s1 → (descOf w).ok = true →
      let d := descOf w
      let r := min d.rank 4
      let origin := fun t => (List.range r).map fun n => (readReg s s.cur g t (f.b + BitVec.ofNat 10 n)).toNat
      let part := fun t n => (origin t)[n]?.getD 0
      let handled := fun t =>
        let h := words t
        let lowWord := BitVec.ofNat 64 (emithTd f + part t 0 * 2 ^ 10 + part t 1 % 2 ^ 26 * 2 ^ 38)
        let highWord := BitVec.ofNat 64 (part t 1 / 2 ^ 26 + part t 2 * 2 ^ 2 + part t 3 * 2 ^ 30 +
          ((h[2]?).getD 0).toNat / 2 ^ 58 * 2 ^ 58)
        (h.headD 0 ||| 0x40000000000) :: lowWord :: highWord :: h.drop 3
      (∀ t ∈ parts g f, inRange ((origin t).map Int.ofNat) d.extents = true ∧ tileAligned d ((origin t).map Int.ofNat) = true ∧
        (∀ x ∈ origin t, x < 2 ^ 28) ∧ MayEmit s g f t (handled t)) → MayJoin s g f → Machine.sizeOf f ≠ 0 →
      Emits (.emith f) f s s1 g (placeEmit s.cur k)
        (emissionsOf g f fun t => [⟨placedWords s g f t (handled t), raisedJoin s g f t, 0⟩]) .emission true []) ∧
    (Ready 0x2C2 f s g →
      (∀ t ∈ parts g f, bits ((words t).headD 0).toNat 40 2 = Machine.sizeOf f ∧ bits ((words t).headD 0).toNat 45 3 = 0 ∧
        let chip := (readReg s s.cur g t f.b).toNat % 2 ^ 21
        (chip = chipId s ∨ (engineFor s g.vf chip).isSome)) →
      Emits (.emitr f) f s { s with launches := mapUpdate s.launches k fun l => { l with escaped := true } } g
        (placeRemote s.cur g.vf k)
        (emissionsOf g f fun t => [⟨carried ((words t).headD 0) 0 none :: (words t).tail, 0, readReg s s.cur g t f.b⟩])
        .window false []) ∧
    (Ready 0x2C3 f s g → (∀ t ∈ parts g f, MayEmit s g f t (words t) ∧ (readReg s s.cur g t f.b).toNat % 2 ^ 24 ≠ 0) →
      MayJoin s g f →
      Emits (.jinit f) f s s g (placeJoin s.cur k)
        (emissionsOf g f fun t => [⟨placedWords s g f t (words t), raisedJoin s g f t,
          BitVec.ofNat 64 ((readReg s s.cur g t f.b).toNat % 2 ^ 24 + f.d.toNat * 2 ^ 32)⟩]) .join true
        (pendD 0x2C3 f 1)) ∧
    (∀ w, Ready 0x2C4 f s g → g.lslot < 64 → mapGet s.workgroups g.wg = some w →
      (∀ t ∈ parts g f, ∀ ref, arrivalOf s g t = some ref →
        ∃ j, liveJoin s g.vf g.lslot ref = some j ∧ arrivalsAt s g f ref < j.count) →
      ∃ t g' w', Leaves (.jarr f) s t g' ∧
        t = { s with gangs := t.gangs, joins := t.joins, workgroups := t.workgroups } ∧
        (∀ ref < 2 ^ 24, ∀ j, liveJoin s g.vf g.lslot ref = some j →
          liveJoin t g.vf g.lslot ref = some { j with count := j.count - arrivalsAt s g f ref }) ∧
        mapGet t.workgroups g.wg = some w' ∧ w' = { w with records := w'.records } ∧
        (∀ k, k ≠ g.wg → mapGet t.workgroups k = mapGet s.workgroups k) ∧
        (∀ n, w'.records[n]? = if ∃ u ∈ parts g f, recordNo s g u = n ∧ arrivalOf s g u ≠ none then
          (w.records[n]?).map fun r => { r with arrived := true } else w.records[n]?) ∧
        kept g' = kept { g with sealed := g.sealed || (parts g f).any fun u => (arrivalOf s g u).isSome } ∧
        Issued g g' (nextPc g f.len) [])) ∧
  (∀ (s : State) (t slot k : Nat) (e : Emission), (∀ b ∈ s.blocked, b.2.1 = k → b.2.2 = bits (e.words.headD 0).toNat 0 12 → b.1 = slot) →
    (∀ u, placeRecord s k (stackOf (cellOf slot)) e.words = .put u →
      placeEmit slot k s t e = (true, sealGang (if e.join = 0 then u else joinRaise u e.join) slot)) ∧
    (placeRecord s k (stackOf (cellOf slot)) e.words = .full → placeEmit slot k s t e = (false, s))) ∧
  (∀ (s : State) (k stack : Nat) (w : List Word) (l : Launch) (n : Node), mapGet s.launches k = some l →
    let node := bits (w.headD 0).toNat 0 12
    let r : Rec := ⟨w, s.clock, s.nextId⟩
    let s0 := { s with nextId := s.nextId + 1 }
    let h := shardOf l node stack
    let cap := 8 / 2 ^ n.rsize
    let at_ := fun (line : Nat) => l.cellar + 128 * (line + if l.registered then 256 else 0)
    l.nodes[node]? = some n → stack < 8 →
    (∀ a x b u, tryOrder l.stackGroups stack = a ++ x :: b → (∀ y ∈ a, larderPlace s0 k node r y = none) →
      larderPlace s0 k node r x = some u → placeRecord s k stack w = .put u) ∧
    ((∀ y ∈ tryOrder l.stackGroups stack, larderPlace s0 k node r y = none) →
      (stack ∉ l.stackGroups → placeRecord s k stack w = .full) ∧
      (stack ∈ l.stackGroups → (∀ x ∈ h.cellar, cap ≤ x.recs.length) → n.cquota ≤ cellarLines l node →
        placeRecord s k stack w = .full) ∧
      (stack ∈ l.stackGroups → (∀ x ∈ h.cellar, cap ≤ x.recs.length) → cellarLines l node < n.cquota →
        ∃ line, (∀ e ∈ l.shards, ∀ x ∈ e.2.cellar, x.line ≠ line) ∧
          ∀ image u, cellarWrite s0 k (at_ line) 128 = .bytes image u → mapGet u.launches k = some l →
            ∃ t, placeRecord s k stack w = .put t ∧ t = { u with launches := t.launches } ∧
              InCellar u t k node stack ⟨line, image, [r]⟩ (h.cellar ++ [⟨line, image, [r]⟩])) ∧
      (∀ a x b, stack ∈ l.stackGroups → h.cellar = a ++ x :: b → (∀ y ∈ a, cap ≤ y.recs.length) → x.recs.length < cap →
        (∀ y ∈ a ++ b, y.line ≠ x.line) → ∀ x' u image v, cellarRead s0 k l x = .ok x' u → cellarWrite u k (at_ x.line) 128 = .bytes image v →
          x'.line = x.line → mapGet v.launches k = some l →
          ∃ t, placeRecord s k stack w = .put t ∧ t = { v with launches := t.launches } ∧
            InCellar v t k node stack ⟨x.line, image, x'.recs ++ [r]⟩ (a ++ ⟨x.line, image, x'.recs ++ [r]⟩ :: b)))) ∧
  (∀ (s : State) (k node stack : Nat) (r : Rec) (l : Launch) (n : Node), mapGet s.launches k = some l → l.nodes[node]? = some n →
    (larderPlace s k node r stack = none ↔ (∀ x ∈ (shardOf l node stack).larder, 8 / 2 ^ n.rsize ≤ x.recs.length) ∧
      (n.lquota ≤ chargedLines s k l node stack ∨ takeLine s (k / 64) stack 0 = none))) ∧
  (∀ (s s' : State) (vf stack lo line : Nat), takeLine s vf stack lo = some (line, s') →
    ∃ i p, partOf s vf = some (i, p) ∧ line / 2048 ∈ p.larder ∧ line / 32768 = stack ∧ lo ≤ line % 32768 ∧
      mapGet s.larder line = none ∧ (∀ j, mapGet s'.larder j = if j = line then some vf else mapGet s.larder j) ∧
      (1024 ≤ bucketOf s 6 (line / 2048) vf ∨ 1024 ≤ poolOf s 6 (line / 2048)) ∧
      s' = { s with larder := s'.larder, buckets := s'.buckets, pools := s'.pools }) ∧
  ∀ (s s' : State) (k node stack : Nat) (r : Rec) (l : Launch), mapGet s.launches k = some l → stack < 8 →
    larderPlace s k node r stack = some s' →
    s' = { s with launches := s'.launches, larder := s'.larder, buckets := s'.buckets, pools := s'.pools } ∧
    ∃ l', mapGet s'.launches k = some l' ∧ (∀ j, j ≠ k → mapGet s'.launches j = mapGet s.launches j) ∧
      ((shardOf l' node stack).larder.flatMap (·.recs)).Perm (r :: (shardOf l node stack).larder.flatMap (·.recs)) ∧
      (∀ n x, l.nodes[node]? = some n → x ∈ (shardOf l node stack).larder → x.recs.length < 8 / 2 ^ n.rsize →
        s'.larder = s.larder ∧ (shardOf l' node stack).larder.length = (shardOf l node stack).larder.length) ∧
      (shardOf l' node stack).cellar = (shardOf l node stack).cellar ∧
      ∀ n st, st < 8 → (n, st) ≠ (node, stack) → shardOf l' n st = shardOf l n st

/-- R255 to R257, R318, R321: BISECT emits both halves of each thread's interval; a mark captures the gang's kept state in its
shelf, unseals it and starts a new span, and with a live stack entry only issues. -/
def Obligations.BisectAndMarkResults : Prop :=
  (∀ (f : Fields) (s : State) (g : Gang), anyPart g f → g.emit = none → Ready 0x12A f s g →
    GoodIntervals f [(f.a, false)] s g → (∀ t ∈ parts g f, MayEmit s g f t (wordsAt s g f.b (Machine.sizeOf f) t)) →
    let half := fun t =>
      let b := bounds f s g t f.a
      let m := (fmt f).midpoint b.1 b.2
      (((fmt f).hull b.1 ((fmt f).value m.1)).1, ((fmt f).hull ((fmt f).value m.1) b.2).1, m.2)
    let record := fun t (x : Iv) =>
      let r := wordsAt s g f.b (Machine.sizeOf f) t
      let depth := if bits (r.headD 0).toNat 0 12 = nodeOfWg s g.wg then depthOf s g t + 1 else 0
      let w := carried (r.headD 0) depth none :: r.tail
      let at_ := bits f.imm.toNat 0 3
      let image := (List.range (ivRegs (tyOf f))).map (ivWord f x)
      (⟨w.take at_ ++ image ++ w.drop (at_ + image.length), 0, 0⟩ : Emission)
    ∃ flags : BitVec 64, (∀ j < 64, flags.getLsbD j = (g.fpstat.getLsbD j || (parts g f).any fun t => (half t).2.2.getLsbD j)) ∧
      Emits (.bisect f) f s { s with gangs := mapSet s.gangs s.cur { g with fpstat := flags } } g
        (placeEmit s.cur (launchKey g.vf g.lslot))
        (emissionsOf g f fun t => [record t (half t).1, record t (half t).2.1]) .emission true []) ∧
  ∀ (i : Instr) (f : Fields) (s : State) (g : Gang), i = .fbm f ∨ (∃ w, i = .fbmShort w ∧ f = expandShort 0x2C5 w) →
    Ready 0x2C5 f s g → condPasses g f.grd →
    (g.stack ≠ [] → Becomes i s g g (nextPc g f.len)) ∧
    (∀ n l e, g.stack = [] → nodeOf s g = some n → launchOf s g = some l →
      n.recipes.find? (fun x => bits x 32 8 == bits f.imm.toNat 0 8) = some e →
      recipeOk e l.codeSize (decide (g.idx = n.producer)) = true →
      (∀ k < bits e 40 4, ∀ r, RegName.ofSpec (BitVec.ofNat 10 (bits e (48 + 10 * k) 10)) = some r →
        ∀ p ∈ g.pending, p.name ≠ .reg r) →
      (∀ m, mapGet s.matrix (here s) = some m → ∀ o ∈ m.queue, ∀ a, mapGet g.accs a ≠ some o.tile) →
      ∃ g', StepsTo i s s g' ∧ ShelfHolds g'.shelf s g e ∧ g'.sealed = false ∧ g'.markCount = 0 ∧
        kept g' = kept { g with shelf := g'.shelf, sealed := false, noMark := false, marks := g.marks + 1
                                lastMark := BitVec.ofNat 8 (bits f.imm.toNat 0 8) } ∧
        g'.pc = nextPc g f.len ∧ g'.pending = agePending g.pending ∧ g'.hold = none)

namespace Sys2Proof.Claims

/-! ## Traps and system registers -/

/-- The gang `g'` stands in the trap entry of its node, for a fault with these fields at the instruction of `g` (R327,
R328); an instruction that had issued counts since the last mark (R323; log 61). -/
def InTrap (s : State) (g g' : Gang) (entry len kind : Nat) (code : BitVec 8) (tval : Word) : Prop :=
  g'.tcause = 0x8000000000000000 ||| BitVec.ofNat 64 len <<< 12 ||| BitVec.ofNat 64 kind <<< 8 ||| code.setWidth 64 ∧
  g'.tpc = BitVec.ofNat 64 g.pc ∧ g'.tpcEntry = BitVec.ofNat 64 g.pc ∧ g'.tval = tval ∧
  g'.tmask = g.pm.setWidth 64 <<< 32 ||| g.em.setWidth 64 ∧ g'.pc = (codeBaseOf s g + entry) % 2 ^ 57 ∧
  g'.trapDone = g.done ∧ g'.trapPoison = g.poisoned ∧ g'.done = 0 ∧ g'.hold = none ∧
  g'.markCount = g.markCount + (if g.charged then 1 else 0) ∧ g'.ready = s.acycle + 1 ∧
  (∀ p, p ∈ g'.pending ↔ p ∈ g.pending ∧ ∀ n, p.kind ≠ .distance n) ∧
  kept g' = kept { g with tcause := g'.tcause, tpc := g'.tpc, tpcEntry := g'.tpcEntry, tval := tval, tmask := g'.tmask
                          trapDone := g'.trapDone, trapPoison := g'.trapPoison, gbarIn := false, trapGbar := g.gbarIn }

/-- Of the machine, entering a trap changes the gang in the slot alone, which no longer waits for room or for a ring slot (R81,
R302). -/
def EntersTrap (s t : State) (slot : Nat) (g' : Gang) : Prop :=
  t = { s with gangs := t.gangs, blocked := s.blocked.filter fun b => b.1 != slot, rings := t.rings } ∧
  mapGet t.gangs slot = some g' ∧ (∀ k, k ≠ slot → mapGet t.gangs k = mapGet s.gangs k) ∧
  ∀ k, mapGet t.rings k = (mapGet s.rings k).map fun r => { r with waiters := r.waiters.filter fun x => x != slot }

/-- The drain state of a VF's status (R332, R404). -/
def vfDrain (s : State) (vf : Nat) : Nat :=
  let scope := fun (d : Option Drain) => d.getD .running
  let l := scope (mapGet s.drainVf vf) :: s.drainDevice :: ((partOf s vf).toList.map fun p => scope (mapGet s.drainPart p.1))
  if ∀ d ∈ l, d = .running then 0 else if .draining ∈ l then 1 else 2

/-- The contents of a system register (R332). -/
def systemValue (s : State) (g : Gang) (n : Nat) : Word :=
  match n with
  | 0 => g.fpstat
  | 1 => g.vstat
  | 2 => g.tcause
  | 3 => g.tpc
  | 4 => g.tval
  | 5 => g.tmask
  | 6 => (if g.sealed then 1 <<< 63 else 0) ||| (if g.noMark then 1 <<< 24 else 0) ||| g.lastMark.setWidth 64 <<< 16 |||
      BitVec.ofNat 64 (min g.markCount 0x1FFF)
  | _ => BitVec.ofNat 64 (2 * vfDrain s g.vf + if g.vf ∈ s.clamped then 1 else 0)

/-- The policy of a VF (R359). -/
def policyOf (s : State) (vf : Nat) : BitVec 64 := wordGet s.hreg (pageReg vf 0)

/-- PLATECTL. -/
def plateCtl (s : State) : BitVec 64 := wordGet s.hreg (pfReg 0x220)

/-- No entry of a queue is due: it has stopped, or neither a launch nor a packet that has ended stands at RP (R60). -/
def NothingDue (s : State) (vf q : Nat) : Prop :=
  ∀ x, mapGet s.queues (64 * vf + q) = some x → x.stopped = true ∨
    ((∀ e ∈ x.ended, e.packet ≠ x.rp.toNat) ∧ ∀ e ∈ s.launches, e.1 / 64 = vf → e.2.queue = q → e.2.packet ≠ x.rp.toNat)

end Sys2Proof.Claims

/-! ## System instructions and faults -/

/-- R330 to R333: TRAP, TRET, RDSR, WRSR, PLATE, BRK, and the release of a gang that BRK holds, which is ready from then on. BRK
retires and its gang is held after it, an instruction that had issued counts toward the next mark, and PC, EM and PM stand in words
1 to 3 of a plate record: the model's readings (log entries 46, 61 and 12). -/
def Obligations.SystemInstructionResults : Prop :=
  (∀ (i : Instr) (f : Fields) (s : State) (g : Gang), i = .trap f ∨ (∃ w, i = .trapShort w ∧ f = expandShort 0x300 w) →
    Ready 0x300 f s g →
    (condPasses g f.grd = false → Becomes i s g g (nextPc g f.len)) ∧
    (∀ n, condPasses g f.grd = true → g.tcause.getLsbD 63 = false → nodeOf s g = some n → n.trap ≠ 0xFFFFFFFF →
      ∃ t g', exec i s = .next t ∧ EntersTrap s t s.cur g' ∧
        InTrap s g g' n.trap (formNum f.len) 2 (0xF0 ||| (f.imm.extractLsb' 0 4).setWidth 8)
          (if f.a = 0 then 0 else srcA f s g 0))) ∧
  (∀ (i : Instr) (f : Fields) (s : State) (g : Gang), i = .tret f ∨ (∃ w, i = .tretShort w ∧ f = expandShort 0x301 w) →
    mapGet s.gangs s.cur = some g →
    (g.tcause.getLsbD 63 = false → Faults i s g f.len .illegalOpcode (encodingTval 0x301 f.len 0)) ∧
    (g.tcause.getLsbD 63 = true →
      let same := g.tpc = g.tpcEntry
      ∃ g', StepsTo i s s g' ∧ g'.em = g.tmask.setWidth 32 &&& g.pm ∧ g'.pc = (g.tpc &&& 0x1FFFFFFFFFFFFFC).toNat ∧
        g'.tcause = g.tcause &&& 0x7FFFFFFFFFFFFFFF ∧ g'.pending = agePending g.pending ∧
        (same → g'.done = g.trapDone ∧ g'.poisoned = g.trapPoison ∧ g'.gbarIn = g.trapGbar ∧
          (g'.skipWatch = true ↔ g.tcause.setWidth 8 = 0x26)) ∧
        (¬same → g'.done = 0 ∧ g'.poisoned = 0 ∧ g'.gbarIn = false ∧ g'.skipWatch = false) ∧
        kept g' = kept { g with em := g'.em, tcause := g'.tcause, trapDone := 0, trapPoison := 0, gbarIn := g'.gbarIn
                                trapGbar := false })) ∧
  (∀ (f : Fields) (s : State) (g : Gang), (f.imm.extractLsb' 0 8).toNat < 8 →
    (Ready 0x302 f s g →
      SetsUniform (.rdsr f) 0x302 f 2 s g (condPasses g f.grd) (systemValue s g (f.imm.extractLsb' 0 8).toNat) (nextPc g f.len)) ∧
    (Ready 0x303 f s g →
      let v := srcA f s g 0
      Becomes (.wrsr f) s g
        (if condPasses g f.grd then
          match (f.imm.extractLsb' 0 8).toNat with
          | 0 => { g with fpstat := (v.setWidth 6).setWidth 64 }
          | 1 => { g with vstat := v }
          | 3 => { g with tpc := (v.setWidth 57).setWidth 64 }
          | 4 => { g with tval := v }
          | _ => g
        else g) (nextPc g f.len))) ∧
  (∀ (i : Instr) (f : Fields) (s : State) (g : Gang), i = .plate f ∨ (∃ w, i = .plateShort w ∧ f = expandShort 0x304 w) →
    Ready 0x304 f s g →
    if condPasses g f.grd ∧ (policyOf s g.vf).getLsbD 44 = true ∧ (plateCtl s).getLsbD 7 = true ∧ (plateCtl s).getLsbD 0 = true then
      ∃ t g', Leaves i s t g' ∧ t = { s with gangs := t.gangs, hreg := t.hreg, plates := t.plates, platestat := t.platestat } ∧
        (∀ k, wordGet t.hreg k = if k = pfReg 0x220 then plateCtl s &&& ~~~0x80 else wordGet s.hreg k) ∧
        t.platestat = 1 <<< 60 ||| (BitVec.ofNat 57 s.clock).setWidth 64 ∧
        (∀ k < 8192, ∃ r ∈ t.plates, r.kind = 0 ∧ r.number = k ∧ ∀ h, mapGet s.gangs k = some h →
          r.words[1]? = some (BitVec.ofNat 64 h.pc) ∧ r.words[2]? = some (h.em.setWidth 64) ∧ r.words[3]? = some (h.pm.setWidth 64)) ∧
        kept g' = kept g ∧ Issued g g' (nextPc g f.len) []
    else Becomes i s g g (nextPc g f.len)) ∧
  (∀ (i : Instr) (f : Fields) (s : State) (g : Gang), i = .brk f ∨ (∃ w, i = .brkShort w ∧ f = expandShort 0x305 w) →
    Ready 0x305 f s g →
    (condPasses g f.grd = false ∨ (policyOf s g.vf).getLsbD 43 = false → Becomes i s g g (nextPc g f.len)) ∧
    (∀ n p, condPasses g f.grd = true → (policyOf s g.vf).getLsbD 43 = true → partOf s g.vf = some (n, p) →
      let reg := fun (x : State) o => (wordGet x.hreg (vfReg g.vf o)).toNat
      let base := bits (reg s 0x140) 12 45 * 4096
      let prod := reg s 0x148
      base + 4096 ≤ memorySize p → prod < 128 → (prod + 1) % 128 ≠ reg s 0x150 → (plateCtl s).getLsbD 7 = false →
      ∃ t g', Leaves i s t g' ∧
        t = { s with gangs := t.gangs, hreg := t.hreg, dram := t.dram, watchSeq := t.watchSeq, messages := t.messages
                     l2 := t.l2, buckets := t.buckets, pools := t.pools, owed := t.owed } ∧
        reg t 0x148 = (prod + 1) % 128 ∧ bytesToNat (paRead t p (base + 32 * prod + 16) 8) = g.pc % 2 ^ 64 ∧
        paRead t p (base + 32 * prod + 2) 1 = [f.imm.setWidth 8] ∧ t.messages = s.messages ++ [⟨some g.vf, 1⟩] ∧
        g'.hold = some .brk ∧ g'.pc = nextPc g f.len ∧ kept g' = kept g)) ∧
  ∀ (s : State) (slot : Nat) (g : Gang), mapGet s.gangs slot = some g → g.hold = some .brk →
    ∃ t, exec (.brkRelease slot) s = .next t ∧ t = { s with gangs := t.gangs } ∧
      ∀ k, mapGet t.gangs k = if k = slot then some { g with hold := none, ready := s.acycle } else mapGet s.gangs k

/-- R62, R328, R329, R375: a fault that neither resets the partition nor escalates enters the node's trap entry and changes
nothing but the gang; an instruction that had issued counts toward the next mark, which is the model's reading (log entry 61).
One in a handler, without a trap entry, of MARK_OVERDUE, or that its rule escalates, aborts the launch: no
gang or join entry of it is left, no event of SET is set, the fault is logged, and where no completion entry is due the launch
waits, aborted, for its place in the queue. -/
def Obligations.FaultEntryAndEscalation : Prop :=
  (∀ (s : State) (slot len : Nat) (g : Gang) (f : GFault) (n : Node), mapGet s.gangs slot = some g → nodeOf s g = some n →
     f.code.uncontained = false → f.escalates = false → f.code ≠ .markOverdue → g.tcause.getLsbD 63 = false →
     n.trap ≠ 0xFFFFFFFF → len < 4 →
     ∃ t g', takeFault s slot g len f = t ∧ EntersTrap s t slot g' ∧ InTrap s g g' n.trap len f.kind.toNat f.code.code f.tval) ∧
  (∀ (s : State) (slot len : Nat) (g : Gang) (f : GFault) (l : Launch), mapGet s.gangs slot = some g →
     f.code.uncontained = false → launchOf s g = some l → g.lslot < 64 → NothingDue s g.vf l.queue →
     f.escalates = true ∨ f.code = .markOverdue ∨ g.tcause.getLsbD 63 = true ∨ (∀ n, nodeOf s g = some n → n.trap = 0xFFFFFFFF) →
     let ours := fun (wg : Nat) => ∃ w, (wg, w) ∈ s.workgroups ∧ w.vf = g.vf ∧ w.lslot = g.lslot
     let part := partNo s g.vf
     ∃ t l', takeFault s slot g len f = t ∧ t.events = s.events ∧ t.queues = s.queues ∧ t.dram = s.dram ∧ t.voids = s.voids ∧
       t.host = s.host ∧
       (∀ e ∈ t.gangs, e ∈ s.gangs ∧ ¬ours e.2.wg) ∧ (∀ e ∈ s.gangs, ¬ours e.2.wg → e ∈ t.gangs) ∧
       (∀ e ∈ t.workgroups, e ∈ s.workgroups ∧ ¬(e.2.vf = g.vf ∧ e.2.lslot = g.lslot)) ∧
       (∀ e ∈ t.joins, e ∈ s.joins ∧ ¬(e.2.vf = g.vf ∧ e.2.lslot = g.lslot)) ∧
       mapGet t.launches (64 * g.vf + g.lslot) = some l' ∧ l'.phase = .aborted ∧ l'.faultCode = f.code.code ∧
       l'.faultSlot = slot ∧ l'.shards = [] ∧ l'.inbox = [] ∧
       l'.leaked = l.leaked + (s.joins.filter fun e => e.2.vf == g.vf && e.2.lslot == g.lslot).length ∧
       ∃ e, mapGet t.log part = some ((mapGet s.log part).getD [] ++ [e]) ∧ e.kind = 0 ∧ e.code = f.code.code ∧ e.vf = g.vf ∧
         e.lslot = g.lslot ∧ e.gslot = slot ∧ e.fence = l.fence ∧ e.addr = f.logAddr.getD g.pc ∧ e.tval = f.tval ∧ e.time = s.clock)

/-- R41, R96, R111: where the first name of an instruction that is pending, in the order D, A, B, C and guard, stands at some
place, the instruction has no effect but HAZARD, whose TVAL names it and the place; where none is pending the instruction is
ready. Before that, an origin whose span leaves its file gives BAD_REGISTER, the one at A first. An origin spans RANK registers
of its descriptor, as the bay sees it (log 45); while that waits on a translation, the instruction holds its gang. -/
def Obligations.PendingNamesTrapHazard : Prop :=
  ∀ (i : Instr) (opc : Nat) (f : Fields) (s : State) (g : Gang), wellFormed i = true →
    bodyOf i = .full opc f ∨ (∃ w, bodyOf i = .short opc w ∧ f = expandShort opc w) → mapGet s.gangs s.cur = some g →
    let roles := spanRoles s g opc f
    let leaves := fun (origin : Option Nat) (r : Role) (x : BitVec 10) => origin ≠ none ∧ r.names x = none
    let names := fieldNames roles f ++ [(4, guardNames opc f)]
    let waits := fun (n : Name) => ∃ p ∈ g.pending, p.name = n
    let code := fun (n : Name) => match n with
      | .reg r => r.spec.toNat
      | .pred k => k
      | .cond k => 8 + k
    (∀ u, rankAt s s.cur g opc f = .wait u → exec i s = .next { u with gangs := mapUpdate u.gangs s.cur fun h => { h with hold := some .miss } }) ∧
    (rankAt s s.cur g opc f = .known →
    (leaves (originA opc f) roles.2.1 f.a → Faults i s g f.len .badRegister (badRegisterTval f.a f.len 1)) ∧
    (¬leaves (originA opc f) roles.2.1 f.a → leaves (originB opc f) roles.2.2.1 f.b →
      Faults i s g f.len .badRegister (badRegisterTval f.b f.len 2)) ∧
    (¬leaves (originA opc f) roles.2.1 f.a → ¬leaves (originB opc f) roles.2.2.1 f.b →
      (∀ before place earlier n later rest, names = before ++ (place, earlier ++ n :: later) :: rest → waits n →
        (∀ e ∈ before, ∀ x ∈ e.2, ¬waits x) → (∀ x ∈ earlier, ¬waits x) →
        Faults i s g f.len .hazard (BitVec.ofNat 64 (code n + place * 2 ^ 12))) ∧
      ((∀ e ∈ names, ∀ x ∈ e.2, ¬waits x) → Ready opc f s g)))

namespace Sys2Proof.Claims

/-! ## Queues and launches -/

/-- The event happens: the next state is `t`, and of `s` only the fields that `u` takes over from `t` have changed. -/
def Happens (i : Instr) (s t u : State) : Prop := exec i s = .next t ∧ t = u

/-- A context's queue; one never written stands at Reset (R398). -/
def queueAt (s : State) (vf q : Nat) : Queue := (mapGet s.queues (64 * vf + q)).getD ⟨0, 0, 0, 0, 0, false, 0, [], []⟩

/-- Queue q of a context becomes `x`, and every other queue stays. -/
def QueueBecomes (s t : State) (vf q : Nat) (x : Queue) : Prop :=
  ∀ k, mapGet t.queues k = if k = 64 * vf + q then some x else mapGet s.queues k

/-- STATUS of a doorbell with the value w (R398, R400). -/
def statusOf (s : State) (vf q : Nat) (w : BitVec 32) : Nat :=
  let x := queueAt s vf q
  if x.qring.getLsbD 61 = false ∨ (wordGet s.hreg (pageReg vf (0x100 + 8 * q))).getLsbD 63 = false then 3
  else match partOf s vf with
    | none => 1
    | some (_, p) =>
      if vfDrain s vf ≠ 0 then 1
      else if partReady s p = false then 4
      else if (w - x.rp).toNat ≤ 2 ^ (x.qring.toNat % 32) ∧ (w - x.wp).toNat ≤ (w - x.rp).toNat then 0
      else 2

/-- A launch in flight of the context's queue is at none of the ends of R60. -/
def InFlight (l : Launch) : Prop := l.phase = .running ∨ l.phase = .starting

/-- A launch is idle (R59). -/
def Idle (s : State) (vf lslot : Nat) (l : Launch) : Prop :=
  l.phase = .running ∧ l.entries = [] ∧ (∀ e ∈ l.shards, shardRecs e.2 = []) ∧ l.inbox = [] ∧ l.unacked = 0 ∧
    (∀ e ∈ s.workgroups, ¬(64 * e.2.vf + e.2.lslot = 64 * vf + lslot)) ∧
    (l.registered = true → (wordGet s.events vf).getLsbD l.close = true)

end Sys2Proof.Claims

/-! ## Events of queues and launches -/

/-- R378, R396, R398 to R400: a doorbell moves WP or reports why not; EN starts a queue at packet 0 and clearing it keeps the
rest; RESUME clears STOPPED; EVSET and EVCLR change the bits they name, but no event set in the same cycle. BUSY, and what
QRING_ENABLE starts afresh, are the model's reading (log entry 53). -/
def Obligations.QueueAndEventRegisters : Prop :=
  (∀ (s : State) (vf q : Nat) (w : BitVec 32),
    let x := queueAt s vf q
    ∃ t y, Happens (.doorbell vf q w) s t { s with queues := t.queues, bellOrder := t.bellOrder } ∧ QueueBecomes s t vf q y ∧
      y = { x with wp := y.wp, dbstat := statusOf s vf q w, bells := y.bells } ∧
      y.wp = (if statusOf s vf q w = 0 then w else x.wp) ∧ (statusOf s vf q w ≠ 0 → y.bells = x.bells)) ∧
  (∀ (s : State) (vf q : Nat) (v : BitVec 64), v.getLsbD 61 = true →
    let x := queueAt s vf q
    let n := (v.extractLsb' 0 5).toNat
    if x.qring.getLsbD 61 = true ∨ (∃ e ∈ s.launches, e.1 / 64 = vf ∧ e.2.queue = q) ∨ n < 4 ∨ 16 < n then
      exec (.qringEnable vf q v) s = .next s
    else ∃ t, Happens (.qringEnable vf q v) s t { s with queues := t.queues } ∧
      QueueBecomes s t vf q { x with qring := v &&& 0xE1FFFFFFFFFFFF9F, rp := 0, wp := 0, sp := 0, ended := [], bells := [] }) ∧
  (∀ (s : State) (vf q : Nat) (v : BitVec 64), v.getLsbD 61 = false → (queueAt s vf q).qring.getLsbD 61 = true →
    ∃ t, Happens (.qringDisable vf q v) s t { s with queues := t.queues } ∧
      QueueBecomes s t vf q { queueAt s vf q with qring := (queueAt s vf q).qring &&& ~~~(1#64 <<< 61) }) ∧
  (∀ (s : State) (vf q : Nat),
    (∀ e ∈ (queueAt s vf q).ended, e.packet ≠ (queueAt s vf q).rp.toNat) →
    (∀ e ∈ s.launches, e.1 / 64 = vf → e.2.queue = q → e.2.packet ≠ (queueAt s vf q).rp.toNat) →
    ∃ t, Happens (.queueResume vf q) s t { s with queues := t.queues } ∧
      QueueBecomes s t vf q { queueAt s vf q with stopped := false }) ∧
  ∀ (s : State) (vf k : Nat) (m : BitVec 64), k < 4 →
    let named := fun (j : Nat) => decide (64 * k ≤ j) && decide (j < 64 * k + 64) && m.getLsbD (j - 64 * k)
    (∃ t, Happens (.eventSet vf k m) s t { s with events := t.events } ∧
      (∀ v, v ≠ vf → wordGet t.events v = wordGet s.events v) ∧
      ∀ j < 256, (wordGet t.events vf).getLsbD j = ((wordGet s.events vf).getLsbD j || named j)) ∧
    ∃ t, Happens (.eventClear vf k m) s t { s with events := t.events } ∧
      (∀ v, v ≠ vf → wordGet t.events v = wordGet s.events v) ∧
      ∀ j < 256, (wordGet t.events vf).getLsbD j
        = ((wordGet s.events vf).getLsbD j && !(named j && !(wordGet s.fresh vf).getLsbD j))

/-- R55 to R60: the only start candidate of a context starts in its lowest free launch slot, its WAIT events cleared under
CLEAR, and a launch that passes the checks of R57 runs; an entry record enters its shard as R58 stamps it, or blocks; an idle
launch frees its join entries, sets its events, and its completion entry is written at its place in the fence log. The code of a
failed scheduler access, a launch whose TAG another one in its start checks holds, and the reserve of a launch are the model's
readings (log entries 39, 67 and 34). The cellar region of the launch holds undefined bytes from then on (R73). -/
def Obligations.LaunchLifeEvents : Prop :=
  (∀ (s : State) (vf q k part : Nat) (p : Partition), (∀ e ∈ s.launches, e.1 / 64 = vf → e.2.phase ≠ .starting) →
    partOf s vf = some (part, p) → s.trip = false → mapGet s.startCycle vf ≠ some s.clock → q < 64 → vf ∉ s.atsEnabled →
    let idle := fun (x : Queue) => x.qring.getLsbD 61 = false ∨ x.stopped = true ∨ x.sp = x.wp
    let x := queueAt s vf q
    (∀ q' < 64, q' ≠ q → idle (queueAt s vf q')) → ¬idle x → x.qring.getLsbD 63 = true →
    let a := (x.qring.extractLsb' 7 50).toNat * 128 + 128 * (x.sp.toNat % 2 ^ (x.qring.toNat % 32))
    let packet := bytesToNat (hostRead s a 128)
    packetOk p packet = true → BitVec.ofNat 256 (bits packet 256 256) &&& ~~~(wordGet s.events vf &&& ~~~wordGet s.fresh vf) = 0 →
    k < 64 → mapGet s.launches (64 * vf + k) = none → (∀ j < k, mapGet s.launches (64 * vf + j) ≠ none) →
    ∃ u l, exec (.launchStart vf) s = .next (runChecks u (64 * vf + k)) ∧
      u = { s with queues := u.queues, events := u.events, startCycle := u.startCycle, descs := u.descs, launches := u.launches } ∧
      QueueBecomes s u vf q { x with sp := x.sp + 1 } ∧
      (∀ j, mapGet u.launches j = if j = 64 * vf + k then some l else mapGet s.launches j) ∧ l.phase = .starting ∧ l.queue = q ∧
      l.packet = x.sp.toNat ∧ l.fence = bits packet 32 32 ∧ l.image = bits packet 64 57 ∧ l.priority = bits packet 8 3 ∧
      l.started = s.clock ∧ l.sets = BitVec.ofNat 256 (bits packet 512 256) ∧
      (∀ v, wordGet u.events v = if v = vf ∧ packet.testBit 11 then
        wordGet s.events v &&& ~~~BitVec.ofNat 256 (bits packet 256 256) else wordGet s.events v) ∧
      ∀ e ∈ u.descs, e.1 % 2 ^ 20 / 1024 ≠ vf) ∧
  (∀ (s s1 s2 : State) (k base size : Nat) (l : Launch) (nodes : List Node) (list : List Byte) (recs : List (List Word)),
    mapGet s.launches k = some l → l.phase = .starting → readGraph s k l.image = .got (nodes, base, size) s1 →
    readImage s1 k l.entryBase (64 * l.entryCount) = .got list s2 → s2.launches = s.launches →
    (chunks 64 l.entryCount list).map (entryRecord nodes) = recs.map some →
    (nodes.map (·.cquota)).sum + (if l.registered then 256 else 0) ≤ l.cellarLines →
    (∀ st ∈ l.stackGroups, launchReserve nodes ≤ 16 * (entitledCells s2 (k / 64) st).length) →
    (l.registered = true → ∀ e ∈ s.launches, e.1 ≠ k → e.2.registered = true →
      e.2.phase = .running ∨ e.2.phase = .completing ∨ e.2.phase = .aborted → e.2.tag ≠ l.tag) →
    ∃ t, runChecks s k = t ∧ t = { s2 with launches := t.launches } ∧ ∀ j, mapGet t.launches j = if j = k then
      some { l with phase := .running, nodes := nodes, codeBase := base, codeSize := size, entries := recs } else mapGet s.launches j) ∧
  (∀ (s : State) (vf lslot : Nat) (l : Launch) (w : List Word) (rest : List (List Word)),
    let k := 64 * vf + lslot
    mapGet s.launches k = some l → l.phase = .running → l.entries = w :: rest → s.blocked = [] →
    let stack := (l.stackGroups[l.nextEntry % l.stackGroups.length]?).getD 0
    let record := ((w.headD 0 &&& 0xFFFFF70000000FFF) ||| 0x100000000000) :: w.tail
    (∀ u, placeRecord s k stack record = .put u →
      ∃ t, Happens (.entryEnqueue vf lslot) s t { u with launches := t.launches, blocked := t.blocked } ∧
        (∀ j, j ≠ k → mapGet t.launches j = mapGet u.launches j) ∧
        ∀ l', mapGet u.launches k = some l' →
          mapGet t.launches k = some { l' with entries := rest, nextEntry := l'.nextEntry + 1 }) ∧
    (placeRecord s k stack record = .full →
      exec (.entryEnqueue vf lslot) s
        = .next { s with blocked := [(8192 + 8 * k + stack, k, bits (w.headD 0).toNat 0 12)] })) ∧
  ∀ (s : State) (vf lslot : Nat) (l : Launch) (x : Queue), lslot < 64 → mapGet s.launches (64 * vf + lslot) = some l →
    Idle s vf lslot l → l.published = false → mapGet s.queues (64 * vf + l.queue) = some x → x.stopped = false → x.ended = [] →
    l.packet = x.rp.toNat → x.qring.getLsbD 63 = true → l.fence < 2 ^ 32 → vf ∉ s.atsEnabled →
    (∀ e ∈ s.launches, e.1 ≠ 64 * vf + lslot → e.1 / 64 = vf → e.2.queue = l.queue → InFlight e.2) →
    let leaked := (s.joins.filter fun e => e.2.vf == vf && e.2.lslot == lslot).length
    let a := (x.qlog.extractLsb' 4 53).toNat * 16 + 16 * (l.packet % 2 ^ (x.qring.toNat % 32))
    ∃ t, exec (.launchCompletion vf lslot) s = .next t ∧ t.gangs = s.gangs ∧ t.spad = s.spad ∧
      (∀ k, k / 128 ∉ regionLines s vf l → peek t (0, k) = peek s (0, k)) ∧
      (∃ n, ∀ x ∈ regionLines s vf l, mapGet t.voids x = some n) ∧
      mapGet t.launches (64 * vf + lslot) = none ∧
      (∀ k, k ≠ 64 * vf + lslot → mapGet t.launches k = mapGet s.launches k) ∧
      (∀ v, wordGet t.events v = if v = vf then wordGet s.events v ||| l.sets else wordGet s.events v) ∧
      (∀ e ∈ t.joins, ¬(e.2.vf = vf ∧ e.2.lslot = lslot)) ∧ QueueBecomes s t vf l.queue { x with rp := x.rp + 1 } ∧
      bytesToNat (hostRead t a 16) = l.fence + lslot * 2 ^ 32 + min (l.leaked + leaked) 0xFFFF * 2 ^ 96
        + min l.rejected 0xFFFF * 2 ^ 112 ∧
      (∀ b, b < a ∨ a + 16 ≤ b → wordGet t.host b = wordGet s.host b) ∧
      t.messages = s.messages ++ if x.qring.getLsbD 62 then [⟨some vf, 0⟩] else []

namespace Sys2Proof.Claims

/-! ## Workgroups -/

/-- The word that a per-thread record puts into register `x` of thread `th` of gang `idx` (R69). -/
def threadWord (n : Node) (records : List WgRec) (idx th x : Nat) : Word :=
  if n.binding = 0 then ((records[32 * idx + th]?).bind (·.words[x]?)).getD 0 else 0

/-- The word that a per-gang or per-workgroup record puts into s register `x` of gang `idx` (R69). -/
def gangWord (n : Node) (records : List WgRec) (idx x : Nat) : Word :=
  if n.binding = 0 then 0 else ((records[if n.binding = 1 then idx else 0]?).bind (·.words[x]?)).getD 0

/-- EM of gang `idx` at launch (R69). -/
def EmAtLaunch (n : Node) (records : List WgRec) (idx : Nat) (em : Mask) : Prop :=
  ∀ th < 32, em.getLsbD th = if n.binding = 0 then decide (32 * idx + th < records.length)
    else n.binding ≠ 1 || decide (idx < records.length)

/-- Gang `idx` of a workgroup as it is launched (R27, R69, R76). -/
def LaunchedGang (l : Launch) (n : Node) (w : Workgroup) (wg idx : Nat) (g : Gang) : Prop :=
  let pc := (l.codeBase + n.entry) % 2 ^ 57
  g = { Gang.launched w.vf w.lslot wg idx pc pc g.em with
    regs := g.regs, sregs := g.sregs, launchFault := w.launchFault, ready := g.ready } ∧
  EmAtLaunch n w.records idx g.em ∧
  (∀ th < 32, ∀ x < 1024, wordGet g.regs (1024 * th + x) = threadWord n w.records idx th x) ∧
  ∀ x, wordGet g.sregs x = gangWord n w.records idx x

/-- The slots are distinct free slots of the cell, one for each of `count` gangs. -/
def FreeSlots (s : State) (cell count : Nat) (slots : List Nat) : Prop :=
  slots.length = count ∧ slots.Nodup ∧ ∀ k ∈ slots, k / 16 = cell ∧ mapGet s.gangs k = none

/-- Reading the cellar lines of a shard, each as the scheduler wrote it, leaves `s1` (R73, R342, R363). -/
def CellarRead (s s1 : State) (k : Nat) (l : Launch) (lines : List CellarLine) : Prop :=
  readLines s k l lines = (lines, none, s1) ∧
    s1 = { s with l2 := s1.l2, buckets := s1.buckets, pools := s1.pools, owed := s1.owed, misses := s1.misses
                  walkCache := s1.walkCache }

/-- The prefetch of the tile of gang `j` under entry `e`, where the cell holds a copy of the descriptor that the record's handle
names (R67, R76): the tile's bytes go to offset `off`, or no byte where a check fails with `bad`; `td` is the index. -/
def TileComes (s : State) (wg : Nat) (w : Workgroup) (e j off td : Nat) (bytes : List Byte) (bad : Option FaultCode) : Prop :=
  let words := ((w.records[j]?).map (·.words)).getD []
  let h := bits e 12 3
  let handle := ((words[1 + h]?).getD 0).toNat + ((words[2 + h]?).getD 0).toNat * 2 ^ 64
  ∃ list, td = handle % 1024 ∧ mapGet s.descs (2 ^ 20 * w.cell + 1024 * w.vf + td) = some list ∧
    let d := descOf list
    let c : List Int := (List.range d.rank).map fun i => if i < 4 then ((handle / 2 ^ (10 + 28 * i) % 2 ^ 28 : Nat) : Int) else 0
    let outside := d.bmode = false ∧ inRange c d.extents = false
    let far := off + d.tileBytes > 0xE8000 ∨ unitsFar d (tileUnits d c) = true
    off = 256 * (e % 2 ^ 12) + j * d.tileBytes ∧
    match bad with
    | some code => (d.ok = false ∧ code = .tdInvalid) ∨ (d.ok = true ∧ outside ∧ code = .coordRange) ∨
        (d.ok = true ∧ ¬outside ∧ tileAligned d c = false ∧ code = .align) ∨
        (d.ok = true ∧ ¬outside ∧ tileAligned d c = true ∧ far ∧ code = .protection)
    | none => d.ok = true ∧ ¬outside ∧ tileAligned d c = true ∧ ¬far ∧ ∃ loc : Nat → Option Locus,
        (∀ (n : Nat) (u : TileUnit), (tileUnits d c)[n]? = some u → match u.place with
          | none => loc n = none
          | some (a, c1) => ∃ l, loc n = some l ∧ Local s l ∧
              reach s (16 * w.cell) (copyGang w.vf w.lslot wg j) d c1 a u.size .read (.copy wg) = .ok l) ∧
        bytes = (tileUnits d c).zipIdx.flatMap fun x => match loc x.2 with
          | some l => bytesAt s l
          | none => List.replicate x.1.size 0

/-- The references whose arrivals the end of a workgroup makes, each live in its turn (R84). -/
def ArrivalsLive (s : State) (k : Nat) (refs : List Nat) : Prop :=
  ∀ i, ∀ ref, refs[i]? = some ref →
    (liveJoin ((refs.take i).foldl (fun s r => joinArrive s k r) s) (k / 64) (k % 64) ref).isSome

/-- `l` are as many save slots of a VF as a workgroup has gangs, none of them held by another workgroup, and `rlc` is their
class, that of the VF's policy; a gang whose restore waits still holds its own (R371, R382). -/
def SlotsAside (s : State) (vf gangs : Nat) (l : List Nat) (rlc : Nat) : Prop :=
  rlc = ((wordGet s.hreg (pageReg vf 0)).extractLsb' 45 2).toNat ∧ l.length = gangs ∧ l.Nodup ∧
  ∀ k ∈ l, k < ((wordGet s.hreg (pageReg vf (0x40 + 8 * rlc))).extractLsb' 0 16).toNat ∧
    ∀ e ∈ s.workgroups, e.2.vf = vf → (e.2.saveClass = rlc → k ∉ e.2.saveSlots) ∧ ∀ x ∈ e.2.keptSlots, x.2.1 = rlc → x.2.2 ≠ k

/-- Pre-emption has become pending for the running workgroups that `mine` names, and for no other; it is acted on where save
slots are set aside or enough are free (R379, R382). -/
def Requested (s t : State) (mine : Nat → Workgroup → Prop) : Prop :=
  t = { s with workgroups := t.workgroups } ∧ (∀ k, mapGet s.workgroups k = none → mapGet t.workgroups k = none) ∧
  ∀ k w, mapGet s.workgroups k = some w → ∃ w', mapGet t.workgroups k = some w' ∧
    (¬(mine k w ∧ w.phase = .running ∧ w.preempt = false) → w' = w) ∧
    (mine k w → w.phase = .running → w.preempt = false →
      w' = { w with preempt := true, preempted := s.clock, acted := w'.acted, saveSlots := w'.saveSlots, saveClass := w'.saveClass } ∧
      ((w'.saveSlots = w.saveSlots ∧ w'.saveClass = w.saveClass ∧
          ((w.saveSlots ≠ [] ∧ w'.acted = true) ∨
            (w'.acted = w.acted ∧ (w.acted = true ∨ (w.saveSlots = [] ∧ takeSlots t w.vf w.slots.length = none))))) ∨
        (w.saveSlots = [] ∧ w'.acted = true ∧ SlotsAside s w.vf w.slots.length w'.saveSlots w'.saveClass)))

/-- A gang that resumes from its last mark, or from its entry where it has passed none (R324). -/
def ResumedGang (l : Launch) (n : Node) (w : Workgroup) (wg slot : Nat) (m : Option Matrix) (g g' : Gang) : Prop :=
  (g.noMark = true → LaunchedGang l n { w with launchFault := g.launchFault } wg g.idx { g' with deferred := [] }) ∧
  (g.noMark = false →
    let h := g.shelf
    g'.pc = h.resume % 2 ^ 57 ∧ g'.em = h.em ∧ g'.pm = h.pm ∧ g'.sregs = h.sregs ∧ g'.preds = h.preds ∧ g'.conds = h.conds ∧
    g'.fpstat = h.fpstat ∧ g'.vstat = h.vstat ∧ g'.batchClosed = h.batchClosed ∧ g'.batchRetired = h.batchRetired ∧
    g'.stack = [] ∧ g'.pending = [] ∧ g'.sealed = false ∧ g'.markCount = 0 ∧ g'.lastMark = g.lastMark ∧
    (∀ th < 32, ∀ x < 1024,
      let kept := ∃ e k, n.recipes.find? (fun e => bits e 32 8 == g.lastMark.toNat) = some e ∧ k < bits e 40 4 ∧ k < 8 ∧
        bits e (48 + 10 * k) 10 = x
      (kept → wordGet g'.regs (1024 * th + x) = wordGet h.regs (1024 * th + x)) ∧
      (¬kept → wordGet g'.regs (1024 * th + x) = threadWord n w.records g.idx th x)) ∧
    ((h.tiles.map (·.1)).Nodup → ∀ e ∈ h.tiles, ∃ u k, m = some u ∧ mapGet g'.accs e.1 = some k ∧
      mapGet u.tiles k = some { e.2 with owner := some slot }))

end Sys2Proof.Claims

/-! ## Events of workgroups -/

/-- R69, R75, R76, R79, R84, R173: a triggered shard yields a workgroup, whose records stand in free record-window slots; a
prefetched one is runnable; a placed one's gangs start at the entry point with their records delivered, ready at once; the governor assigns an
empty cell; the end of a workgroup frees its slots and makes its arrivals. The order of the checks of a prefetch, the order of
triggers and of nodes, and R77 with no other successor are the model's (log entries 32 to 34, 68 and 69). -/
def Obligations.WorkgroupLifeEvents : Prop :=
  (∀ (s s1 : State) (vf lslot node cell part : Nat) (p : Partition) (l : Launch) (n : Node) (tr : Trigger),
    let k := launchKey vf lslot
    let stack := cell / 64
    mapGet s.launches k = some l → partOf s vf = some (part, p) → l.nodes[node]? = some n → l.phase = .running →
    stack ∈ l.stackGroups → cell < 512 → lslot < 64 → mayGather s p vf lslot node n cell = true → triggerOf s k l node n stack = some tr →
    capacity n ≤ (freeWindowSlots s cell).length →
    let i : Instr := if tr = .timeout then .flushTimeout vf lslot node stack cell else .workgroupGather vf lslot node stack cell
    let shard := shardOf l node stack
    let recs := (if tr = .drain then deepestFirst (shardRecs shard) else shardRecs shard).take (capacity n)
    let cellared := ∃ x ∈ shard.cellar, ∃ r ∈ x.recs, r.seq ∈ recs.map (·.seq)
    (¬cellared → s1 = s) → (cellared → CellarRead s s1 k l shard.cellar) →
    ∃ t w l', Happens i s t { s1 with nextId := s.nextId + 1, larder := t.larder, launches := t.launches, window := t.window
                                      workgroups := t.workgroups, spad := t.spad } ∧
      mapGet t.workgroups s.nextId = some w ∧ (∀ j, j ≠ s.nextId → mapGet t.workgroups j = mapGet s.workgroups j) ∧
      w.records.map (·.words) = recs.map (·.words) ∧ w.vf = vf ∧ w.lslot = lslot ∧ w.node = node ∧ w.cell = cell ∧
      w.phase = (if bits n.pf0 15 1 = 1 ∨ bits n.pf1 15 1 = 1 then .shadow else .runnable) ∧
      (w.records.map (·.index)).Nodup ∧
      (∀ r ∈ w.records, r.index < 1536 ∧ r.arrived = false ∧ mapGet s.window (1536 * cell + r.index) = none ∧
        mapGet t.window (1536 * cell + r.index) = some s.nextId) ∧
      ((∀ r ∈ recs, r.words.length ≤ 8) → ∀ r ∈ w.records, spadRead t cell (0xE8000 + 64 * r.index) (8 * r.words.length)
        = r.words.flatMap fun x => natToBytes 8 x.toNat) ∧
      (∀ a < 0xE8000, wordGet t.spad (2 ^ 20 * cell + a) = wordGet s.spad (2 ^ 20 * cell + a)) ∧
      mapGet t.launches k = some l' ∧ (∀ j, j ≠ k → mapGet t.launches j = mapGet s.launches j) ∧
      shardRecs (shardOf l' node stack) = (shardRecs shard).filter (fun r => !(recs.map (·.seq)).contains r.seq) ∧
      ∀ nd st, st < 8 → (nd, st) ≠ (node, stack) → shardOf l' nd st = shardOf l nd st) ∧
  (∀ (s : State) (wg : Nat) (w : Workgroup) (l : Launch) (n : Node) (off td : Nat → Nat → Nat) (bytes : Nat → Nat → List Byte)
      (bad : Nat → Nat → Option FaultCode),
    mapGet s.workgroups wg = some w → w.phase = .shadow → mapGet s.launches (launchKey w.vf w.lslot) = some l →
    l.nodes[w.node]? = some n → n.binding ≠ 0 → w.records.length ≤ 16 → w.fetched = [] →
    let entry := fun (e : Nat) => if e = 0 then n.pf0 else n.pf1
    let job := fun (e j : Nat) => e < 2 ∧ (entry e).testBit 15 = true ∧ (if n.binding = 2 then j = 0 else j < w.records.length)
    let place := fun (e j : Nat) => consecutive (off e j) (bytes e j).length
    (∀ e j, job e j → TileComes s wg w (entry e) j (off e j) (td e j) (bytes e j) (bad e j)) →
    (∀ e j e' j', job e j → job e' j' → bad e j = none → bad e' j' = none → (e, j) ≠ (e', j') →
      ∀ a ∈ place e j, a ∉ place e' j') →
    let heard := leaveFailed (leaveFailed s (.shadow wg)) (.copy wg)
    ∃ t w', Happens (.shadowPrefetchComplete wg) s t { s with workgroups := t.workgroups, spad := t.spad, l2 := t.l2
                                                              buckets := t.buckets, pools := t.pools, owed := t.owed
                                                              misses := heard.misses, atsMisses := heard.atsMisses } ∧
      (∀ e j, job e j → bad e j = none → spadRead t w.cell (off e j) (bytes e j).length = bytes e j) ∧
      (∀ q, IsByte q → (∀ e j, job e j → bad e j = none → ∀ a ∈ place e j, q ≠ (2 + w.cell, a)) → peek t q = peek s q) ∧
      (∀ j, mapGet t.workgroups j = if j = wg then some w' else mapGet s.workgroups j) ∧
      w' = { w with phase := .runnable, launchFault := w'.launchFault } ∧
      ((∀ e j, job e j → bad e j = none) → w'.launchFault = none) ∧
      ∀ e j code, job e j → bad e j = some code → (∀ k < j, job e k → bad e k = none) →
        (e = 1 → ∀ k, job 0 k → bad 0 k = none) →
        ∃ f, w'.launchFault = some f ∧ f.code = code ∧ (∀ k < 16, f.tval.getLsbD k = true ↔ job e k ∧ bad e k ≠ none) ∧
          (f.tval.extractLsb' 32 10).toNat = td e j ∧ f.tval.getLsbD 46 = decide (e = 1) ∧ f.tval.getLsbD 47 = true) ∧
  (∀ (s : State) (wg : Nat) (slots aside : List Nat) (w : Workgroup) (l : Launch) (n : Node),
    mapGet s.workgroups wg = some w → w.phase = .runnable → mapGet s.launches (launchKey w.vf w.lslot) = some l →
    l.phase = .running → l.nodes[w.node]? = some n → FreeSlots s w.cell (n.gangs + 1) slots →
    entitled s w.vf w.cell = true ∨ lendable s w.vf w.cell = true → slotsFor s w.vf w.cell (n.gangs + 1) = some aside →
    reserveMet s w.vf l w.node n w.cell = true → outranked s wg l w = false → (∀ r ∈ w.records, r.words.length ≤ 8) →
    ∃ t w', Happens (.workgroupLaunch wg slots) s t { s with workgroups := t.workgroups, gangs := t.gangs } ∧
      w' = { w with phase := .running, slots := slots, borrower := !entitled s w.vf w.cell, started := s.clock
                    launchFault := none, saveSlots := aside, saveClass := w'.saveClass } ∧
      (wantsSlots s w.vf w.cell = false → aside = []) ∧
      (wantsSlots s w.vf w.cell = true → SlotsAside s w.vf (n.gangs + 1) aside w'.saveClass) ∧
      (∀ j, mapGet t.workgroups j = if j = wg then some w' else mapGet s.workgroups j) ∧
      (∀ j, j ∉ slots → mapGet t.gangs j = mapGet s.gangs j) ∧
      ∀ idx slot, slots[idx]? = some slot → ∃ g, mapGet t.gangs slot = some g ∧ LaunchedGang l n w wg idx g ∧ g.ready = s.acycle) ∧
  (∀ (s : State) (cell vf lslot node : Nat) (l : Launch),
    let k := launchKey vf lslot
    mapGet s.launches k = some l → l.phase = .running → node < l.nodes.length → cell / 64 ∈ l.stackGroups →
    (∀ e ∈ s.workgroups, e.2.cell = cell → e.2.phase ≠ .shadow ∧ e.2.phase ≠ .runnable) → entitled s vf cell = true →
    governorOutranked s vf (cell / 64) (governorOrder s k l node (cell / 64)) = false →
    ∃ t, Happens (.governorReassign cell vf lslot node) s t { s with governor := t.governor } ∧
      ∀ c, mapGet t.governor c = if c = cell then some (vf, lslot, node) else mapGet s.governor c) ∧
  (∀ (s : State) (slot : Nat) (g : Gang) (items : AMap (List Emission)),
    mapGet s.gangs slot = some g → g.emit = some items → (items.map (·.1)).Nodup →
    let k := launchKey g.vf g.lslot
    ∀ one, (g.hold = some .emission ∧ one = placeEmit slot k) ∨ (g.hold = some .join ∧ one = placeJoin slot k) ∨
      (g.hold = some .window ∧ one = placeRemote slot g.vf k) →
    let s0 := { s with free := s.free + items.length }
    let place := fun (x : State) (t : Nat) => placeAll one x t ((mapGet items t).getD [])
    let all := fun (order : List Nat) => order.foldl (fun (a : Bool × State) t => (a.1 && (place a.2 t).1, (place a.2 t).2)) (true, s0)
    (∀ order : List Nat, order.Perm (items.map (·.1)) →
      ∃ (x : State) (h : Gang), all order = (true, x) ∧ mapGet x.gangs slot = some h) →
    ∃ (order : List Nat) (x : State) (h : Gang) (t : State), order.Perm (items.map (·.1)) ∧ all order = (true, x) ∧
      mapGet x.gangs slot = some h ∧
      Happens (.emissionReplace slot) s t { x with gangs := t.gangs, agenda := .issue slot :: x.agenda, blocked := t.blocked } ∧
      t.blocked = (if g.hold = some Hold.window then x.blocked else x.blocked.filter fun b => b.1 != slot) ∧
      ∀ j, mapGet t.gangs j = if j = slot then some { h with emit := some [] } else mapGet x.gangs j) ∧
  ∀ (s : State) (wg : Nat) (w : Workgroup), mapGet s.workgroups wg = some w → w.phase = .running → w.lslot < 64 →
    mapSorted s.gangs = true → (∀ e ∈ s.gangs, e.2.wg = wg → e.2.ended = true ∧ e.2.loads = [] ∧ e.2.stores = [] ∧ (∀ c ∈ s.copies, c.2.slot ≠ e.1) ∧
      ∀ m, mapGet s.matrix (bayOf e.1) = some m → ∀ o ∈ m.queue, o.slot ≠ e.1) →
    w.slots.length ≤ w.gone.length + (s.gangs.filter fun e => e.2.wg == wg).length →
    let k := 64 * w.vf + w.lslot
    ArrivalsLive s k (pendingRefs w) →
    let u := (pendingRefs w).foldl (fun s r => joinArrive s k r) s
    ∃ t, exec (.workgroupEnd wg) s = .next t ∧ t.joins = u.joins ∧ t.launches = u.launches ∧
      (∀ e, e ∈ t.gangs ↔ e ∈ s.gangs ∧ e.2.wg ≠ wg) ∧ (∀ e, e ∈ t.window ↔ e ∈ s.window ∧ e.2 ≠ wg) ∧
      (∀ e, e ∈ t.rings ↔ e ∈ s.rings ∧ e.2.wg ≠ wg) ∧ mapGet t.workgroups wg = none ∧
      (∀ j, j ≠ wg → mapGet t.workgroups j = mapGet s.workgroups j) ∧ t.dram = s.dram ∧ t.spad = s.spad ∧ t.queues = s.queues

/-- R70, R324, R369, R379 to R383: PREEMPT, a reclaimed cell and an expired slice make pre-emption pending; a saved workgroup
leaves its slots; it resumes on an entitled cell with its records, its producer's state and every gang at its mark, ready at once;
its save slots and its lines of L2 are free as the last gang has its tiles. That a save
waits for the operations of ended gangs, that the trap registers are not kept, and that the age of a pre-emption counts from its
request are the model's readings (log entries 23, 33 and 40). -/
def Obligations.PreemptionEvents : Prop :=
  (∀ (s : State), mapSorted s.workgroups = true →
    (∀ vf, ∃ t, exec (.preemptVf vf) s = .next t ∧ Requested s t fun _ w => w.vf = vf) ∧
    (∀ part p, mapGet s.parts part = some p →
      ∃ t, exec (.preemptPartition part) s = .next t ∧ Requested s t fun _ w => w.vf ∈ p.vfs) ∧
    (∀ cell v, reserver s cell = some v →
      (∃ e ∈ s.workgroups, e.2.vf = v ∧ e.2.phase = .runnable ∧ e.2.cell = cell) →
      ∃ t, exec (.cellReclaim cell) s = .next t ∧
        Requested s t fun _ w => w.borrower = true ∧ w.cell = cell ∧ w.vf ≠ v) ∧
    ∀ wg w part p, mapGet s.workgroups wg = some w → partOf s w.vf = some (part, p) → w.phase = .running →
      let slice := wordGet s.hreg (pageReg w.vf 0x30)
      slice.getLsbD 63 = true → reserver s w.cell = none → w.started + 1400 * (slice.toNat % 2 ^ 32) ≤ s.clock →
      (∃ e ∈ s.workgroups, e.2.vf ≠ w.vf ∧ e.2.vf ∈ p.vfs ∧ lacksCell s e.2 = true) →
      ∃ t, exec (.sliceExpiry wg) s = .next t ∧ Requested s t fun k _ => k = wg) ∧
  (∀ (s : State) (wg : Nat) (w : Workgroup), mapGet s.workgroups wg = some w → w.phase = .saving →
    (∀ e ∈ s.gangs, e.2.wg = wg → e.2.ended = false) →
    let area := (wordGet s.hreg (pageReg w.vf (0x40 + 8 * w.saveClass))).toNat
    let start := fun (k : Nat) => area / 2 ^ 16 % 2 ^ 41 * 2 ^ 16 + 65536 * k
    let saved := fun (q : Nat × Nat) => ∃ part p, partOf s w.vf = some (part, p) ∧ ∃ k ∈ w.saveSlots, ∃ i < 65536,
      q = if w.saveClass < 2 then (0, dramKey p (start k + i)) else (1, start k + i)
    ∃ t, Happens (.saveComplete wg) s t { s with gangs := t.gangs, workgroups := t.workgroups, window := t.window, rings := t.rings
                                                 dram := t.dram, host := t.host, poison := t.poison, l2 := t.l2
                                                 buckets := t.buckets, pools := t.pools, owed := t.owed, free := t.free } ∧
      (∀ q, IsByte q → ¬saved q → peek t q = peek s q) ∧
      (∀ e, e ∈ t.gangs ↔ e ∈ s.gangs ∧ e.2.wg ≠ wg) ∧ (∀ e, e ∈ t.window ↔ e ∈ s.window ∧ e.2 ≠ wg) ∧
      (∀ e, e ∈ t.rings ↔ e ∈ s.rings ∧ e.2.wg ≠ wg) ∧
      ∀ k, mapGet t.workgroups k = if k = wg then
        some { w with phase := .saved, borrower := false
                      window := w.records.map fun r => spadRead s w.cell (0xE8000 + 64 * r.index) 64 }
        else mapGet s.workgroups k) ∧
  ∀ (s : State) (wg cell : Nat) (slots : List Nat) (w : Workgroup) (l : Launch) (n : Node),
    mapGet s.workgroups wg = some w → mapGet s.launches (launchKey w.vf w.lslot) = some l → l.nodes[w.node]? = some n →
    couldResume s w cell = true → FreeSlots s cell w.saved.length slots → resumeOutranked s wg w = false →
    (∀ e ∈ w.saved, ∀ r ∈ e.2.shelf.rings, mapGet s.rings (16 * cell + r.1) = none) →
    (∀ slot ∈ slots, ∀ m, mapGet s.matrix (bayOf slot) = some m → m.tiles = []) →
    (∀ e ∈ w.saved, e.2.shelf.tiles.length ≤ 4) → w.records.length ≤ capacity n → (∀ r ∈ w.records, r.words.length ≤ 8) →
    ∃ t w', exec (.workgroupResume wg cell slots) s = .next t ∧ mapGet t.workgroups wg = some w' ∧
      (∀ k, k ≠ wg → mapGet t.workgroups k = mapGet s.workgroups k) ∧ w'.phase = .running ∧ w'.cell = cell ∧
      w'.preempt = false ∧ w'.acted = false ∧ w'.started = s.clock ∧ w'.records.map (·.words) = w.records.map (·.words) ∧
      w'.records.map (·.arrived) = w.records.map (·.arrived) ∧
      (∀ r ∈ w'.records, mapGet s.window (1536 * cell + r.index) = none ∧
        mapGet t.window (1536 * cell + r.index) = some wg) ∧
      w'.keptSlots = [] ∧ (w.saved ≠ [] → ∀ e ∈ t.l2, e.2.locked ≠ some wg) ∧
      (∀ j, j ∉ slots → mapGet t.gangs j = mapGet s.gangs j) ∧
      (∀ (i : Nat) (e : Nat × Gang) (slot : Nat), w.saved[i]? = some e → slots[i]? = some slot → ∃ g', mapGet t.gangs slot = some g' ∧
        ResumedGang l n w wg slot (mapGet t.matrix (bayOf slot)) e.2 g' ∧ g'.ready = s.acycle ∧
        ∀ c ∈ e.2.shelf.copies, ∃ id, mapGet t.copies id
          = some { c with slot := slot, cell := cell, marks := 0, sent := [], fetched := [], data := none, counted := []
                          written := [], hit := none, keys := [] }) ∧
      t.dram = s.dram ∧
      let ranges := w.saved.flatMap fun e => e.2.shelf.spads ++ e.2.shelf.bars
      ranges.Pairwise (fun a b => a.1 + a.2.length ≤ b.1 ∨ b.1 + b.2.length ≤ a.1) →
        (∀ r ∈ ranges, r.1 + r.2.length ≤ 0xE8000) →
        (∀ r ∈ ranges, spadRead t cell r.1 r.2.length = r.2) ∧
        ((∀ x ∈ w.window, x.length = 64) → ∀ (i : Nat) (r : WgRec) (x : List Byte), w'.records[i]? = some r → w.window[i]? = some x →
          spadRead t cell (0xE8000 + 64 * r.index) 64 = x)

namespace Sys2Proof.Claims

/-! ## What arrives from other packages -/

/-- A link that the partition owns and that has found no duplicate chip identifier (R24, R85). -/
def LinkServes (s : State) (link : Nat) (p : Partition) : Prop :=
  (∃ part, linkOwner s link = some (part, p)) ∧ ∀ l, mapGet s.links link = some l → l.state ≠ LinkState.duplicate

/-- REMWIN of a VF accepts a tenant (R407). -/
def accepts (s : State) (vf tenant : Nat) : Bool :=
  let w := wordGet s.hreg (pageReg vf 0xC0)
  w.getLsbD 63 && decide ((w.extractLsb' 32 16).toNat = tenant)

/-- The VF in whose context a tenant of a partition's link is served (R407). -/
def ServedBy (s : State) (p : Partition) (tenant vf : Nat) : Prop :=
  vf < 1024 ∧ vf ∈ p.vfs ∧ accepts s vf tenant ∧ ∀ v < vf, v ∈ p.vfs → accepts s v tenant = false

/-- What an atomic of a link leaves of an old value (R405). -/
def linkLeaves (a : RemoteAccess) (x : Nat) : Nat :=
  let c := bytesToNat a.data
  let below := fun (u v : Nat) => if a.signed then (BitVec.ofNat (8 * a.size) u).toInt < (BitVec.ofNat (8 * a.size) v).toInt else u < v
  match a.op with
  | .add => (x + c) % 2 ^ (8 * a.size)
  | .min => if below c x then c else x
  | .max => if below x c then c else x
  | .and => x &&& c
  | .or => x ||| c
  | .xor => x ^^^ c
  | .cas => if x = bytesToNat a.compare then c else x
  | _ => c

/-- A record as an inbox holds it: DEPTH 0, JOIN 0, REMOTE 1 (R85). -/
def inboxWords (words : List Word) : List Word :=
  ((words.headD 0 &&& 0xFFFFFF0000000FFF) ||| 0x80000000000) :: words.tail

end Sys2Proof.Claims

/-! ## Events from other packages -/

/-- R85, R86, R405 to R407: an arriving record enters the inbox of its launch or is rejected; it moves to the shard with the
most free larder lines; an acknowledgement frees a send-window slot, and counts for its launch unless that was aborted; a remote
access and a bulk copy are served in the context of the window they match, or rejected, and wait while a walker is busy. How an
inbox packs its records, that records for the own chip use no link, which of several shards with as many free lines takes a record,
and the answers of the corners named in log entry 38 are the model's (log entries 20, 21, 38, 58 and 78). -/
def Obligations.RemoteEvents : Prop :=
  (∀ (s u : State) (link source tag : Nat) (words : List Word) (p : Partition), LinkServes s link p →
    let sent := fun (e : Nat × Launch) => e.1 / 64 ∈ p.vfs ∧ e.2.registered = true ∧ e.2.tag = tag ∧ e.2.phase = .running
    let size := bits (words.headD 0).toNat 40 2
    let node := bits (words.headD 0).toNat 0 12
    (∀ k l n image, (k, l) ∈ s.launches → sent (k, l) → (∀ e ∈ s.launches, sent e → e = (k, l)) → mapGet s.launches k = some l →
      l.nodes[node]? = some n → n.rsize = size → size ≤ 2 → words.length = 2 ^ (size + 1) →
      (l.inbox.map fun r => 8 * r.words.length).sum + 8 * words.length ≤ 32768 →
      let spots := inboxSpots l.inbox words.length
      inboxWrite s k l.cellar spots [] = .bytes image u → u.launches = s.launches →
      (∀ x ∈ spots, x < 2048 ∧ ∀ r ∈ l.inbox, x ∉ r.spots) ∧
      ∃ t, Happens (.remoteRecordArrival link source tag words) s t { u with launches := t.launches } ∧
        ∀ j, mapGet t.launches j = if j = k then
          some { l with inbox := l.inbox ++ [⟨inboxWords words, source, link, none, spots, image⟩] } else mapGet s.launches j) ∧
    ((∀ e ∈ s.launches, sent e → ∀ n, e.2.nodes[node]? = some n → n.rsize ≠ size) →
      exec (.remoteRecordArrival link source tag words) s
        = .next { s with outbox := s.outbox ++ [.ack link source false] })) ∧
  (∀ (s v u : State) (vf lslot index st : Nat) (l : Launch) (r : InRec),
    let k := 64 * vf + lslot
    mapGet s.launches k = some l → l.phase = .running → l.inbox[index]? = some r → l.stackGroups.Pairwise (· < ·) → st ∈ l.stackGroups →
    (∀ x ∈ l.stackGroups, let free := quotaFree s k l (recNode r.words)
      free x ≤ free st ∧ (free x = free st → st ≤ x)) →
    inboxRead s k l.cellar r.spots [] = .bytes r.image v → placeRecord v k st r.words = .put u →
    ∃ t, exec (.inboxTransfer vf lslot index) s = .next t ∧
      (∀ l', mapGet u.launches k = some l' →
        (r.sender = none → t = { u with launches := t.launches, outbox := u.outbox ++ [.ack r.link r.source true] } ∧
          mapGet t.launches k = some { l' with inbox := l'.inbox.eraseIdx index }) ∧
        (r.sender = some k → t = { u with launches := t.launches, windows := t.windows } ∧
          mapGet t.launches k = some { l' with inbox := l'.inbox.eraseIdx index, unacked := l'.unacked - 1 }))) ∧
  (∀ (s : State) (vf lslot chip n : Nat) (ok : Bool) (l : Launch), mapGet s.launches (64 * vf + lslot) = some l →
    l.unacked ≠ 0 → mapGet s.windows (2 ^ 21 * vf + chip) = some n →
    let mine := fun (x : Nat × Nat × Nat) => x.1 = 64 * vf + lslot ∧ x.2.1 = chip
    let orphan := fun (x : Nat × Nat × Nat) => x.1 = 65536 + (64 * vf + lslot) ∧ x.2.1 = chip
    let freed := fun (t : State) => ∀ k, mapGet t.windows k = if k = 2 ^ 21 * vf + chip then (if n ≤ 1 then none else some (n - 1))
      else mapGet s.windows k
    (mapGet s.launches 65536 = none → ∀ a x b, s.sends = a ++ x :: b → orphan x → (∀ y ∈ a, ¬orphan y) →
      ∃ t, Happens (.remoteAck vf lslot chip ok) s t { s with windows := t.windows, sends := a ++ b } ∧ freed t) ∧
    ((∀ x ∈ s.sends, ¬orphan x) → ∃ t, Happens (.remoteAck vf lslot chip ok) s t
        { s with windows := t.windows, launches := t.launches, sends := t.sends } ∧
      (∀ a x b, s.sends = a ++ x :: b → mine x → (∀ y ∈ a, ¬mine y) → t.sends = a ++ b) ∧
      freed t ∧
      ∀ k, mapGet t.launches k = if k = 64 * vf + lslot then
        some { l with unacked := l.unacked - 1, rejected := l.rejected + if ok then 0 else 1 } else mapGet s.launches k)) ∧
  (∀ (s : State) (a : RemoteAccess) (p : Partition), LinkServes s a.station p →
    24 ≤ a.station ∨ a.size = 0 ∨ a.va % a.size ≠ 0 ∨ (∀ v ∈ p.vfs, accepts s v a.tenant = false) →
      exec (.remoteAccessArrival a) s = .next { s with outbox := s.outbox ++ [.response a.station a.source false false []] }) ∧
  (∀ (s : State) (a : RemoteAccess) (p : Partition) (vf : Nat) (pas : List Nat), LinkServes s a.station p →
    partReady s p = true → a.station < 24 → a.size ≠ 0 → a.va % a.size = 0 → ServedBy s p a.tenant vf →
    let w := wordGet s.hreg (pageReg vf 0xC0)
    let place := Locus.device p pas
    (a.op = .store ∧ w.getLsbD 62 = false ∨ (a.op ≠ .store ∧ a.op ≠ .load) ∧ (w.getLsbD 61 = false ∨ (a.size ≠ 4 ∧ a.size ≠ 8)) →
      exec (.remoteAccessArrival a) s = .next { s with outbox := s.outbox ++ [.response a.station a.source false false []] }) ∧
    let at_ := remoteBytes s vf a.va a.size (remoteAccess a.op)
    let allowed := a.op = .load ∨ (a.op = .store ∧ w.getLsbD 62 = true) ∨ ((a.size = 4 ∨ a.size = 8) ∧ w.getLsbD 61 = true)
    (allowed → at_ = .wait → exec (.remoteAccessArrival a) s = .next s) ∧
    (allowed → ∀ u, at_ = .fail u → ∃ t, Happens (.remoteAccessArrival a) s t
      { s with l2 := t.l2, walkCache := t.walkCache, free := t.free
               outbox := s.outbox ++ [.response a.station a.source false false []] }) ∧
    (∀ u, at_ = .ok pas u → (cells place).Nodup →
      (∀ x ∈ pas, dramKey p x / 128 ∉ s.poison) → a.data.length = a.size →
      (a.op = .load → ∃ t, Happens (.remoteAccessArrival a) s t
        { s with l2 := t.l2, walkCache := t.walkCache, free := t.free
                 outbox := s.outbox ++ [.response a.station a.source true false (bytesAt s place)] }) ∧
      (a.op = .store → w.getLsbD 62 = true → ∃ t, Happens (.remoteAccessArrival a) s t
        { s with l2 := t.l2, walkCache := t.walkCache, free := t.free, dram := t.dram, poison := t.poison
                 outbox := s.outbox ++ [.response a.station a.source true false []] } ∧
        bytesAt t place = a.data ∧ ∀ q, IsByte q → q ∉ cells place → peek t q = peek s q) ∧
      (a.op ≠ .load → a.op ≠ .store → w.getLsbD 61 = true → a.size = 4 ∨ a.size = 8 → a.compare.length = a.size →
        ∃ t, Happens (.remoteAccessArrival a) s t
          { s with l2 := t.l2, walkCache := t.walkCache, free := t.free, dram := t.dram, poison := t.poison, watch := t.watch
                   outbox := s.outbox ++ [.response a.station a.source true false (bytesAt s place)] } ∧
          bytesAt t place = natToBytes a.size (linkLeaves a (bytesToNat (bytesAt s place))) ∧
          ∀ q, IsByte q → q ∉ cells place → peek t q = peek s q))) ∧
  ∀ (s : State) (port tenant va vf : Nat) (bytes : List Byte) (p : Partition) (pas : List Nat), LinkServes s (24 + port) p →
    partReady s p = true → ServedBy s p tenant vf → (wordGet s.hreg (pageReg vf 0xC0)).getLsbD 62 = true →
    let place := Locus.device p pas
    (remoteBytes s vf va bytes.length .write = .wait → exec (.uetWriteArrival port tenant va bytes) s = .next s) ∧
    ∀ u, remoteBytes s vf va bytes.length .write = .ok pas u → (cells place).Nodup →
    ∃ t, Happens (.uetWriteArrival port tenant va bytes) s t
        { s with l2 := t.l2, walkCache := t.walkCache, free := t.free, dram := t.dram, poison := t.poison
                 outbox := s.outbox ++ [.response (24 + port) 0 true false []] } ∧
      bytesAt t place = bytes ∧ ∀ q, IsByte q → q ∉ cells place → peek t q = peek s q

namespace Sys2Proof.Claims

/-! ## Translation -/

/-- Gangs that waited try again first; nothing else of the agenda changes. -/
def Woken (s t : State) (l : List Source) : Prop :=
  ∃ slots : List Nat, t.agenda = slots.map Turn.issue ++ s.agenda ∧
    ∀ k, k ∈ slots ↔ Source.gang k ∈ l ∨ Source.descriptor k ∈ l ∨ Source.fetch k ∈ l

/-- Miss `k` becomes `m`, or ends, and every other miss stays. -/
def MissBecomes (s t : State) (k : Nat) (m : Option Miss) : Prop :=
  ∀ j, mapGet t.misses j = if j = k then m else mapGet s.misses j

/-- No completion entry waits to be written among some requesters (R342). -/
def NoEntryWaits (l : List Source) : Prop := ∀ task, Source.scheduler task ∈ l → task < 2 ^ 20

/-- How a failed miss stands: those who wait on it hear of it (R341, R344). -/
def failedMissOf (m : Miss) (r : WalkResult) : Option Miss :=
  if m.waiters = [] then none else some { m with phase := .failed, result := r }

/-- Entries of a TLB; those of a cluster's count the host translations that it holds (R343). -/
def entriesAt (s : State) (q : Nat) : Nat :=
  (s.tlb.filter fun x => x.place == q).length + (s.ats.filter fun x => x.place == q).length

/-- A TLB of 64 or 4,096 entries that was full drops another for a new one; others drop nothing (R343). -/
def MakesRoom (s t : State) (filled : Nat → Prop) : Prop :=
  (∀ x ∈ s.tlb, ¬filled x.place → x ∈ t.tlb) ∧ (∀ x ∈ s.ats, ¬filled x.place → x ∈ t.ats) ∧
  ∀ q, let cap := if q < 512 then 64 else 4096
    entriesAt s q ≤ cap → entriesAt t q ≤ cap

/-- The walk's entry fills the TLBs of each cell that asked for it and of its cluster, and no other (R343). -/
def Fills (s t : State) (e : TlbEntry) (asked : List Nat) : Prop :=
  let place := fun q => ∃ c ∈ asked, q = c ∨ q = 512 + c / 8
  (∀ q, place q → { e with place := q } ∈ t.tlb) ∧
  (∀ x ∈ t.tlb, x ∈ s.tlb ∨ (place x.place ∧ x = { e with place := x.place })) ∧
  (∀ x ∈ t.ats, x ∈ s.ats) ∧ MakesRoom s t place

/-- A host translation is cached in the TLBs of some clusters, in the place of what they held of the page (R343, R351). -/
def Caches (s t : State) (e : AtsEntry) (places : List Nat) : Prop :=
  (∀ q ∈ places, { e with place := q } ∈ t.ats) ∧
  (∀ x ∈ t.ats, x ∈ s.ats ∨ (x.place ∈ places ∧ x = { e with place := x.place })) ∧
  (∀ x ∈ t.ats, x.place ∈ places → x.vf = e.vf → x.page = e.page → x = { e with place := x.place }) ∧
  (∀ x ∈ t.tlb, x ∈ s.tlb) ∧ MakesRoom s t (· ∈ places)

/-- Of the page requests of a function that wait, the first is sent where the host's allocation allows one more (R352). -/
def NextPri (s : State) (vf : Nat) (l l' : List AtsMiss) (out : List Outgoing) : Prop :=
  let waits := fun (x : AtsMiss) => x.vf = vf ∧ x.pri = true ∧ x.queued = true ∧ x.failed = false
  let sent := (l.filter fun x => x.vf == vf && x.pri && !x.queued && !x.failed).length
  let limit := (mapGet s.priLimit vf).getD 0
  (limit ≤ sent ∨ (∀ x ∈ l, ¬waits x) → l' = l ∧ out = []) ∧
  ∀ c x d, sent < limit → l = c ++ x :: d → waits x → (∀ y ∈ c, ¬waits y) → x ∉ d →
    l' = c ++ { x with queued := false } :: d ∧ out = [.pri vf x.page]

/-- A TLBINV command that is taken: the entries that `gone` names, what the walkers keep of the VF and what the scheduler has still
to hear of are dropped, and the context is BUSY with the walks in flight (R345, R346). -/
def Invalidates (i : Instr) (s : State) (vf : Nat) (gone : TlbEntry → Prop) : Prop :=
  ∃ t walks, Happens i s t { s with tlb := t.tlb, walkCache := t.walkCache, tlbBusy := t.tlbBusy, misses := t.misses } ∧
    (∀ e, e ∈ t.misses ↔ e ∈ s.misses ∧ ¬(e.2.vf = vf ∧ e.2.phase = .failed ∧ ∃ x, e.2.result = .ok x)) ∧
    (∀ e, e ∈ t.walkCache ↔ e ∈ s.walkCache ∧ e.vf ≠ vf) ∧
    (∀ e, e ∈ t.tlb ↔ e ∈ s.tlb ∧ ¬(e.vf = vf ∧ gone e)) ∧
    (∀ v, mapGet t.tlbBusy v = if v = vf then some walks else mapGet s.tlbBusy v) ∧
    ∀ k, k ∈ walks ↔ ∃ m, (k, m) ∈ s.misses ∧ m.vf = vf ∧ m.phase = .walking

/-- A dropped TLBINV command: ERR is set, and nothing else changes (R345). -/
def Dropped (i : Instr) (s : State) (vf : Nat) : Prop :=
  ∃ t, Happens i s t { s with tlbErr := t.tlbErr } ∧ ∀ v, v ∈ t.tlbErr ↔ v ∈ s.tlbErr ∨ v = vf

/-- A register holds `value` of what was written, and no other register changes. -/
def WritesRegister (i : Instr) (s : State) (r : Nat) (value : BitVec 64) : Prop :=
  ∃ t, Happens i s t { s with hreg := t.hreg } ∧ ∀ k, wordGet t.hreg k = if k = r then value else wordGet s.hreg k

/-- The 32 bytes of a page request; CELL is 0 for the fabric engines and the scheduler (R347). -/
def requestBytes (s : State) (m : Miss) (id seq ipa level : Nat) (table : Bool) (acc : BitVec 4) : List Byte :=
  let cell : Word := if sourceNo m.source = 3 ∨ sourceNo m.source = 4 then 0 else BitVec.ofNat 64 m.cell
  let w0 := BitVec.ofNat 64 seq <<< 48 ||| BitVec.ofNat 64 m.vf <<< 38 ||| BitVec.ofNat 64 id <<< 32 |||
    (if table then 1 <<< 28 else 0) ||| BitVec.ofNat 64 level <<< 26 ||| acc.setWidth 64 <<< 22 |||
    BitVec.ofNat 64 (sourceNo m.source) <<< 18 ||| cell <<< 9
  natToBytes 8 w0.toNat ++ natToBytes 8 (ipa - ipa % 2 ^ 16) ++ natToBytes 8 m.va ++ natToBytes 8 s.clock

end Sys2Proof.Claims

/-! ## Events of translation -/

/-- R338, R339, R343 to R352, R367: a walker takes the queued miss whose turn it is; its end caches the entry in the TLBs of those
who asked, posts a page request, joins one or fails them; the scheduler, which has no TLB, hears of the entry; a reply restarts or fails them; host translations are cached, denied, asked for again within
the function's allocation, or invalidated; TLBINV drops entries; the root registers and PRQBASE hold their fields. What a full
cache drops and when a miss that others joined is denied are the model's (log entries 1 and 58). ATS and PRI are enabled from
outside (log entry 9). -/
def Obligations.TranslationEvents : Prop :=
  (∀ (s : State) (j k : Nat) (mj m : Miss) (c : Int), mapGet s.misses k = some m → m.phase = .queued →
    mapGet s.misses j = some mj → mj.phase = .queued → mj.cell / 64 = m.cell / 64 →
    (∀ e ∈ s.misses, e.2.phase = .queued → e.2.cell / 64 = m.cell / 64 → 1024 ≤ bucketOf s 7 (m.cell / 64) e.2.vf → k ≤ e.1) →
    (s.misses.filter fun e => e.2.phase == .walking && e.2.cell / 64 == m.cell / 64).length < 32 →
    mapGet s.buckets (2 ^ 24 * 7 + 1024 * (m.cell / 64) + m.vf) = some c → 1024 ≤ c →
    ∃ t, Happens (.translationWalk j) s t
        { s with misses := t.misses, buckets := t.buckets, pools := t.pools, owed := t.owed, l2 := t.l2
                 walkCache := t.walkCache, free := t.free } ∧
      (∀ e ∈ t.walkCache, e ∈ s.walkCache ∨ e ∈ walkTrace s (m.cell / 64) m.vf m.va) ∧
      (∀ b, b / 2 ^ 24 ≠ 1 → b / 2 ^ 24 ≠ 2 →
        mapGet t.buckets b = if b = 2 ^ 24 * 7 + 1024 * (m.cell / 64) + m.vf then some (c - 1024) else mapGet s.buckets b) ∧
      MissBecomes s t k (some { m with phase := .walking, result := walk s (m.cell / 64) m.vf m.va })) ∧
  (∀ (s : State) (k : Nat) (m : Miss), mapGet s.misses k = some m → m.phase = .walking → NoEntryWaits m.waiters →
    ((∃ e ∈ s.tlbBusy, k ∈ e.2) → ∃ t, Happens (.walkComplete k) s t { s with misses := t.misses, tlbBusy := t.tlbBusy } ∧
      MissBecomes s t k (some { m with phase := .queued, result := .none }) ∧ ∀ e ∈ t.tlbBusy, k ∉ e.2) ∧
    ((∀ e ∈ s.tlbBusy, k ∉ e.2) →
      (∀ e, m.result = .ok e → ∃ t, Happens (.walkComplete k) s t
          { s with misses := t.misses, tlb := t.tlb, ats := t.ats, agenda := t.agenda, free := t.free } ∧
        Woken s t m.waiters ∧ Fills s t e m.cells ∧
        ((∀ task, Source.scheduler task ∉ m.waiters) → MissBecomes s t k none) ∧
        ∀ task, Source.scheduler task ∈ m.waiters → ∃ m', MissBecomes s t k (some m') ∧
          m' = { m with phase := .failed, waiters := m'.waiters } ∧
          ∀ w, w ∈ m'.waiters ↔ w ∈ m.waiters ∧ ∃ task, w = .scheduler task) ∧
      ((∀ e, m.result ≠ .ok e) → absentOf m.result = none →
        ∃ t, Happens (.walkComplete k) s t { s with misses := t.misses, agenda := t.agenda } ∧
          Woken s t m.waiters ∧ MissBecomes s t k (failedMissOf m m.result)) ∧
      (∀ ipa level table part p id acc, absentOf m.result = some (ipa, level, table) → partOf s m.vf = some (part, p) →
        (∀ a, accBit a &&& acc ≠ 0 ↔ accBit a &&& m.acc ≠ 0 ∧ ∀ st, m.result.for a ≠ .denied st) →
        let prq := wordGet s.hreg (pageReg m.vf 0x10)
        let base := (prq.extractLsb' 11 46).toNat * 2048
        let used := fun i => ∃ r ∈ s.requests, r.vf = m.vf ∧ r.id = i
        (acc = 0 → ∃ t, Happens (.walkComplete k) s t { s with misses := t.misses, agenda := t.agenda } ∧ Woken s t m.waiters ∧
          MissBecomes s t k (failedMissOf m m.result)) ∧
        (acc ≠ 0 → prq.getLsbD 63 = false ∨ memorySize p < base + 2048 →
          ∃ t, Happens (.walkComplete k) s t { s with misses := t.misses, agenda := t.agenda } ∧ Woken s t m.waiters ∧
            MissBecomes s t k (failedMissOf m m.result.unanswered)) ∧
        (∀ x r y, acc ≠ 0 → prq.getLsbD 63 = true → base + 2048 ≤ memorySize p → s.requests = x ++ r :: y → r.vf = m.vf →
          r.ipa / 2 ^ 16 = ipa / 2 ^ 16 → (∀ o ∈ x, o.vf = m.vf → o.ipa / 2 ^ 16 ≠ ipa / 2 ^ 16) →
          ∃ t, Happens (.walkComplete k) s t { s with misses := t.misses, agenda := t.agenda } ∧ Woken s t m.waiters ∧
            MissBecomes s t k (some { m with phase := .requested r.id })) ∧
        (acc ≠ 0 → prq.getLsbD 63 = true → base + 2048 ≤ memorySize p →
          (∀ r ∈ s.requests, r.vf = m.vf → r.ipa / 2 ^ 16 ≠ ipa / 2 ^ 16) →
          ((∀ i < 64, used i) → ∃ t, Happens (.walkComplete k) s t { s with misses := t.misses } ∧
            MissBecomes s t k (some { m with phase := .queued, result := .none })) ∧
          (id < 64 → ¬used id → (∀ i < id, used i) → m.vf < 1024 → m.cell < 512 → level < 4 →
            let last := (mapGet s.prqSeq m.vf).getD 0
            let seq := if (last + 1) % 65536 = 0 then 1 else (last + 1) % 65536
            let place := Locus.device p (consecutive (base + 32 * id) 32)
            (cells place).Nodup →
            ∃ t, Happens (.walkComplete k) s t { s with misses := t.misses, dram := t.dram, requests := t.requests
                                                        l2 := t.l2, buckets := t.buckets, pools := t.pools, owed := t.owed
                                                        prqSeq := t.prqSeq, messages := s.messages ++ [⟨none, 0⟩]
                                                        agenda := t.agenda } ∧ Woken s t m.waiters ∧
              MissBecomes s t k (some { m with phase := .requested id }) ∧
              t.requests = s.requests ++ [⟨m.vf, id, seq, ipa - ipa % 2 ^ 16⟩] ∧
              bytesAt t place = requestBytes s m id seq ipa level table acc ∧
              ∀ q, IsByte q → q ∉ cells place → peek t q = peek s q))))) ∧
  (∀ (s : State) (v : BitVec 64), mapSorted s.misses = true → (∀ e ∈ s.misses, NoEntryWaits e.2.waiters) →
    let status := (v.extractLsb' 62 2).toNat
    let vf := (v.extractLsb' 48 10).toNat
    let id := (v.extractLsb' 0 6).toNat
    let names := fun (r : PageRequest) => r.vf = vf ∧ r.id = id ∧ r.seq = (v.extractLsb' 32 16).toNat
    (status ≤ 1 → (∃ r ∈ s.requests, names r) →
      ∃ t, Happens (.prreply v) s t { s with misses := t.misses, requests := t.requests, agenda := t.agenda } ∧
        (∀ r, r ∈ t.requests ↔ r ∈ s.requests ∧ ¬names r) ∧
        (∀ k, mapGet s.misses k = none → mapGet t.misses k = none) ∧
        ∀ k m, mapGet s.misses k = some m →
          (m.vf = vf → m.phase = .requested id → mapGet t.misses k =
            if status = 0 then some { m with phase := .queued, result := .none } else failedMissOf m m.result.unanswered) ∧
          (¬(m.vf = vf ∧ m.phase = .requested id) → mapGet t.misses k = some m)) ∧
    (1 < status ∨ (∀ r ∈ s.requests, ¬names r) →
      ∃ t, Happens (.prreply v) s t { s with health := t.health } ∧
        ∀ k, mapGet t.health k = if k = 2 * vf then some ((mapGet s.health k).getD 0 + 1) else mapGet s.health k)) ∧
  (∀ (s : State) (vf page : Nat) (a b : List AtsMiss) (m : AtsMiss), s.atsMisses = a ++ m :: b → m.vf = vf → m.page = page →
    m.failed = false → m.queued = false → (∀ x ∈ a ++ b, x ≠ m ∧ ¬(x.vf = vf ∧ x.page = page)) →
    NoEntryWaits m.waiters →
    let failed : List AtsMiss := a ++ (if m.waiters = [] then b else { m with failed := true } :: b)
    let asked : List AtsMiss := a ++ { m with pri := true, queued := true } :: b
    let cached := fun (t : State) host r w => Caches s t ⟨0, vf, page, host, r, w⟩ m.places
    (m.pri = false →
      (∀ host r w, (m.acc &&& 9 ≠ 0 → r = true) → (m.acc &&& 10 ≠ 0 → w = true) →
        ∃ t, Happens (.atsCompletion vf page (.granted host r w)) s t
            { s with ats := t.ats, tlb := t.tlb, free := t.free, atsMisses := a ++ b, agenda := t.agenda } ∧ Woken s t m.waiters ∧ cached t host r w) ∧
      (∀ host r w, (m.acc &&& 9 ≠ 0 ∧ r = false) ∨ (m.acc &&& 10 ≠ 0 ∧ w = false) →
        (vf ∉ s.priEnabled → ∃ t, Happens (.atsCompletion vf page (.granted host r w)) s t
            { s with ats := t.ats, tlb := t.tlb, free := t.free, atsMisses := failed, agenda := t.agenda } ∧ Woken s t m.waiters ∧ cached t host r w) ∧
        (vf ∈ s.priEnabled → ∃ t l out, NextPri s vf asked l out ∧ Happens (.atsCompletion vf page (.granted host r w)) s t
            { s with ats := t.ats, tlb := t.tlb, free := t.free, atsMisses := l, agenda := t.agenda, outbox := s.outbox ++ out } ∧ Woken s t m.waiters ∧
          cached t host r w)) ∧
      (vf ∈ s.priEnabled → ∃ l out, NextPri s vf asked l out ∧
        exec (.atsCompletion vf page .denied) s = .next { s with atsMisses := l, outbox := s.outbox ++ out }) ∧
      (vf ∉ s.priEnabled → ∃ t, Happens (.atsCompletion vf page .denied) s t { s with atsMisses := failed, agenda := t.agenda } ∧
        Woken s t m.waiters) ∧
      ∃ t, Happens (.atsCompletion vf page .unsupported) s t { s with atsMisses := failed, agenda := t.agenda } ∧
        Woken s t m.waiters) ∧
    (m.pri = true →
      (∃ l out, NextPri s vf (a ++ { m with pri := false } :: b) l out ∧ exec (.priResponse vf page true) s
        = .next { s with atsMisses := l, outbox := s.outbox ++ .ats vf page :: out }) ∧
      ∃ t l out, NextPri s vf failed l out ∧ Happens (.priResponse vf page false) s t
          { s with atsMisses := l, agenda := t.agenda, outbox := s.outbox ++ out } ∧
        Woken s t m.waiters)) ∧
  (∀ (s : State) (vf page count : Nat), ∃ t, Happens (.atsInvalidateRequest vf page count) s t
      { s with ats := t.ats, outbox := s.outbox ++ [.atsInvalidated vf page] } ∧
    ∀ e, e ∈ t.ats ↔ e ∈ s.ats ∧ ¬(e.vf = vf ∧ page ≤ e.page ∧ e.page < page + count)) ∧
  (∀ (s : State) (vf page count : Nat) (physical : Bool),
    let all : List Instr := [.tlbinvStage1Range vf physical page count, .tlbinvStage1All vf physical,
      .tlbinvStage2Range vf physical page count, .tlbinvAll vf physical]
    (mapGet s.tlbBusy vf ≠ none → ∀ i ∈ all, Dropped i s vf) ∧
    (mapGet s.tlbBusy vf = none →
      Invalidates (.tlbinvStage1Range vf physical page count) s vf (fun e => e.page1 ≠ 0 ∧
        ∃ x, e.va - e.va % e.page1 ≤ x ∧ x < e.va - e.va % e.page1 + e.page1 ∧ page * 65536 ≤ x ∧
          x < (page + count + 1) * 65536) ∧
      Invalidates (.tlbinvStage1All vf physical) s vf (fun _ => True) ∧
      (physical = true → Invalidates (.tlbinvStage2Range vf physical page count) s vf (fun _ => True) ∧
        Invalidates (.tlbinvAll vf physical) s vf fun _ => True) ∧
      (physical = false → Dropped (.tlbinvStage2Range vf physical page count) s vf ∧ Dropped (.tlbinvAll vf physical) s vf)) ∧
    (mapGet s.tlbBusy vf = some [] → ∃ t, Happens (.tlbinvComplete vf) s t { s with tlbBusy := t.tlbBusy } ∧
      ∀ v, mapGet t.tlbBusy v = if v = vf then none else mapGet s.tlbBusy v)) ∧
  ∀ (s : State) (vf : Nat) (v : BitVec 64),
    WritesRegister (.s1rootWrite vf v) s (vfReg vf 0x8) (v &&& 0x800FFFFFFFFFC000) ∧
    WritesRegister (.s2rootWrite vf v) s (pageReg vf 0x8) (v &&& 0x800FFFFFFFFFC000) ∧
    ((∀ r ∈ s.requests, r.vf ≠ vf) → WritesRegister (.prqbaseWrite vf v) s (pageReg vf 0x10) (v &&& 0x81FFFFFFFFFFF800)) ∧
    ((∃ r ∈ s.requests, r.vf = vf) → exec (.prqbaseWrite vf v) s = .next s)

namespace Sys2Proof.Claims

/-! ## Partitions, buckets and drain -/

/-- Bit `n` of the descriptor in the PARTDESC window (R354). -/
def descBit (s : State) (n : Nat) : Bool := (wordGet s.hreg (pfReg (8 * (n / 64)))).getLsbD (n % 64)

/-- The units that the descriptor names by bits `at` to `at + n - 1` (R354). -/
def namedUnits (s : State) (at_ n : Nat) : List Nat := (List.range n).filter fun k => descBit s (at_ + k)

/-- The ownership that the descriptor in PARTDESC gives (R354). -/
def described (s : State) : Partition where
  clusters := namedUnits s 0 64
  banks := namedUnits s 64 1024
  channels := namedUnits s 1088 256
  larder := namedUnits s 1344 128
  copy := namedUnits s 1472 512
  fabric := namedUnits s 1984 8
  stations := namedUnits s 1992 24
  ports := namedUnits s 2016 4
  vfs := namedUnits s 2048 1024

/-- The units of a partition by KIND of PARTSTAT (R355). -/
def unitsOfKind (p : Partition) (kind : Nat) : List Nat :=
  match kind with
  | 0 => p.clusters | 1 => p.banks | 2 => p.channels | 3 => p.larder | 4 => p.copy | 5 => p.fabric
  | 6 => p.stations | 7 => p.ports | _ => p.vfs

/-- RATE, DEPTH and LEND of a VF's profile of a kind (R364). -/
def rate (s : State) (vf kind : Nat) : Nat := ((wordGet s.hreg (pageReg vf (0x80 + 8 * kind))).extractLsb' 48 16).toNat
/-- DEPTH of a VF's profile of a kind (R364). -/
def depth (s : State) (vf kind : Nat) : Nat := ((wordGet s.hreg (pageReg vf (0x80 + 8 * kind))).extractLsb' 32 16).toNat
/-- LEND of a VF's profile of a kind (R364). -/
def lends (s : State) (vf kind : Nat) : Bool := (wordGet s.hreg (pageReg vf (0x80 + 8 * kind))).getLsbD 31

/-- The bucket of a VF at an arbiter, in 1/1,024 token (R366). -/
def bucket (s : State) (kind unit vf : Nat) : Int := (mapGet s.buckets (2 ^ 24 * kind + 1024 * unit + vf)).getD 0
/-- The pool of an arbiter (R366). -/
def pool (s : State) (kind unit : Nat) : Nat := (mapGet s.pools (2 ^ 14 * kind + unit)).getD 0

/-- A bucket before it accrues: at DEPTH where its profile was written in the cycle that ends (R365, R372). -/
def filled (s : State) (kind unit vf : Nat) : Int :=
  if (vf, kind) ∈ s.refills then 1024 * (depth s vf kind : Int) else bucket s kind unit vf
/-- A bucket with the rate of one fabric cycle, up to its depth (R366). -/
def accrued (s : State) (kind unit vf : Nat) : Int :=
  min (filled s kind unit vf + rate s vf kind) (1024 * (depth s vf kind : Int))

/-- The VFs for which an arbiter holds buckets (R363). -/
def arbiterVfs (s : State) (kind unit : Nat) : List Nat :=
  (s.parts.filter fun e => (arbitersOf e.2 kind).contains unit).flatMap fun e => e.2.vfs

/-- A pool with what one fabric cycle adds: what overflows under LEND, and the capacity that no VF holds (R366). -/
def swollen (s : State) (kind unit : Nat) : Nat :=
  let vfs := arbiterVfs s kind unit
  min (pool s kind unit + ((vfs.filter fun v => lends s v kind).map fun v =>
      (filled s kind unit v + rate s v kind - 1024 * (depth s v kind : Int)).toNat).sum
    + (capacityOf kind - (vfs.map fun v => rate s v kind).sum)) (1024 * 65535)

/-- No unit belongs to two partitions, no number of a unit or VF is out of range, and no list names one twice (R354, R356). -/
def PartitionsDisjoint (s : State) : Prop :=
  (s.parts.map (·.1)).Nodup ∧
  (∀ e ∈ s.parts, ∀ r ∈ [(0, 64), (1, 1024), (2, 256), (3, 128), (4, 512), (5, 8), (6, 24), (7, 4), (8, 1024)],
    (unitsOfKind e.2 r.1).Nodup ∧ ∀ u ∈ unitsOfKind e.2 r.1, u < r.2) ∧
  s.parts.Pairwise fun a b => ∀ kind < 9, ∀ u ∈ unitsOfKind a.2 kind, u ∉ unitsOfKind b.2 kind

/-- A partition command is refused with a RESULT, and nothing else changes (R355, R356). -/
def Refused (i : Instr) (s : State) (result : Nat) : Prop :=
  ∃ t, Happens i s t { s with partstat := t.partstat } ∧ t.partstat.toNat % 16 = result

/-- The units are owned and the partition is not drained (R356). -/
def Busy (s : State) (part : Nat) : Prop :=
  (∃ p, mapGet s.parts part = some p ∧ ∃ kind < 9, unitsOfKind p kind ≠ []) ∧ mapGet s.drainPart part ≠ some .drained

/-- A request goes before another: one whose bucket holds a token, by age, then a borrower, by BPRIO and age; the lower VF of
several (R366, R367, R372). -/
def before (s : State) (kind unit : Nat) (a b : BucketRequest) : Prop :=
  let owner := fun (r : BucketRequest) => 1024 ≤ bucket s kind unit r.vf
  let prio := fun (r : BucketRequest) => ((wordGet s.hreg (pageReg r.vf (0x80 + 8 * kind))).extractLsb' 29 2).toNat
  let younger := a.since < b.since ∨ (a.since = b.since ∧ a.vf < b.vf)
  (owner a ∧ ¬owner b) ∨ (owner a ∧ owner b ∧ younger) ∨
    (¬owner a ∧ ¬owner b ∧ (prio b < prio a ∨ (prio a = prio b ∧ younger)))

/-- The drain state of a scope. -/
def drainAt (s : State) : DrainScope → Nat → Drain
  | .vf, v => (mapGet s.drainVf v).getD .running
  | .partition, p => (mapGet s.drainPart p).getD .running
  | .device, _ => s.drainDevice

/-- The drain state of one scope becomes `d`, and the VFs that it takes to DRAINED, which `takes` names, take their policy (R359,
R404, R409). -/
def DrainBecomes (i : Instr) (s : State) (scope : DrainScope) (target : Nat) (d : Drain) (takes : State → Nat → Prop) : Prop :=
  ∃ t, Happens i s t { s with drainVf := t.drainVf, drainPart := t.drainPart, drainDevice := t.drainDevice, policy := t.policy
                              measured := t.measured } ∧
    drainAt t scope target = d ∧
    (∀ sc x, (sc, x) ≠ (scope, target) → ¬(sc = .device ∧ scope = .device) → drainAt t sc x = drainAt s sc x) ∧
    ∀ v < 1024, (takes t v →
        mapGet t.policy v = some (((policyOf s v).extractLsb' 48 16).toNat, (policyOf s v).getLsbD 47)) ∧
      (¬takes t v → mapGet t.policy v = mapGet s.policy v ∧ mapGet t.measured v = mapGet s.measured v)

end Sys2Proof.Claims

/-! ## Events of the physical function -/

/-- R354 to R356, R359, R361, R364, R365, R397, R404, R409: PARTCMD defines and deletes partitions or refuses; CELLRES,
profiles, policies and queue assignments are kept or refused; a scope drains, at once where it holds no accepted packet, and at
DRAINED policies take effect; the buckets of an accepted profile are filled before the next fabric cycle. PARTSTAT after an
accepted write, which queues are idle, and the policy at DRAINED over the three scopes, are the model's readings (log entries 35,
53 and 57). -/
def Obligations.PartitionEvents : Prop :=
  (∀ (s : State) (part : Nat), 2 ≤ s.bringup → s.bringup ≠ 8 →
    let p := described s
    let reserved := (∃ n, 3072 ≤ n ∧ n < 4096 ∧ descBit s n) ∨ ∃ n, 2020 ≤ n ∧ n < 2048 ∧ descBit s n
    let conflict := ∃ e ∈ s.parts, e.1 ≠ part ∧ ∃ kind < 9, ∃ u ∈ unitsOfKind p kind, u ∈ unitsOfKind e.2 kind
    let incomplete := p.clusters = [] ∨ p.banks = [] ∨ p.channels = [] ∨ p.larder = []
    let fits := ∀ kind < 8, profilesFit p kind (fun v => profile s v kind) = true
    let gone := fun c => ∃ o, mapGet s.parts part = some o ∧ c / 8 ∈ o.clusters ∧ c / 8 ∉ p.clusters
    (reserved → Refused (.partcmdDefine part) s 5) ∧
    (¬reserved → Busy s part → Refused (.partcmdDefine part) s 3) ∧
    (¬reserved → ¬Busy s part → conflict → Refused (.partcmdDefine part) s 1) ∧
    (¬reserved → ¬Busy s part → ¬conflict → incomplete → Refused (.partcmdDefine part) s 2) ∧
    (¬reserved → ¬Busy s part → ¬conflict → ¬incomplete → ¬fits → Refused (.partcmdDefine part) s 4) ∧
    (¬reserved → ¬Busy s part → ¬conflict → ¬incomplete → fits →
      ∃ t, Happens (.partcmdDefine part) s t { s with parts := t.parts, hreg := t.hreg, governor := t.governor, partstat := 0 } ∧
        (∀ k, mapGet t.parts k = if k = part then some p else mapGet s.parts k) ∧
        (∀ c, gone c → wordGet t.hreg (pfReg (0x2000 + 8 * c)) = 0 ∧ mapGet t.governor c = none) ∧
        ∀ r, (∀ c, gone c → r ≠ pfReg (0x2000 + 8 * c)) → wordGet t.hreg r = wordGet s.hreg r) ∧
    (Busy s part → Refused (.partcmdDelete part) s 3) ∧
    (¬Busy s part →
      ∃ t, Happens (.partcmdDelete part) s t { s with parts := t.parts, hreg := t.hreg, governor := t.governor, partstat := 0 } ∧
        (∀ k, mapGet t.parts k = if k = part then none else mapGet s.parts k) ∧
        ∀ c o, mapGet s.parts part = some o → c / 8 ∈ o.clusters →
          wordGet t.hreg (pfReg (0x2000 + 8 * c)) = 0 ∧ mapGet t.governor c = none)) ∧
  (∀ (s : State) (cell : Nat) (v : BitVec 64),
    let owned := ∃ part p, partOf s (v.extractLsb' 0 10).toNat = some (part, p) ∧ cell / 8 ∈ p.clusters
    (v.getLsbD 15 = false ∨ owned → WritesRegister (.cellresWrite cell v) s (pfReg (0x2000 + 8 * cell)) (v &&& 0x83FF)) ∧
    (v.getLsbD 15 = true → ¬owned → Refused (.cellresWrite cell v) s 1)) ∧
  (∀ (s : State) (vf kind : Nat) (v : BitVec 64), kind < 8 →
    let reserved := v.extractLsb' 21 8 ≠ 0
    let restricted := (kind ≠ 1 ∧ v.extractLsb' 16 5 ≠ 0) ∨ (kind ≠ 6 ∧ v.extractLsb' 0 16 ≠ 0)
    (reserved → Refused (.bktProfileWrite vf kind v) s 5) ∧
    (¬reserved → restricted → Refused (.bktProfileWrite vf kind v) s 4) ∧
    (¬reserved → ¬restricted → partOf s vf = none →
      ∃ t, Happens (.bktProfileWrite vf kind v) s t { s with hreg := t.hreg, partstat := 0 } ∧
      ∀ r, wordGet t.hreg r = if r = pageReg vf (0x80 + 8 * kind) then v else wordGet s.hreg r) ∧
    ∀ part p, ¬reserved → ¬restricted → partOf s vf = some (part, p) →
      let fits := profilesFit p kind fun o => if o = vf then v.toNat else profile s o kind
      (fits = false → Refused (.bktProfileWrite vf kind v) s 4) ∧
      (fits = true →
        ∃ t, Happens (.bktProfileWrite vf kind v) s t
            { s with hreg := t.hreg, refills := t.refills, partstat := 0 } ∧
          (∀ r, wordGet t.hreg r = if r = pageReg vf (0x80 + 8 * kind) then v else wordGet s.hreg r) ∧
          ∀ r, r ∈ t.refills ↔ r ∈ s.refills ∨ r = (vf, kind))) ∧
  (∀ (s : State) (vf q : Nat) (v : BitVec 64),
    let taken := ∃ o < 1024, o ≠ vf ∧ ∃ i < 64, (wordGet s.hreg (pageReg o (0x100 + 8 * i))).getLsbD 63 = true ∧
      (wordGet s.hreg (pageReg o (0x100 + 8 * i))).extractLsb' 0 12 = v.extractLsb' 0 12
    WritesRegister (.policyWrite vf v) s (pageReg vf 0) (v &&& 0xFFFFF80000000000) ∧
    (v.getLsbD 63 = false ∨ ¬taken →
      WritesRegister (.qassignWrite vf q v) s (pageReg vf (0x100 + 8 * q)) (v &&& 0x8000000000000FFF)) ∧
    (v.getLsbD 63 = true → taken → Refused (.qassignWrite vf q v) s 1)) ∧
  ∀ (s : State) (scope : DrainScope) (target : Nat),
    let inScope := fun v => match scope with
      | .vf => v = target
      | .partition => ∃ p, mapGet s.parts target = some p ∧ v ∈ p.vfs
      | .device => v < 1024
    let idle := ∀ e ∈ s.queues, inScope (e.1 / 64) →
      if e.2.qring.getLsbD 61 then e.2.rp = e.2.wp
      else e.2.ended = [] ∧ ∀ l ∈ s.launches, l.1 / 64 = e.1 / 64 → l.2.queue ≠ e.1 % 64
    (¬idle → ∃ t, Happens (.drainEnter scope target) s t
        { s with drainVf := t.drainVf, drainPart := t.drainPart, drainDevice := t.drainDevice } ∧
      drainAt t scope target = .draining ∧
      ∀ sc x, (sc, x) ≠ (scope, target) → ¬(sc = .device ∧ scope = .device) → drainAt t sc x = drainAt s sc x) ∧
    let reaches := fun (t : State) v => vfDrain s v ≠ 2 ∧ vfDrain t v = 2
    (PartitionsDisjoint s → idle →
      DrainBecomes (.drainEnter scope target) s scope target .drained fun t v => inScope v ∧ vfDrain t v = 2) ∧
    (PartitionsDisjoint s → DrainBecomes (.drainReturn scope target) s scope target .running reaches) ∧
    (PartitionsDisjoint s → drainAt s scope target = .draining → idle →
      DrainBecomes (.drainComplete scope target) s scope target .drained reaches) ∧
    (drainAt s scope target = .draining → ¬idle → exec (.drainComplete scope target) s = .next s)

/-- R17, R35, R366, R367: a fabric cycle adds each VF's rate to its bucket up to its depth, and what overflows under LEND and
what no VF holds to the pool, and readies gangs that held for a token that is there now; a round grants owners before borrowers,
an owner on one token. A walker's accrual for the VFs of several partitions, and a sum of rates above the capacity, are the
model's (log entry 27). A transfer performed at once owes its tokens until a round grants them (log entry 59). -/
def Obligations.TokenEvents : Prop :=
  (∀ s : State, ∃ t, exec .bucketAccrual s = .next t ∧ t.clock = s.clock + 1 ∧ t.fresh = [] ∧ t.hreg = s.hreg ∧
    t.dram = s.dram ∧ t.spad = s.spad ∧ t.launches = s.launches ∧ t.queues = s.queues ∧ t.freq = s.freq ∧
    (t.acycle = if s.aphase + s.freq < 1400 then s.acycle else s.acycle + 1) ∧
    (t.aphase = if s.aphase + s.freq < 1400 then s.aphase + s.freq else s.aphase + s.freq - 1400) ∧
    (∀ k g, mapGet s.gangs k = some g → ∃ c, mapGet t.gangs k = some { g with heldCycles := c } ∨
      (g.hold = some .token ∧ mapGet t.gangs k = some { g with heldCycles := c, hold := none, ready := t.acycle })) ∧
    t.refills = [] ∧ (PartitionsDisjoint s → ∀ kind < 8, ∀ u,
      let vfs := arbiterVfs s kind u
      let sums := (vfs.map fun v => rate s v kind).sum
      (s.owed = [] → t.owed = [] ∧ (∀ v ∈ vfs, bucket t kind u v = accrued s kind u v) ∧
        (vfs ≠ [] → sums ≤ capacityOf kind → pool t kind u = swollen s kind u)) ∧
      ∀ v n, s.owed = [⟨kind, u, v, n⟩] → v ∈ vfs →
        (1024 ≤ accrued s kind u v → t.owed = [] ∧ bucket t kind u v = accrued s kind u v - 1024 * (n : Int)) ∧
        (accrued s kind u v < 1024 → sums ≤ capacityOf kind → bucket t kind u v = accrued s kind u v ∧
          if 1024 * n ≤ swollen s kind u then t.owed = [] ∧ pool t kind u = swollen s kind u - 1024 * n
          else t.owed = s.owed ∧ pool t kind u = swollen s kind u))) ∧
  ∀ (s : State) (kind unit : Nat) (requests : List BucketRequest),
    let serves := fun (r : BucketRequest) => (partOf s r.vf).any fun e => (arbitersOf e.2 kind).contains unit
    (∀ r, requests = [r] → serves r = true →
      let c := bucket s kind unit r.vf
      ∃ t, Happens (.arbitrationRound kind unit requests) s t { s with buckets := t.buckets, pools := t.pools } ∧
        (∀ k, mapGet t.buckets k = if 1024 ≤ c ∧ k = 2 ^ 24 * kind + 1024 * unit + r.vf then some (c - 1024 * r.tokens)
          else mapGet s.buckets k) ∧
        ∀ k, mapGet t.pools k = if c < 1024 ∧ 1024 * r.tokens ≤ pool s kind unit ∧ k = 2 ^ 14 * kind + unit
          then some (pool s kind unit - 1024 * r.tokens) else mapGet s.pools k) ∧
    ∃ order : List BucketRequest, order.Perm (requests.filter serves) ∧
      (order.Pairwise fun a b => ¬before s kind unit b a) ∧
      exec (.arbitrationRound kind unit requests) s
        = .next (order.foldl (fun s r => (grant s kind unit r.vf r.tokens).getD s) s)

namespace Sys2Proof.Claims

/-! ## Faults of units, and partition reset -/

/-- The partitions whose VFs `mine` names have been reset (R377, R378): their launches are gone, their queues rewound to RP and
stopped, their translations forgotten, their functions signalled, SLICE and the save areas at Reset; the other registers, device and host memory, events, partitions,
policies, drain states and buckets stay. -/
def ResetsPartitions (s t : State) (mine : Nat → Prop) : Prop :=
  (∀ k, (mine (k / 64) → mapGet t.launches k = none) ∧ (¬mine (k / 64) → mapGet t.launches k = mapGet s.launches k)) ∧
  (∀ k, (¬mine (k / 64) → mapGet t.queues k = mapGet s.queues k) ∧
    (mine (k / 64) → (∀ q, mapGet s.queues k = some q → mapGet t.queues k = some { q with sp := q.rp, stopped := true, ended := [] }) ∧
      (mapGet s.queues k = none → mapGet t.queues k =
        if (wordGet s.hreg (pageReg (k / 64) (0x100 + 8 * (k % 64)))).getLsbD 63 then some ⟨0, 0, 0, 0, 0, true, 0, [], []⟩
        else none))) ∧
  (∀ v, mine v → ∀ o ∈ [0x30, 0x40, 0x48, 0x50, 0x58], wordGet t.hreg (pageReg v o) = 0) ∧
  (∀ r, r ≠ pfReg 0x220 → (∀ v, mine v → ∀ o ∈ [0x30, 0x40, 0x48, 0x50, 0x58], r ≠ pageReg v o) →
    wordGet t.hreg r = wordGet s.hreg r) ∧
  (∀ e, e ∈ t.walkCache ↔ e ∈ s.walkCache ∧ ¬mine e.vf) ∧
  (∀ k, (mine (k / 2 ^ 21) → mapGet t.windows k = none) ∧ (¬mine (k / 2 ^ 21) → mapGet t.windows k = mapGet s.windows k)) ∧
  (∀ e, e ∈ t.tlb ↔ e ∈ s.tlb ∧ ¬mine e.vf) ∧ (∀ r, r ∈ t.requests ↔ r ∈ s.requests ∧ ¬mine r.vf) ∧
  (∀ v, v ∈ t.tlbErr ↔ v ∈ s.tlbErr ∧ ¬mine v) ∧ t.clamped = s.clamped ∧
  (∀ e ∈ t.gangs, e ∈ s.gangs ∧ ∀ w, (e.2.wg, w) ∈ s.workgroups → mapGet s.launches (64 * w.vf + w.lslot) ≠ none → w.lslot < 64 →
    ¬mine w.vf) ∧
  (∀ e ∈ t.joins, e ∈ s.joins ∧ (mapGet s.launches (64 * e.2.vf + e.2.lslot) ≠ none → e.2.lslot < 64 → ¬mine e.2.vf)) ∧
  t.dram = s.dram ∧ t.voids = s.voids ∧ t.host = s.host ∧ t.events = s.events ∧ t.parts = s.parts ∧ t.policy = s.policy ∧
  t.drainVf = s.drainVf ∧
  t.buckets = s.buckets ∧ t.clock = s.clock

/-- Nothing of the bays and cells of the partition is left: units, b registers, scratchpad contents, rings, copies and descriptor
copies; no line of its banks is dirty (R377). -/
def CellsCleared (t : State) (p : Partition) : Prop :=
  ∀ cell, cell / 8 ∈ p.clusters → (∀ bay, bay / 4 = cell → mapGet t.matrix bay = none) ∧
    (∀ k, k / 64 = cell → wordGet t.bregs k = 0) ∧ (∀ k, k / 2 ^ 20 = cell → wordGet t.spad k = 0) ∧
    (∀ k, k / 16 = cell → mapGet t.rings k = none) ∧ (∀ k, k / 2 ^ 20 = cell → mapGet t.descs k = none) ∧
    mapGet t.governor cell = none ∧ (∀ k, k / 1536 = cell → mapGet t.window k = none) ∧
    (∀ k c, mapGet t.copies k = some c → c.cell ≠ cell) ∧
    ∀ k e, mapGet t.l2 k = some e → e.bank ∈ p.banks → e.dirty = false

/-- An entry is written into a partition's log (R375). -/
def Logged (s t : State) (part : Nat) (e : LogEntry) : Prop :=
  e ∈ (mapGet t.log part).getD [] ∧ e.time = s.clock ∧ e.part = part

/-- A health counter has risen by one, and no other has changed. -/
def Counted (s t : State) (n : Nat) : Prop :=
  ∀ k, mapGet t.health k = if k = n then some ((mapGet s.health k).getD 0 + 1) else mapGet s.health k

/-- Trigger `src` of the plate finds it armed and enabled (R387). -/
def Armed (s : State) (src : Nat) : Prop := (plateCtl s).getLsbD 7 = true ∧ (plateCtl s).getLsbD src = true

end Sys2Proof.Claims

/-! ## Events of faults, errors and debugging -/

/-- R12, R323, R376 to R378, R380, R392, R412: MARK_OVERDUE escalates at either limit; HANG, UNCORRECTABLE in a structure of a
die that carries it and a thermal trip at 115 °C reset the partitions they concern; the hold of a trip ends below 95 °C. Which
die carries a unit that no partition owns, and the numbers of the dies, are the model's (log entry 70). What a trip does to the
clock is the model's reading (log entry 41). -/
def Obligations.UncontainedFaultEvents : Prop :=
  (∀ (s : State) (slot : Nat) (g : Gang), mapGet s.gangs slot = some g → g.ended = false → g.stopped = false →
    (g.sealed = true → g.charged = false → 4096 ≤ g.markCount →
      exec (.markOverdueCount slot) s = .next (takeFault s slot g (lenAt s slot g) (precise .markOverdue 4096))) ∧
    (∀ w, mapGet s.workgroups g.wg = some w → w.acted = true → w.phase = .running → g.hold ≠ none → g.hold ≠ some .brk →
      (g.sealed = true ∨ g.tcause.getLsbD 63 = true) → 65536 ≤ g.heldCycles →
      exec (.markOverdueHeld slot) s = .next (takeFault s slot g (lenAt s slot g) (precise .markOverdue 65536)))) ∧
  (∀ (s : State) (vf lslot part : Nat) (p : Partition) (l : Launch), lslot < 64 → PartitionsDisjoint s →
    mapGet s.launches (64 * vf + lslot) = some l → partOf s vf = some (part, p) →
    let w := wordGet s.hreg (pfReg (0x1000 + 8 * part))
    let limit := w.toNat % 2 ^ 32
    w.getLsbD 63 = true → limit ≠ 0 → l.started + 1400000 * limit ≤ s.clock → l.phase = .running →
    ∃ t e, exec (.hangRuntime vf lslot) s = .next t ∧ ResetsPartitions s t (· ∈ p.vfs) ∧ CellsCleared t p ∧ Logged s t part e ∧
      e.kind = 1 ∧ e.code = 0xE1 ∧ e.detail = 0 ∧ e.vf = vf ∧ e.lslot = lslot ∧ e.fence = l.fence ∧
      (∀ k o, mapGet s.launches k = some o → k ≠ 64 * vf + lslot → k / 64 ∈ p.vfs → ∃ x, Logged s t part x ∧ x.kind = 2 ∧
        x.code = 0xE1 ∧ x.detail = 0 ∧ x.vf = k / 64 ∧ x.lslot = k % 64 ∧ x.fence = o.fence) ∧
      ⟨none, 1⟩ ∈ t.messages.drop s.messages.length ∧ ∀ v ∈ p.vfs, ⟨some v, 2⟩ ∈ t.messages.drop s.messages.length) ∧
  (∀ (s : State) (part : Nat) (p : Partition), PartitionsDisjoint s → mapGet s.parts part = some p →
    (∃ t e, exec (.hangUnitTimeout part) s = .next t ∧ ResetsPartitions s t (· ∈ p.vfs) ∧ CellsCleared t p ∧ Logged s t part e ∧
      e.kind = 1 ∧ e.code = 0xE1 ∧ e.detail = 1 ∧ e.lslot = 0 ∧ e.fence = 0 ∧
      ∀ k o, mapGet s.launches k = some o → k / 64 ∈ p.vfs → ∃ x, Logged s t part x ∧ x.kind = 2 ∧ x.code = 0xE1 ∧
        x.detail = 1 ∧ x.vf = k / 64 ∧ x.lslot = k % 64 ∧ x.fence = o.fence) ∧
    (∀ die detail, die < 4 → detail < 5 → detail ≠ 2 →
      (if detail = 3 then ∃ b ∈ p.larder, b / 32 = die else ∃ c ∈ p.clusters, c / 16 = die) → ∃ t e, exec (.sramUncorrectable (some part) die detail) s = .next t ∧ ResetsPartitions s t (· ∈ p.vfs) ∧
      CellsCleared t p ∧ Counted s t (8192 + 16 * die + detail) ∧ Logged s t part e ∧ e.kind = 1 ∧ e.code = 0xE0 ∧
      e.detail = detail)) ∧
  ∀ (s : State), PartitionsDisjoint s →
    let owned := fun v => ∃ e ∈ s.parts, v ∈ e.2.vfs
    (s.trip = false → (∃ e ∈ s.temps, 115 ≤ e.2) →
      ∃ t, exec .thermalTrip s = .next t ∧ t.trip = true ∧ ResetsPartitions s t owned ∧ ∀ e ∈ s.parts, CellsCleared t e.2) ∧
    ((∀ e ∈ s.temps, e.2 < 115) → exec .thermalTrip s = .next s) ∧
    (∀ die detail, (detail = 5 ∧ die < 6) ∨ (die < 4 ∧ detail < 5 ∧ detail ≠ 2) → ∃ t, exec (.sramUncorrectable none die detail) s = .next t ∧ ResetsPartitions s t owned ∧
      ∀ e ∈ s.parts, CellsCleared t e.2) ∧
    ((∀ e ∈ s.temps, e.2 < 95) → exec .thermalTripRelease s = .next { s with trip := false }) ∧
    ((∃ e ∈ s.temps, 95 ≤ e.2) → exec .thermalTripRelease s = .next s)

/-- R12, R17, R217, R270, R293, R385 to R387, R389, R390, R405, R406, R412: a failing link ends what is outstanding on it;
corrected errors are counted, a clean line with an error is dropped, a lost line is poisoned, logged and quarantined; the
temperatures and the power set the clock; a watch event is written or counted as dropped; the management trigger takes a plate.
Which elements are missing on a failed link, CODE of an entry of KIND 011 or 100, the dies' numbers and the release of the
thresholds are the model's (log entries 1, 24, 70 and 71). Which of several outstanding accesses a failing link reports, the
merging of quarantined regions, and a watch queue beyond the memory are the model's readings (log entries 36, 37 and 46), and a
plate record holds PC, EM and PM in words 1 to 3, which is the model's order (log entry 12). -/
def Obligations.ErrorAndDebugEvents : Prop :=
  (∀ (s : State) (link : Nat),
    let peer := ((mapGet s.links link).map (·.peer)).getD 0
    let failed := fun (t : State) => ∀ k, mapGet t.links k = if k = link then some ⟨.failed, peer⟩ else mapGet s.links k
    let lost := fun (l : OutLoad) => l.complete = false ∧ ∃ m, l.remote = some (link, m)
    let waits := fun (g : Gang) => (∃ l ∈ g.loads, lost l) ∨ ∃ x ∈ g.stores, ∃ m, x.remote = some (link, m)
    let recordLost := ∃ x ∈ s.sends, x.2.2 = link
    let t := { s with links := mapSet s.links link ⟨.failed, peer⟩, messages := s.messages ++ [⟨none, 3⟩] }
    let faults := fun slot (m : BitVec 64) late addr => m ≠ 0 → ∃ missing, missing ≠ 0 ∧ missing &&& m = missing ∧
      let u := putLate { t with free := t.free + 1 } slot (late.filter fun x => x.mask &&& missing == 0)
      ∀ g, mapGet u.gangs slot = some g → exec (.linkFailure link) s
        = .next (takeFault u slot g (lenAt u slot g) { precise .fabricLoss missing with logAddr := some addr })
    failed t ∧
    ((∀ e ∈ s.gangs, ¬waits e.2) → ¬recordLost →
      (lostCopies s link = [] → lostOps s link = [] → exec (.linkFailure link) s = .next { t with free := t.free + 1 }) ∧
      (∀ id c source, lostCopies s link = [(id, c, source)] → lostOps s link = [] →
        let u := failCopy t id c .fabricLoss 0 source
        exec (.linkFailure link) s = .next { u with free := u.free + 1 }) ∧
      (∀ bay o, lostCopies s link = [] → lostOps s link = [(bay, o)] → ∃ missing, missing ≠ 0 ∧
        missing &&& outstandingOn o link = missing ∧ exec (.linkFailure link) s
          = .next (unitFails { t with free := t.free + 1 } o.slot bay o (unitFault o.addr o.td .fabricLoss 0 missing)))) ∧
    (∀ a b k chip part p, (∀ e ∈ s.gangs, ¬waits e.2) → s.sends = a ++ (k, chip, link) :: b → (∀ x ∈ a, x.2.2 ≠ link) →
      partOf s (k % 65536 / 64) = some (part, p) → PartitionsDisjoint s →
      ∃ t e, exec (.linkFailure link) s = .next t ∧ failed t ∧ ResetsPartitions s t (· ∈ p.vfs) ∧ CellsCleared t p ∧
        Logged s t part e ∧ e.kind = 1 ∧ e.code = FaultCode.fabricLoss.code) ∧
    ∀ a b slot g, s.gangs = a ++ (slot, g) :: b → (∀ e ∈ a, ¬waits e.2) →
      (∀ x l y m, g.loads = x ++ l :: y → (∀ o ∈ x, ¬lost o) → l.complete = false → l.remote = some (link, m) →
        faults slot m l.late l.addr) ∧
      (∀ x o y m, (∀ l ∈ g.loads, ¬lost l) → g.stores = x ++ o :: y → (∀ z ∈ x, ∀ m, z.remote ≠ some (link, m)) →
        o.remote = some (link, m) → faults slot m [] o.addr)) ∧
  (∀ (s : State) (die kind : Nat),
    let carries := (kind = 5 ∧ die < 6) ∨ (die < 4 ∧ kind < 5)
    (carries → ∃ t, Happens (.softErrorCorrected die kind) s t { s with health := t.health } ∧
      Counted s t (4096 + 16 * die + kind)) ∧
    (¬carries → exec (.softErrorCorrected die kind) s = .next s)) ∧
  (∀ (s : State) (line : Nat) (x : L2Line), mapGet s.l2 line = some x →
    let mem := line % 2 ^ 36
    (x.dirty = true → exec (.l2LineRepair line) s = .next s) ∧
    (x.dirty = false → ∃ t, exec (.l2LineRepair line) s = .next t ∧
      (∀ k, mapGet t.l2 k = if k = line then none else mapGet s.l2 k) ∧ t.dram = s.dram ∧ t.voids = s.voids ∧ t.poison = s.poison ∧
      Counted s t (8192 + 16 * (line / 2 ^ 40) + 2) ∧
      (mem ∈ s.repaired → t.log = s.log ∧ t.messages = s.messages) ∧
      ∀ part p, mem ∉ s.repaired → lineOwner s mem = some (part, p) →
        ∃ e, Logged s t part e ∧ e.kind = 3 ∧ e.code ∈ listedCodes ∧ e.detail = 2 ∧ t.messages = s.messages ++ [⟨none, 2⟩])) ∧
  (∀ (s : State) (line : Nat), line ∉ s.poison →
    ∃ t, exec (.linePoison line) s = .next t ∧ t.poison = s.poison ++ [line] ∧ t.dram = s.dram ∧ t.voids = s.voids ∧ t.gangs = s.gangs ∧
      ∀ part p, lineOwner s line = some (part, p) →
        (∃ e, Logged s t part e ∧ e.kind = 4 ∧ e.code ∈ listedCodes) ∧
        (part, paOf p (128 * line) / 65536) ∈ t.quarantinedPages ∧
        ((part, paOf p (128 * line) / 65536) ∉ s.quarantinedPages → s.quarantine.length < 512 →
          t.quarantined = min (s.quarantined + 1) (2 ^ 32 - 1) ∧
          ∃ q ∈ t.quarantine, q.part = part ∧ q.base ≤ paOf p (128 * line) / 65536 * 65536 ∧
            paOf p (128 * line) / 65536 * 65536 < q.base + regionSize q.size)) ∧
  (∀ (s : State) (die temp : Nat) (high : Bool), die < 14 →
    let hot := fun (x : State) n => ∃ e ∈ x.temps, n ≤ e.2
    ∃ t, Happens (.throttleChange ⟨die, temp, high⟩) s t
        { s with temps := t.temps, overPower := high, warm := t.warm, deep := t.deep, freq := t.freq, messages := t.messages } ∧
      (∀ k, mapGet t.temps k = if k = die then some temp else mapGet s.temps k) ∧
      (t.warm = true ↔ hot t 95 ∨ (s.warm = true ∧ hot t 90)) ∧ (t.deep = true ↔ hot t 105 ∨ (s.deep = true ∧ hot t 100)) ∧
      (t.freq = if s.bringup ≠ 4 then s.freq else if t.deep then 350 else if t.warm || high then 525 else 700) ∧
      t.messages = s.messages ++ if t.freq = s.freq then [] else [⟨none, 3⟩]) ∧
  (∀ (s : State) (e : WatchEvent) (r : List WatchEvent) (part : Nat) (p : Partition), s.watch = e :: r → ¬Armed s 2 →
    partOf s e.vf = some (part, p) →
    let reg := fun (x : State) o => (wordGet x.hreg (vfReg e.vf o)).toNat
    let base := bits (reg s 0x140) 12 45 * 4096
    let last := (mapGet s.watchSeq e.vf).getD 0
    let seq := if (last + 1) % 65536 = 0 then 1 else (last + 1) % 65536
    let slot := Locus.device p (consecutive (base + 32 * reg s 0x148) 32)
    ((reg s 0x148 + 1) % 128 = reg s 0x150 →
      ∃ t, Happens .watchEventWrite s t { s with watch := r, hreg := t.hreg, watchSeq := t.watchSeq } ∧
        reg t 0x158 = 2 ^ 32 + min (reg s 0x158 % 2 ^ 32 + 1) (2 ^ 32 - 1) ∧ mapGet t.watchSeq e.vf = some seq) ∧
    ((reg s 0x148 + 1) % 128 ≠ reg s 0x150 → base + 4096 ≤ memorySize p → (cells slot).Nodup → e.vf < 1024 → e.kind < 16 →
      ∃ t, Happens .watchEventWrite s t { s with watch := r, hreg := t.hreg, watchSeq := t.watchSeq, dram := t.dram
                                                 l2 := t.l2, buckets := t.buckets, pools := t.pools, owed := t.owed
                                                 messages := s.messages ++ [⟨some e.vf, 1⟩] } ∧
        reg t 0x148 = (reg s 0x148 + 1) % 128 ∧ mapGet t.watchSeq e.vf = some seq ∧
        bytesAt t slot = natToBytes 8 (BitVec.ofNat 64 seq <<< 48 ||| BitVec.ofNat 64 e.vf <<< 38 |||
            e.bytes.setWidth 64 <<< 16 ||| e.wps.setWidth 64 <<< 12 ||| BitVec.ofNat 64 e.kind <<< 4).toNat
          ++ natToBytes 8 e.va ++ natToBytes 8 e.source ++ natToBytes 8 e.time ∧
        ∀ q, IsByte q → q ∉ cells slot → peek t q = peek s q)) ∧
  (∀ (s : State) (vf : Nat), WritesRegister (.weqstatClear vf) s (vfReg vf 0x158) 0) ∧
  ∀ (s : State),
    (¬Armed s 1 → exec .plateFire s = .next s) ∧
    (Armed s 1 → ∃ t, Happens .plateFire s t { s with hreg := t.hreg, plates := t.plates, platestat := t.platestat } ∧
      (∀ k, wordGet t.hreg k = if k = pfReg 0x220 then plateCtl s &&& ~~~0x80 else wordGet s.hreg k) ∧
      t.platestat = 1 <<< 61 ||| (BitVec.ofNat 57 s.clock).setWidth 64 ∧
      ∀ k < 8192, ∃ r ∈ t.plates, r.kind = 0 ∧ r.number = k ∧ ∀ g, mapGet s.gangs k = some g →
        r.words[1]? = some (BitVec.ofNat 64 g.pc) ∧ r.words[2]? = some (g.em.setWidth 64) ∧ r.words[3]? = some (g.pm.setWidth 64))

namespace Sys2Proof.Claims

/-! ## The host -/

/-- The words of a page of the survey window, as last refreshed (R401). -/
def pageWord (s : State) (page i : Nat) : Word := wordGet ((mapGet s.survey page).getD []) i

/-- A present leaf of stage 2, as the walker of the VF finds it, maps a range within one page of 64 KiB to `pas`, with read and
write permission as the access needs them (R336, R337, R396). -/
def ApertureMaps (s : State) (vf : Nat) (p : Partition) (reads writes : Bool) (addr n : Nat) (pas : List Nat) : Prop :=
  addr < 2 ^ (30 + (Config.aperture vf).val) ∧ ∃ pa size x, (stage2 s (schedStack s vf) vf p addr false []).1 = .ok pa size x ∧
    (reads = true → x.getLsbD 0 = true) ∧ (writes = true → x.getLsbD 1 = true) ∧ pas = consecutive pa n

/-- An AtomicOp as PCIe has it: FetchAdd or Swap of 4 or 8 bytes, CAS of 4, 8 or 16, aligned (R394). -/
def AtomicLegal (addr : Nat) (op : RemoteOp) (l c : List Byte) : Prop :=
  addr % l.length = 0 ∧ (((op = .add ∨ op = .exch) ∧ (l.length = 4 ∨ l.length = 8)) ∨
    (op = .cas ∧ (l.length = 4 ∨ l.length = 8 ∨ l.length = 16) ∧ c.length = l.length))

/-- What an AtomicOp leaves of an old value (R394). -/
def atomicLeaves (op : RemoteOp) (x : Nat) (l c : List Byte) : Nat :=
  match op with
  | .add => (x + bytesToNat l) % 2 ^ (8 * l.length)
  | .cas => if x = bytesToNat c then bytesToNat l else x
  | _ => bytesToNat l

/-- An access through an aperture fails: all ones where it reads, a count either way (R396). -/
def ApertureFails (s : State) (vf addr size : Nat) (op : BarOp) : Prop :=
  let answer : List Outgoing := match op with
    | .read => [.bar (some vf) (List.replicate size 0xFF)]
    | .write _ => []
    | .atomic _ l _ => [.bar (some vf) (List.replicate l.length 0xFF)]
  ∃ t, Happens (.bar2Access vf addr size op) s t
      { s with health := t.health, walkCache := t.walkCache, free := t.free, l2 := t.l2, buckets := t.buckets, pools := t.pools
               owed := t.owed, outbox := s.outbox ++ answer } ∧ Counted s t (2 * vf + 1)

/-- The function a measurement is asked of answers with block `b` (R409). -/
def Answers (s : State) (function block : Nat) (d : BitVec 512) (t : State) : Prop :=
  exec (.spdmRequest function block) s = .next t ∧ t = { s with free := t.free, outbox := s.outbox ++ [.spdm function block d] }

end Sys2Proof.Claims

/-! ## Events of the host and of bring-up -/

/-- R394, R396, R397, R401, R403, R409: a read, a write or an AtomicOp through a VF's aperture reaches what stage 2 maps, and
fails with all ones and a count where it maps nothing; the physical function's window reaches the partition's memory; a refresh
takes a page of the survey window with its generation; a link changes state; a measurement is answered. The permissions that an
aperture access needs, what an AtomicOp that PCIe lacks does, the physical function's access beyond the partition and that it
fills no L2 line are the model's (log entry 26), as is block 4 of a function that has none (log entry 54). The survey words and
the digests are the model's (log entry 54). -/
def Obligations.HostAccessEvents : Prop :=
  (∀ (s : State) (vf part : Nat) (p : Partition) (reads writes : Bool), partOf s vf = some (part, p) →
    let reach := fun addr n => (apertureParts s vf p reads writes (pagesOf addr n) []).1
    ∀ addr n, n ≠ 0 → addr / 65536 = (addr + n - 1) / 65536 →
      ∀ pas, reach addr n = some pas ↔ ApertureMaps s vf p reads writes addr n pas) ∧
  (∀ (s : State) (vf addr part : Nat) (p : Partition) (pas : List Nat), partOf s vf = some (part, p) →
    walksOf s (schedStack s vf) < 32 →
    let reach := fun reads writes n => (apertureParts s vf p reads writes (pagesOf addr n) []).1
    let place := Locus.device p pas
    let leaves := fun (op : BarOp) (data : List Byte) answer => (cells place).Nodup →
      ∃ t, Happens (.bar2Access vf addr data.length op) s t
          { s with l2 := t.l2, walkCache := t.walkCache, free := t.free, buckets := t.buckets, pools := t.pools, owed := t.owed
                   dram := t.dram, poison := t.poison, outbox := s.outbox ++ answer } ∧
        bytesAt t place = data ∧ ∀ q, IsByte q → q ∉ cells place → peek t q = peek s q
    (∀ n, reach true false n = some pas → (∀ x ∈ pas, dramKey p x / 128 ∉ s.poison) →
      ∃ t, Happens (.bar2Access vf addr n .read) s t
        { s with l2 := t.l2, walkCache := t.walkCache, free := t.free, buckets := t.buckets, pools := t.pools, owed := t.owed
                 outbox := s.outbox ++ [.bar (some vf) (bytesAt s place)] }) ∧
    (∀ l, reach false true l.length = some pas → leaves (.write l) l []) ∧
    (∀ op l c, AtomicLegal addr op l c → reach true true l.length = some pas → (∀ x ∈ pas, dramKey p x / 128 ∉ s.poison) →
      leaves (.atomic op l c) (natToBytes l.length (atomicLeaves op (bytesToNat (bytesAt s place)) l c))
        [.bar (some vf) (bytesAt s place)])) ∧
  (∀ (s : State) (vf addr n : Nat) (op : BarOp),
    (partOf s vf = none → ApertureFails s vf addr n op) ∧
    (∀ o l c, op = .atomic o l c → ¬AtomicLegal addr o l c → ApertureFails s vf addr n op) ∧
    ∀ part p, partOf s vf = some (part, p) →
      let room := walksOf s (schedStack s vf) < 32
      let finds := fun reads writes n => (apertureParts s vf p reads writes (pagesOf addr n) []).1 ≠ none
      (¬room → (∀ o l c, op = .atomic o l c → AtomicLegal addr o l c) → exec (.bar2Access vf addr n op) s = .next s) ∧
      (room → op = .read → ¬finds true false n → ApertureFails s vf addr n op) ∧
      (∀ l, room → op = .write l → ¬finds false true l.length → ApertureFails s vf addr n op) ∧
      ∀ o l c, room → op = .atomic o l c → ¬finds true true l.length → ApertureFails s vf addr n op) ∧
  (∀ (s : State) (addr : Nat) (p : Partition), mapGet s.parts ((wordGet s.hreg (pfReg 0x238)).toNat % 32) = some p →
    let place := fun n => Locus.device p (consecutive addr n)
    let inside := fun n => addr + n ≤ memorySize p ∧ addr + n ≤ 2 ^ 39
    let clean := fun n => ∀ i < n, dramKey p (addr + i) / 128 ∉ s.poison
    let leaves := fun (op : BarOp) (data : List Byte) answer => (cells (place data.length)).Nodup →
      ∃ t, Happens (.pfBar2Access addr data.length op) s t { s with dram := t.dram, poison := t.poison, outbox := s.outbox ++ answer } ∧
        bytesAt t (place data.length) = data ∧ ∀ q, IsByte q → q ∉ cells (place data.length) → peek t q = peek s q
    (∀ n, inside n → clean n →
      exec (.pfBar2Access addr n .read) s = .next { s with outbox := s.outbox ++ [.bar none (bytesAt s (place n))] }) ∧
    (∀ l, inside l.length → leaves (.write l) l []) ∧
    (∀ op l c, AtomicLegal addr op l c → inside l.length → clean l.length →
      leaves (.atomic op l c) (natToBytes l.length (atomicLeaves op (bytesToNat (bytesAt s (place l.length))) l c))
        [.bar none (bytesAt s (place l.length))]) ∧
    (∀ n, ¬inside n → ∃ t data, Happens (.pfBar2Access addr n .read) s t
      { s with free := t.free, outbox := s.outbox ++ [.bar none data] } ∧ data.length = n) ∧
    ∀ l, ¬inside l.length → ∃ t, Happens (.pfBar2Access addr l.length (.write l)) s t { s with free := t.free }) ∧
  (∀ (s : State) (page : Nat), 2 ≤ s.bringup → page < 256 → page ≠ 15 →
    ∃ t, Happens (.surveyRefresh page) s t { s with survey := t.survey, surveyGen := t.surveyGen } ∧
      (∀ k, k ≠ page → mapGet t.survey k = mapGet s.survey k ∧ mapGet t.surveyGen k = mapGet s.surveyGen k) ∧
      mapGet t.surveyGen page = some ((mapGet s.surveyGen page).getD 0 + 2) ∧
      (page = 0 → s.bringup < 256 → s.freq < 65536 → pageWord t 0 2
        = BitVec.ofNat 64 s.freq <<< 16 ||| s.ready.setWidth 64 <<< 8 ||| BitVec.ofNat 64 s.bringup) ∧
      (page = 1 → ∀ k < 28, ∀ x, mapGet s.links k = some x →
        ((pageWord t 1 (4 * k)).extractLsb' 43 21).toNat = x.peer % 2 ^ 21) ∧
      (∀ part i, page = 0x80 + 4 * part → part < 32 → i = 0 → (mapGet s.logSeq part).getD 0 < 2 ^ 64 →
        (pageWord t page i).toNat = (mapGet s.logSeq part).getD 0)) ∧
  (∀ (s : State) (link peer : Nat) (st : LinkState), st ≠ .failed →
    ∃ t, Happens (.linkStateChange link st peer) s t { s with links := t.links, messages := s.messages ++ [⟨none, 3⟩] } ∧
      ∀ k, mapGet t.links k = if k = link then some ⟨st, peer⟩ else mapGet s.links k) ∧
  (∀ (s : State) (link peer : Nat), exec (.linkStateChange link .failed peer) s = .next (loseLink s link peer)) ∧
  ∀ (s : State) (function : Nat), function ≤ 1024 → s.bringup ≠ 8 ∨ function = 0 →
    (∃ t, Answers s function 1 (Config.digest 1 0) t) ∧ (∃ t, Answers s function 2 (Config.digest 2 0) t) ∧
    (∃ t x, Answers s function 3 (Config.digest 3 x) t) ∧
    (∀ d, function ≠ 0 → mapGet s.measured (function - 1) = some d → ∃ t, Answers s function 4 d t) ∧
    ((function = 0 ∨ mapGet s.measured (function - 1) = none) → ∃ t d, Answers s function 4 d t)

/-- R5, R354, R376, R379, R382, R384, R386, R396, R397, R407, R408, R410, R412: a write to a register without a row of its own
is kept under its mask or clears what it names; a manifest waits for a cold reset, which installs one that verifies and leaves
every register at Reset, and of which one that fails leaves the installed manifest in force; stack groups come up in order. What
POD and MEMBER read in MANIFEST_FAIL, and that the sensors keep their state over a cold reset, are the model's (log entries 5
and 71). What a cold reset leaves of memory and of the hold of a thermal trip, and the states of bring-up, are the model's
readings (log entries 7, 41, 55 and 56). -/
def Obligations.RegisterAndBringupEvents : Prop :=
  (∀ (s : State) (vf : Nat) (v : BitVec 64), vf < 1024 →
    let keeps := fun (off : Nat) (mask : BitVec 64) => WritesRegister (.registerWrite (some vf) off v) s (vfReg vf off) (v &&& mask) ∧
      WritesRegister (.registerWrite none (0x4000000 + 0x10000 * vf + 0x1000 + off) v) s (vfReg vf off) (v &&& mask)
    let page := fun (off : Nat) (mask : BitVec 64) =>
      WritesRegister (.registerWrite none (0x4000000 + 0x10000 * vf + off) v) s (pageReg vf off) (v &&& mask)
    keeps 0 0x01FFFFFFFFFF0000 ∧ keeps 0x140 0x01FFFFFFFFFFF000 ∧ keeps 0x150 0x7F ∧
    (∀ k < 4, keeps (0x100 + 16 * k) 0xE1FFFFFFFFFFFFF0 ∧ keeps (0x108 + 16 * k) 0xFFFFFFFFFFFFFFFF) ∧
    page 0x30 0x80000000FFFFFFFF ∧ page 0xC0 0xE000FFFF00000000 ∧ (∀ k < 4, page (0x40 + 8 * k) 0x01FFFFFFFFFFFFFF) ∧
    (v.getLsbD 1 = true → ∃ t, Happens (.registerWrite (some vf) 0x18 v) s t { s with tlbErr := t.tlbErr } ∧
      ∀ x, x ∈ t.tlbErr ↔ x ∈ s.tlbErr ∧ x ≠ vf) ∧
    (v.getLsbD 0 = true → ∃ t, Happens (.registerWrite none (0x4000000 + 0x10000 * vf + 0x28) v) s t { s with clamped := t.clamped } ∧
      ∀ x, x ∈ t.clamped ↔ x ∈ s.clamped ∧ x ≠ vf) ∧
    ∀ q < 64, let x := queueAt s vf q
      x.qring.getLsbD 61 = false →
        (∃ t, Happens (.registerWrite (some vf) (0x10000 + 0x1000 * q + 8) v) s t { s with queues := t.queues } ∧
          QueueBecomes s t vf q { x with qlog := v &&& 0x01FFFFFFFFFFFFF0 }) ∧
        (v.getLsbD 61 = false → ∃ t, Happens (.registerWrite (some vf) (0x10000 + 0x1000 * q) v) s t { s with queues := t.queues } ∧
          QueueBecomes s t vf q { x with qring := v &&& 0xE1FFFFFFFFFFFF9F })) ∧
  (∀ (s : State) (v : BitVec 64),
    let pf := fun (off : Nat) (mask : BitVec 64) => WritesRegister (.registerWrite none off v) s (pfReg off) (v &&& mask)
    (∀ k < 64, pf (8 * k) 0xFFFFFFFFFFFFFFFF) ∧ pf 0x238 0x1F ∧ (∀ k < 32, pf (0x1000 + 8 * k) 0x80000000FFFFFFFF) ∧
    (v.getLsbD 8 = false → pf 0x220 0x8F)) ∧
  (∀ (s : State) (m : Manifest), exec (.manifestUpdate m) s = .next { s with staged := some m }) ∧
  (∀ (s : State),
    let m := s.staged.getD s.manifest
    let fresh : State := { State.reset with
      agenda := s.agenda, free := s.free, nextId := s.nextId, manifest := s.manifest, rollback := s.rollback, temps := s.temps
      overPower := s.overPower, warm := s.warm, deep := s.deep, dram := s.dram, voids := s.voids, poison := s.poison
      trip := s.trip && s.temps.any fun e => decide (95 ≤ e.2)
      host := s.host, messages := s.messages ++ [⟨none, 3⟩], outbox := s.outbox }
    (m.signatureValid = true → s.rollback ≤ m.rollback →
      exec .coldReset s = .next { fresh with manifest := m, rollback := m.rollback, bringup := 2 }) ∧
    (m.signatureValid = false ∨ m.rollback < s.rollback →
      exec .coldReset s = .next { fresh with staged := some m, bringup := 8 })) ∧
  ∀ (s : State) (stack : Nat), s.bringup = 2 ∨ s.bringup = 3 → stack < 8 → s.ready.getLsbD stack = false →
    (∀ k < stack, s.ready.getLsbD k = true) →
    ∃ t, exec (.stackGroupReady stack) s = .next t ∧ (∀ k < 8, t.ready.getLsbD k = (s.ready.getLsbD k || decide (k = stack))) ∧
      t.bringup = (if stack = 7 then 4 else 3) ∧
      t.freq = (if stack ≠ 7 then s.freq else if s.deep then 350 else if s.warm || s.overPower then 525 else 700) ∧
      (∀ k, peek t (0, k) = if k / 2 ^ 36 = stack then 0 else peek s (0, k)) ∧
      (∀ x, x ∈ t.poison ↔ x ∈ s.poison ∧ x / 2 ^ 29 ≠ stack) ∧
      (∀ k, mapGet t.joins k = if k / 32768 = stack then none else mapGet s.joins k) ∧
      (∀ x, mapGet t.voids x = if x / 2 ^ 29 = stack then none else mapGet s.voids x) ∧
      t.messages = s.messages ++ (if stack = 0 ∨ stack = 7 then [⟨none, 3⟩] else []) ∧
      t = { s with dram := t.dram, voids := t.voids, poison := t.poison, larder := t.larder, joins := t.joins, larderGen := t.larderGen, l2 := t.l2
                   ready := t.ready, bringup := t.bringup, freq := t.freq, messages := t.messages }

namespace Sys2Proof.Claims

/-! ## The whole machine -/

/-- The `n` words of 4 bytes at the PC of the gang `g` in a slot as memory holds them: translated for execution and not poisoned,
and no line of them was fetched for the launch with other bytes (R91, R92, R340). -/
def WordsAtPc (s : State) (slot : Nat) (g : Gang) (n : Nat) (bytes : List Byte) : Prop :=
  ∃ (part : Nat) (p : Partition) (pa : Nat → Nat), partOf s g.vf = some (part, p) ∧
    (∀ k < n, lookup s (slot / 16) g.vf (g.pc + 4 * k) .fetch = .pa (pa k) ∧ paPoisoned s p (pa k) 4 = false) ∧
    let line := fun k => (List.range 128).map fun j => dramByte s (dramKey p (pa k) - pa k % 128 + j)
    (∀ k < n, ((line k).drop ((g.pc + 4 * k) % 128)).take 4 = paRead s p (pa k) 4 ∧
      (∀ j < n, (g.pc + 4 * j) / 128 = (g.pc + 4 * k) / 128 → line j = line k) ∧
      ∀ seen, mapGet s.icache (2 ^ 50 * (64 * g.vf + g.lslot) + (g.pc + 4 * k) / 128) = some seen → seen = [line k]) ∧
    bytes = (List.range n).flatMap fun k => paRead s p (pa k) 4

/-- The bytes at the PC of a gang, as many as the form that the first of them fixes has, inside the code area of its launch (R89 to
R91). -/
def BytesAtPc (s : State) (slot : Nat) (g : Gang) (len : Form) (bytes : List Byte) : Prop :=
  formOf (bytes.headD 0) = len ∧ WordsAtPc s slot g (formBytes len / 4) bytes ∧
    ∃ l, launchOf s g = some l ∧ l.codeBase ≤ g.pc ∧ g.pc + formBytes len ≤ l.codeBase + l.codeSize

/-- The bytes at the PC of the gang `g` decode to the instruction `i` (R89 to R92, R111). -/
def HoldsAtPc (s : State) (slot : Nat) (g : Gang) (i : Instr) : Prop :=
  ∃ len bytes, BytesAtPc s slot g len bytes ∧ decode bytes = .instr i len

/-- The gang in `slot` has the turn at an instruction boundary, its bay free (R29, R31, R47, R380). -/
def HasIssueTurn (s : State) (slot : Nat) (g : Gang) : Prop :=
  mapGet s.gangs slot = some g ∧ g.ended = false ∧ g.stopped = false ∧ g.hold ≠ some .brk ∧ stopDue s g = false ∧
    g.restoring = [] ∧ timeoutDue s g = false ∧ ∀ n, mapGet s.busy (slot / 4) = some n → n ≤ s.acycle

/-- Nothing but its next instruction is due of a gang (R76, R297, R323). -/
def NothingElseDue (g : Gang) : Prop :=
  g.launchFault = none ∧ (∀ d ∈ g.deferred, d.site ≠ .next) ∧ ¬(g.sealed = true ∧ 4096 ≤ g.markCount)

/-- The gang in slot `k` is ready to issue an instruction that takes `n` tokens: held by nothing, fetched, and served by its VF's
bucket or the pool (R31, R366). -/
def ReadyToIssue (s : State) (k n : Nat) (g : Gang) : Prop :=
  mapGet s.gangs k = some g ∧ g.ended = false ∧ g.stopped = false ∧ g.charged = false ∧ g.hold = none ∧ stopDue s g = false ∧
    timeoutDue s g = false ∧ nextCost s k g = some n ∧
    (n = 0 ∨ 1024 ≤ bucket s 0 (k / 4) g.vf ∨ 1024 * n ≤ pool s 0 (k / 4))

/-- One ready gang of a bay issues before another: those whose VF has a token first, by age; then borrowers by BPRIO, age and VF;
ties by slot from the slot that the arithmetic cycle names (R31, R367). -/
def IssuesBefore (s : State) (a b : Nat) (g h : Gang) : Prop :=
  let owner := fun k (x : Gang) => 1024 ≤ bucket s 0 (k / 4) x.vf
  let prio := fun (x : Gang) => ((wordGet s.hreg (pageReg x.vf 0x80)).extractLsb' 29 2).toNat
  let tie := fun k => (k + 4 - s.acycle % 4) % 4
  (owner a g ∧ ¬owner b h) ∨
  (owner a g ∧ owner b h ∧ (g.ready < h.ready ∨ (g.ready = h.ready ∧ tie a < tie b))) ∨
  (¬owner a g ∧ ¬owner b h ∧ (prio h < prio g ∨ (prio g = prio h ∧ (g.ready < h.ready ∨ (g.ready = h.ready ∧
    (g.vf < h.vf ∨ (g.vf = h.vf ∧ tie a < tie b)))))))

/-- An instruction that operates on a barrier (R294, R296). -/
def BarrierOp (i : Instr) : Prop := ∃ f, i = .binit f ∨ i = .bexp f ∨ i = .barv f ∨ i = .bwait f ∨ i = .btry f

/-- The gang runs a barrier operation, and does not only look again at the phase that a held BWAIT waits for. -/
def OnBarrier (g : Gang) (i : Instr) : Prop := BarrierOp i ∧ g.hold ≠ some .barrier

/-- A barrier operation of this arithmetic cycle comes too late: one of a higher slot of the cell has been applied (R295). -/
def TooLate (s : State) (slot : Nat) (g : Gang) (i : Instr) : Prop :=
  OnBarrier g i ∧ ∃ k, mapGet s.barTurn (slot / 16) = some (s.acycle, k) ∧ slot < k

/-- The fetch of an instruction of the gang `g` leaves `u` of `s`: the lines that its launch has fetched are added to, and the
slices that served them, with the tokens of L2 fills and channels (R19, R92, R363). -/
def Fetches (s u : State) (g : Gang) : Prop :=
  u = { s with icache := u.icache, l2 := u.l2, buckets := u.buckets, pools := u.pools, owed := u.owed } ∧
  (∀ b, b / 2 ^ 24 ≠ 1 → b / 2 ^ 24 ≠ 2 → mapGet u.buckets b = mapGet s.buckets b) ∧
  (∀ b, b / 2 ^ 14 ≠ 1 → b / 2 ^ 14 ≠ 2 → mapGet u.pools b = mapGet s.pools b) ∧
  (∀ k, mapGet s.icache k ≠ none → mapGet u.icache k = mapGet s.icache k) ∧
  ∀ k, (∀ j, k ≠ 2 ^ 50 * (64 * g.vf + g.lslot) + j) → mapGet u.icache k = mapGet s.icache k

/-- `m` is the barrier order of the cells once the gang in `slot` runs the instruction `i` (R295). -/
def TakesBarrierTurn (s : State) (slot : Nat) (g : Gang) (i : Instr) (m : AMap (Nat × Nat)) : Prop :=
  ∀ c, (OnBarrier g i ∧ c = slot / 16 → mapGet m c = some (s.acycle, slot)) ∧
    (¬(OnBarrier g i ∧ c = slot / 16) → mapGet m c = mapGet s.barTurn c)

/-- At the turn of the uncharged gang in `slot` its bay issues the gang `g` of slot `k`, from the state `v`: a fetch that was held
and is served has made the first gang ready (R29, R31). -/
def BayIssues (s v : State) (slot k : Nat) (g : Gang) : Prop :=
  PartitionsDisjoint s ∧ slot < 8192 ∧ ∃ r g₀,
    (s.agenda = .issue slot :: r ∨ (s.agenda = [] ∧ r = [] ∧ s.cur = slot ∧ g₀.hold = none)) ∧
    HasIssueTurn s slot g₀ ∧ g₀.charged = false ∧ g₀.hold ≠ some .token ∧
    let served := g₀.hold = some .miss ∧ (nextCost s slot g₀).isSome = true
    v = { s with
      agenda := r
      gangs := if served then mapSet s.gangs slot { g₀ with hold := none, ready := s.acycle } else s.gangs } ∧
    bayPick v slot = k ∧ mapGet v.gangs k = some g ∧ NothingElseDue g

/-- An event through a virtual function (R396): one of a context's queues, a write to the function's registers or through its
aperture, an invalidation that it asks for, or a request to it. -/
def ThroughFunction (i : Instr) : Prop :=
  (∃ a b v, i = .doorbell a b v) ∨
  (∃ a b v, i = .qringEnable a b v ∨ i = .qringDisable a b v ∨ i = .registerWrite (some a) b v) ∨
  (∃ a b c, i = .tlbinvStage1Range a false b c ∨ i = .tlbinvStage1All a false ∨ i = .tlbinvStage2Range a false b c ∨
    i = .tlbinvAll a false ∨ i = .atsInvalidateRequest a b c) ∨
  (∃ a b, i = .queueResume a b ∨ (i = .spdmRequest a b ∧ a ≠ 0)) ∨ ∃ a b n op, i = .bar2Access a b n op

/-- The device does not act on an event: it holds after a thermal trip, or the event goes through a virtual function in
MANIFEST_FAIL (R408, R412). -/
def HeldOff (s : State) (i : Instr) : Prop :=
  (s.trip = true ∧ i ≠ .bucketAccrual ∧ i ≠ .thermalTripRelease ∧ i ≠ .coldReset ∧ ∀ r, i ≠ .throttleChange r) ∨
  (s.bringup = 8 ∧ ThroughFunction i)

/-- The memories are in their canonical form. -/
def MemoryInForm (s : State) : Prop := Memory.wf s = true

/-- The tables that other statements assume sorted are, and partitions are disjoint (R356). -/
def TablesInForm (s : State) : Prop :=
  mapSorted s.gangs = true ∧ mapSorted s.workgroups = true ∧ mapSorted s.misses = true ∧ PartitionsDisjoint s

end Sys2Proof.Claims

/-! ## The whole machine -/

/-- R29, R31, R89 to R92, R111, R112, R295, R366, R367, R408, R412: a step whose turn is a gang's runs the instruction that the bytes
at its PC decode to, of the gang that its bay picks, charged to its VF and holding the bay's issue slot, or goes on with it
where it was held; bytes that lie outside the code area or fail a check of R111 take the fault of that check, and the bay checks
the span of an origin before a later field (log 45); a step whose turn is an event of the table runs the event, where the device
acts on it; with nothing to do a fabric cycle passes. Which turn comes next is the model's (log entry 31), as is which events act
while a thermal trip holds (log entry 41), and the bytes that run after code is changed are free (log entry 1). -/
def Obligations.StepRunsDecodedInstruction : Prop :=
  (∀ (s : State) (i : Instr) (r : List Turn), s.agenda = .event i :: r →
    (¬HeldOff s i → step s = exec i { s with agenda := r }) ∧ (HeldOff s i → step s = .next { s with agenda := r })) ∧
  (∀ (s : State) (slot : Nat) (g : Gang) (i : Instr) (r : List Turn), PartitionsDisjoint s →
    (s.agenda = .issue slot :: r ∨ (s.agenda = [] ∧ r = [] ∧ s.cur = slot ∧ g.hold = none)) → HasIssueTurn s slot g →
    g.charged = true → HoldsAtPc s slot g i → wellFormed i = true →
    ∃ u, Fetches { s with agenda := r, cur := slot } u g ∧
      (TooLate s slot g i → step s = .next { u with busy := mapSet s.busy (slot / 4) (s.acycle + 1) }) ∧
      (¬TooLate s slot g i → ∃ m, TakesBarrierTurn s slot g i m ∧ step s = exec i { u with barTurn := m })) ∧
  (∀ (s v : State) (slot k : Nat) (g : Gang) (i : Instr), BayIssues s v slot k g → HoldsAtPc v k g i → wellFormed i = true →
    let n := cyclesOf g i
    let c := bucket s 0 (k / 4) g.vf
    let own := 1024 ≤ c
    let lent := ¬own ∧ 1024 * n ≤ pool s 0 (k / 4)
    ∃ u, Fetches { v with cur := k } u g ∧
      (TooLate s k g i → step s = .next { u with busy := mapSet s.busy (k / 4) (s.acycle + 1) }) ∧
      (¬TooLate s k g i → own ∨ lent → ∃ t, step s = exec i t ∧
        t = { u with gangs := t.gangs, busy := t.busy, buckets := t.buckets, pools := t.pools, barTurn := t.barTurn } ∧
        TakesBarrierTurn s k g i t.barTurn ∧
        (∀ x, mapGet t.gangs x = if x = k then some { g with charged := true, hold := none, issuedAt := s.nextId }
          else mapGet v.gangs x) ∧
        (∀ b, mapGet t.busy b = if b = k / 4 then some (s.acycle + n) else mapGet s.busy b) ∧
        (∀ b, mapGet t.buckets b = if own ∧ b = 1024 * (k / 4) + g.vf then some (c - 1024 * (n : Int)) else mapGet u.buckets b) ∧
        ∀ b, mapGet t.pools b = if lent ∧ b = k / 4 then some (pool s 0 (k / 4) - 1024 * n) else mapGet u.pools b) ∧
      (¬TooLate s k g i → ¬own → ¬lent → ∃ t, step s = .next t ∧ t = { u with gangs := t.gangs } ∧
        ∀ x, mapGet t.gangs x = if x = k then some { g with hold := some .token } else mapGet v.gangs x)) ∧
  (∀ (s v : State) (slot k : Nat) (g : Gang), BayIssues s v slot k g →
    let takes := fun (u : State) (len : Nat) (f : GFault) => step s = .next (takeFault u k g len f)
    (∀ len bytes d, BytesAtPc v k g len bytes → decode bytes = .fault d len → ∃ u, Fetches v u g ∧
      (d.code ≠ .badRegister → takes u (formNum len) (precise d.code d.tval)) ∧
      (d.code = .badRegister →
        let opc := (fieldsOf len (bytesToNat bytes)).1
        let f := (fieldsOf len (bytesToNat bytes)).2
        let roles := spanRoles { u with cur := k } g opc f
        let place := (d.tval.extractLsb' 12 2).toNat
        let leaves := fun (n : Nat) (origin : Option Nat) (r : Role) (x : BitVec 10) => n < place ∧ origin ≠ none ∧ r.names x = none
        rankAt u k g opc f = .known →
        (leaves 1 (originA opc f) roles.2.1 f.a → takes u (formNum len) (precise .badRegister (badRegisterTval f.a len 1))) ∧
        (¬(originA opc f ≠ none ∧ roles.2.1.names f.a = none) → leaves 2 (originB opc f) roles.2.2.1 f.b →
          takes u (formNum len) (precise .badRegister (badRegisterTval f.b len 2))) ∧
        (¬leaves 1 (originA opc f) roles.2.1 f.a → ¬leaves 2 (originB opc f) roles.2.2.1 f.b →
          takes u (formNum len) (precise .badRegister d.tval)))) ∧
    (∀ l part p, launchOf v g = some l → partOf v g.vf = some (part, p) →
      (g.pc < l.codeBase ∨ l.codeBase + l.codeSize ≤ g.pc →
        takes v 0 (precise .illegalEncoding (encodingTval 0 .short 2))) ∧
      ∀ bytes, WordsAtPc v k g 1 bytes → l.codeBase ≤ g.pc → g.pc < l.codeBase + l.codeSize →
        let len := formOf (bytes.headD 0)
        l.codeBase + l.codeSize < g.pc + formBytes len →
        ∃ u, Fetches v u g ∧ takes u (formNum len) (precise .illegalEncoding (encodingTval 0 len 2)))) ∧
  (∀ (s : State) (slot : Nat),
    ((∀ k n g, k / 4 = slot / 4 → ¬ReadyToIssue s k n g) → bayPick s slot = slot) ∧
    (∀ k n g, k / 4 = slot / 4 → ReadyToIssue s k n g → let b := bayPick s slot
      b / 4 = slot / 4 ∧ ∃ m h, ReadyToIssue s b m h ∧ ¬IssuesBefore s k b g h) ∧
    ∀ g i, HoldsAtPc s slot g i → nextCost s slot g = some (cyclesOf g i)) ∧
  ∀ (s : State), s.agenda = [] →
    (∀ g, mapGet s.gangs s.cur = some g → g.ended = true ∨ g.stopped = true ∨ g.hold ≠ none ∨
      ∃ n, mapGet s.busy (s.cur / 4) = some n ∧ s.acycle < n) →
    step s = exec .bucketAccrual s

/-- R89, R97, R98, R106 to R112: words written out from the encodings of the spec decode to the instructions they stand for; bytes
that are none give the fault of the first check of R111, steps 2 to 5, that fails, with the TVAL of R112. -/
def Obligations.DecodedWords : Prop :=
  decodeTableWord 32 0x00000132 = some (.nopShort ⟨0, 0, 0, 0⟩) ∧
  decodeTableWord 32 0x00000402 = some (.mswapShort ⟨0, 0, 0, 0⟩) ∧
  decodeTableWord 32 0x00411884 = some (.iaddShort ⟨3, 1, 2, 0⟩) ∧
  decodeTableWord 64 (1 + 0x042 * 2 ^ 2 + 0 * 2 ^ 12 + 3 * 2 ^ 22 + 97 * 2 ^ 29 + 0x3FFF * 2 ^ 50)
    = some (.iadd ⟨.medium, 0, 0, 0, 3, 0x101, 0, 0, 0x7FFFFFFF⟩) ∧
  decodeTableWord 96 (3 + 5 * 2 ^ 2 + 0x304 * 2 ^ 53 + 0x301 * 2 ^ 63 + 3 * 2 ^ 81 + 0x002 * 2 ^ 86 + 2 ^ 32)
    = some (.sadd ⟨.long, 3, 0, 0, 0x301, 0x304, 0, 0, 0x40000005⟩) ∧
  ∀ (b : Byte) (rest : List Byte),
    let l := b :: rest
    let len := formOf b
    (l.length < formBytes len → decode l = .truncated len) ∧
    (formBytes len ≤ l.length →
      let opc := (fieldsOf len (bytesToNat (l.take (formBytes len)))).1
      let f := (fieldsOf len (bytesToNat (l.take (formBytes len)))).2
      let ty := Ty.ofCode f.typ.toNat
      let r := roles opc ty f.imm.toNat
      let gives := fun code (v : Nat) => decode l = .fault ⟨code, BitVec.ofNat 64 (v + formNum len * 2 ^ 10)⟩ len
      (opInfo opc = none → gives .illegalOpcode opc) ∧
      ∀ info, opInfo opc = some info →
        let suited := eligible info len = true
        let typed := ∀ t, ty = some t → accepts opc t = true ∧ acceptsSource opc t f.imm.toNat = true
        let checks := reservedChecks opc f info
        (¬suited → gives .illegalEncoding opc) ∧
        (suited → ¬typed → gives .illegalEncoding (opc + 2 ^ 12)) ∧
        (suited → typed → ∀ bit, (bit, false) ∈ checks → (∀ x, (x, false) ∈ checks → bit ≤ x) → gives .reservedField bit) ∧
        (suited → typed → (∀ x, (x, false) ∉ checks) →
          let named := [(r.1, f.d), (r.2.1, f.a), (r.2.2.1, f.b), (r.2.2.2, f.c)]
          ∀ n x spec, named[n]? = some (x, spec) → x.names spec = none →
            (∀ m < n, ∀ y, named[m]? = some y → y.1.names y.2 ≠ none) → gives .badRegister (spec.toNat + n * 2 ^ 12)))

/-- R89 to R93, R97, R98: the bytes of a well-formed instruction decode to it, with every operand at every value that the form
admits, whatever follows them. -/
def Obligations.DecodeEncodeAgree : Prop :=
  ∀ (i : Instr) (rest : List Byte), encoded i = true → wellFormed i = true →
    ∃ len, decode (encode i ++ rest) = .instr i len ∧ (encode i).length = formBytes len

/-- R7, R17, R356, R403, R410: what a reset leaves: STATE 0 and the reduced clock, every register, queue and event at zero, no
partition, launch or gang, no stack group ready; unwritten memory reads zero (the model's, log entries 2 to 5), no threshold of
the sensors is passed (the model's, log entry 71), and every table is in its canonical form. -/
def Obligations.ResetState : Prop :=
  let s := State.reset
  s.bringup = 0 ∧ s.ready = 0 ∧ s.freq = 350 ∧ s.clock = 0 ∧ s.trip = false ∧ s.parts = [] ∧ s.gangs = [] ∧ s.launches = [] ∧
  s.queues = [] ∧ s.workgroups = [] ∧ s.drainDevice = .running ∧ s.partstat = 0 ∧ s.platestat = 0 ∧ s.tlb = [] ∧
  s.walkCache = [] ∧ s.icache = [] ∧ s.l2 = [] ∧ s.misses = [] ∧ s.requests = [] ∧ s.voids = [] ∧ s.owed = [] ∧ s.refills = [] ∧ s.bTurn = [] ∧
  s.warm = false ∧ s.deep = false ∧
  (∀ r, wordGet s.hreg r = 0) ∧ (∀ vf, wordGet s.events vf = 0) ∧ (∀ r, wordGet s.bregs r = 0) ∧
  (∀ q, peek s q = 0) ∧ MemoryInForm s ∧ TablesInForm s

/-- Every step keeps the memories in their canonical form: addresses strictly rising, and no entry equal to what an unlisted
address reads as. -/
def Obligations.MemoryStaysCanonical : Prop :=
  ∀ s t : State, MemoryInForm s → step s = .next t → MemoryInForm t

/-- R356: every step keeps partitions disjoint and the tables of gangs, workgroups and misses sorted. -/
def Obligations.PartitionsStayDisjoint : Prop :=
  ∀ s t : State, TablesInForm s → step s = .next t → TablesInForm t
end

