-- ==== Sys2Proof/Laws/Maps.lean ====
section
/-! SUPPORT. Laws of sparse maps: reads after writes, and the canonical form that every operation keeps. -/

namespace Sys2Proof.Machine

variable {α : Type} {w : Nat}

@[simp] theorem mapGet_nil (k : Nat) : mapGet ([] : AMap α) k = none := rfl
@[simp] theorem wordGet_nil (k : Nat) : wordGet ([] : Sparse w) k = 0 := rfl

/-- After a key is erased nothing stands there, and every other key is as before. -/
@[simp] theorem mapGet_mapErase (m : AMap α) (k j : Nat) : mapGet (mapErase m k) j = if j = k then none else mapGet m j := by
  induction m with
  | nil => simp [mapErase]
  | cons e r ih =>
    obtain ⟨i, a⟩ := e
    by_cases h : i = k <;> by_cases hj : i = j <;> simp_all [mapErase, mapGet]

/-- An entry placed where its key stands nowhere is read back, and every other key is as before. -/
theorem mapGet_mapPlace (m : AMap α) (k j : Nat) (v : α) (h : mapGet m k = none) :
    mapGet (mapPlace m k v) j = if j = k then some v else mapGet m j := by
  induction m with
  | nil => simp [mapPlace, mapGet, eq_comm]
  | cons e r ih =>
    obtain ⟨i, a⟩ := e
    have hi : i ≠ k := by intro hik; simp [mapGet, hik] at h
    have hr : mapGet r k = none := by simpa [mapGet, hi] using h
    by_cases hk : k < i
    · simp only [mapPlace, hk, if_true, mapGet, eq_comm]
    · by_cases hj : i = j
      · subst hj; simp [mapPlace, hk, mapGet, hi]
      · simp [mapPlace, hk, mapGet, hj, ih hr]

/-- A written key is read back, and every other key is as before. -/
@[simp] theorem mapGet_mapSet (m : AMap α) (k j : Nat) (v : α) :
    mapGet (mapSet m k v) j = if j = k then some v else mapGet m j := by
  rw [mapSet, mapGet_mapPlace _ _ _ _ (by simp)]
  by_cases h : j = k <;> simp [h]

/-- Changing an entry changes that entry alone. -/
@[simp] theorem mapGet_mapUpdate (m : AMap α) (k j : Nat) (f : α → α) :
    mapGet (mapUpdate m k f) j = if j = k then (mapGet m k).map f else mapGet m j := by
  unfold mapUpdate
  split
  · rename_i h; by_cases hj : j = k <;> simp [h, hj]
  · rename_i a h; by_cases hj : j = k <;> simp [h, hj]

/-- Changing every entry changes each in place. -/
@[simp] theorem mapGet_mapAll {β : Type} (f : Nat → α → β) (m : AMap α) (k : Nat) :
    mapGet (m.map fun e => (e.1, f e.1 e.2)) k = (mapGet m k).map (f k) := by
  induction m with
  | nil => rfl
  | cons e r ih =>
    obtain ⟨i, a⟩ := e
    by_cases h : i = k <;> simp_all [mapGet]

/-- Keeping the entries that a test on the key allows. -/
@[simp] theorem mapGet_mapFilter_key (p : Nat → Bool) (m : AMap α) (k : Nat) :
    mapGet (mapFilter (fun j _ => p j) m) k = if p k then mapGet m k else none := by
  induction m with
  | nil => simp [mapFilter]
  | cons e r ih =>
    obtain ⟨i, a⟩ := e
    unfold mapFilter at ih ⊢
    by_cases hp : p i <;> by_cases hi : i = k <;> simp_all [mapGet]

/-- Membership after a filter. -/
@[simp] theorem mem_mapFilter (p : Nat → α → Bool) (m : AMap α) (e : Nat × α) :
    e ∈ mapFilter p m ↔ e ∈ m ∧ p e.1 e.2 = true := by simp [mapFilter]

/-- A word written is read back, and every other word is as before. -/
@[simp] theorem wordGet_wordSet (m : Sparse w) (k j : Nat) (v : BitVec w) :
    wordGet (wordSet m k v) j = if j = k then v else wordGet m j := by
  unfold wordSet wordGet
  split <;> by_cases h : j = k <;> simp_all

/-! ## The canonical form -/

/-- A map is sorted when every key of its tail is larger than its first. -/
theorem mapSorted_cons (e : Nat × α) (r : AMap α) :
    mapSorted (e :: r) = true ↔ (∀ x ∈ r, e.1 < x.1) ∧ mapSorted r = true := by
  induction r generalizing e with
  | nil => simp [mapSorted]
  | cons y r ih =>
    obtain ⟨i, a⟩ := e; obtain ⟨j, b⟩ := y
    simp only [mapSorted, Bool.and_eq_true, decide_eq_true_eq, List.mem_cons, forall_eq_or_imp]
    constructor
    · rintro ⟨h1, h2⟩
      exact ⟨⟨h1, fun x hx => lt_trans h1 (((ih (j, b)).1 h2).1 x hx)⟩, h2⟩
    · rintro ⟨⟨h1, -⟩, h2⟩; exact ⟨h1, h2⟩

theorem mapErase_eq_filter (m : AMap α) (k : Nat) : mapErase m k = m.filter fun e => e.1 != k := by
  induction m with
  | nil => rfl
  | cons e r ih =>
    obtain ⟨i, a⟩ := e
    by_cases h : i = k <;> simp [mapErase, h, ih]

theorem mapSorted_filter (p : Nat × α → Bool) (m : AMap α) (h : mapSorted m = true) : mapSorted (m.filter p) = true := by
  induction m with
  | nil => rfl
  | cons e r ih =>
    rw [mapSorted_cons] at h
    by_cases hp : p e
    · rw [List.filter_cons_of_pos hp, mapSorted_cons]
      exact ⟨fun x hx => h.1 x (List.mem_of_mem_filter hx), ih h.2⟩
    · rw [List.filter_cons_of_neg hp]; exact ih h.2

theorem mapSorted_mapFilter (p : Nat → α → Bool) (m : AMap α) (h : mapSorted m = true) : mapSorted (mapFilter p m) = true :=
  mapSorted_filter _ m h

theorem mapSorted_mapErase (m : AMap α) (k : Nat) (h : mapSorted m = true) : mapSorted (mapErase m k) = true := by
  rw [mapErase_eq_filter]; exact mapSorted_filter _ m h

theorem mem_mapPlace (m : AMap α) (k : Nat) (v : α) (e : Nat × α) : e ∈ mapPlace m k v ↔ e = (k, v) ∨ e ∈ m := by
  induction m with
  | nil => simp [mapPlace]
  | cons y r ih =>
    obtain ⟨i, a⟩ := y
    by_cases h : k < i
    · simp [mapPlace, h]
    · simp [mapPlace, h, ih]; tauto

theorem mapSorted_mapPlace (m : AMap α) (k : Nat) (v : α) (h : mapSorted m = true) (hk : ∀ e ∈ m, e.1 ≠ k) :
    mapSorted (mapPlace m k v) = true := by
  induction m with
  | nil => rfl
  | cons y r ih =>
    obtain ⟨i, a⟩ := y
    have hi : i ≠ k := hk (i, a) (by simp)
    rw [mapSorted_cons] at h
    by_cases hlt : k < i
    · simp only [mapPlace, hlt, if_true, mapSorted_cons]
      refine ⟨fun x hx => ?_, h⟩
      rcases List.mem_cons.1 hx with rfl | hx
      · exact hlt
      · exact lt_trans hlt (h.1 x hx)
    · simp only [mapPlace, hlt, if_false, mapSorted_cons]
      refine ⟨fun x hx => ?_, ih h.2 fun e he => hk e (List.mem_cons_of_mem _ he)⟩
      rcases (mem_mapPlace _ _ _ _).1 hx with rfl | hx
      · show i < k; omega
      · exact h.1 x hx

/-- Setting an entry keeps a map sorted. -/
theorem mapSorted_mapSet (m : AMap α) (k : Nat) (v : α) (h : mapSorted m = true) : mapSorted (mapSet m k v) = true := by
  refine mapSorted_mapPlace _ _ _ (mapSorted_mapErase m k h) fun e he => ?_
  rw [mapErase_eq_filter, List.mem_filter] at he
  simpa using he.2

theorem mapSorted_mapUpdate (m : AMap α) (k : Nat) (f : α → α) (h : mapSorted m = true) : mapSorted (mapUpdate m k f) = true := by
  unfold mapUpdate; split
  · exact h
  · exact mapSorted_mapSet _ _ _ h

theorem mapSorted_mapAll {β : Type} (f : Nat → α → β) (m : AMap α) (h : mapSorted m = true) :
    mapSorted (m.map fun e => (e.1, f e.1 e.2)) = true := by
  induction m with
  | nil => rfl
  | cons e r ih =>
    rw [mapSorted_cons] at h
    rw [List.map_cons, mapSorted_cons]
    refine ⟨fun x hx => ?_, ih h.2⟩
    obtain ⟨y, hy, rfl⟩ := List.mem_map.1 hx
    exact h.1 y hy

/-- Writing a word keeps a memory in its canonical form. -/
theorem wordWf_wordSet (m : Sparse w) (k : Nat) (v : BitVec w) (h : wordWf m = true) : wordWf (wordSet m k v) = true := by
  simp only [wordWf, Bool.and_eq_true, List.all_eq_true] at h ⊢
  obtain ⟨hs, hz⟩ := h
  unfold wordSet; split
  · refine ⟨mapSorted_mapErase _ _ hs, fun e he => hz e ?_⟩
    rw [mapErase_eq_filter] at he; exact List.mem_of_mem_filter he
  · rename_i hv
    refine ⟨mapSorted_mapSet _ _ _ hs, fun e he => ?_⟩
    rcases (mem_mapPlace _ _ _ _).1 he with rfl | he
    · simpa using hv
    · rw [mapErase_eq_filter] at he; exact hz e (List.mem_of_mem_filter he)

theorem wordWf_filter (p : Nat × BitVec w → Bool) (m : Sparse w) (h : wordWf m = true) : wordWf (m.filter p) = true := by
  simp only [wordWf, Bool.and_eq_true, List.all_eq_true] at h ⊢
  exact ⟨mapSorted_filter _ _ h.1, fun e he => h.2 e (List.mem_of_mem_filter he)⟩

theorem wordWf_wordSetList (m : Sparse w) (k : Nat) (l : List (BitVec w)) (h : wordWf m = true) :
    wordWf (wordSetList m k l) = true := by
  induction l generalizing m k with
  | nil => exact h
  | cons v r ih => exact ih _ _ (wordWf_wordSet _ _ _ h)

/-! ## Masks and bytes -/

/-- The threads of a mask. -/
@[simp] theorem mem_threadsOf (m : BitVec 32) (t : Nat) : t ∈ threadsOf m ↔ t < 32 ∧ m.getLsbD t = true := by
  simp [threadsOf]

/-- Little-endian bytes of a number below their range give it back (R3). -/
theorem bytesToNat_natToBytes (n x : Nat) (h : x < 256 ^ n) : bytesToNat (natToBytes n x) = x := by
  induction n generalizing x with
  | zero => simp at h; subst h; rfl
  | succ n ih =>
    have : x / 256 < 256 ^ n := by rw [pow_succ] at h; omega
    simp only [natToBytes, bytesToNat, ih _ this, BitVec.toNat_ofNat]
    omega

@[simp] theorem length_natToBytes (n x : Nat) : (natToBytes n x).length = n := by
  induction n generalizing x with
  | zero => rfl
  | succ n ih => simp [natToBytes, ih]

end Sys2Proof.Machine
end

