-- ==== Sys2Proof/Laws/State.lean ====
section
/-! SUPPORT. What each update of the state reads as: one lemma for each field and each named update. -/

namespace Sys2Proof.Machine

/-! ## `setGang` -/

@[simp] theorem setGang_agenda (s : State) (slot : Nat) (g : Gang) : (setGang s slot g).agenda = s.agenda := rfl
@[simp] theorem setGang_cur (s : State) (slot : Nat) (g : Gang) : (setGang s slot g).cur = s.cur := rfl
@[simp] theorem setGang_free (s : State) (slot : Nat) (g : Gang) : (setGang s slot g).free = s.free := rfl
@[simp] theorem setGang_nextId (s : State) (slot : Nat) (g : Gang) : (setGang s slot g).nextId = s.nextId := rfl
@[simp] theorem setGang_clock (s : State) (slot : Nat) (g : Gang) : (setGang s slot g).clock = s.clock := rfl
@[simp] theorem setGang_acycle (s : State) (slot : Nat) (g : Gang) : (setGang s slot g).acycle = s.acycle := rfl
@[simp] theorem setGang_aphase (s : State) (slot : Nat) (g : Gang) : (setGang s slot g).aphase = s.aphase := rfl
@[simp] theorem setGang_freq (s : State) (slot : Nat) (g : Gang) : (setGang s slot g).freq = s.freq := rfl
@[simp] theorem setGang_bringup (s : State) (slot : Nat) (g : Gang) : (setGang s slot g).bringup = s.bringup := rfl
@[simp] theorem setGang_ready (s : State) (slot : Nat) (g : Gang) : (setGang s slot g).ready = s.ready := rfl
@[simp] theorem setGang_manifest (s : State) (slot : Nat) (g : Gang) : (setGang s slot g).manifest = s.manifest := rfl
@[simp] theorem setGang_staged (s : State) (slot : Nat) (g : Gang) : (setGang s slot g).staged = s.staged := rfl
@[simp] theorem setGang_rollback (s : State) (slot : Nat) (g : Gang) : (setGang s slot g).rollback = s.rollback := rfl
@[simp] theorem setGang_trip (s : State) (slot : Nat) (g : Gang) : (setGang s slot g).trip = s.trip := rfl
@[simp] theorem setGang_gangs (s : State) (slot : Nat) (g : Gang) : (setGang s slot g).gangs = mapSet s.gangs slot g := rfl
@[simp] theorem setGang_bregs (s : State) (slot : Nat) (g : Gang) : (setGang s slot g).bregs = s.bregs := rfl
@[simp] theorem setGang_busy (s : State) (slot : Nat) (g : Gang) : (setGang s slot g).busy = s.busy := rfl
@[simp] theorem setGang_matrix (s : State) (slot : Nat) (g : Gang) : (setGang s slot g).matrix = s.matrix := rfl
@[simp] theorem setGang_dram (s : State) (slot : Nat) (g : Gang) : (setGang s slot g).dram = s.dram := rfl
@[simp] theorem setGang_spad (s : State) (slot : Nat) (g : Gang) : (setGang s slot g).spad = s.spad := rfl
@[simp] theorem setGang_spadGen (s : State) (slot : Nat) (g : Gang) : (setGang s slot g).spadGen = s.spadGen := rfl
@[simp] theorem setGang_host (s : State) (slot : Nat) (g : Gang) : (setGang s slot g).host = s.host := rfl
@[simp] theorem setGang_poison (s : State) (slot : Nat) (g : Gang) : (setGang s slot g).poison = s.poison := rfl
@[simp] theorem setGang_l2 (s : State) (slot : Nat) (g : Gang) : (setGang s slot g).l2 = s.l2 := rfl
@[simp] theorem setGang_repaired (s : State) (slot : Nat) (g : Gang) : (setGang s slot g).repaired = s.repaired := rfl
@[simp] theorem setGang_rings (s : State) (slot : Nat) (g : Gang) : (setGang s slot g).rings = s.rings := rfl
@[simp] theorem setGang_copies (s : State) (slot : Nat) (g : Gang) : (setGang s slot g).copies = s.copies := rfl
@[simp] theorem setGang_broadcasts (s : State) (slot : Nat) (g : Gang) : (setGang s slot g).broadcasts = s.broadcasts := rfl
@[simp] theorem setGang_rootArrivals (s : State) (slot : Nat) (g : Gang) : (setGang s slot g).rootArrivals = s.rootArrivals := rfl
@[simp] theorem setGang_leaves (s : State) (slot : Nat) (g : Gang) : (setGang s slot g).leaves = s.leaves := rfl
@[simp] theorem setGang_descs (s : State) (slot : Nat) (g : Gang) : (setGang s slot g).descs = s.descs := rfl
@[simp] theorem setGang_window (s : State) (slot : Nat) (g : Gang) : (setGang s slot g).window = s.window := rfl
@[simp] theorem setGang_governor (s : State) (slot : Nat) (g : Gang) : (setGang s slot g).governor = s.governor := rfl
@[simp] theorem setGang_workgroups (s : State) (slot : Nat) (g : Gang) : (setGang s slot g).workgroups = s.workgroups := rfl
@[simp] theorem setGang_launches (s : State) (slot : Nat) (g : Gang) : (setGang s slot g).launches = s.launches := rfl
@[simp] theorem setGang_larder (s : State) (slot : Nat) (g : Gang) : (setGang s slot g).larder = s.larder := rfl
@[simp] theorem setGang_larderGen (s : State) (slot : Nat) (g : Gang) : (setGang s slot g).larderGen = s.larderGen := rfl
@[simp] theorem setGang_joins (s : State) (slot : Nat) (g : Gang) : (setGang s slot g).joins = s.joins := rfl
@[simp] theorem setGang_blocked (s : State) (slot : Nat) (g : Gang) : (setGang s slot g).blocked = s.blocked := rfl
@[simp] theorem setGang_windows (s : State) (slot : Nat) (g : Gang) : (setGang s slot g).windows = s.windows := rfl
@[simp] theorem setGang_events (s : State) (slot : Nat) (g : Gang) : (setGang s slot g).events = s.events := rfl
@[simp] theorem setGang_fresh (s : State) (slot : Nat) (g : Gang) : (setGang s slot g).fresh = s.fresh := rfl
@[simp] theorem setGang_startCycle (s : State) (slot : Nat) (g : Gang) : (setGang s slot g).startCycle = s.startCycle := rfl
@[simp] theorem setGang_queues (s : State) (slot : Nat) (g : Gang) : (setGang s slot g).queues = s.queues := rfl
@[simp] theorem setGang_bellOrder (s : State) (slot : Nat) (g : Gang) : (setGang s slot g).bellOrder = s.bellOrder := rfl
@[simp] theorem setGang_hreg (s : State) (slot : Nat) (g : Gang) : (setGang s slot g).hreg = s.hreg := rfl
@[simp] theorem setGang_tlb (s : State) (slot : Nat) (g : Gang) : (setGang s slot g).tlb = s.tlb := rfl
@[simp] theorem setGang_walkCache (s : State) (slot : Nat) (g : Gang) : (setGang s slot g).walkCache = s.walkCache := rfl
@[simp] theorem setGang_icache (s : State) (slot : Nat) (g : Gang) : (setGang s slot g).icache = s.icache := rfl
@[simp] theorem setGang_priLimit (s : State) (slot : Nat) (g : Gang) : (setGang s slot g).priLimit = s.priLimit := rfl
@[simp] theorem setGang_voids (s : State) (slot : Nat) (g : Gang) : (setGang s slot g).voids = s.voids := rfl
@[simp] theorem setGang_bTurn (s : State) (slot : Nat) (g : Gang) : (setGang s slot g).bTurn = s.bTurn := rfl
@[simp] theorem setGang_owed (s : State) (slot : Nat) (g : Gang) : (setGang s slot g).owed = s.owed := rfl
@[simp] theorem setGang_refills (s : State) (slot : Nat) (g : Gang) : (setGang s slot g).refills = s.refills := rfl
@[simp] theorem setGang_barTurn (s : State) (slot : Nat) (g : Gang) : (setGang s slot g).barTurn = s.barTurn := rfl
@[simp] theorem setGang_sends (s : State) (slot : Nat) (g : Gang) : (setGang s slot g).sends = s.sends := rfl
@[simp] theorem setGang_temps (s : State) (slot : Nat) (g : Gang) : (setGang s slot g).temps = s.temps := rfl
@[simp] theorem setGang_overPower (s : State) (slot : Nat) (g : Gang) : (setGang s slot g).overPower = s.overPower := rfl
@[simp] theorem setGang_warm (s : State) (slot : Nat) (g : Gang) : (setGang s slot g).warm = s.warm := rfl
@[simp] theorem setGang_deep (s : State) (slot : Nat) (g : Gang) : (setGang s slot g).deep = s.deep := rfl
@[simp] theorem setGang_misses (s : State) (slot : Nat) (g : Gang) : (setGang s slot g).misses = s.misses := rfl
@[simp] theorem setGang_requests (s : State) (slot : Nat) (g : Gang) : (setGang s slot g).requests = s.requests := rfl
@[simp] theorem setGang_prqSeq (s : State) (slot : Nat) (g : Gang) : (setGang s slot g).prqSeq = s.prqSeq := rfl
@[simp] theorem setGang_tlbBusy (s : State) (slot : Nat) (g : Gang) : (setGang s slot g).tlbBusy = s.tlbBusy := rfl
@[simp] theorem setGang_tlbErr (s : State) (slot : Nat) (g : Gang) : (setGang s slot g).tlbErr = s.tlbErr := rfl
@[simp] theorem setGang_atsEnabled (s : State) (slot : Nat) (g : Gang) : (setGang s slot g).atsEnabled = s.atsEnabled := rfl
@[simp] theorem setGang_priEnabled (s : State) (slot : Nat) (g : Gang) : (setGang s slot g).priEnabled = s.priEnabled := rfl
@[simp] theorem setGang_ats (s : State) (slot : Nat) (g : Gang) : (setGang s slot g).ats = s.ats := rfl
@[simp] theorem setGang_atsMisses (s : State) (slot : Nat) (g : Gang) : (setGang s slot g).atsMisses = s.atsMisses := rfl
@[simp] theorem setGang_parts (s : State) (slot : Nat) (g : Gang) : (setGang s slot g).parts = s.parts := rfl
@[simp] theorem setGang_partstat (s : State) (slot : Nat) (g : Gang) : (setGang s slot g).partstat = s.partstat := rfl
@[simp] theorem setGang_policy (s : State) (slot : Nat) (g : Gang) : (setGang s slot g).policy = s.policy := rfl
@[simp] theorem setGang_clamped (s : State) (slot : Nat) (g : Gang) : (setGang s slot g).clamped = s.clamped := rfl
@[simp] theorem setGang_drainVf (s : State) (slot : Nat) (g : Gang) : (setGang s slot g).drainVf = s.drainVf := rfl
@[simp] theorem setGang_drainPart (s : State) (slot : Nat) (g : Gang) : (setGang s slot g).drainPart = s.drainPart := rfl
@[simp] theorem setGang_drainDevice (s : State) (slot : Nat) (g : Gang) : (setGang s slot g).drainDevice = s.drainDevice := rfl
@[simp] theorem setGang_measured (s : State) (slot : Nat) (g : Gang) : (setGang s slot g).measured = s.measured := rfl
@[simp] theorem setGang_buckets (s : State) (slot : Nat) (g : Gang) : (setGang s slot g).buckets = s.buckets := rfl
@[simp] theorem setGang_pools (s : State) (slot : Nat) (g : Gang) : (setGang s slot g).pools = s.pools := rfl
@[simp] theorem setGang_log (s : State) (slot : Nat) (g : Gang) : (setGang s slot g).log = s.log := rfl
@[simp] theorem setGang_logSeq (s : State) (slot : Nat) (g : Gang) : (setGang s slot g).logSeq = s.logSeq := rfl
@[simp] theorem setGang_watch (s : State) (slot : Nat) (g : Gang) : (setGang s slot g).watch = s.watch := rfl
@[simp] theorem setGang_watchSeq (s : State) (slot : Nat) (g : Gang) : (setGang s slot g).watchSeq = s.watchSeq := rfl
@[simp] theorem setGang_platestat (s : State) (slot : Nat) (g : Gang) : (setGang s slot g).platestat = s.platestat := rfl
@[simp] theorem setGang_plates (s : State) (slot : Nat) (g : Gang) : (setGang s slot g).plates = s.plates := rfl
@[simp] theorem setGang_health (s : State) (slot : Nat) (g : Gang) : (setGang s slot g).health = s.health := rfl
@[simp] theorem setGang_quarantine (s : State) (slot : Nat) (g : Gang) : (setGang s slot g).quarantine = s.quarantine := rfl
@[simp] theorem setGang_quarantined (s : State) (slot : Nat) (g : Gang) : (setGang s slot g).quarantined = s.quarantined := rfl
@[simp] theorem setGang_quarantinedPages (s : State) (slot : Nat) (g : Gang) : (setGang s slot g).quarantinedPages = s.quarantinedPages := rfl
@[simp] theorem setGang_survey (s : State) (slot : Nat) (g : Gang) : (setGang s slot g).survey = s.survey := rfl
@[simp] theorem setGang_surveyGen (s : State) (slot : Nat) (g : Gang) : (setGang s slot g).surveyGen = s.surveyGen := rfl
@[simp] theorem setGang_links (s : State) (slot : Nat) (g : Gang) : (setGang s slot g).links = s.links := rfl
@[simp] theorem setGang_messages (s : State) (slot : Nat) (g : Gang) : (setGang s slot g).messages = s.messages := rfl
@[simp] theorem setGang_outbox (s : State) (slot : Nat) (g : Gang) : (setGang s slot g).outbox = s.outbox := rfl

/-! ## `holdGang` -/

@[simp] theorem holdGang_agenda (s : State) (slot : Nat) (w : Hold) : (holdGang s slot w).agenda = s.agenda := rfl
@[simp] theorem holdGang_cur (s : State) (slot : Nat) (w : Hold) : (holdGang s slot w).cur = s.cur := rfl
@[simp] theorem holdGang_free (s : State) (slot : Nat) (w : Hold) : (holdGang s slot w).free = s.free := rfl
@[simp] theorem holdGang_nextId (s : State) (slot : Nat) (w : Hold) : (holdGang s slot w).nextId = s.nextId := rfl
@[simp] theorem holdGang_clock (s : State) (slot : Nat) (w : Hold) : (holdGang s slot w).clock = s.clock := rfl
@[simp] theorem holdGang_acycle (s : State) (slot : Nat) (w : Hold) : (holdGang s slot w).acycle = s.acycle := rfl
@[simp] theorem holdGang_aphase (s : State) (slot : Nat) (w : Hold) : (holdGang s slot w).aphase = s.aphase := rfl
@[simp] theorem holdGang_freq (s : State) (slot : Nat) (w : Hold) : (holdGang s slot w).freq = s.freq := rfl
@[simp] theorem holdGang_bringup (s : State) (slot : Nat) (w : Hold) : (holdGang s slot w).bringup = s.bringup := rfl
@[simp] theorem holdGang_ready (s : State) (slot : Nat) (w : Hold) : (holdGang s slot w).ready = s.ready := rfl
@[simp] theorem holdGang_manifest (s : State) (slot : Nat) (w : Hold) : (holdGang s slot w).manifest = s.manifest := rfl
@[simp] theorem holdGang_staged (s : State) (slot : Nat) (w : Hold) : (holdGang s slot w).staged = s.staged := rfl
@[simp] theorem holdGang_rollback (s : State) (slot : Nat) (w : Hold) : (holdGang s slot w).rollback = s.rollback := rfl
@[simp] theorem holdGang_trip (s : State) (slot : Nat) (w : Hold) : (holdGang s slot w).trip = s.trip := rfl
@[simp] theorem holdGang_gangs (s : State) (slot : Nat) (w : Hold) : (holdGang s slot w).gangs = mapUpdate s.gangs slot fun g => { g with hold := some w } := rfl
@[simp] theorem holdGang_bregs (s : State) (slot : Nat) (w : Hold) : (holdGang s slot w).bregs = s.bregs := rfl
@[simp] theorem holdGang_busy (s : State) (slot : Nat) (w : Hold) : (holdGang s slot w).busy = s.busy := rfl
@[simp] theorem holdGang_matrix (s : State) (slot : Nat) (w : Hold) : (holdGang s slot w).matrix = s.matrix := rfl
@[simp] theorem holdGang_dram (s : State) (slot : Nat) (w : Hold) : (holdGang s slot w).dram = s.dram := rfl
@[simp] theorem holdGang_spad (s : State) (slot : Nat) (w : Hold) : (holdGang s slot w).spad = s.spad := rfl
@[simp] theorem holdGang_spadGen (s : State) (slot : Nat) (w : Hold) : (holdGang s slot w).spadGen = s.spadGen := rfl
@[simp] theorem holdGang_host (s : State) (slot : Nat) (w : Hold) : (holdGang s slot w).host = s.host := rfl
@[simp] theorem holdGang_poison (s : State) (slot : Nat) (w : Hold) : (holdGang s slot w).poison = s.poison := rfl
@[simp] theorem holdGang_l2 (s : State) (slot : Nat) (w : Hold) : (holdGang s slot w).l2 = s.l2 := rfl
@[simp] theorem holdGang_repaired (s : State) (slot : Nat) (w : Hold) : (holdGang s slot w).repaired = s.repaired := rfl
@[simp] theorem holdGang_rings (s : State) (slot : Nat) (w : Hold) : (holdGang s slot w).rings = s.rings := rfl
@[simp] theorem holdGang_copies (s : State) (slot : Nat) (w : Hold) : (holdGang s slot w).copies = s.copies := rfl
@[simp] theorem holdGang_broadcasts (s : State) (slot : Nat) (w : Hold) : (holdGang s slot w).broadcasts = s.broadcasts := rfl
@[simp] theorem holdGang_rootArrivals (s : State) (slot : Nat) (w : Hold) : (holdGang s slot w).rootArrivals = s.rootArrivals := rfl
@[simp] theorem holdGang_leaves (s : State) (slot : Nat) (w : Hold) : (holdGang s slot w).leaves = s.leaves := rfl
@[simp] theorem holdGang_descs (s : State) (slot : Nat) (w : Hold) : (holdGang s slot w).descs = s.descs := rfl
@[simp] theorem holdGang_window (s : State) (slot : Nat) (w : Hold) : (holdGang s slot w).window = s.window := rfl
@[simp] theorem holdGang_governor (s : State) (slot : Nat) (w : Hold) : (holdGang s slot w).governor = s.governor := rfl
@[simp] theorem holdGang_workgroups (s : State) (slot : Nat) (w : Hold) : (holdGang s slot w).workgroups = s.workgroups := rfl
@[simp] theorem holdGang_launches (s : State) (slot : Nat) (w : Hold) : (holdGang s slot w).launches = s.launches := rfl
@[simp] theorem holdGang_larder (s : State) (slot : Nat) (w : Hold) : (holdGang s slot w).larder = s.larder := rfl
@[simp] theorem holdGang_larderGen (s : State) (slot : Nat) (w : Hold) : (holdGang s slot w).larderGen = s.larderGen := rfl
@[simp] theorem holdGang_joins (s : State) (slot : Nat) (w : Hold) : (holdGang s slot w).joins = s.joins := rfl
@[simp] theorem holdGang_blocked (s : State) (slot : Nat) (w : Hold) : (holdGang s slot w).blocked = s.blocked := rfl
@[simp] theorem holdGang_windows (s : State) (slot : Nat) (w : Hold) : (holdGang s slot w).windows = s.windows := rfl
@[simp] theorem holdGang_events (s : State) (slot : Nat) (w : Hold) : (holdGang s slot w).events = s.events := rfl
@[simp] theorem holdGang_fresh (s : State) (slot : Nat) (w : Hold) : (holdGang s slot w).fresh = s.fresh := rfl
@[simp] theorem holdGang_startCycle (s : State) (slot : Nat) (w : Hold) : (holdGang s slot w).startCycle = s.startCycle := rfl
@[simp] theorem holdGang_queues (s : State) (slot : Nat) (w : Hold) : (holdGang s slot w).queues = s.queues := rfl
@[simp] theorem holdGang_bellOrder (s : State) (slot : Nat) (w : Hold) : (holdGang s slot w).bellOrder = s.bellOrder := rfl
@[simp] theorem holdGang_hreg (s : State) (slot : Nat) (w : Hold) : (holdGang s slot w).hreg = s.hreg := rfl
@[simp] theorem holdGang_tlb (s : State) (slot : Nat) (w : Hold) : (holdGang s slot w).tlb = s.tlb := rfl
@[simp] theorem holdGang_walkCache (s : State) (slot : Nat) (w : Hold) : (holdGang s slot w).walkCache = s.walkCache := rfl
@[simp] theorem holdGang_icache (s : State) (slot : Nat) (w : Hold) : (holdGang s slot w).icache = s.icache := rfl
@[simp] theorem holdGang_priLimit (s : State) (slot : Nat) (w : Hold) : (holdGang s slot w).priLimit = s.priLimit := rfl
@[simp] theorem holdGang_voids (s : State) (slot : Nat) (w : Hold) : (holdGang s slot w).voids = s.voids := rfl
@[simp] theorem holdGang_bTurn (s : State) (slot : Nat) (w : Hold) : (holdGang s slot w).bTurn = s.bTurn := rfl
@[simp] theorem holdGang_owed (s : State) (slot : Nat) (w : Hold) : (holdGang s slot w).owed = s.owed := rfl
@[simp] theorem holdGang_refills (s : State) (slot : Nat) (w : Hold) : (holdGang s slot w).refills = s.refills := rfl
@[simp] theorem holdGang_barTurn (s : State) (slot : Nat) (w : Hold) : (holdGang s slot w).barTurn = s.barTurn := rfl
@[simp] theorem holdGang_sends (s : State) (slot : Nat) (w : Hold) : (holdGang s slot w).sends = s.sends := rfl
@[simp] theorem holdGang_temps (s : State) (slot : Nat) (w : Hold) : (holdGang s slot w).temps = s.temps := rfl
@[simp] theorem holdGang_overPower (s : State) (slot : Nat) (w : Hold) : (holdGang s slot w).overPower = s.overPower := rfl
@[simp] theorem holdGang_warm (s : State) (slot : Nat) (w : Hold) : (holdGang s slot w).warm = s.warm := rfl
@[simp] theorem holdGang_deep (s : State) (slot : Nat) (w : Hold) : (holdGang s slot w).deep = s.deep := rfl
@[simp] theorem holdGang_misses (s : State) (slot : Nat) (w : Hold) : (holdGang s slot w).misses = s.misses := rfl
@[simp] theorem holdGang_requests (s : State) (slot : Nat) (w : Hold) : (holdGang s slot w).requests = s.requests := rfl
@[simp] theorem holdGang_prqSeq (s : State) (slot : Nat) (w : Hold) : (holdGang s slot w).prqSeq = s.prqSeq := rfl
@[simp] theorem holdGang_tlbBusy (s : State) (slot : Nat) (w : Hold) : (holdGang s slot w).tlbBusy = s.tlbBusy := rfl
@[simp] theorem holdGang_tlbErr (s : State) (slot : Nat) (w : Hold) : (holdGang s slot w).tlbErr = s.tlbErr := rfl
@[simp] theorem holdGang_atsEnabled (s : State) (slot : Nat) (w : Hold) : (holdGang s slot w).atsEnabled = s.atsEnabled := rfl
@[simp] theorem holdGang_priEnabled (s : State) (slot : Nat) (w : Hold) : (holdGang s slot w).priEnabled = s.priEnabled := rfl
@[simp] theorem holdGang_ats (s : State) (slot : Nat) (w : Hold) : (holdGang s slot w).ats = s.ats := rfl
@[simp] theorem holdGang_atsMisses (s : State) (slot : Nat) (w : Hold) : (holdGang s slot w).atsMisses = s.atsMisses := rfl
@[simp] theorem holdGang_parts (s : State) (slot : Nat) (w : Hold) : (holdGang s slot w).parts = s.parts := rfl
@[simp] theorem holdGang_partstat (s : State) (slot : Nat) (w : Hold) : (holdGang s slot w).partstat = s.partstat := rfl
@[simp] theorem holdGang_policy (s : State) (slot : Nat) (w : Hold) : (holdGang s slot w).policy = s.policy := rfl
@[simp] theorem holdGang_clamped (s : State) (slot : Nat) (w : Hold) : (holdGang s slot w).clamped = s.clamped := rfl
@[simp] theorem holdGang_drainVf (s : State) (slot : Nat) (w : Hold) : (holdGang s slot w).drainVf = s.drainVf := rfl
@[simp] theorem holdGang_drainPart (s : State) (slot : Nat) (w : Hold) : (holdGang s slot w).drainPart = s.drainPart := rfl
@[simp] theorem holdGang_drainDevice (s : State) (slot : Nat) (w : Hold) : (holdGang s slot w).drainDevice = s.drainDevice := rfl
@[simp] theorem holdGang_measured (s : State) (slot : Nat) (w : Hold) : (holdGang s slot w).measured = s.measured := rfl
@[simp] theorem holdGang_buckets (s : State) (slot : Nat) (w : Hold) : (holdGang s slot w).buckets = s.buckets := rfl
@[simp] theorem holdGang_pools (s : State) (slot : Nat) (w : Hold) : (holdGang s slot w).pools = s.pools := rfl
@[simp] theorem holdGang_log (s : State) (slot : Nat) (w : Hold) : (holdGang s slot w).log = s.log := rfl
@[simp] theorem holdGang_logSeq (s : State) (slot : Nat) (w : Hold) : (holdGang s slot w).logSeq = s.logSeq := rfl
@[simp] theorem holdGang_watch (s : State) (slot : Nat) (w : Hold) : (holdGang s slot w).watch = s.watch := rfl
@[simp] theorem holdGang_watchSeq (s : State) (slot : Nat) (w : Hold) : (holdGang s slot w).watchSeq = s.watchSeq := rfl
@[simp] theorem holdGang_platestat (s : State) (slot : Nat) (w : Hold) : (holdGang s slot w).platestat = s.platestat := rfl
@[simp] theorem holdGang_plates (s : State) (slot : Nat) (w : Hold) : (holdGang s slot w).plates = s.plates := rfl
@[simp] theorem holdGang_health (s : State) (slot : Nat) (w : Hold) : (holdGang s slot w).health = s.health := rfl
@[simp] theorem holdGang_quarantine (s : State) (slot : Nat) (w : Hold) : (holdGang s slot w).quarantine = s.quarantine := rfl
@[simp] theorem holdGang_quarantined (s : State) (slot : Nat) (w : Hold) : (holdGang s slot w).quarantined = s.quarantined := rfl
@[simp] theorem holdGang_quarantinedPages (s : State) (slot : Nat) (w : Hold) : (holdGang s slot w).quarantinedPages = s.quarantinedPages := rfl
@[simp] theorem holdGang_survey (s : State) (slot : Nat) (w : Hold) : (holdGang s slot w).survey = s.survey := rfl
@[simp] theorem holdGang_surveyGen (s : State) (slot : Nat) (w : Hold) : (holdGang s slot w).surveyGen = s.surveyGen := rfl
@[simp] theorem holdGang_links (s : State) (slot : Nat) (w : Hold) : (holdGang s slot w).links = s.links := rfl
@[simp] theorem holdGang_messages (s : State) (slot : Nat) (w : Hold) : (holdGang s slot w).messages = s.messages := rfl
@[simp] theorem holdGang_outbox (s : State) (slot : Nat) (w : Hold) : (holdGang s slot w).outbox = s.outbox := rfl

/-! ## `zeroCount` -/

@[simp] theorem zeroCount_agenda (s : State) (slot : Nat) : (zeroCount s slot).agenda = s.agenda := rfl
@[simp] theorem zeroCount_cur (s : State) (slot : Nat) : (zeroCount s slot).cur = s.cur := rfl
@[simp] theorem zeroCount_free (s : State) (slot : Nat) : (zeroCount s slot).free = s.free := rfl
@[simp] theorem zeroCount_nextId (s : State) (slot : Nat) : (zeroCount s slot).nextId = s.nextId := rfl
@[simp] theorem zeroCount_clock (s : State) (slot : Nat) : (zeroCount s slot).clock = s.clock := rfl
@[simp] theorem zeroCount_acycle (s : State) (slot : Nat) : (zeroCount s slot).acycle = s.acycle := rfl
@[simp] theorem zeroCount_aphase (s : State) (slot : Nat) : (zeroCount s slot).aphase = s.aphase := rfl
@[simp] theorem zeroCount_freq (s : State) (slot : Nat) : (zeroCount s slot).freq = s.freq := rfl
@[simp] theorem zeroCount_bringup (s : State) (slot : Nat) : (zeroCount s slot).bringup = s.bringup := rfl
@[simp] theorem zeroCount_ready (s : State) (slot : Nat) : (zeroCount s slot).ready = s.ready := rfl
@[simp] theorem zeroCount_manifest (s : State) (slot : Nat) : (zeroCount s slot).manifest = s.manifest := rfl
@[simp] theorem zeroCount_staged (s : State) (slot : Nat) : (zeroCount s slot).staged = s.staged := rfl
@[simp] theorem zeroCount_rollback (s : State) (slot : Nat) : (zeroCount s slot).rollback = s.rollback := rfl
@[simp] theorem zeroCount_trip (s : State) (slot : Nat) : (zeroCount s slot).trip = s.trip := rfl
@[simp] theorem zeroCount_gangs (s : State) (slot : Nat) : (zeroCount s slot).gangs = mapUpdate s.gangs slot fun g => { g with markCount := 0 } := rfl
@[simp] theorem zeroCount_bregs (s : State) (slot : Nat) : (zeroCount s slot).bregs = s.bregs := rfl
@[simp] theorem zeroCount_busy (s : State) (slot : Nat) : (zeroCount s slot).busy = s.busy := rfl
@[simp] theorem zeroCount_matrix (s : State) (slot : Nat) : (zeroCount s slot).matrix = s.matrix := rfl
@[simp] theorem zeroCount_dram (s : State) (slot : Nat) : (zeroCount s slot).dram = s.dram := rfl
@[simp] theorem zeroCount_spad (s : State) (slot : Nat) : (zeroCount s slot).spad = s.spad := rfl
@[simp] theorem zeroCount_spadGen (s : State) (slot : Nat) : (zeroCount s slot).spadGen = s.spadGen := rfl
@[simp] theorem zeroCount_host (s : State) (slot : Nat) : (zeroCount s slot).host = s.host := rfl
@[simp] theorem zeroCount_poison (s : State) (slot : Nat) : (zeroCount s slot).poison = s.poison := rfl
@[simp] theorem zeroCount_l2 (s : State) (slot : Nat) : (zeroCount s slot).l2 = s.l2 := rfl
@[simp] theorem zeroCount_repaired (s : State) (slot : Nat) : (zeroCount s slot).repaired = s.repaired := rfl
@[simp] theorem zeroCount_rings (s : State) (slot : Nat) : (zeroCount s slot).rings = s.rings := rfl
@[simp] theorem zeroCount_copies (s : State) (slot : Nat) : (zeroCount s slot).copies = s.copies := rfl
@[simp] theorem zeroCount_broadcasts (s : State) (slot : Nat) : (zeroCount s slot).broadcasts = s.broadcasts := rfl
@[simp] theorem zeroCount_rootArrivals (s : State) (slot : Nat) : (zeroCount s slot).rootArrivals = s.rootArrivals := rfl
@[simp] theorem zeroCount_leaves (s : State) (slot : Nat) : (zeroCount s slot).leaves = s.leaves := rfl
@[simp] theorem zeroCount_descs (s : State) (slot : Nat) : (zeroCount s slot).descs = s.descs := rfl
@[simp] theorem zeroCount_window (s : State) (slot : Nat) : (zeroCount s slot).window = s.window := rfl
@[simp] theorem zeroCount_governor (s : State) (slot : Nat) : (zeroCount s slot).governor = s.governor := rfl
@[simp] theorem zeroCount_workgroups (s : State) (slot : Nat) : (zeroCount s slot).workgroups = s.workgroups := rfl
@[simp] theorem zeroCount_launches (s : State) (slot : Nat) : (zeroCount s slot).launches = s.launches := rfl
@[simp] theorem zeroCount_larder (s : State) (slot : Nat) : (zeroCount s slot).larder = s.larder := rfl
@[simp] theorem zeroCount_larderGen (s : State) (slot : Nat) : (zeroCount s slot).larderGen = s.larderGen := rfl
@[simp] theorem zeroCount_joins (s : State) (slot : Nat) : (zeroCount s slot).joins = s.joins := rfl
@[simp] theorem zeroCount_blocked (s : State) (slot : Nat) : (zeroCount s slot).blocked = s.blocked := rfl
@[simp] theorem zeroCount_windows (s : State) (slot : Nat) : (zeroCount s slot).windows = s.windows := rfl
@[simp] theorem zeroCount_events (s : State) (slot : Nat) : (zeroCount s slot).events = s.events := rfl
@[simp] theorem zeroCount_fresh (s : State) (slot : Nat) : (zeroCount s slot).fresh = s.fresh := rfl
@[simp] theorem zeroCount_startCycle (s : State) (slot : Nat) : (zeroCount s slot).startCycle = s.startCycle := rfl
@[simp] theorem zeroCount_queues (s : State) (slot : Nat) : (zeroCount s slot).queues = s.queues := rfl
@[simp] theorem zeroCount_bellOrder (s : State) (slot : Nat) : (zeroCount s slot).bellOrder = s.bellOrder := rfl
@[simp] theorem zeroCount_hreg (s : State) (slot : Nat) : (zeroCount s slot).hreg = s.hreg := rfl
@[simp] theorem zeroCount_tlb (s : State) (slot : Nat) : (zeroCount s slot).tlb = s.tlb := rfl
@[simp] theorem zeroCount_walkCache (s : State) (slot : Nat) : (zeroCount s slot).walkCache = s.walkCache := rfl
@[simp] theorem zeroCount_icache (s : State) (slot : Nat) : (zeroCount s slot).icache = s.icache := rfl
@[simp] theorem zeroCount_priLimit (s : State) (slot : Nat) : (zeroCount s slot).priLimit = s.priLimit := rfl
@[simp] theorem zeroCount_voids (s : State) (slot : Nat) : (zeroCount s slot).voids = s.voids := rfl
@[simp] theorem zeroCount_bTurn (s : State) (slot : Nat) : (zeroCount s slot).bTurn = s.bTurn := rfl
@[simp] theorem zeroCount_owed (s : State) (slot : Nat) : (zeroCount s slot).owed = s.owed := rfl
@[simp] theorem zeroCount_refills (s : State) (slot : Nat) : (zeroCount s slot).refills = s.refills := rfl
@[simp] theorem zeroCount_barTurn (s : State) (slot : Nat) : (zeroCount s slot).barTurn = s.barTurn := rfl
@[simp] theorem zeroCount_sends (s : State) (slot : Nat) : (zeroCount s slot).sends = s.sends := rfl
@[simp] theorem zeroCount_temps (s : State) (slot : Nat) : (zeroCount s slot).temps = s.temps := rfl
@[simp] theorem zeroCount_overPower (s : State) (slot : Nat) : (zeroCount s slot).overPower = s.overPower := rfl
@[simp] theorem zeroCount_warm (s : State) (slot : Nat) : (zeroCount s slot).warm = s.warm := rfl
@[simp] theorem zeroCount_deep (s : State) (slot : Nat) : (zeroCount s slot).deep = s.deep := rfl
@[simp] theorem zeroCount_misses (s : State) (slot : Nat) : (zeroCount s slot).misses = s.misses := rfl
@[simp] theorem zeroCount_requests (s : State) (slot : Nat) : (zeroCount s slot).requests = s.requests := rfl
@[simp] theorem zeroCount_prqSeq (s : State) (slot : Nat) : (zeroCount s slot).prqSeq = s.prqSeq := rfl
@[simp] theorem zeroCount_tlbBusy (s : State) (slot : Nat) : (zeroCount s slot).tlbBusy = s.tlbBusy := rfl
@[simp] theorem zeroCount_tlbErr (s : State) (slot : Nat) : (zeroCount s slot).tlbErr = s.tlbErr := rfl
@[simp] theorem zeroCount_atsEnabled (s : State) (slot : Nat) : (zeroCount s slot).atsEnabled = s.atsEnabled := rfl
@[simp] theorem zeroCount_priEnabled (s : State) (slot : Nat) : (zeroCount s slot).priEnabled = s.priEnabled := rfl
@[simp] theorem zeroCount_ats (s : State) (slot : Nat) : (zeroCount s slot).ats = s.ats := rfl
@[simp] theorem zeroCount_atsMisses (s : State) (slot : Nat) : (zeroCount s slot).atsMisses = s.atsMisses := rfl
@[simp] theorem zeroCount_parts (s : State) (slot : Nat) : (zeroCount s slot).parts = s.parts := rfl
@[simp] theorem zeroCount_partstat (s : State) (slot : Nat) : (zeroCount s slot).partstat = s.partstat := rfl
@[simp] theorem zeroCount_policy (s : State) (slot : Nat) : (zeroCount s slot).policy = s.policy := rfl
@[simp] theorem zeroCount_clamped (s : State) (slot : Nat) : (zeroCount s slot).clamped = s.clamped := rfl
@[simp] theorem zeroCount_drainVf (s : State) (slot : Nat) : (zeroCount s slot).drainVf = s.drainVf := rfl
@[simp] theorem zeroCount_drainPart (s : State) (slot : Nat) : (zeroCount s slot).drainPart = s.drainPart := rfl
@[simp] theorem zeroCount_drainDevice (s : State) (slot : Nat) : (zeroCount s slot).drainDevice = s.drainDevice := rfl
@[simp] theorem zeroCount_measured (s : State) (slot : Nat) : (zeroCount s slot).measured = s.measured := rfl
@[simp] theorem zeroCount_buckets (s : State) (slot : Nat) : (zeroCount s slot).buckets = s.buckets := rfl
@[simp] theorem zeroCount_pools (s : State) (slot : Nat) : (zeroCount s slot).pools = s.pools := rfl
@[simp] theorem zeroCount_log (s : State) (slot : Nat) : (zeroCount s slot).log = s.log := rfl
@[simp] theorem zeroCount_logSeq (s : State) (slot : Nat) : (zeroCount s slot).logSeq = s.logSeq := rfl
@[simp] theorem zeroCount_watch (s : State) (slot : Nat) : (zeroCount s slot).watch = s.watch := rfl
@[simp] theorem zeroCount_watchSeq (s : State) (slot : Nat) : (zeroCount s slot).watchSeq = s.watchSeq := rfl
@[simp] theorem zeroCount_platestat (s : State) (slot : Nat) : (zeroCount s slot).platestat = s.platestat := rfl
@[simp] theorem zeroCount_plates (s : State) (slot : Nat) : (zeroCount s slot).plates = s.plates := rfl
@[simp] theorem zeroCount_health (s : State) (slot : Nat) : (zeroCount s slot).health = s.health := rfl
@[simp] theorem zeroCount_quarantine (s : State) (slot : Nat) : (zeroCount s slot).quarantine = s.quarantine := rfl
@[simp] theorem zeroCount_quarantined (s : State) (slot : Nat) : (zeroCount s slot).quarantined = s.quarantined := rfl
@[simp] theorem zeroCount_quarantinedPages (s : State) (slot : Nat) : (zeroCount s slot).quarantinedPages = s.quarantinedPages := rfl
@[simp] theorem zeroCount_survey (s : State) (slot : Nat) : (zeroCount s slot).survey = s.survey := rfl
@[simp] theorem zeroCount_surveyGen (s : State) (slot : Nat) : (zeroCount s slot).surveyGen = s.surveyGen := rfl
@[simp] theorem zeroCount_links (s : State) (slot : Nat) : (zeroCount s slot).links = s.links := rfl
@[simp] theorem zeroCount_messages (s : State) (slot : Nat) : (zeroCount s slot).messages = s.messages := rfl
@[simp] theorem zeroCount_outbox (s : State) (slot : Nat) : (zeroCount s slot).outbox = s.outbox := rfl

/-! ## `setUnit` -/

@[simp] theorem setUnit_agenda (s : State) (bay : Nat) (m : Matrix) : (setUnit s bay m).agenda = s.agenda := rfl
@[simp] theorem setUnit_cur (s : State) (bay : Nat) (m : Matrix) : (setUnit s bay m).cur = s.cur := rfl
@[simp] theorem setUnit_free (s : State) (bay : Nat) (m : Matrix) : (setUnit s bay m).free = s.free := rfl
@[simp] theorem setUnit_nextId (s : State) (bay : Nat) (m : Matrix) : (setUnit s bay m).nextId = s.nextId := rfl
@[simp] theorem setUnit_clock (s : State) (bay : Nat) (m : Matrix) : (setUnit s bay m).clock = s.clock := rfl
@[simp] theorem setUnit_acycle (s : State) (bay : Nat) (m : Matrix) : (setUnit s bay m).acycle = s.acycle := rfl
@[simp] theorem setUnit_aphase (s : State) (bay : Nat) (m : Matrix) : (setUnit s bay m).aphase = s.aphase := rfl
@[simp] theorem setUnit_freq (s : State) (bay : Nat) (m : Matrix) : (setUnit s bay m).freq = s.freq := rfl
@[simp] theorem setUnit_bringup (s : State) (bay : Nat) (m : Matrix) : (setUnit s bay m).bringup = s.bringup := rfl
@[simp] theorem setUnit_ready (s : State) (bay : Nat) (m : Matrix) : (setUnit s bay m).ready = s.ready := rfl
@[simp] theorem setUnit_manifest (s : State) (bay : Nat) (m : Matrix) : (setUnit s bay m).manifest = s.manifest := rfl
@[simp] theorem setUnit_staged (s : State) (bay : Nat) (m : Matrix) : (setUnit s bay m).staged = s.staged := rfl
@[simp] theorem setUnit_rollback (s : State) (bay : Nat) (m : Matrix) : (setUnit s bay m).rollback = s.rollback := rfl
@[simp] theorem setUnit_trip (s : State) (bay : Nat) (m : Matrix) : (setUnit s bay m).trip = s.trip := rfl
@[simp] theorem setUnit_gangs (s : State) (bay : Nat) (m : Matrix) : (setUnit s bay m).gangs = s.gangs := rfl
@[simp] theorem setUnit_bregs (s : State) (bay : Nat) (m : Matrix) : (setUnit s bay m).bregs = s.bregs := rfl
@[simp] theorem setUnit_busy (s : State) (bay : Nat) (m : Matrix) : (setUnit s bay m).busy = s.busy := rfl
@[simp] theorem setUnit_matrix (s : State) (bay : Nat) (m : Matrix) : (setUnit s bay m).matrix = mapSet s.matrix bay m := rfl
@[simp] theorem setUnit_dram (s : State) (bay : Nat) (m : Matrix) : (setUnit s bay m).dram = s.dram := rfl
@[simp] theorem setUnit_spad (s : State) (bay : Nat) (m : Matrix) : (setUnit s bay m).spad = s.spad := rfl
@[simp] theorem setUnit_spadGen (s : State) (bay : Nat) (m : Matrix) : (setUnit s bay m).spadGen = s.spadGen := rfl
@[simp] theorem setUnit_host (s : State) (bay : Nat) (m : Matrix) : (setUnit s bay m).host = s.host := rfl
@[simp] theorem setUnit_poison (s : State) (bay : Nat) (m : Matrix) : (setUnit s bay m).poison = s.poison := rfl
@[simp] theorem setUnit_l2 (s : State) (bay : Nat) (m : Matrix) : (setUnit s bay m).l2 = s.l2 := rfl
@[simp] theorem setUnit_repaired (s : State) (bay : Nat) (m : Matrix) : (setUnit s bay m).repaired = s.repaired := rfl
@[simp] theorem setUnit_rings (s : State) (bay : Nat) (m : Matrix) : (setUnit s bay m).rings = s.rings := rfl
@[simp] theorem setUnit_copies (s : State) (bay : Nat) (m : Matrix) : (setUnit s bay m).copies = s.copies := rfl
@[simp] theorem setUnit_broadcasts (s : State) (bay : Nat) (m : Matrix) : (setUnit s bay m).broadcasts = s.broadcasts := rfl
@[simp] theorem setUnit_rootArrivals (s : State) (bay : Nat) (m : Matrix) : (setUnit s bay m).rootArrivals = s.rootArrivals := rfl
@[simp] theorem setUnit_leaves (s : State) (bay : Nat) (m : Matrix) : (setUnit s bay m).leaves = s.leaves := rfl
@[simp] theorem setUnit_descs (s : State) (bay : Nat) (m : Matrix) : (setUnit s bay m).descs = s.descs := rfl
@[simp] theorem setUnit_window (s : State) (bay : Nat) (m : Matrix) : (setUnit s bay m).window = s.window := rfl
@[simp] theorem setUnit_governor (s : State) (bay : Nat) (m : Matrix) : (setUnit s bay m).governor = s.governor := rfl
@[simp] theorem setUnit_workgroups (s : State) (bay : Nat) (m : Matrix) : (setUnit s bay m).workgroups = s.workgroups := rfl
@[simp] theorem setUnit_launches (s : State) (bay : Nat) (m : Matrix) : (setUnit s bay m).launches = s.launches := rfl
@[simp] theorem setUnit_larder (s : State) (bay : Nat) (m : Matrix) : (setUnit s bay m).larder = s.larder := rfl
@[simp] theorem setUnit_larderGen (s : State) (bay : Nat) (m : Matrix) : (setUnit s bay m).larderGen = s.larderGen := rfl
@[simp] theorem setUnit_joins (s : State) (bay : Nat) (m : Matrix) : (setUnit s bay m).joins = s.joins := rfl
@[simp] theorem setUnit_blocked (s : State) (bay : Nat) (m : Matrix) : (setUnit s bay m).blocked = s.blocked := rfl
@[simp] theorem setUnit_windows (s : State) (bay : Nat) (m : Matrix) : (setUnit s bay m).windows = s.windows := rfl
@[simp] theorem setUnit_events (s : State) (bay : Nat) (m : Matrix) : (setUnit s bay m).events = s.events := rfl
@[simp] theorem setUnit_fresh (s : State) (bay : Nat) (m : Matrix) : (setUnit s bay m).fresh = s.fresh := rfl
@[simp] theorem setUnit_startCycle (s : State) (bay : Nat) (m : Matrix) : (setUnit s bay m).startCycle = s.startCycle := rfl
@[simp] theorem setUnit_queues (s : State) (bay : Nat) (m : Matrix) : (setUnit s bay m).queues = s.queues := rfl
@[simp] theorem setUnit_bellOrder (s : State) (bay : Nat) (m : Matrix) : (setUnit s bay m).bellOrder = s.bellOrder := rfl
@[simp] theorem setUnit_hreg (s : State) (bay : Nat) (m : Matrix) : (setUnit s bay m).hreg = s.hreg := rfl
@[simp] theorem setUnit_tlb (s : State) (bay : Nat) (m : Matrix) : (setUnit s bay m).tlb = s.tlb := rfl
@[simp] theorem setUnit_walkCache (s : State) (bay : Nat) (m : Matrix) : (setUnit s bay m).walkCache = s.walkCache := rfl
@[simp] theorem setUnit_icache (s : State) (bay : Nat) (m : Matrix) : (setUnit s bay m).icache = s.icache := rfl
@[simp] theorem setUnit_priLimit (s : State) (bay : Nat) (m : Matrix) : (setUnit s bay m).priLimit = s.priLimit := rfl
@[simp] theorem setUnit_voids (s : State) (bay : Nat) (m : Matrix) : (setUnit s bay m).voids = s.voids := rfl
@[simp] theorem setUnit_bTurn (s : State) (bay : Nat) (m : Matrix) : (setUnit s bay m).bTurn = s.bTurn := rfl
@[simp] theorem setUnit_owed (s : State) (bay : Nat) (m : Matrix) : (setUnit s bay m).owed = s.owed := rfl
@[simp] theorem setUnit_refills (s : State) (bay : Nat) (m : Matrix) : (setUnit s bay m).refills = s.refills := rfl
@[simp] theorem setUnit_barTurn (s : State) (bay : Nat) (m : Matrix) : (setUnit s bay m).barTurn = s.barTurn := rfl
@[simp] theorem setUnit_sends (s : State) (bay : Nat) (m : Matrix) : (setUnit s bay m).sends = s.sends := rfl
@[simp] theorem setUnit_temps (s : State) (bay : Nat) (m : Matrix) : (setUnit s bay m).temps = s.temps := rfl
@[simp] theorem setUnit_overPower (s : State) (bay : Nat) (m : Matrix) : (setUnit s bay m).overPower = s.overPower := rfl
@[simp] theorem setUnit_warm (s : State) (bay : Nat) (m : Matrix) : (setUnit s bay m).warm = s.warm := rfl
@[simp] theorem setUnit_deep (s : State) (bay : Nat) (m : Matrix) : (setUnit s bay m).deep = s.deep := rfl
@[simp] theorem setUnit_misses (s : State) (bay : Nat) (m : Matrix) : (setUnit s bay m).misses = s.misses := rfl
@[simp] theorem setUnit_requests (s : State) (bay : Nat) (m : Matrix) : (setUnit s bay m).requests = s.requests := rfl
@[simp] theorem setUnit_prqSeq (s : State) (bay : Nat) (m : Matrix) : (setUnit s bay m).prqSeq = s.prqSeq := rfl
@[simp] theorem setUnit_tlbBusy (s : State) (bay : Nat) (m : Matrix) : (setUnit s bay m).tlbBusy = s.tlbBusy := rfl
@[simp] theorem setUnit_tlbErr (s : State) (bay : Nat) (m : Matrix) : (setUnit s bay m).tlbErr = s.tlbErr := rfl
@[simp] theorem setUnit_atsEnabled (s : State) (bay : Nat) (m : Matrix) : (setUnit s bay m).atsEnabled = s.atsEnabled := rfl
@[simp] theorem setUnit_priEnabled (s : State) (bay : Nat) (m : Matrix) : (setUnit s bay m).priEnabled = s.priEnabled := rfl
@[simp] theorem setUnit_ats (s : State) (bay : Nat) (m : Matrix) : (setUnit s bay m).ats = s.ats := rfl
@[simp] theorem setUnit_atsMisses (s : State) (bay : Nat) (m : Matrix) : (setUnit s bay m).atsMisses = s.atsMisses := rfl
@[simp] theorem setUnit_parts (s : State) (bay : Nat) (m : Matrix) : (setUnit s bay m).parts = s.parts := rfl
@[simp] theorem setUnit_partstat (s : State) (bay : Nat) (m : Matrix) : (setUnit s bay m).partstat = s.partstat := rfl
@[simp] theorem setUnit_policy (s : State) (bay : Nat) (m : Matrix) : (setUnit s bay m).policy = s.policy := rfl
@[simp] theorem setUnit_clamped (s : State) (bay : Nat) (m : Matrix) : (setUnit s bay m).clamped = s.clamped := rfl
@[simp] theorem setUnit_drainVf (s : State) (bay : Nat) (m : Matrix) : (setUnit s bay m).drainVf = s.drainVf := rfl
@[simp] theorem setUnit_drainPart (s : State) (bay : Nat) (m : Matrix) : (setUnit s bay m).drainPart = s.drainPart := rfl
@[simp] theorem setUnit_drainDevice (s : State) (bay : Nat) (m : Matrix) : (setUnit s bay m).drainDevice = s.drainDevice := rfl
@[simp] theorem setUnit_measured (s : State) (bay : Nat) (m : Matrix) : (setUnit s bay m).measured = s.measured := rfl
@[simp] theorem setUnit_buckets (s : State) (bay : Nat) (m : Matrix) : (setUnit s bay m).buckets = s.buckets := rfl
@[simp] theorem setUnit_pools (s : State) (bay : Nat) (m : Matrix) : (setUnit s bay m).pools = s.pools := rfl
@[simp] theorem setUnit_log (s : State) (bay : Nat) (m : Matrix) : (setUnit s bay m).log = s.log := rfl
@[simp] theorem setUnit_logSeq (s : State) (bay : Nat) (m : Matrix) : (setUnit s bay m).logSeq = s.logSeq := rfl
@[simp] theorem setUnit_watch (s : State) (bay : Nat) (m : Matrix) : (setUnit s bay m).watch = s.watch := rfl
@[simp] theorem setUnit_watchSeq (s : State) (bay : Nat) (m : Matrix) : (setUnit s bay m).watchSeq = s.watchSeq := rfl
@[simp] theorem setUnit_platestat (s : State) (bay : Nat) (m : Matrix) : (setUnit s bay m).platestat = s.platestat := rfl
@[simp] theorem setUnit_plates (s : State) (bay : Nat) (m : Matrix) : (setUnit s bay m).plates = s.plates := rfl
@[simp] theorem setUnit_health (s : State) (bay : Nat) (m : Matrix) : (setUnit s bay m).health = s.health := rfl
@[simp] theorem setUnit_quarantine (s : State) (bay : Nat) (m : Matrix) : (setUnit s bay m).quarantine = s.quarantine := rfl
@[simp] theorem setUnit_quarantined (s : State) (bay : Nat) (m : Matrix) : (setUnit s bay m).quarantined = s.quarantined := rfl
@[simp] theorem setUnit_quarantinedPages (s : State) (bay : Nat) (m : Matrix) : (setUnit s bay m).quarantinedPages = s.quarantinedPages := rfl
@[simp] theorem setUnit_survey (s : State) (bay : Nat) (m : Matrix) : (setUnit s bay m).survey = s.survey := rfl
@[simp] theorem setUnit_surveyGen (s : State) (bay : Nat) (m : Matrix) : (setUnit s bay m).surveyGen = s.surveyGen := rfl
@[simp] theorem setUnit_links (s : State) (bay : Nat) (m : Matrix) : (setUnit s bay m).links = s.links := rfl
@[simp] theorem setUnit_messages (s : State) (bay : Nat) (m : Matrix) : (setUnit s bay m).messages = s.messages := rfl
@[simp] theorem setUnit_outbox (s : State) (bay : Nat) (m : Matrix) : (setUnit s bay m).outbox = s.outbox := rfl

/-! ## `regPut` -/

@[simp] theorem regPut_agenda (s : State) (r v : Nat) : (regPut s r v).agenda = s.agenda := rfl
@[simp] theorem regPut_cur (s : State) (r v : Nat) : (regPut s r v).cur = s.cur := rfl
@[simp] theorem regPut_free (s : State) (r v : Nat) : (regPut s r v).free = s.free := rfl
@[simp] theorem regPut_nextId (s : State) (r v : Nat) : (regPut s r v).nextId = s.nextId := rfl
@[simp] theorem regPut_clock (s : State) (r v : Nat) : (regPut s r v).clock = s.clock := rfl
@[simp] theorem regPut_acycle (s : State) (r v : Nat) : (regPut s r v).acycle = s.acycle := rfl
@[simp] theorem regPut_aphase (s : State) (r v : Nat) : (regPut s r v).aphase = s.aphase := rfl
@[simp] theorem regPut_freq (s : State) (r v : Nat) : (regPut s r v).freq = s.freq := rfl
@[simp] theorem regPut_bringup (s : State) (r v : Nat) : (regPut s r v).bringup = s.bringup := rfl
@[simp] theorem regPut_ready (s : State) (r v : Nat) : (regPut s r v).ready = s.ready := rfl
@[simp] theorem regPut_manifest (s : State) (r v : Nat) : (regPut s r v).manifest = s.manifest := rfl
@[simp] theorem regPut_staged (s : State) (r v : Nat) : (regPut s r v).staged = s.staged := rfl
@[simp] theorem regPut_rollback (s : State) (r v : Nat) : (regPut s r v).rollback = s.rollback := rfl
@[simp] theorem regPut_trip (s : State) (r v : Nat) : (regPut s r v).trip = s.trip := rfl
@[simp] theorem regPut_gangs (s : State) (r v : Nat) : (regPut s r v).gangs = s.gangs := rfl
@[simp] theorem regPut_bregs (s : State) (r v : Nat) : (regPut s r v).bregs = s.bregs := rfl
@[simp] theorem regPut_busy (s : State) (r v : Nat) : (regPut s r v).busy = s.busy := rfl
@[simp] theorem regPut_matrix (s : State) (r v : Nat) : (regPut s r v).matrix = s.matrix := rfl
@[simp] theorem regPut_dram (s : State) (r v : Nat) : (regPut s r v).dram = s.dram := rfl
@[simp] theorem regPut_spad (s : State) (r v : Nat) : (regPut s r v).spad = s.spad := rfl
@[simp] theorem regPut_spadGen (s : State) (r v : Nat) : (regPut s r v).spadGen = s.spadGen := rfl
@[simp] theorem regPut_host (s : State) (r v : Nat) : (regPut s r v).host = s.host := rfl
@[simp] theorem regPut_poison (s : State) (r v : Nat) : (regPut s r v).poison = s.poison := rfl
@[simp] theorem regPut_l2 (s : State) (r v : Nat) : (regPut s r v).l2 = s.l2 := rfl
@[simp] theorem regPut_repaired (s : State) (r v : Nat) : (regPut s r v).repaired = s.repaired := rfl
@[simp] theorem regPut_rings (s : State) (r v : Nat) : (regPut s r v).rings = s.rings := rfl
@[simp] theorem regPut_copies (s : State) (r v : Nat) : (regPut s r v).copies = s.copies := rfl
@[simp] theorem regPut_broadcasts (s : State) (r v : Nat) : (regPut s r v).broadcasts = s.broadcasts := rfl
@[simp] theorem regPut_rootArrivals (s : State) (r v : Nat) : (regPut s r v).rootArrivals = s.rootArrivals := rfl
@[simp] theorem regPut_leaves (s : State) (r v : Nat) : (regPut s r v).leaves = s.leaves := rfl
@[simp] theorem regPut_descs (s : State) (r v : Nat) : (regPut s r v).descs = s.descs := rfl
@[simp] theorem regPut_window (s : State) (r v : Nat) : (regPut s r v).window = s.window := rfl
@[simp] theorem regPut_governor (s : State) (r v : Nat) : (regPut s r v).governor = s.governor := rfl
@[simp] theorem regPut_workgroups (s : State) (r v : Nat) : (regPut s r v).workgroups = s.workgroups := rfl
@[simp] theorem regPut_launches (s : State) (r v : Nat) : (regPut s r v).launches = s.launches := rfl
@[simp] theorem regPut_larder (s : State) (r v : Nat) : (regPut s r v).larder = s.larder := rfl
@[simp] theorem regPut_larderGen (s : State) (r v : Nat) : (regPut s r v).larderGen = s.larderGen := rfl
@[simp] theorem regPut_joins (s : State) (r v : Nat) : (regPut s r v).joins = s.joins := rfl
@[simp] theorem regPut_blocked (s : State) (r v : Nat) : (regPut s r v).blocked = s.blocked := rfl
@[simp] theorem regPut_windows (s : State) (r v : Nat) : (regPut s r v).windows = s.windows := rfl
@[simp] theorem regPut_events (s : State) (r v : Nat) : (regPut s r v).events = s.events := rfl
@[simp] theorem regPut_fresh (s : State) (r v : Nat) : (regPut s r v).fresh = s.fresh := rfl
@[simp] theorem regPut_startCycle (s : State) (r v : Nat) : (regPut s r v).startCycle = s.startCycle := rfl
@[simp] theorem regPut_queues (s : State) (r v : Nat) : (regPut s r v).queues = s.queues := rfl
@[simp] theorem regPut_bellOrder (s : State) (r v : Nat) : (regPut s r v).bellOrder = s.bellOrder := rfl
@[simp] theorem regPut_hreg (s : State) (r v : Nat) : (regPut s r v).hreg = wordSet s.hreg r (BitVec.ofNat 64 v) := rfl
@[simp] theorem regPut_tlb (s : State) (r v : Nat) : (regPut s r v).tlb = s.tlb := rfl
@[simp] theorem regPut_walkCache (s : State) (r v : Nat) : (regPut s r v).walkCache = s.walkCache := rfl
@[simp] theorem regPut_icache (s : State) (r v : Nat) : (regPut s r v).icache = s.icache := rfl
@[simp] theorem regPut_priLimit (s : State) (r v : Nat) : (regPut s r v).priLimit = s.priLimit := rfl
@[simp] theorem regPut_voids (s : State) (r v : Nat) : (regPut s r v).voids = s.voids := rfl
@[simp] theorem regPut_bTurn (s : State) (r v : Nat) : (regPut s r v).bTurn = s.bTurn := rfl
@[simp] theorem regPut_owed (s : State) (r v : Nat) : (regPut s r v).owed = s.owed := rfl
@[simp] theorem regPut_refills (s : State) (r v : Nat) : (regPut s r v).refills = s.refills := rfl
@[simp] theorem regPut_barTurn (s : State) (r v : Nat) : (regPut s r v).barTurn = s.barTurn := rfl
@[simp] theorem regPut_sends (s : State) (r v : Nat) : (regPut s r v).sends = s.sends := rfl
@[simp] theorem regPut_temps (s : State) (r v : Nat) : (regPut s r v).temps = s.temps := rfl
@[simp] theorem regPut_overPower (s : State) (r v : Nat) : (regPut s r v).overPower = s.overPower := rfl
@[simp] theorem regPut_warm (s : State) (r v : Nat) : (regPut s r v).warm = s.warm := rfl
@[simp] theorem regPut_deep (s : State) (r v : Nat) : (regPut s r v).deep = s.deep := rfl
@[simp] theorem regPut_misses (s : State) (r v : Nat) : (regPut s r v).misses = s.misses := rfl
@[simp] theorem regPut_requests (s : State) (r v : Nat) : (regPut s r v).requests = s.requests := rfl
@[simp] theorem regPut_prqSeq (s : State) (r v : Nat) : (regPut s r v).prqSeq = s.prqSeq := rfl
@[simp] theorem regPut_tlbBusy (s : State) (r v : Nat) : (regPut s r v).tlbBusy = s.tlbBusy := rfl
@[simp] theorem regPut_tlbErr (s : State) (r v : Nat) : (regPut s r v).tlbErr = s.tlbErr := rfl
@[simp] theorem regPut_atsEnabled (s : State) (r v : Nat) : (regPut s r v).atsEnabled = s.atsEnabled := rfl
@[simp] theorem regPut_priEnabled (s : State) (r v : Nat) : (regPut s r v).priEnabled = s.priEnabled := rfl
@[simp] theorem regPut_ats (s : State) (r v : Nat) : (regPut s r v).ats = s.ats := rfl
@[simp] theorem regPut_atsMisses (s : State) (r v : Nat) : (regPut s r v).atsMisses = s.atsMisses := rfl
@[simp] theorem regPut_parts (s : State) (r v : Nat) : (regPut s r v).parts = s.parts := rfl
@[simp] theorem regPut_partstat (s : State) (r v : Nat) : (regPut s r v).partstat = s.partstat := rfl
@[simp] theorem regPut_policy (s : State) (r v : Nat) : (regPut s r v).policy = s.policy := rfl
@[simp] theorem regPut_clamped (s : State) (r v : Nat) : (regPut s r v).clamped = s.clamped := rfl
@[simp] theorem regPut_drainVf (s : State) (r v : Nat) : (regPut s r v).drainVf = s.drainVf := rfl
@[simp] theorem regPut_drainPart (s : State) (r v : Nat) : (regPut s r v).drainPart = s.drainPart := rfl
@[simp] theorem regPut_drainDevice (s : State) (r v : Nat) : (regPut s r v).drainDevice = s.drainDevice := rfl
@[simp] theorem regPut_measured (s : State) (r v : Nat) : (regPut s r v).measured = s.measured := rfl
@[simp] theorem regPut_buckets (s : State) (r v : Nat) : (regPut s r v).buckets = s.buckets := rfl
@[simp] theorem regPut_pools (s : State) (r v : Nat) : (regPut s r v).pools = s.pools := rfl
@[simp] theorem regPut_log (s : State) (r v : Nat) : (regPut s r v).log = s.log := rfl
@[simp] theorem regPut_logSeq (s : State) (r v : Nat) : (regPut s r v).logSeq = s.logSeq := rfl
@[simp] theorem regPut_watch (s : State) (r v : Nat) : (regPut s r v).watch = s.watch := rfl
@[simp] theorem regPut_watchSeq (s : State) (r v : Nat) : (regPut s r v).watchSeq = s.watchSeq := rfl
@[simp] theorem regPut_platestat (s : State) (r v : Nat) : (regPut s r v).platestat = s.platestat := rfl
@[simp] theorem regPut_plates (s : State) (r v : Nat) : (regPut s r v).plates = s.plates := rfl
@[simp] theorem regPut_health (s : State) (r v : Nat) : (regPut s r v).health = s.health := rfl
@[simp] theorem regPut_quarantine (s : State) (r v : Nat) : (regPut s r v).quarantine = s.quarantine := rfl
@[simp] theorem regPut_quarantined (s : State) (r v : Nat) : (regPut s r v).quarantined = s.quarantined := rfl
@[simp] theorem regPut_quarantinedPages (s : State) (r v : Nat) : (regPut s r v).quarantinedPages = s.quarantinedPages := rfl
@[simp] theorem regPut_survey (s : State) (r v : Nat) : (regPut s r v).survey = s.survey := rfl
@[simp] theorem regPut_surveyGen (s : State) (r v : Nat) : (regPut s r v).surveyGen = s.surveyGen := rfl
@[simp] theorem regPut_links (s : State) (r v : Nat) : (regPut s r v).links = s.links := rfl
@[simp] theorem regPut_messages (s : State) (r v : Nat) : (regPut s r v).messages = s.messages := rfl
@[simp] theorem regPut_outbox (s : State) (r v : Nat) : (regPut s r v).outbox = s.outbox := rfl

/-! ## `spadPut` -/

@[simp] theorem spadPut_agenda (s : State) (cell off : Nat) (b : Byte) : (spadPut s cell off b).agenda = s.agenda := rfl
@[simp] theorem spadPut_cur (s : State) (cell off : Nat) (b : Byte) : (spadPut s cell off b).cur = s.cur := rfl
@[simp] theorem spadPut_free (s : State) (cell off : Nat) (b : Byte) : (spadPut s cell off b).free = s.free := rfl
@[simp] theorem spadPut_nextId (s : State) (cell off : Nat) (b : Byte) : (spadPut s cell off b).nextId = s.nextId := rfl
@[simp] theorem spadPut_clock (s : State) (cell off : Nat) (b : Byte) : (spadPut s cell off b).clock = s.clock := rfl
@[simp] theorem spadPut_acycle (s : State) (cell off : Nat) (b : Byte) : (spadPut s cell off b).acycle = s.acycle := rfl
@[simp] theorem spadPut_aphase (s : State) (cell off : Nat) (b : Byte) : (spadPut s cell off b).aphase = s.aphase := rfl
@[simp] theorem spadPut_freq (s : State) (cell off : Nat) (b : Byte) : (spadPut s cell off b).freq = s.freq := rfl
@[simp] theorem spadPut_bringup (s : State) (cell off : Nat) (b : Byte) : (spadPut s cell off b).bringup = s.bringup := rfl
@[simp] theorem spadPut_ready (s : State) (cell off : Nat) (b : Byte) : (spadPut s cell off b).ready = s.ready := rfl
@[simp] theorem spadPut_manifest (s : State) (cell off : Nat) (b : Byte) : (spadPut s cell off b).manifest = s.manifest := rfl
@[simp] theorem spadPut_staged (s : State) (cell off : Nat) (b : Byte) : (spadPut s cell off b).staged = s.staged := rfl
@[simp] theorem spadPut_rollback (s : State) (cell off : Nat) (b : Byte) : (spadPut s cell off b).rollback = s.rollback := rfl
@[simp] theorem spadPut_trip (s : State) (cell off : Nat) (b : Byte) : (spadPut s cell off b).trip = s.trip := rfl
@[simp] theorem spadPut_gangs (s : State) (cell off : Nat) (b : Byte) : (spadPut s cell off b).gangs = s.gangs := rfl
@[simp] theorem spadPut_bregs (s : State) (cell off : Nat) (b : Byte) : (spadPut s cell off b).bregs = s.bregs := rfl
@[simp] theorem spadPut_busy (s : State) (cell off : Nat) (b : Byte) : (spadPut s cell off b).busy = s.busy := rfl
@[simp] theorem spadPut_matrix (s : State) (cell off : Nat) (b : Byte) : (spadPut s cell off b).matrix = s.matrix := rfl
@[simp] theorem spadPut_dram (s : State) (cell off : Nat) (b : Byte) : (spadPut s cell off b).dram = s.dram := rfl
@[simp] theorem spadPut_spad (s : State) (cell off : Nat) (b : Byte) : (spadPut s cell off b).spad = wordSet s.spad (2 ^ 20 * cell + off) (b ^^^ spadMask s cell off) := rfl
@[simp] theorem spadPut_spadGen (s : State) (cell off : Nat) (b : Byte) : (spadPut s cell off b).spadGen = s.spadGen := rfl
@[simp] theorem spadPut_host (s : State) (cell off : Nat) (b : Byte) : (spadPut s cell off b).host = s.host := rfl
@[simp] theorem spadPut_poison (s : State) (cell off : Nat) (b : Byte) : (spadPut s cell off b).poison = s.poison := rfl
@[simp] theorem spadPut_l2 (s : State) (cell off : Nat) (b : Byte) : (spadPut s cell off b).l2 = s.l2 := rfl
@[simp] theorem spadPut_repaired (s : State) (cell off : Nat) (b : Byte) : (spadPut s cell off b).repaired = s.repaired := rfl
@[simp] theorem spadPut_rings (s : State) (cell off : Nat) (b : Byte) : (spadPut s cell off b).rings = s.rings := rfl
@[simp] theorem spadPut_copies (s : State) (cell off : Nat) (b : Byte) : (spadPut s cell off b).copies = s.copies := rfl
@[simp] theorem spadPut_broadcasts (s : State) (cell off : Nat) (b : Byte) : (spadPut s cell off b).broadcasts = s.broadcasts := rfl
@[simp] theorem spadPut_rootArrivals (s : State) (cell off : Nat) (b : Byte) : (spadPut s cell off b).rootArrivals = s.rootArrivals := rfl
@[simp] theorem spadPut_leaves (s : State) (cell off : Nat) (b : Byte) : (spadPut s cell off b).leaves = s.leaves := rfl
@[simp] theorem spadPut_descs (s : State) (cell off : Nat) (b : Byte) : (spadPut s cell off b).descs = s.descs := rfl
@[simp] theorem spadPut_window (s : State) (cell off : Nat) (b : Byte) : (spadPut s cell off b).window = s.window := rfl
@[simp] theorem spadPut_governor (s : State) (cell off : Nat) (b : Byte) : (spadPut s cell off b).governor = s.governor := rfl
@[simp] theorem spadPut_workgroups (s : State) (cell off : Nat) (b : Byte) : (spadPut s cell off b).workgroups = s.workgroups := rfl
@[simp] theorem spadPut_launches (s : State) (cell off : Nat) (b : Byte) : (spadPut s cell off b).launches = s.launches := rfl
@[simp] theorem spadPut_larder (s : State) (cell off : Nat) (b : Byte) : (spadPut s cell off b).larder = s.larder := rfl
@[simp] theorem spadPut_larderGen (s : State) (cell off : Nat) (b : Byte) : (spadPut s cell off b).larderGen = s.larderGen := rfl
@[simp] theorem spadPut_joins (s : State) (cell off : Nat) (b : Byte) : (spadPut s cell off b).joins = s.joins := rfl
@[simp] theorem spadPut_blocked (s : State) (cell off : Nat) (b : Byte) : (spadPut s cell off b).blocked = s.blocked := rfl
@[simp] theorem spadPut_windows (s : State) (cell off : Nat) (b : Byte) : (spadPut s cell off b).windows = s.windows := rfl
@[simp] theorem spadPut_events (s : State) (cell off : Nat) (b : Byte) : (spadPut s cell off b).events = s.events := rfl
@[simp] theorem spadPut_fresh (s : State) (cell off : Nat) (b : Byte) : (spadPut s cell off b).fresh = s.fresh := rfl
@[simp] theorem spadPut_startCycle (s : State) (cell off : Nat) (b : Byte) : (spadPut s cell off b).startCycle = s.startCycle := rfl
@[simp] theorem spadPut_queues (s : State) (cell off : Nat) (b : Byte) : (spadPut s cell off b).queues = s.queues := rfl
@[simp] theorem spadPut_bellOrder (s : State) (cell off : Nat) (b : Byte) : (spadPut s cell off b).bellOrder = s.bellOrder := rfl
@[simp] theorem spadPut_hreg (s : State) (cell off : Nat) (b : Byte) : (spadPut s cell off b).hreg = s.hreg := rfl
@[simp] theorem spadPut_tlb (s : State) (cell off : Nat) (b : Byte) : (spadPut s cell off b).tlb = s.tlb := rfl
@[simp] theorem spadPut_walkCache (s : State) (cell off : Nat) (b : Byte) : (spadPut s cell off b).walkCache = s.walkCache := rfl
@[simp] theorem spadPut_icache (s : State) (cell off : Nat) (b : Byte) : (spadPut s cell off b).icache = s.icache := rfl
@[simp] theorem spadPut_priLimit (s : State) (cell off : Nat) (b : Byte) : (spadPut s cell off b).priLimit = s.priLimit := rfl
@[simp] theorem spadPut_voids (s : State) (cell off : Nat) (b : Byte) : (spadPut s cell off b).voids = s.voids := rfl
@[simp] theorem spadPut_bTurn (s : State) (cell off : Nat) (b : Byte) : (spadPut s cell off b).bTurn = s.bTurn := rfl
@[simp] theorem spadPut_owed (s : State) (cell off : Nat) (b : Byte) : (spadPut s cell off b).owed = s.owed := rfl
@[simp] theorem spadPut_refills (s : State) (cell off : Nat) (b : Byte) : (spadPut s cell off b).refills = s.refills := rfl
@[simp] theorem spadPut_barTurn (s : State) (cell off : Nat) (b : Byte) : (spadPut s cell off b).barTurn = s.barTurn := rfl
@[simp] theorem spadPut_sends (s : State) (cell off : Nat) (b : Byte) : (spadPut s cell off b).sends = s.sends := rfl
@[simp] theorem spadPut_temps (s : State) (cell off : Nat) (b : Byte) : (spadPut s cell off b).temps = s.temps := rfl
@[simp] theorem spadPut_overPower (s : State) (cell off : Nat) (b : Byte) : (spadPut s cell off b).overPower = s.overPower := rfl
@[simp] theorem spadPut_warm (s : State) (cell off : Nat) (b : Byte) : (spadPut s cell off b).warm = s.warm := rfl
@[simp] theorem spadPut_deep (s : State) (cell off : Nat) (b : Byte) : (spadPut s cell off b).deep = s.deep := rfl
@[simp] theorem spadPut_misses (s : State) (cell off : Nat) (b : Byte) : (spadPut s cell off b).misses = s.misses := rfl
@[simp] theorem spadPut_requests (s : State) (cell off : Nat) (b : Byte) : (spadPut s cell off b).requests = s.requests := rfl
@[simp] theorem spadPut_prqSeq (s : State) (cell off : Nat) (b : Byte) : (spadPut s cell off b).prqSeq = s.prqSeq := rfl
@[simp] theorem spadPut_tlbBusy (s : State) (cell off : Nat) (b : Byte) : (spadPut s cell off b).tlbBusy = s.tlbBusy := rfl
@[simp] theorem spadPut_tlbErr (s : State) (cell off : Nat) (b : Byte) : (spadPut s cell off b).tlbErr = s.tlbErr := rfl
@[simp] theorem spadPut_atsEnabled (s : State) (cell off : Nat) (b : Byte) : (spadPut s cell off b).atsEnabled = s.atsEnabled := rfl
@[simp] theorem spadPut_priEnabled (s : State) (cell off : Nat) (b : Byte) : (spadPut s cell off b).priEnabled = s.priEnabled := rfl
@[simp] theorem spadPut_ats (s : State) (cell off : Nat) (b : Byte) : (spadPut s cell off b).ats = s.ats := rfl
@[simp] theorem spadPut_atsMisses (s : State) (cell off : Nat) (b : Byte) : (spadPut s cell off b).atsMisses = s.atsMisses := rfl
@[simp] theorem spadPut_parts (s : State) (cell off : Nat) (b : Byte) : (spadPut s cell off b).parts = s.parts := rfl
@[simp] theorem spadPut_partstat (s : State) (cell off : Nat) (b : Byte) : (spadPut s cell off b).partstat = s.partstat := rfl
@[simp] theorem spadPut_policy (s : State) (cell off : Nat) (b : Byte) : (spadPut s cell off b).policy = s.policy := rfl
@[simp] theorem spadPut_clamped (s : State) (cell off : Nat) (b : Byte) : (spadPut s cell off b).clamped = s.clamped := rfl
@[simp] theorem spadPut_drainVf (s : State) (cell off : Nat) (b : Byte) : (spadPut s cell off b).drainVf = s.drainVf := rfl
@[simp] theorem spadPut_drainPart (s : State) (cell off : Nat) (b : Byte) : (spadPut s cell off b).drainPart = s.drainPart := rfl
@[simp] theorem spadPut_drainDevice (s : State) (cell off : Nat) (b : Byte) : (spadPut s cell off b).drainDevice = s.drainDevice := rfl
@[simp] theorem spadPut_measured (s : State) (cell off : Nat) (b : Byte) : (spadPut s cell off b).measured = s.measured := rfl
@[simp] theorem spadPut_buckets (s : State) (cell off : Nat) (b : Byte) : (spadPut s cell off b).buckets = s.buckets := rfl
@[simp] theorem spadPut_pools (s : State) (cell off : Nat) (b : Byte) : (spadPut s cell off b).pools = s.pools := rfl
@[simp] theorem spadPut_log (s : State) (cell off : Nat) (b : Byte) : (spadPut s cell off b).log = s.log := rfl
@[simp] theorem spadPut_logSeq (s : State) (cell off : Nat) (b : Byte) : (spadPut s cell off b).logSeq = s.logSeq := rfl
@[simp] theorem spadPut_watch (s : State) (cell off : Nat) (b : Byte) : (spadPut s cell off b).watch = s.watch := rfl
@[simp] theorem spadPut_watchSeq (s : State) (cell off : Nat) (b : Byte) : (spadPut s cell off b).watchSeq = s.watchSeq := rfl
@[simp] theorem spadPut_platestat (s : State) (cell off : Nat) (b : Byte) : (spadPut s cell off b).platestat = s.platestat := rfl
@[simp] theorem spadPut_plates (s : State) (cell off : Nat) (b : Byte) : (spadPut s cell off b).plates = s.plates := rfl
@[simp] theorem spadPut_health (s : State) (cell off : Nat) (b : Byte) : (spadPut s cell off b).health = s.health := rfl
@[simp] theorem spadPut_quarantine (s : State) (cell off : Nat) (b : Byte) : (spadPut s cell off b).quarantine = s.quarantine := rfl
@[simp] theorem spadPut_quarantined (s : State) (cell off : Nat) (b : Byte) : (spadPut s cell off b).quarantined = s.quarantined := rfl
@[simp] theorem spadPut_quarantinedPages (s : State) (cell off : Nat) (b : Byte) : (spadPut s cell off b).quarantinedPages = s.quarantinedPages := rfl
@[simp] theorem spadPut_survey (s : State) (cell off : Nat) (b : Byte) : (spadPut s cell off b).survey = s.survey := rfl
@[simp] theorem spadPut_surveyGen (s : State) (cell off : Nat) (b : Byte) : (spadPut s cell off b).surveyGen = s.surveyGen := rfl
@[simp] theorem spadPut_links (s : State) (cell off : Nat) (b : Byte) : (spadPut s cell off b).links = s.links := rfl
@[simp] theorem spadPut_messages (s : State) (cell off : Nat) (b : Byte) : (spadPut s cell off b).messages = s.messages := rfl
@[simp] theorem spadPut_outbox (s : State) (cell off : Nat) (b : Byte) : (spadPut s cell off b).outbox = s.outbox := rfl

/-! ## `dramPut` -/

@[simp] theorem dramPut_agenda (s : State) (key : Nat) (b : Byte) : (dramPut s key b).agenda = s.agenda := rfl
@[simp] theorem dramPut_cur (s : State) (key : Nat) (b : Byte) : (dramPut s key b).cur = s.cur := rfl
@[simp] theorem dramPut_free (s : State) (key : Nat) (b : Byte) : (dramPut s key b).free = s.free := rfl
@[simp] theorem dramPut_nextId (s : State) (key : Nat) (b : Byte) : (dramPut s key b).nextId = s.nextId := rfl
@[simp] theorem dramPut_clock (s : State) (key : Nat) (b : Byte) : (dramPut s key b).clock = s.clock := rfl
@[simp] theorem dramPut_acycle (s : State) (key : Nat) (b : Byte) : (dramPut s key b).acycle = s.acycle := rfl
@[simp] theorem dramPut_aphase (s : State) (key : Nat) (b : Byte) : (dramPut s key b).aphase = s.aphase := rfl
@[simp] theorem dramPut_freq (s : State) (key : Nat) (b : Byte) : (dramPut s key b).freq = s.freq := rfl
@[simp] theorem dramPut_bringup (s : State) (key : Nat) (b : Byte) : (dramPut s key b).bringup = s.bringup := rfl
@[simp] theorem dramPut_ready (s : State) (key : Nat) (b : Byte) : (dramPut s key b).ready = s.ready := rfl
@[simp] theorem dramPut_manifest (s : State) (key : Nat) (b : Byte) : (dramPut s key b).manifest = s.manifest := rfl
@[simp] theorem dramPut_staged (s : State) (key : Nat) (b : Byte) : (dramPut s key b).staged = s.staged := rfl
@[simp] theorem dramPut_rollback (s : State) (key : Nat) (b : Byte) : (dramPut s key b).rollback = s.rollback := rfl
@[simp] theorem dramPut_trip (s : State) (key : Nat) (b : Byte) : (dramPut s key b).trip = s.trip := rfl
@[simp] theorem dramPut_gangs (s : State) (key : Nat) (b : Byte) : (dramPut s key b).gangs = s.gangs := rfl
@[simp] theorem dramPut_bregs (s : State) (key : Nat) (b : Byte) : (dramPut s key b).bregs = s.bregs := rfl
@[simp] theorem dramPut_busy (s : State) (key : Nat) (b : Byte) : (dramPut s key b).busy = s.busy := rfl
@[simp] theorem dramPut_matrix (s : State) (key : Nat) (b : Byte) : (dramPut s key b).matrix = s.matrix := rfl
@[simp] theorem dramPut_dram (s : State) (key : Nat) (b : Byte) :
    (dramPut s key b).dram = wordSet s.dram key (b ^^^ dramMask s key) := rfl
@[simp] theorem dramPut_spad (s : State) (key : Nat) (b : Byte) : (dramPut s key b).spad = s.spad := rfl
@[simp] theorem dramPut_spadGen (s : State) (key : Nat) (b : Byte) : (dramPut s key b).spadGen = s.spadGen := rfl
@[simp] theorem dramPut_host (s : State) (key : Nat) (b : Byte) : (dramPut s key b).host = s.host := rfl
@[simp] theorem dramPut_poison (s : State) (key : Nat) (b : Byte) : (dramPut s key b).poison = s.poison := rfl
@[simp] theorem dramPut_l2 (s : State) (key : Nat) (b : Byte) : (dramPut s key b).l2 = s.l2 := rfl
@[simp] theorem dramPut_repaired (s : State) (key : Nat) (b : Byte) : (dramPut s key b).repaired = s.repaired := rfl
@[simp] theorem dramPut_rings (s : State) (key : Nat) (b : Byte) : (dramPut s key b).rings = s.rings := rfl
@[simp] theorem dramPut_copies (s : State) (key : Nat) (b : Byte) : (dramPut s key b).copies = s.copies := rfl
@[simp] theorem dramPut_broadcasts (s : State) (key : Nat) (b : Byte) : (dramPut s key b).broadcasts = s.broadcasts := rfl
@[simp] theorem dramPut_rootArrivals (s : State) (key : Nat) (b : Byte) : (dramPut s key b).rootArrivals = s.rootArrivals := rfl
@[simp] theorem dramPut_leaves (s : State) (key : Nat) (b : Byte) : (dramPut s key b).leaves = s.leaves := rfl
@[simp] theorem dramPut_descs (s : State) (key : Nat) (b : Byte) : (dramPut s key b).descs = s.descs := rfl
@[simp] theorem dramPut_window (s : State) (key : Nat) (b : Byte) : (dramPut s key b).window = s.window := rfl
@[simp] theorem dramPut_governor (s : State) (key : Nat) (b : Byte) : (dramPut s key b).governor = s.governor := rfl
@[simp] theorem dramPut_workgroups (s : State) (key : Nat) (b : Byte) : (dramPut s key b).workgroups = s.workgroups := rfl
@[simp] theorem dramPut_launches (s : State) (key : Nat) (b : Byte) : (dramPut s key b).launches = s.launches := rfl
@[simp] theorem dramPut_larder (s : State) (key : Nat) (b : Byte) : (dramPut s key b).larder = s.larder := rfl
@[simp] theorem dramPut_larderGen (s : State) (key : Nat) (b : Byte) : (dramPut s key b).larderGen = s.larderGen := rfl
@[simp] theorem dramPut_joins (s : State) (key : Nat) (b : Byte) : (dramPut s key b).joins = s.joins := rfl
@[simp] theorem dramPut_blocked (s : State) (key : Nat) (b : Byte) : (dramPut s key b).blocked = s.blocked := rfl
@[simp] theorem dramPut_windows (s : State) (key : Nat) (b : Byte) : (dramPut s key b).windows = s.windows := rfl
@[simp] theorem dramPut_events (s : State) (key : Nat) (b : Byte) : (dramPut s key b).events = s.events := rfl
@[simp] theorem dramPut_fresh (s : State) (key : Nat) (b : Byte) : (dramPut s key b).fresh = s.fresh := rfl
@[simp] theorem dramPut_startCycle (s : State) (key : Nat) (b : Byte) : (dramPut s key b).startCycle = s.startCycle := rfl
@[simp] theorem dramPut_queues (s : State) (key : Nat) (b : Byte) : (dramPut s key b).queues = s.queues := rfl
@[simp] theorem dramPut_bellOrder (s : State) (key : Nat) (b : Byte) : (dramPut s key b).bellOrder = s.bellOrder := rfl
@[simp] theorem dramPut_hreg (s : State) (key : Nat) (b : Byte) : (dramPut s key b).hreg = s.hreg := rfl
@[simp] theorem dramPut_tlb (s : State) (key : Nat) (b : Byte) : (dramPut s key b).tlb = s.tlb := rfl
@[simp] theorem dramPut_walkCache (s : State) (key : Nat) (b : Byte) : (dramPut s key b).walkCache = s.walkCache := rfl
@[simp] theorem dramPut_icache (s : State) (key : Nat) (b : Byte) : (dramPut s key b).icache = s.icache := rfl
@[simp] theorem dramPut_priLimit (s : State) (key : Nat) (b : Byte) : (dramPut s key b).priLimit = s.priLimit := rfl
@[simp] theorem dramPut_voids (s : State) (key : Nat) (b : Byte) : (dramPut s key b).voids = s.voids := rfl
@[simp] theorem dramPut_bTurn (s : State) (key : Nat) (b : Byte) : (dramPut s key b).bTurn = s.bTurn := rfl
@[simp] theorem dramPut_owed (s : State) (key : Nat) (b : Byte) : (dramPut s key b).owed = s.owed := rfl
@[simp] theorem dramPut_refills (s : State) (key : Nat) (b : Byte) : (dramPut s key b).refills = s.refills := rfl
@[simp] theorem dramPut_barTurn (s : State) (key : Nat) (b : Byte) : (dramPut s key b).barTurn = s.barTurn := rfl
@[simp] theorem dramPut_sends (s : State) (key : Nat) (b : Byte) : (dramPut s key b).sends = s.sends := rfl
@[simp] theorem dramPut_temps (s : State) (key : Nat) (b : Byte) : (dramPut s key b).temps = s.temps := rfl
@[simp] theorem dramPut_overPower (s : State) (key : Nat) (b : Byte) : (dramPut s key b).overPower = s.overPower := rfl
@[simp] theorem dramPut_warm (s : State) (key : Nat) (b : Byte) : (dramPut s key b).warm = s.warm := rfl
@[simp] theorem dramPut_deep (s : State) (key : Nat) (b : Byte) : (dramPut s key b).deep = s.deep := rfl
@[simp] theorem dramPut_misses (s : State) (key : Nat) (b : Byte) : (dramPut s key b).misses = s.misses := rfl
@[simp] theorem dramPut_requests (s : State) (key : Nat) (b : Byte) : (dramPut s key b).requests = s.requests := rfl
@[simp] theorem dramPut_prqSeq (s : State) (key : Nat) (b : Byte) : (dramPut s key b).prqSeq = s.prqSeq := rfl
@[simp] theorem dramPut_tlbBusy (s : State) (key : Nat) (b : Byte) : (dramPut s key b).tlbBusy = s.tlbBusy := rfl
@[simp] theorem dramPut_tlbErr (s : State) (key : Nat) (b : Byte) : (dramPut s key b).tlbErr = s.tlbErr := rfl
@[simp] theorem dramPut_atsEnabled (s : State) (key : Nat) (b : Byte) : (dramPut s key b).atsEnabled = s.atsEnabled := rfl
@[simp] theorem dramPut_priEnabled (s : State) (key : Nat) (b : Byte) : (dramPut s key b).priEnabled = s.priEnabled := rfl
@[simp] theorem dramPut_ats (s : State) (key : Nat) (b : Byte) : (dramPut s key b).ats = s.ats := rfl
@[simp] theorem dramPut_atsMisses (s : State) (key : Nat) (b : Byte) : (dramPut s key b).atsMisses = s.atsMisses := rfl
@[simp] theorem dramPut_parts (s : State) (key : Nat) (b : Byte) : (dramPut s key b).parts = s.parts := rfl
@[simp] theorem dramPut_partstat (s : State) (key : Nat) (b : Byte) : (dramPut s key b).partstat = s.partstat := rfl
@[simp] theorem dramPut_policy (s : State) (key : Nat) (b : Byte) : (dramPut s key b).policy = s.policy := rfl
@[simp] theorem dramPut_clamped (s : State) (key : Nat) (b : Byte) : (dramPut s key b).clamped = s.clamped := rfl
@[simp] theorem dramPut_drainVf (s : State) (key : Nat) (b : Byte) : (dramPut s key b).drainVf = s.drainVf := rfl
@[simp] theorem dramPut_drainPart (s : State) (key : Nat) (b : Byte) : (dramPut s key b).drainPart = s.drainPart := rfl
@[simp] theorem dramPut_drainDevice (s : State) (key : Nat) (b : Byte) : (dramPut s key b).drainDevice = s.drainDevice := rfl
@[simp] theorem dramPut_measured (s : State) (key : Nat) (b : Byte) : (dramPut s key b).measured = s.measured := rfl
@[simp] theorem dramPut_buckets (s : State) (key : Nat) (b : Byte) : (dramPut s key b).buckets = s.buckets := rfl
@[simp] theorem dramPut_pools (s : State) (key : Nat) (b : Byte) : (dramPut s key b).pools = s.pools := rfl
@[simp] theorem dramPut_log (s : State) (key : Nat) (b : Byte) : (dramPut s key b).log = s.log := rfl
@[simp] theorem dramPut_logSeq (s : State) (key : Nat) (b : Byte) : (dramPut s key b).logSeq = s.logSeq := rfl
@[simp] theorem dramPut_watch (s : State) (key : Nat) (b : Byte) : (dramPut s key b).watch = s.watch := rfl
@[simp] theorem dramPut_watchSeq (s : State) (key : Nat) (b : Byte) : (dramPut s key b).watchSeq = s.watchSeq := rfl
@[simp] theorem dramPut_platestat (s : State) (key : Nat) (b : Byte) : (dramPut s key b).platestat = s.platestat := rfl
@[simp] theorem dramPut_plates (s : State) (key : Nat) (b : Byte) : (dramPut s key b).plates = s.plates := rfl
@[simp] theorem dramPut_health (s : State) (key : Nat) (b : Byte) : (dramPut s key b).health = s.health := rfl
@[simp] theorem dramPut_quarantine (s : State) (key : Nat) (b : Byte) : (dramPut s key b).quarantine = s.quarantine := rfl
@[simp] theorem dramPut_quarantined (s : State) (key : Nat) (b : Byte) : (dramPut s key b).quarantined = s.quarantined := rfl
@[simp] theorem dramPut_quarantinedPages (s : State) (key : Nat) (b : Byte) : (dramPut s key b).quarantinedPages = s.quarantinedPages := rfl
@[simp] theorem dramPut_survey (s : State) (key : Nat) (b : Byte) : (dramPut s key b).survey = s.survey := rfl
@[simp] theorem dramPut_surveyGen (s : State) (key : Nat) (b : Byte) : (dramPut s key b).surveyGen = s.surveyGen := rfl
@[simp] theorem dramPut_links (s : State) (key : Nat) (b : Byte) : (dramPut s key b).links = s.links := rfl
@[simp] theorem dramPut_messages (s : State) (key : Nat) (b : Byte) : (dramPut s key b).messages = s.messages := rfl
@[simp] theorem dramPut_outbox (s : State) (key : Nat) (b : Byte) : (dramPut s key b).outbox = s.outbox := rfl

/-! ## `notify` -/

@[simp] theorem notify_agenda (s : State) (f : Option Nat) (v : Nat) : (notify s f v).agenda = s.agenda := rfl
@[simp] theorem notify_cur (s : State) (f : Option Nat) (v : Nat) : (notify s f v).cur = s.cur := rfl
@[simp] theorem notify_free (s : State) (f : Option Nat) (v : Nat) : (notify s f v).free = s.free := rfl
@[simp] theorem notify_nextId (s : State) (f : Option Nat) (v : Nat) : (notify s f v).nextId = s.nextId := rfl
@[simp] theorem notify_clock (s : State) (f : Option Nat) (v : Nat) : (notify s f v).clock = s.clock := rfl
@[simp] theorem notify_acycle (s : State) (f : Option Nat) (v : Nat) : (notify s f v).acycle = s.acycle := rfl
@[simp] theorem notify_aphase (s : State) (f : Option Nat) (v : Nat) : (notify s f v).aphase = s.aphase := rfl
@[simp] theorem notify_freq (s : State) (f : Option Nat) (v : Nat) : (notify s f v).freq = s.freq := rfl
@[simp] theorem notify_bringup (s : State) (f : Option Nat) (v : Nat) : (notify s f v).bringup = s.bringup := rfl
@[simp] theorem notify_ready (s : State) (f : Option Nat) (v : Nat) : (notify s f v).ready = s.ready := rfl
@[simp] theorem notify_manifest (s : State) (f : Option Nat) (v : Nat) : (notify s f v).manifest = s.manifest := rfl
@[simp] theorem notify_staged (s : State) (f : Option Nat) (v : Nat) : (notify s f v).staged = s.staged := rfl
@[simp] theorem notify_rollback (s : State) (f : Option Nat) (v : Nat) : (notify s f v).rollback = s.rollback := rfl
@[simp] theorem notify_trip (s : State) (f : Option Nat) (v : Nat) : (notify s f v).trip = s.trip := rfl
@[simp] theorem notify_gangs (s : State) (f : Option Nat) (v : Nat) : (notify s f v).gangs = s.gangs := rfl
@[simp] theorem notify_bregs (s : State) (f : Option Nat) (v : Nat) : (notify s f v).bregs = s.bregs := rfl
@[simp] theorem notify_busy (s : State) (f : Option Nat) (v : Nat) : (notify s f v).busy = s.busy := rfl
@[simp] theorem notify_matrix (s : State) (f : Option Nat) (v : Nat) : (notify s f v).matrix = s.matrix := rfl
@[simp] theorem notify_dram (s : State) (f : Option Nat) (v : Nat) : (notify s f v).dram = s.dram := rfl
@[simp] theorem notify_spad (s : State) (f : Option Nat) (v : Nat) : (notify s f v).spad = s.spad := rfl
@[simp] theorem notify_spadGen (s : State) (f : Option Nat) (v : Nat) : (notify s f v).spadGen = s.spadGen := rfl
@[simp] theorem notify_host (s : State) (f : Option Nat) (v : Nat) : (notify s f v).host = s.host := rfl
@[simp] theorem notify_poison (s : State) (f : Option Nat) (v : Nat) : (notify s f v).poison = s.poison := rfl
@[simp] theorem notify_l2 (s : State) (f : Option Nat) (v : Nat) : (notify s f v).l2 = s.l2 := rfl
@[simp] theorem notify_repaired (s : State) (f : Option Nat) (v : Nat) : (notify s f v).repaired = s.repaired := rfl
@[simp] theorem notify_rings (s : State) (f : Option Nat) (v : Nat) : (notify s f v).rings = s.rings := rfl
@[simp] theorem notify_copies (s : State) (f : Option Nat) (v : Nat) : (notify s f v).copies = s.copies := rfl
@[simp] theorem notify_broadcasts (s : State) (f : Option Nat) (v : Nat) : (notify s f v).broadcasts = s.broadcasts := rfl
@[simp] theorem notify_rootArrivals (s : State) (f : Option Nat) (v : Nat) : (notify s f v).rootArrivals = s.rootArrivals := rfl
@[simp] theorem notify_leaves (s : State) (f : Option Nat) (v : Nat) : (notify s f v).leaves = s.leaves := rfl
@[simp] theorem notify_descs (s : State) (f : Option Nat) (v : Nat) : (notify s f v).descs = s.descs := rfl
@[simp] theorem notify_window (s : State) (f : Option Nat) (v : Nat) : (notify s f v).window = s.window := rfl
@[simp] theorem notify_governor (s : State) (f : Option Nat) (v : Nat) : (notify s f v).governor = s.governor := rfl
@[simp] theorem notify_workgroups (s : State) (f : Option Nat) (v : Nat) : (notify s f v).workgroups = s.workgroups := rfl
@[simp] theorem notify_launches (s : State) (f : Option Nat) (v : Nat) : (notify s f v).launches = s.launches := rfl
@[simp] theorem notify_larder (s : State) (f : Option Nat) (v : Nat) : (notify s f v).larder = s.larder := rfl
@[simp] theorem notify_larderGen (s : State) (f : Option Nat) (v : Nat) : (notify s f v).larderGen = s.larderGen := rfl
@[simp] theorem notify_joins (s : State) (f : Option Nat) (v : Nat) : (notify s f v).joins = s.joins := rfl
@[simp] theorem notify_blocked (s : State) (f : Option Nat) (v : Nat) : (notify s f v).blocked = s.blocked := rfl
@[simp] theorem notify_windows (s : State) (f : Option Nat) (v : Nat) : (notify s f v).windows = s.windows := rfl
@[simp] theorem notify_events (s : State) (f : Option Nat) (v : Nat) : (notify s f v).events = s.events := rfl
@[simp] theorem notify_fresh (s : State) (f : Option Nat) (v : Nat) : (notify s f v).fresh = s.fresh := rfl
@[simp] theorem notify_startCycle (s : State) (f : Option Nat) (v : Nat) : (notify s f v).startCycle = s.startCycle := rfl
@[simp] theorem notify_queues (s : State) (f : Option Nat) (v : Nat) : (notify s f v).queues = s.queues := rfl
@[simp] theorem notify_bellOrder (s : State) (f : Option Nat) (v : Nat) : (notify s f v).bellOrder = s.bellOrder := rfl
@[simp] theorem notify_hreg (s : State) (f : Option Nat) (v : Nat) : (notify s f v).hreg = s.hreg := rfl
@[simp] theorem notify_tlb (s : State) (f : Option Nat) (v : Nat) : (notify s f v).tlb = s.tlb := rfl
@[simp] theorem notify_walkCache (s : State) (f : Option Nat) (v : Nat) : (notify s f v).walkCache = s.walkCache := rfl
@[simp] theorem notify_icache (s : State) (f : Option Nat) (v : Nat) : (notify s f v).icache = s.icache := rfl
@[simp] theorem notify_priLimit (s : State) (f : Option Nat) (v : Nat) : (notify s f v).priLimit = s.priLimit := rfl
@[simp] theorem notify_voids (s : State) (f : Option Nat) (v : Nat) : (notify s f v).voids = s.voids := rfl
@[simp] theorem notify_bTurn (s : State) (f : Option Nat) (v : Nat) : (notify s f v).bTurn = s.bTurn := rfl
@[simp] theorem notify_owed (s : State) (f : Option Nat) (v : Nat) : (notify s f v).owed = s.owed := rfl
@[simp] theorem notify_refills (s : State) (f : Option Nat) (v : Nat) : (notify s f v).refills = s.refills := rfl
@[simp] theorem notify_barTurn (s : State) (f : Option Nat) (v : Nat) : (notify s f v).barTurn = s.barTurn := rfl
@[simp] theorem notify_sends (s : State) (f : Option Nat) (v : Nat) : (notify s f v).sends = s.sends := rfl
@[simp] theorem notify_temps (s : State) (f : Option Nat) (v : Nat) : (notify s f v).temps = s.temps := rfl
@[simp] theorem notify_overPower (s : State) (f : Option Nat) (v : Nat) : (notify s f v).overPower = s.overPower := rfl
@[simp] theorem notify_warm (s : State) (f : Option Nat) (v : Nat) : (notify s f v).warm = s.warm := rfl
@[simp] theorem notify_deep (s : State) (f : Option Nat) (v : Nat) : (notify s f v).deep = s.deep := rfl
@[simp] theorem notify_misses (s : State) (f : Option Nat) (v : Nat) : (notify s f v).misses = s.misses := rfl
@[simp] theorem notify_requests (s : State) (f : Option Nat) (v : Nat) : (notify s f v).requests = s.requests := rfl
@[simp] theorem notify_prqSeq (s : State) (f : Option Nat) (v : Nat) : (notify s f v).prqSeq = s.prqSeq := rfl
@[simp] theorem notify_tlbBusy (s : State) (f : Option Nat) (v : Nat) : (notify s f v).tlbBusy = s.tlbBusy := rfl
@[simp] theorem notify_tlbErr (s : State) (f : Option Nat) (v : Nat) : (notify s f v).tlbErr = s.tlbErr := rfl
@[simp] theorem notify_atsEnabled (s : State) (f : Option Nat) (v : Nat) : (notify s f v).atsEnabled = s.atsEnabled := rfl
@[simp] theorem notify_priEnabled (s : State) (f : Option Nat) (v : Nat) : (notify s f v).priEnabled = s.priEnabled := rfl
@[simp] theorem notify_ats (s : State) (f : Option Nat) (v : Nat) : (notify s f v).ats = s.ats := rfl
@[simp] theorem notify_atsMisses (s : State) (f : Option Nat) (v : Nat) : (notify s f v).atsMisses = s.atsMisses := rfl
@[simp] theorem notify_parts (s : State) (f : Option Nat) (v : Nat) : (notify s f v).parts = s.parts := rfl
@[simp] theorem notify_partstat (s : State) (f : Option Nat) (v : Nat) : (notify s f v).partstat = s.partstat := rfl
@[simp] theorem notify_policy (s : State) (f : Option Nat) (v : Nat) : (notify s f v).policy = s.policy := rfl
@[simp] theorem notify_clamped (s : State) (f : Option Nat) (v : Nat) : (notify s f v).clamped = s.clamped := rfl
@[simp] theorem notify_drainVf (s : State) (f : Option Nat) (v : Nat) : (notify s f v).drainVf = s.drainVf := rfl
@[simp] theorem notify_drainPart (s : State) (f : Option Nat) (v : Nat) : (notify s f v).drainPart = s.drainPart := rfl
@[simp] theorem notify_drainDevice (s : State) (f : Option Nat) (v : Nat) : (notify s f v).drainDevice = s.drainDevice := rfl
@[simp] theorem notify_measured (s : State) (f : Option Nat) (v : Nat) : (notify s f v).measured = s.measured := rfl
@[simp] theorem notify_buckets (s : State) (f : Option Nat) (v : Nat) : (notify s f v).buckets = s.buckets := rfl
@[simp] theorem notify_pools (s : State) (f : Option Nat) (v : Nat) : (notify s f v).pools = s.pools := rfl
@[simp] theorem notify_log (s : State) (f : Option Nat) (v : Nat) : (notify s f v).log = s.log := rfl
@[simp] theorem notify_logSeq (s : State) (f : Option Nat) (v : Nat) : (notify s f v).logSeq = s.logSeq := rfl
@[simp] theorem notify_watch (s : State) (f : Option Nat) (v : Nat) : (notify s f v).watch = s.watch := rfl
@[simp] theorem notify_watchSeq (s : State) (f : Option Nat) (v : Nat) : (notify s f v).watchSeq = s.watchSeq := rfl
@[simp] theorem notify_platestat (s : State) (f : Option Nat) (v : Nat) : (notify s f v).platestat = s.platestat := rfl
@[simp] theorem notify_plates (s : State) (f : Option Nat) (v : Nat) : (notify s f v).plates = s.plates := rfl
@[simp] theorem notify_health (s : State) (f : Option Nat) (v : Nat) : (notify s f v).health = s.health := rfl
@[simp] theorem notify_quarantine (s : State) (f : Option Nat) (v : Nat) : (notify s f v).quarantine = s.quarantine := rfl
@[simp] theorem notify_quarantined (s : State) (f : Option Nat) (v : Nat) : (notify s f v).quarantined = s.quarantined := rfl
@[simp] theorem notify_quarantinedPages (s : State) (f : Option Nat) (v : Nat) : (notify s f v).quarantinedPages = s.quarantinedPages := rfl
@[simp] theorem notify_survey (s : State) (f : Option Nat) (v : Nat) : (notify s f v).survey = s.survey := rfl
@[simp] theorem notify_surveyGen (s : State) (f : Option Nat) (v : Nat) : (notify s f v).surveyGen = s.surveyGen := rfl
@[simp] theorem notify_links (s : State) (f : Option Nat) (v : Nat) : (notify s f v).links = s.links := rfl
@[simp] theorem notify_messages (s : State) (f : Option Nat) (v : Nat) : (notify s f v).messages = s.messages ++ [⟨f, v⟩] := rfl
@[simp] theorem notify_outbox (s : State) (f : Option Nat) (v : Nat) : (notify s f v).outbox = s.outbox := rfl

/-! ## `onLaunch` -/

@[simp] theorem onLaunch_agenda (s : State) (k : Nat) (f : Launch → Launch) : (onLaunch s k f).agenda = s.agenda := rfl
@[simp] theorem onLaunch_cur (s : State) (k : Nat) (f : Launch → Launch) : (onLaunch s k f).cur = s.cur := rfl
@[simp] theorem onLaunch_free (s : State) (k : Nat) (f : Launch → Launch) : (onLaunch s k f).free = s.free := rfl
@[simp] theorem onLaunch_nextId (s : State) (k : Nat) (f : Launch → Launch) : (onLaunch s k f).nextId = s.nextId := rfl
@[simp] theorem onLaunch_clock (s : State) (k : Nat) (f : Launch → Launch) : (onLaunch s k f).clock = s.clock := rfl
@[simp] theorem onLaunch_acycle (s : State) (k : Nat) (f : Launch → Launch) : (onLaunch s k f).acycle = s.acycle := rfl
@[simp] theorem onLaunch_aphase (s : State) (k : Nat) (f : Launch → Launch) : (onLaunch s k f).aphase = s.aphase := rfl
@[simp] theorem onLaunch_freq (s : State) (k : Nat) (f : Launch → Launch) : (onLaunch s k f).freq = s.freq := rfl
@[simp] theorem onLaunch_bringup (s : State) (k : Nat) (f : Launch → Launch) : (onLaunch s k f).bringup = s.bringup := rfl
@[simp] theorem onLaunch_ready (s : State) (k : Nat) (f : Launch → Launch) : (onLaunch s k f).ready = s.ready := rfl
@[simp] theorem onLaunch_manifest (s : State) (k : Nat) (f : Launch → Launch) : (onLaunch s k f).manifest = s.manifest := rfl
@[simp] theorem onLaunch_staged (s : State) (k : Nat) (f : Launch → Launch) : (onLaunch s k f).staged = s.staged := rfl
@[simp] theorem onLaunch_rollback (s : State) (k : Nat) (f : Launch → Launch) : (onLaunch s k f).rollback = s.rollback := rfl
@[simp] theorem onLaunch_trip (s : State) (k : Nat) (f : Launch → Launch) : (onLaunch s k f).trip = s.trip := rfl
@[simp] theorem onLaunch_gangs (s : State) (k : Nat) (f : Launch → Launch) : (onLaunch s k f).gangs = s.gangs := rfl
@[simp] theorem onLaunch_bregs (s : State) (k : Nat) (f : Launch → Launch) : (onLaunch s k f).bregs = s.bregs := rfl
@[simp] theorem onLaunch_busy (s : State) (k : Nat) (f : Launch → Launch) : (onLaunch s k f).busy = s.busy := rfl
@[simp] theorem onLaunch_matrix (s : State) (k : Nat) (f : Launch → Launch) : (onLaunch s k f).matrix = s.matrix := rfl
@[simp] theorem onLaunch_dram (s : State) (k : Nat) (f : Launch → Launch) : (onLaunch s k f).dram = s.dram := rfl
@[simp] theorem onLaunch_spad (s : State) (k : Nat) (f : Launch → Launch) : (onLaunch s k f).spad = s.spad := rfl
@[simp] theorem onLaunch_spadGen (s : State) (k : Nat) (f : Launch → Launch) : (onLaunch s k f).spadGen = s.spadGen := rfl
@[simp] theorem onLaunch_host (s : State) (k : Nat) (f : Launch → Launch) : (onLaunch s k f).host = s.host := rfl
@[simp] theorem onLaunch_poison (s : State) (k : Nat) (f : Launch → Launch) : (onLaunch s k f).poison = s.poison := rfl
@[simp] theorem onLaunch_l2 (s : State) (k : Nat) (f : Launch → Launch) : (onLaunch s k f).l2 = s.l2 := rfl
@[simp] theorem onLaunch_repaired (s : State) (k : Nat) (f : Launch → Launch) : (onLaunch s k f).repaired = s.repaired := rfl
@[simp] theorem onLaunch_rings (s : State) (k : Nat) (f : Launch → Launch) : (onLaunch s k f).rings = s.rings := rfl
@[simp] theorem onLaunch_copies (s : State) (k : Nat) (f : Launch → Launch) : (onLaunch s k f).copies = s.copies := rfl
@[simp] theorem onLaunch_broadcasts (s : State) (k : Nat) (f : Launch → Launch) : (onLaunch s k f).broadcasts = s.broadcasts := rfl
@[simp] theorem onLaunch_rootArrivals (s : State) (k : Nat) (f : Launch → Launch) : (onLaunch s k f).rootArrivals = s.rootArrivals := rfl
@[simp] theorem onLaunch_leaves (s : State) (k : Nat) (f : Launch → Launch) : (onLaunch s k f).leaves = s.leaves := rfl
@[simp] theorem onLaunch_descs (s : State) (k : Nat) (f : Launch → Launch) : (onLaunch s k f).descs = s.descs := rfl
@[simp] theorem onLaunch_window (s : State) (k : Nat) (f : Launch → Launch) : (onLaunch s k f).window = s.window := rfl
@[simp] theorem onLaunch_governor (s : State) (k : Nat) (f : Launch → Launch) : (onLaunch s k f).governor = s.governor := rfl
@[simp] theorem onLaunch_workgroups (s : State) (k : Nat) (f : Launch → Launch) : (onLaunch s k f).workgroups = s.workgroups := rfl
@[simp] theorem onLaunch_launches (s : State) (k : Nat) (f : Launch → Launch) : (onLaunch s k f).launches = mapUpdate s.launches k f := rfl
@[simp] theorem onLaunch_larder (s : State) (k : Nat) (f : Launch → Launch) : (onLaunch s k f).larder = s.larder := rfl
@[simp] theorem onLaunch_larderGen (s : State) (k : Nat) (f : Launch → Launch) : (onLaunch s k f).larderGen = s.larderGen := rfl
@[simp] theorem onLaunch_joins (s : State) (k : Nat) (f : Launch → Launch) : (onLaunch s k f).joins = s.joins := rfl
@[simp] theorem onLaunch_blocked (s : State) (k : Nat) (f : Launch → Launch) : (onLaunch s k f).blocked = s.blocked := rfl
@[simp] theorem onLaunch_windows (s : State) (k : Nat) (f : Launch → Launch) : (onLaunch s k f).windows = s.windows := rfl
@[simp] theorem onLaunch_events (s : State) (k : Nat) (f : Launch → Launch) : (onLaunch s k f).events = s.events := rfl
@[simp] theorem onLaunch_fresh (s : State) (k : Nat) (f : Launch → Launch) : (onLaunch s k f).fresh = s.fresh := rfl
@[simp] theorem onLaunch_startCycle (s : State) (k : Nat) (f : Launch → Launch) : (onLaunch s k f).startCycle = s.startCycle := rfl
@[simp] theorem onLaunch_queues (s : State) (k : Nat) (f : Launch → Launch) : (onLaunch s k f).queues = s.queues := rfl
@[simp] theorem onLaunch_bellOrder (s : State) (k : Nat) (f : Launch → Launch) : (onLaunch s k f).bellOrder = s.bellOrder := rfl
@[simp] theorem onLaunch_hreg (s : State) (k : Nat) (f : Launch → Launch) : (onLaunch s k f).hreg = s.hreg := rfl
@[simp] theorem onLaunch_tlb (s : State) (k : Nat) (f : Launch → Launch) : (onLaunch s k f).tlb = s.tlb := rfl
@[simp] theorem onLaunch_walkCache (s : State) (k : Nat) (f : Launch → Launch) : (onLaunch s k f).walkCache = s.walkCache := rfl
@[simp] theorem onLaunch_icache (s : State) (k : Nat) (f : Launch → Launch) : (onLaunch s k f).icache = s.icache := rfl
@[simp] theorem onLaunch_priLimit (s : State) (k : Nat) (f : Launch → Launch) : (onLaunch s k f).priLimit = s.priLimit := rfl
@[simp] theorem onLaunch_voids (s : State) (k : Nat) (f : Launch → Launch) : (onLaunch s k f).voids = s.voids := rfl
@[simp] theorem onLaunch_bTurn (s : State) (k : Nat) (f : Launch → Launch) : (onLaunch s k f).bTurn = s.bTurn := rfl
@[simp] theorem onLaunch_owed (s : State) (k : Nat) (f : Launch → Launch) : (onLaunch s k f).owed = s.owed := rfl
@[simp] theorem onLaunch_refills (s : State) (k : Nat) (f : Launch → Launch) : (onLaunch s k f).refills = s.refills := rfl
@[simp] theorem onLaunch_barTurn (s : State) (k : Nat) (f : Launch → Launch) : (onLaunch s k f).barTurn = s.barTurn := rfl
@[simp] theorem onLaunch_sends (s : State) (k : Nat) (f : Launch → Launch) : (onLaunch s k f).sends = s.sends := rfl
@[simp] theorem onLaunch_temps (s : State) (k : Nat) (f : Launch → Launch) : (onLaunch s k f).temps = s.temps := rfl
@[simp] theorem onLaunch_overPower (s : State) (k : Nat) (f : Launch → Launch) : (onLaunch s k f).overPower = s.overPower := rfl
@[simp] theorem onLaunch_warm (s : State) (k : Nat) (f : Launch → Launch) : (onLaunch s k f).warm = s.warm := rfl
@[simp] theorem onLaunch_deep (s : State) (k : Nat) (f : Launch → Launch) : (onLaunch s k f).deep = s.deep := rfl
@[simp] theorem onLaunch_misses (s : State) (k : Nat) (f : Launch → Launch) : (onLaunch s k f).misses = s.misses := rfl
@[simp] theorem onLaunch_requests (s : State) (k : Nat) (f : Launch → Launch) : (onLaunch s k f).requests = s.requests := rfl
@[simp] theorem onLaunch_prqSeq (s : State) (k : Nat) (f : Launch → Launch) : (onLaunch s k f).prqSeq = s.prqSeq := rfl
@[simp] theorem onLaunch_tlbBusy (s : State) (k : Nat) (f : Launch → Launch) : (onLaunch s k f).tlbBusy = s.tlbBusy := rfl
@[simp] theorem onLaunch_tlbErr (s : State) (k : Nat) (f : Launch → Launch) : (onLaunch s k f).tlbErr = s.tlbErr := rfl
@[simp] theorem onLaunch_atsEnabled (s : State) (k : Nat) (f : Launch → Launch) : (onLaunch s k f).atsEnabled = s.atsEnabled := rfl
@[simp] theorem onLaunch_priEnabled (s : State) (k : Nat) (f : Launch → Launch) : (onLaunch s k f).priEnabled = s.priEnabled := rfl
@[simp] theorem onLaunch_ats (s : State) (k : Nat) (f : Launch → Launch) : (onLaunch s k f).ats = s.ats := rfl
@[simp] theorem onLaunch_atsMisses (s : State) (k : Nat) (f : Launch → Launch) : (onLaunch s k f).atsMisses = s.atsMisses := rfl
@[simp] theorem onLaunch_parts (s : State) (k : Nat) (f : Launch → Launch) : (onLaunch s k f).parts = s.parts := rfl
@[simp] theorem onLaunch_partstat (s : State) (k : Nat) (f : Launch → Launch) : (onLaunch s k f).partstat = s.partstat := rfl
@[simp] theorem onLaunch_policy (s : State) (k : Nat) (f : Launch → Launch) : (onLaunch s k f).policy = s.policy := rfl
@[simp] theorem onLaunch_clamped (s : State) (k : Nat) (f : Launch → Launch) : (onLaunch s k f).clamped = s.clamped := rfl
@[simp] theorem onLaunch_drainVf (s : State) (k : Nat) (f : Launch → Launch) : (onLaunch s k f).drainVf = s.drainVf := rfl
@[simp] theorem onLaunch_drainPart (s : State) (k : Nat) (f : Launch → Launch) : (onLaunch s k f).drainPart = s.drainPart := rfl
@[simp] theorem onLaunch_drainDevice (s : State) (k : Nat) (f : Launch → Launch) : (onLaunch s k f).drainDevice = s.drainDevice := rfl
@[simp] theorem onLaunch_measured (s : State) (k : Nat) (f : Launch → Launch) : (onLaunch s k f).measured = s.measured := rfl
@[simp] theorem onLaunch_buckets (s : State) (k : Nat) (f : Launch → Launch) : (onLaunch s k f).buckets = s.buckets := rfl
@[simp] theorem onLaunch_pools (s : State) (k : Nat) (f : Launch → Launch) : (onLaunch s k f).pools = s.pools := rfl
@[simp] theorem onLaunch_log (s : State) (k : Nat) (f : Launch → Launch) : (onLaunch s k f).log = s.log := rfl
@[simp] theorem onLaunch_logSeq (s : State) (k : Nat) (f : Launch → Launch) : (onLaunch s k f).logSeq = s.logSeq := rfl
@[simp] theorem onLaunch_watch (s : State) (k : Nat) (f : Launch → Launch) : (onLaunch s k f).watch = s.watch := rfl
@[simp] theorem onLaunch_watchSeq (s : State) (k : Nat) (f : Launch → Launch) : (onLaunch s k f).watchSeq = s.watchSeq := rfl
@[simp] theorem onLaunch_platestat (s : State) (k : Nat) (f : Launch → Launch) : (onLaunch s k f).platestat = s.platestat := rfl
@[simp] theorem onLaunch_plates (s : State) (k : Nat) (f : Launch → Launch) : (onLaunch s k f).plates = s.plates := rfl
@[simp] theorem onLaunch_health (s : State) (k : Nat) (f : Launch → Launch) : (onLaunch s k f).health = s.health := rfl
@[simp] theorem onLaunch_quarantine (s : State) (k : Nat) (f : Launch → Launch) : (onLaunch s k f).quarantine = s.quarantine := rfl
@[simp] theorem onLaunch_quarantined (s : State) (k : Nat) (f : Launch → Launch) : (onLaunch s k f).quarantined = s.quarantined := rfl
@[simp] theorem onLaunch_quarantinedPages (s : State) (k : Nat) (f : Launch → Launch) : (onLaunch s k f).quarantinedPages = s.quarantinedPages := rfl
@[simp] theorem onLaunch_survey (s : State) (k : Nat) (f : Launch → Launch) : (onLaunch s k f).survey = s.survey := rfl
@[simp] theorem onLaunch_surveyGen (s : State) (k : Nat) (f : Launch → Launch) : (onLaunch s k f).surveyGen = s.surveyGen := rfl
@[simp] theorem onLaunch_links (s : State) (k : Nat) (f : Launch → Launch) : (onLaunch s k f).links = s.links := rfl
@[simp] theorem onLaunch_messages (s : State) (k : Nat) (f : Launch → Launch) : (onLaunch s k f).messages = s.messages := rfl
@[simp] theorem onLaunch_outbox (s : State) (k : Nat) (f : Launch → Launch) : (onLaunch s k f).outbox = s.outbox := rfl

/-! ## `setQueue` -/

@[simp] theorem setQueue_agenda (s : State) (vf q : Nat) (x : Queue) : (setQueue s vf q x).agenda = s.agenda := rfl
@[simp] theorem setQueue_cur (s : State) (vf q : Nat) (x : Queue) : (setQueue s vf q x).cur = s.cur := rfl
@[simp] theorem setQueue_free (s : State) (vf q : Nat) (x : Queue) : (setQueue s vf q x).free = s.free := rfl
@[simp] theorem setQueue_nextId (s : State) (vf q : Nat) (x : Queue) : (setQueue s vf q x).nextId = s.nextId := rfl
@[simp] theorem setQueue_clock (s : State) (vf q : Nat) (x : Queue) : (setQueue s vf q x).clock = s.clock := rfl
@[simp] theorem setQueue_acycle (s : State) (vf q : Nat) (x : Queue) : (setQueue s vf q x).acycle = s.acycle := rfl
@[simp] theorem setQueue_aphase (s : State) (vf q : Nat) (x : Queue) : (setQueue s vf q x).aphase = s.aphase := rfl
@[simp] theorem setQueue_freq (s : State) (vf q : Nat) (x : Queue) : (setQueue s vf q x).freq = s.freq := rfl
@[simp] theorem setQueue_bringup (s : State) (vf q : Nat) (x : Queue) : (setQueue s vf q x).bringup = s.bringup := rfl
@[simp] theorem setQueue_ready (s : State) (vf q : Nat) (x : Queue) : (setQueue s vf q x).ready = s.ready := rfl
@[simp] theorem setQueue_manifest (s : State) (vf q : Nat) (x : Queue) : (setQueue s vf q x).manifest = s.manifest := rfl
@[simp] theorem setQueue_staged (s : State) (vf q : Nat) (x : Queue) : (setQueue s vf q x).staged = s.staged := rfl
@[simp] theorem setQueue_rollback (s : State) (vf q : Nat) (x : Queue) : (setQueue s vf q x).rollback = s.rollback := rfl
@[simp] theorem setQueue_trip (s : State) (vf q : Nat) (x : Queue) : (setQueue s vf q x).trip = s.trip := rfl
@[simp] theorem setQueue_gangs (s : State) (vf q : Nat) (x : Queue) : (setQueue s vf q x).gangs = s.gangs := rfl
@[simp] theorem setQueue_bregs (s : State) (vf q : Nat) (x : Queue) : (setQueue s vf q x).bregs = s.bregs := rfl
@[simp] theorem setQueue_busy (s : State) (vf q : Nat) (x : Queue) : (setQueue s vf q x).busy = s.busy := rfl
@[simp] theorem setQueue_matrix (s : State) (vf q : Nat) (x : Queue) : (setQueue s vf q x).matrix = s.matrix := rfl
@[simp] theorem setQueue_dram (s : State) (vf q : Nat) (x : Queue) : (setQueue s vf q x).dram = s.dram := rfl
@[simp] theorem setQueue_spad (s : State) (vf q : Nat) (x : Queue) : (setQueue s vf q x).spad = s.spad := rfl
@[simp] theorem setQueue_spadGen (s : State) (vf q : Nat) (x : Queue) : (setQueue s vf q x).spadGen = s.spadGen := rfl
@[simp] theorem setQueue_host (s : State) (vf q : Nat) (x : Queue) : (setQueue s vf q x).host = s.host := rfl
@[simp] theorem setQueue_poison (s : State) (vf q : Nat) (x : Queue) : (setQueue s vf q x).poison = s.poison := rfl
@[simp] theorem setQueue_l2 (s : State) (vf q : Nat) (x : Queue) : (setQueue s vf q x).l2 = s.l2 := rfl
@[simp] theorem setQueue_repaired (s : State) (vf q : Nat) (x : Queue) : (setQueue s vf q x).repaired = s.repaired := rfl
@[simp] theorem setQueue_rings (s : State) (vf q : Nat) (x : Queue) : (setQueue s vf q x).rings = s.rings := rfl
@[simp] theorem setQueue_copies (s : State) (vf q : Nat) (x : Queue) : (setQueue s vf q x).copies = s.copies := rfl
@[simp] theorem setQueue_broadcasts (s : State) (vf q : Nat) (x : Queue) : (setQueue s vf q x).broadcasts = s.broadcasts := rfl
@[simp] theorem setQueue_rootArrivals (s : State) (vf q : Nat) (x : Queue) : (setQueue s vf q x).rootArrivals = s.rootArrivals := rfl
@[simp] theorem setQueue_leaves (s : State) (vf q : Nat) (x : Queue) : (setQueue s vf q x).leaves = s.leaves := rfl
@[simp] theorem setQueue_descs (s : State) (vf q : Nat) (x : Queue) : (setQueue s vf q x).descs = s.descs := rfl
@[simp] theorem setQueue_window (s : State) (vf q : Nat) (x : Queue) : (setQueue s vf q x).window = s.window := rfl
@[simp] theorem setQueue_governor (s : State) (vf q : Nat) (x : Queue) : (setQueue s vf q x).governor = s.governor := rfl
@[simp] theorem setQueue_workgroups (s : State) (vf q : Nat) (x : Queue) : (setQueue s vf q x).workgroups = s.workgroups := rfl
@[simp] theorem setQueue_launches (s : State) (vf q : Nat) (x : Queue) : (setQueue s vf q x).launches = s.launches := rfl
@[simp] theorem setQueue_larder (s : State) (vf q : Nat) (x : Queue) : (setQueue s vf q x).larder = s.larder := rfl
@[simp] theorem setQueue_larderGen (s : State) (vf q : Nat) (x : Queue) : (setQueue s vf q x).larderGen = s.larderGen := rfl
@[simp] theorem setQueue_joins (s : State) (vf q : Nat) (x : Queue) : (setQueue s vf q x).joins = s.joins := rfl
@[simp] theorem setQueue_blocked (s : State) (vf q : Nat) (x : Queue) : (setQueue s vf q x).blocked = s.blocked := rfl
@[simp] theorem setQueue_windows (s : State) (vf q : Nat) (x : Queue) : (setQueue s vf q x).windows = s.windows := rfl
@[simp] theorem setQueue_events (s : State) (vf q : Nat) (x : Queue) : (setQueue s vf q x).events = s.events := rfl
@[simp] theorem setQueue_fresh (s : State) (vf q : Nat) (x : Queue) : (setQueue s vf q x).fresh = s.fresh := rfl
@[simp] theorem setQueue_startCycle (s : State) (vf q : Nat) (x : Queue) : (setQueue s vf q x).startCycle = s.startCycle := rfl
@[simp] theorem setQueue_queues (s : State) (vf q : Nat) (x : Queue) : (setQueue s vf q x).queues = mapSet s.queues (queueKey vf q) x := rfl
@[simp] theorem setQueue_bellOrder (s : State) (vf q : Nat) (x : Queue) : (setQueue s vf q x).bellOrder = s.bellOrder := rfl
@[simp] theorem setQueue_hreg (s : State) (vf q : Nat) (x : Queue) : (setQueue s vf q x).hreg = s.hreg := rfl
@[simp] theorem setQueue_tlb (s : State) (vf q : Nat) (x : Queue) : (setQueue s vf q x).tlb = s.tlb := rfl
@[simp] theorem setQueue_walkCache (s : State) (vf q : Nat) (x : Queue) : (setQueue s vf q x).walkCache = s.walkCache := rfl
@[simp] theorem setQueue_icache (s : State) (vf q : Nat) (x : Queue) : (setQueue s vf q x).icache = s.icache := rfl
@[simp] theorem setQueue_priLimit (s : State) (vf q : Nat) (x : Queue) : (setQueue s vf q x).priLimit = s.priLimit := rfl
@[simp] theorem setQueue_voids (s : State) (vf q : Nat) (x : Queue) : (setQueue s vf q x).voids = s.voids := rfl
@[simp] theorem setQueue_bTurn (s : State) (vf q : Nat) (x : Queue) : (setQueue s vf q x).bTurn = s.bTurn := rfl
@[simp] theorem setQueue_owed (s : State) (vf q : Nat) (x : Queue) : (setQueue s vf q x).owed = s.owed := rfl
@[simp] theorem setQueue_refills (s : State) (vf q : Nat) (x : Queue) : (setQueue s vf q x).refills = s.refills := rfl
@[simp] theorem setQueue_barTurn (s : State) (vf q : Nat) (x : Queue) : (setQueue s vf q x).barTurn = s.barTurn := rfl
@[simp] theorem setQueue_sends (s : State) (vf q : Nat) (x : Queue) : (setQueue s vf q x).sends = s.sends := rfl
@[simp] theorem setQueue_temps (s : State) (vf q : Nat) (x : Queue) : (setQueue s vf q x).temps = s.temps := rfl
@[simp] theorem setQueue_overPower (s : State) (vf q : Nat) (x : Queue) : (setQueue s vf q x).overPower = s.overPower := rfl
@[simp] theorem setQueue_warm (s : State) (vf q : Nat) (x : Queue) : (setQueue s vf q x).warm = s.warm := rfl
@[simp] theorem setQueue_deep (s : State) (vf q : Nat) (x : Queue) : (setQueue s vf q x).deep = s.deep := rfl
@[simp] theorem setQueue_misses (s : State) (vf q : Nat) (x : Queue) : (setQueue s vf q x).misses = s.misses := rfl
@[simp] theorem setQueue_requests (s : State) (vf q : Nat) (x : Queue) : (setQueue s vf q x).requests = s.requests := rfl
@[simp] theorem setQueue_prqSeq (s : State) (vf q : Nat) (x : Queue) : (setQueue s vf q x).prqSeq = s.prqSeq := rfl
@[simp] theorem setQueue_tlbBusy (s : State) (vf q : Nat) (x : Queue) : (setQueue s vf q x).tlbBusy = s.tlbBusy := rfl
@[simp] theorem setQueue_tlbErr (s : State) (vf q : Nat) (x : Queue) : (setQueue s vf q x).tlbErr = s.tlbErr := rfl
@[simp] theorem setQueue_atsEnabled (s : State) (vf q : Nat) (x : Queue) : (setQueue s vf q x).atsEnabled = s.atsEnabled := rfl
@[simp] theorem setQueue_priEnabled (s : State) (vf q : Nat) (x : Queue) : (setQueue s vf q x).priEnabled = s.priEnabled := rfl
@[simp] theorem setQueue_ats (s : State) (vf q : Nat) (x : Queue) : (setQueue s vf q x).ats = s.ats := rfl
@[simp] theorem setQueue_atsMisses (s : State) (vf q : Nat) (x : Queue) : (setQueue s vf q x).atsMisses = s.atsMisses := rfl
@[simp] theorem setQueue_parts (s : State) (vf q : Nat) (x : Queue) : (setQueue s vf q x).parts = s.parts := rfl
@[simp] theorem setQueue_partstat (s : State) (vf q : Nat) (x : Queue) : (setQueue s vf q x).partstat = s.partstat := rfl
@[simp] theorem setQueue_policy (s : State) (vf q : Nat) (x : Queue) : (setQueue s vf q x).policy = s.policy := rfl
@[simp] theorem setQueue_clamped (s : State) (vf q : Nat) (x : Queue) : (setQueue s vf q x).clamped = s.clamped := rfl
@[simp] theorem setQueue_drainVf (s : State) (vf q : Nat) (x : Queue) : (setQueue s vf q x).drainVf = s.drainVf := rfl
@[simp] theorem setQueue_drainPart (s : State) (vf q : Nat) (x : Queue) : (setQueue s vf q x).drainPart = s.drainPart := rfl
@[simp] theorem setQueue_drainDevice (s : State) (vf q : Nat) (x : Queue) : (setQueue s vf q x).drainDevice = s.drainDevice := rfl
@[simp] theorem setQueue_measured (s : State) (vf q : Nat) (x : Queue) : (setQueue s vf q x).measured = s.measured := rfl
@[simp] theorem setQueue_buckets (s : State) (vf q : Nat) (x : Queue) : (setQueue s vf q x).buckets = s.buckets := rfl
@[simp] theorem setQueue_pools (s : State) (vf q : Nat) (x : Queue) : (setQueue s vf q x).pools = s.pools := rfl
@[simp] theorem setQueue_log (s : State) (vf q : Nat) (x : Queue) : (setQueue s vf q x).log = s.log := rfl
@[simp] theorem setQueue_logSeq (s : State) (vf q : Nat) (x : Queue) : (setQueue s vf q x).logSeq = s.logSeq := rfl
@[simp] theorem setQueue_watch (s : State) (vf q : Nat) (x : Queue) : (setQueue s vf q x).watch = s.watch := rfl
@[simp] theorem setQueue_watchSeq (s : State) (vf q : Nat) (x : Queue) : (setQueue s vf q x).watchSeq = s.watchSeq := rfl
@[simp] theorem setQueue_platestat (s : State) (vf q : Nat) (x : Queue) : (setQueue s vf q x).platestat = s.platestat := rfl
@[simp] theorem setQueue_plates (s : State) (vf q : Nat) (x : Queue) : (setQueue s vf q x).plates = s.plates := rfl
@[simp] theorem setQueue_health (s : State) (vf q : Nat) (x : Queue) : (setQueue s vf q x).health = s.health := rfl
@[simp] theorem setQueue_quarantine (s : State) (vf q : Nat) (x : Queue) : (setQueue s vf q x).quarantine = s.quarantine := rfl
@[simp] theorem setQueue_quarantined (s : State) (vf q : Nat) (x : Queue) : (setQueue s vf q x).quarantined = s.quarantined := rfl
@[simp] theorem setQueue_quarantinedPages (s : State) (vf q : Nat) (x : Queue) : (setQueue s vf q x).quarantinedPages = s.quarantinedPages := rfl
@[simp] theorem setQueue_survey (s : State) (vf q : Nat) (x : Queue) : (setQueue s vf q x).survey = s.survey := rfl
@[simp] theorem setQueue_surveyGen (s : State) (vf q : Nat) (x : Queue) : (setQueue s vf q x).surveyGen = s.surveyGen := rfl
@[simp] theorem setQueue_links (s : State) (vf q : Nat) (x : Queue) : (setQueue s vf q x).links = s.links := rfl
@[simp] theorem setQueue_messages (s : State) (vf q : Nat) (x : Queue) : (setQueue s vf q x).messages = s.messages := rfl
@[simp] theorem setQueue_outbox (s : State) (vf q : Nat) (x : Queue) : (setQueue s vf q x).outbox = s.outbox := rfl

/-! ## `clearPoison` -/

@[simp] theorem clearPoison_agenda (s : State) (key : Nat) : (clearPoison s key).agenda = s.agenda := rfl
@[simp] theorem clearPoison_cur (s : State) (key : Nat) : (clearPoison s key).cur = s.cur := rfl
@[simp] theorem clearPoison_free (s : State) (key : Nat) : (clearPoison s key).free = s.free := rfl
@[simp] theorem clearPoison_nextId (s : State) (key : Nat) : (clearPoison s key).nextId = s.nextId := rfl
@[simp] theorem clearPoison_clock (s : State) (key : Nat) : (clearPoison s key).clock = s.clock := rfl
@[simp] theorem clearPoison_acycle (s : State) (key : Nat) : (clearPoison s key).acycle = s.acycle := rfl
@[simp] theorem clearPoison_aphase (s : State) (key : Nat) : (clearPoison s key).aphase = s.aphase := rfl
@[simp] theorem clearPoison_freq (s : State) (key : Nat) : (clearPoison s key).freq = s.freq := rfl
@[simp] theorem clearPoison_bringup (s : State) (key : Nat) : (clearPoison s key).bringup = s.bringup := rfl
@[simp] theorem clearPoison_ready (s : State) (key : Nat) : (clearPoison s key).ready = s.ready := rfl
@[simp] theorem clearPoison_manifest (s : State) (key : Nat) : (clearPoison s key).manifest = s.manifest := rfl
@[simp] theorem clearPoison_staged (s : State) (key : Nat) : (clearPoison s key).staged = s.staged := rfl
@[simp] theorem clearPoison_rollback (s : State) (key : Nat) : (clearPoison s key).rollback = s.rollback := rfl
@[simp] theorem clearPoison_trip (s : State) (key : Nat) : (clearPoison s key).trip = s.trip := rfl
@[simp] theorem clearPoison_gangs (s : State) (key : Nat) : (clearPoison s key).gangs = s.gangs := rfl
@[simp] theorem clearPoison_bregs (s : State) (key : Nat) : (clearPoison s key).bregs = s.bregs := rfl
@[simp] theorem clearPoison_busy (s : State) (key : Nat) : (clearPoison s key).busy = s.busy := rfl
@[simp] theorem clearPoison_matrix (s : State) (key : Nat) : (clearPoison s key).matrix = s.matrix := rfl
@[simp] theorem clearPoison_dram (s : State) (key : Nat) : (clearPoison s key).dram = s.dram := rfl
@[simp] theorem clearPoison_spad (s : State) (key : Nat) : (clearPoison s key).spad = s.spad := rfl
@[simp] theorem clearPoison_spadGen (s : State) (key : Nat) : (clearPoison s key).spadGen = s.spadGen := rfl
@[simp] theorem clearPoison_host (s : State) (key : Nat) : (clearPoison s key).host = s.host := rfl
@[simp] theorem clearPoison_poison (s : State) (key : Nat) : (clearPoison s key).poison = s.poison.filter fun l => l != key / 128 := rfl
@[simp] theorem clearPoison_l2 (s : State) (key : Nat) : (clearPoison s key).l2 = s.l2 := rfl
@[simp] theorem clearPoison_repaired (s : State) (key : Nat) : (clearPoison s key).repaired = s.repaired := rfl
@[simp] theorem clearPoison_rings (s : State) (key : Nat) : (clearPoison s key).rings = s.rings := rfl
@[simp] theorem clearPoison_copies (s : State) (key : Nat) : (clearPoison s key).copies = s.copies := rfl
@[simp] theorem clearPoison_broadcasts (s : State) (key : Nat) : (clearPoison s key).broadcasts = s.broadcasts := rfl
@[simp] theorem clearPoison_rootArrivals (s : State) (key : Nat) : (clearPoison s key).rootArrivals = s.rootArrivals := rfl
@[simp] theorem clearPoison_leaves (s : State) (key : Nat) : (clearPoison s key).leaves = s.leaves := rfl
@[simp] theorem clearPoison_descs (s : State) (key : Nat) : (clearPoison s key).descs = s.descs := rfl
@[simp] theorem clearPoison_window (s : State) (key : Nat) : (clearPoison s key).window = s.window := rfl
@[simp] theorem clearPoison_governor (s : State) (key : Nat) : (clearPoison s key).governor = s.governor := rfl
@[simp] theorem clearPoison_workgroups (s : State) (key : Nat) : (clearPoison s key).workgroups = s.workgroups := rfl
@[simp] theorem clearPoison_launches (s : State) (key : Nat) : (clearPoison s key).launches = s.launches := rfl
@[simp] theorem clearPoison_larder (s : State) (key : Nat) : (clearPoison s key).larder = s.larder := rfl
@[simp] theorem clearPoison_larderGen (s : State) (key : Nat) : (clearPoison s key).larderGen = s.larderGen := rfl
@[simp] theorem clearPoison_joins (s : State) (key : Nat) : (clearPoison s key).joins = s.joins := rfl
@[simp] theorem clearPoison_blocked (s : State) (key : Nat) : (clearPoison s key).blocked = s.blocked := rfl
@[simp] theorem clearPoison_windows (s : State) (key : Nat) : (clearPoison s key).windows = s.windows := rfl
@[simp] theorem clearPoison_events (s : State) (key : Nat) : (clearPoison s key).events = s.events := rfl
@[simp] theorem clearPoison_fresh (s : State) (key : Nat) : (clearPoison s key).fresh = s.fresh := rfl
@[simp] theorem clearPoison_startCycle (s : State) (key : Nat) : (clearPoison s key).startCycle = s.startCycle := rfl
@[simp] theorem clearPoison_queues (s : State) (key : Nat) : (clearPoison s key).queues = s.queues := rfl
@[simp] theorem clearPoison_bellOrder (s : State) (key : Nat) : (clearPoison s key).bellOrder = s.bellOrder := rfl
@[simp] theorem clearPoison_hreg (s : State) (key : Nat) : (clearPoison s key).hreg = s.hreg := rfl
@[simp] theorem clearPoison_tlb (s : State) (key : Nat) : (clearPoison s key).tlb = s.tlb := rfl
@[simp] theorem clearPoison_walkCache (s : State) (key : Nat) : (clearPoison s key).walkCache = s.walkCache := rfl
@[simp] theorem clearPoison_icache (s : State) (key : Nat) : (clearPoison s key).icache = s.icache := rfl
@[simp] theorem clearPoison_priLimit (s : State) (key : Nat) : (clearPoison s key).priLimit = s.priLimit := rfl
@[simp] theorem clearPoison_voids (s : State) (key : Nat) : (clearPoison s key).voids = s.voids := rfl
@[simp] theorem clearPoison_bTurn (s : State) (key : Nat) : (clearPoison s key).bTurn = s.bTurn := rfl
@[simp] theorem clearPoison_owed (s : State) (key : Nat) : (clearPoison s key).owed = s.owed := rfl
@[simp] theorem clearPoison_refills (s : State) (key : Nat) : (clearPoison s key).refills = s.refills := rfl
@[simp] theorem clearPoison_barTurn (s : State) (key : Nat) : (clearPoison s key).barTurn = s.barTurn := rfl
@[simp] theorem clearPoison_sends (s : State) (key : Nat) : (clearPoison s key).sends = s.sends := rfl
@[simp] theorem clearPoison_temps (s : State) (key : Nat) : (clearPoison s key).temps = s.temps := rfl
@[simp] theorem clearPoison_overPower (s : State) (key : Nat) : (clearPoison s key).overPower = s.overPower := rfl
@[simp] theorem clearPoison_warm (s : State) (key : Nat) : (clearPoison s key).warm = s.warm := rfl
@[simp] theorem clearPoison_deep (s : State) (key : Nat) : (clearPoison s key).deep = s.deep := rfl
@[simp] theorem clearPoison_misses (s : State) (key : Nat) : (clearPoison s key).misses = s.misses := rfl
@[simp] theorem clearPoison_requests (s : State) (key : Nat) : (clearPoison s key).requests = s.requests := rfl
@[simp] theorem clearPoison_prqSeq (s : State) (key : Nat) : (clearPoison s key).prqSeq = s.prqSeq := rfl
@[simp] theorem clearPoison_tlbBusy (s : State) (key : Nat) : (clearPoison s key).tlbBusy = s.tlbBusy := rfl
@[simp] theorem clearPoison_tlbErr (s : State) (key : Nat) : (clearPoison s key).tlbErr = s.tlbErr := rfl
@[simp] theorem clearPoison_atsEnabled (s : State) (key : Nat) : (clearPoison s key).atsEnabled = s.atsEnabled := rfl
@[simp] theorem clearPoison_priEnabled (s : State) (key : Nat) : (clearPoison s key).priEnabled = s.priEnabled := rfl
@[simp] theorem clearPoison_ats (s : State) (key : Nat) : (clearPoison s key).ats = s.ats := rfl
@[simp] theorem clearPoison_atsMisses (s : State) (key : Nat) : (clearPoison s key).atsMisses = s.atsMisses := rfl
@[simp] theorem clearPoison_parts (s : State) (key : Nat) : (clearPoison s key).parts = s.parts := rfl
@[simp] theorem clearPoison_partstat (s : State) (key : Nat) : (clearPoison s key).partstat = s.partstat := rfl
@[simp] theorem clearPoison_policy (s : State) (key : Nat) : (clearPoison s key).policy = s.policy := rfl
@[simp] theorem clearPoison_clamped (s : State) (key : Nat) : (clearPoison s key).clamped = s.clamped := rfl
@[simp] theorem clearPoison_drainVf (s : State) (key : Nat) : (clearPoison s key).drainVf = s.drainVf := rfl
@[simp] theorem clearPoison_drainPart (s : State) (key : Nat) : (clearPoison s key).drainPart = s.drainPart := rfl
@[simp] theorem clearPoison_drainDevice (s : State) (key : Nat) : (clearPoison s key).drainDevice = s.drainDevice := rfl
@[simp] theorem clearPoison_measured (s : State) (key : Nat) : (clearPoison s key).measured = s.measured := rfl
@[simp] theorem clearPoison_buckets (s : State) (key : Nat) : (clearPoison s key).buckets = s.buckets := rfl
@[simp] theorem clearPoison_pools (s : State) (key : Nat) : (clearPoison s key).pools = s.pools := rfl
@[simp] theorem clearPoison_log (s : State) (key : Nat) : (clearPoison s key).log = s.log := rfl
@[simp] theorem clearPoison_logSeq (s : State) (key : Nat) : (clearPoison s key).logSeq = s.logSeq := rfl
@[simp] theorem clearPoison_watch (s : State) (key : Nat) : (clearPoison s key).watch = s.watch := rfl
@[simp] theorem clearPoison_watchSeq (s : State) (key : Nat) : (clearPoison s key).watchSeq = s.watchSeq := rfl
@[simp] theorem clearPoison_platestat (s : State) (key : Nat) : (clearPoison s key).platestat = s.platestat := rfl
@[simp] theorem clearPoison_plates (s : State) (key : Nat) : (clearPoison s key).plates = s.plates := rfl
@[simp] theorem clearPoison_health (s : State) (key : Nat) : (clearPoison s key).health = s.health := rfl
@[simp] theorem clearPoison_quarantine (s : State) (key : Nat) : (clearPoison s key).quarantine = s.quarantine := rfl
@[simp] theorem clearPoison_quarantined (s : State) (key : Nat) : (clearPoison s key).quarantined = s.quarantined := rfl
@[simp] theorem clearPoison_quarantinedPages (s : State) (key : Nat) : (clearPoison s key).quarantinedPages = s.quarantinedPages := rfl
@[simp] theorem clearPoison_survey (s : State) (key : Nat) : (clearPoison s key).survey = s.survey := rfl
@[simp] theorem clearPoison_surveyGen (s : State) (key : Nat) : (clearPoison s key).surveyGen = s.surveyGen := rfl
@[simp] theorem clearPoison_links (s : State) (key : Nat) : (clearPoison s key).links = s.links := rfl
@[simp] theorem clearPoison_messages (s : State) (key : Nat) : (clearPoison s key).messages = s.messages := rfl
@[simp] theorem clearPoison_outbox (s : State) (key : Nat) : (clearPoison s key).outbox = s.outbox := rfl

end Sys2Proof.Machine
end

