-- ==== Sys2Proof/Laws/Memory.lean ====
section
/-! SUPPORT. The memories of the package: every operation on them keeps the canonical form, a read after a write gives what
was written, and a write leaves every other byte alone. -/

namespace Sys2Proof.Machine

/-- The canonical form, memory by memory. -/
theorem memory_wf_iff (s : State) :
    Memory.wf s = true ↔ wordWf s.dram = true ∧ wordWf s.spad = true ∧ wordWf s.host = true := by
  simp [Memory.wf, and_assoc]

/-- Reset memory has the canonical form. -/
theorem memory_wf_reset : Memory.wf State.reset = true := by decide

/-- A state with the same three memories has the form too. -/
theorem memory_wf_congr {s t : State} (hd : t.dram = s.dram) (hp : t.spad = s.spad) (hh : t.host = s.host)
    (h : Memory.wf s = true) : Memory.wf t = true := by
  rw [memory_wf_iff] at h ⊢; rwa [hd, hp, hh]

/-! ## One byte -/

theorem memory_wf_dramPut (s : State) (k : Nat) (b : Byte) (h : Memory.wf s = true) : Memory.wf (dramPut s k b) = true := by
  rw [memory_wf_iff] at h ⊢; exact ⟨wordWf_wordSet _ _ _ h.1, h.2⟩

theorem memory_wf_host (s : State) (k : Nat) (b : Byte) (h : Memory.wf s = true) :
    Memory.wf { s with host := wordSet s.host k b } = true := by
  rw [memory_wf_iff] at h ⊢; exact ⟨h.1, h.2.1, wordWf_wordSet _ _ _ h.2.2⟩

theorem memory_wf_spadPut (s : State) (cell off : Nat) (b : Byte) (h : Memory.wf s = true) :
    Memory.wf (spadPut s cell off b) = true := by
  rw [memory_wf_iff] at h ⊢; exact ⟨h.1, wordWf_wordSet _ _ _ h.2.1, h.2.2⟩

/-! ## Runs of bytes -/

theorem memory_wf_paWrite (s : State) (p : Partition) (pa : Nat) (l : List Byte) (h : Memory.wf s = true) :
    Memory.wf (paWrite s p pa l) = true := by
  induction l generalizing s pa with
  | nil => exact h
  | cons b r ih => exact ih _ _ (memory_wf_dramPut s _ b h)

theorem memory_wf_hostWrite (s : State) (a : Nat) (l : List Byte) (h : Memory.wf s = true) :
    Memory.wf (hostWrite s a l) = true := by
  induction l generalizing s a with
  | nil => exact h
  | cons b r ih => exact ih _ _ (memory_wf_host s _ b h)

theorem memory_wf_spadWrite (s : State) (cell off : Nat) (l : List Byte) (h : Memory.wf s = true) :
    Memory.wf (spadWrite s cell off l) = true := by
  induction l generalizing s off with
  | nil => exact h
  | cons b r ih => exact ih _ _ (memory_wf_spadPut s _ _ b h)

theorem memory_wf_pasWrite (s : State) (p : Partition) (pas : List Nat) (l : List Byte) (h : Memory.wf s = true) :
    Memory.wf (pasWrite s p pas l) = true := by
  induction pas generalizing s l with
  | nil => exact h
  | cons a r ih =>
    cases l with
    | nil => exact h
    | cons b bs => exact ih _ _ (memory_wf_dramPut s _ b h)

theorem memory_wf_scratchWrite (s : State) (cell wg : Nat) (offs : List Nat) (l : List Byte) (h : Memory.wf s = true) :
    Memory.wf (scratchWrite s cell wg offs l) = true := by
  induction offs generalizing s l with
  | nil => exact h
  | cons o r ih =>
    cases l with
    | nil => exact h
    | cons b bs =>
      refine ih _ _ ?_
      split
      · exact h
      · exact memory_wf_spadPut s _ _ b h

theorem foldl_clearPoison_fields (s : State) (l : List Nat) :
    (l.foldl clearPoison s).dram = s.dram ∧ (l.foldl clearPoison s).spad = s.spad
    ∧ (l.foldl clearPoison s).host = s.host := by
  induction l generalizing s with
  | nil => exact ⟨rfl, rfl, rfl⟩
  | cons a r ih => exact ih (clearPoison s a)

/-- Clearing the poison of whole lines changes no byte (R390). -/
theorem clearWhole_fields (s : State) (keys : List Nat) :
    (clearWhole s keys).dram = s.dram ∧ (clearWhole s keys).spad = s.spad ∧ (clearWhole s keys).host = s.host := by
  unfold clearWhole
  split
  · exact ⟨rfl, rfl, rfl⟩
  · exact foldl_clearPoison_fields s _

theorem memory_wf_clearWhole (s : State) (keys : List Nat) (h : Memory.wf s = true) : Memory.wf (clearWhole s keys) = true :=
  memory_wf_congr (clearWhole_fields s keys).1 (clearWhole_fields s keys).2.1 (clearWhole_fields s keys).2.2 h

/-! ## A read after a write -/

/-- A byte written to a scratchpad is read back, and every other byte of every scratchpad is as before (R18). -/
theorem spadByte_spadPut (s : State) (cell off : Nat) (b : Byte) (c o : Nat) :
    spadByte (spadPut s cell off b) c o
      = if 2 ^ 20 * c + o = 2 ^ 20 * cell + off then b ^^^ spadMask s cell off ^^^ spadMask s c o else spadByte s c o := by
  have hm : spadMask (spadPut s cell off b) c o = spadMask s c o := rfl
  unfold spadByte
  rw [hm, spadPut_spad, wordGet_wordSet]
  split <;> rfl

/-- The byte itself. -/
@[simp] theorem spadByte_spadPut_same (s : State) (cell off : Nat) (b : Byte) : spadByte (spadPut s cell off b) cell off = b := by
  rw [spadByte_spadPut, if_pos rfl, BitVec.xor_assoc, BitVec.xor_self, BitVec.xor_zero]

/-- A byte written to HBM4E is read back, and every other byte is as before. -/
theorem dramByte_dramPut (s : State) (key : Nat) (b : Byte) (k : Nat) :
    dramByte (dramPut s key b) k = if k = key then b else dramByte s k := by
  have hm : dramMask (dramPut s key b) k = dramMask s k := rfl
  unfold dramByte
  rw [hm, dramPut_dram, wordGet_wordSet]
  split
  · subst k; rw [BitVec.xor_assoc, BitVec.xor_self, BitVec.xor_zero]
  · rfl

/-- A byte written to memory at a partition physical address is read back through every address that maps to it (R358). -/
theorem paByte_dramPut (s : State) (p : Partition) (a : Nat) (b : Byte) (x : Nat) :
    paRead (dramPut s (dramKey p a) b) p x 1 = [if dramKey p x = dramKey p a then b else dramByte s (dramKey p x)] := by
  rw [paRead, paRead, dramByte_dramPut]

/-- Writes to memory behind a partition leave every byte alone to which no written address maps. -/
theorem paWrite_frame (s : State) (p : Partition) (pa : Nat) (l : List Byte) (k : Nat)
    (h : ∀ i, i < l.length → dramKey p (pa + i) ≠ k) : dramByte (paWrite s p pa l) k = dramByte s k := by
  induction l generalizing s pa with
  | nil => rfl
  | cons b r ih =>
    rw [paWrite, ih]
    · have := h 0 (by simp)
      simp only [Nat.add_zero] at this
      rw [dramByte_dramPut, if_neg (Ne.symm this)]
    · intro i hi
      have := h (i + 1) (by simpa using hi)
      rwa [show pa + (i + 1) = pa + 1 + i by omega] at this

/-- Lines that become undefined change no stored byte (R73). -/
theorem memory_wf_voidLines (s : State) (l : List Nat) (h : Memory.wf s = true) : Memory.wf (voidLines s l) = true := by
  unfold voidLines
  split
  · exact h
  · exact memory_wf_congr rfl rfl rfl h

/-- Writes behind a partition change HBM4E alone. -/
theorem paWrite_eq (s : State) (p : Partition) (pa : Nat) (l : List Byte) :
    paWrite s p pa l = { s with dram := (paWrite s p pa l).dram } := by
  induction l generalizing s pa with
  | nil => rfl
  | cons b r ih => rw [paWrite, ih]; rfl

/-- A read gives as many bytes as it asks for. -/
@[simp] theorem length_paRead (s : State) (p : Partition) (pa n : Nat) : (paRead s p pa n).length = n := by
  induction n generalizing pa with
  | zero => rfl
  | succ n ih => simp [paRead, ih]

@[simp] theorem length_spadRead (s : State) (cell off n : Nat) : (spadRead s cell off n).length = n := by
  induction n generalizing off with
  | zero => rfl
  | succ n ih => simp [spadRead, ih]

@[simp] theorem length_hostRead (s : State) (a n : Nat) : (hostRead s a n).length = n := by
  induction n generalizing a with
  | zero => rfl
  | succ n ih => simp [hostRead, ih]

/-- A register that is written reads its value's low 64 bits, and every other register is as before. -/
theorem regGet_regPut (s : State) (r v x : Nat) : regGet (regPut s r v) x = if x = r then v % 2 ^ 64 else regGet s x := by
  unfold regGet
  rw [regPut_hreg, wordGet_wordSet]
  split <;> simp

end Sys2Proof.Machine
end

