-- ==== Sys2Proof/Laws/Ops.lean ====
section
/-! SUPPORT. What the shared operations do, once each: register files after a write, the ends of an instruction, the two issue
forms, taking an exception, and one step. -/

namespace Sys2Proof.Machine

/-! ## Register files -/

/-- Threads and specifiers number the per-thread registers without overlap. -/
theorem regKey_inj (t u : Nat) (x y : BitVec 10) : regKey t x = regKey u y ↔ t = u ∧ x = y := by
  have hx := x.isLt; have hy := y.isLt
  unfold regKey
  constructor
  · intro h
    exact ⟨by omega, BitVec.eq_of_toNat_eq (by omega)⟩
  · rintro ⟨rfl, rfl⟩; rfl

/-- One register of one thread is written, and no other (R33). -/
@[simp] theorem putReg_regs (g : Gang) (t u : Nat) (x y : BitVec 10) (v : Word) :
    wordGet (putReg g t x v).regs (regKey u y) = if u = t ∧ y = x then v else wordGet g.regs (regKey u y) := by
  simp only [putReg, wordGet_wordSet, regKey_inj]

/-- A lane result is in the register of each thread it is for; every other register is as before (R30, R33). -/
theorem putLanes_regs (g : Gang) (x : BitVec 10) (val : Nat → Word) (ts : List Nat) (u : Nat) (y : BitVec 10) :
    wordGet (putLanes g x val ts).regs (regKey u y)
      = if u ∈ ts ∧ y = x then val u else wordGet g.regs (regKey u y) := by
  induction ts with
  | nil => simp [putLanes]
  | cons t r ih =>
    rw [putLanes, putReg_regs, ih]
    by_cases hy : y = x <;> by_cases hu : u = t
    · subst hu; simp [hy]
    · simp [hy, hu]
    · simp [hy]
    · simp [hy]

/-- A lane result changes the register file alone. -/
theorem putLanes_eq (g : Gang) (x : BitVec 10) (val : Nat → Word) (ts : List Nat) :
    putLanes g x val ts = { g with regs := (putLanes g x val ts).regs } := by
  induction ts with
  | nil => rfl
  | cons t r ih => rw [putLanes, ih]; rfl

/-- One predicate of one thread is written, and no other (R34). -/
theorem getPred_putPred (g : Gang) (t n u k : Nat) (v : BitVec 2) (hn : n < 8) (hk : k < 8) :
    getPred (putPred g t n v) u k = if u = t ∧ k = n then v else getPred g u k := by
  have : predKey u k = predKey t n ↔ u = t ∧ k = n := by unfold predKey; omega
  simp only [getPred, putPred, wordGet_wordSet, this]

/-- A predicate result is in the predicate of each thread it is for; every other predicate is as before (R34). -/
theorem getPred_putPreds (g : Gang) (x : BitVec 10) (val : Nat → BitVec 2) (ts : List Nat) (u k : Nat) (hk : k < 8) :
    getPred (putPreds g x val ts) u k = if u ∈ ts ∧ k = bits x.toNat 0 3 then val u else getPred g u k := by
  have hn : bits x.toNat 0 3 < 8 := Nat.mod_lt _ (by decide)
  induction ts with
  | nil => simp [putPreds]
  | cons t r ih =>
    rw [putPreds, getPred_putPred _ _ _ _ _ _ hn hk, ih]
    by_cases hu : u = t
    · subst hu; by_cases h : k = bits x.toNat 0 3 <;> simp [h]
    · simp [hu]

/-- A predicate result changes the predicates alone. -/
theorem putPreds_eq (g : Gang) (x : BitVec 10) (val : Nat → BitVec 2) (ts : List Nat) :
    putPreds g x val ts = { g with preds := (putPreds g x val ts).preds } := by
  induction ts with
  | nil => rfl
  | cons t r ih => rw [putPreds, ih]; rfl

/-- A condition that is written reads back; the others are as before (R34). -/
theorem getCond_putCond (g : Gang) (n k : Nat) (v : Bool) (hn : n < 4) (hk : k < 4) :
    getCond (putCond g n v) k = if k = n then v else getCond g k := by
  unfold getCond putCond
  interval_cases n <;> interval_cases k <;> cases v <;> simp

/-! ## Guards -/

theorem getLsbD_maskOf (ts : List Nat) (p : Nat → Bool) (m : Mask) (t : Nat) (ht : t < 32) :
    (ts.foldl (fun (m : Mask) t => if p t then m ||| (1 <<< t) else m) m).getLsbD t
      = (m.getLsbD t || (ts.contains t && p t)) := by
  induction ts generalizing m with
  | nil => simp
  | cons u r ih =>
    rw [List.foldl_cons, ih]
    have hb : (BitVec.ofNat 32 (1 <<< u)).getLsbD t = decide (t = u) := by
      rw [BitVec.getLsbD_ofNat, Nat.one_shiftLeft, Nat.testBit_two_pow]
      by_cases h : t = u
      · subst h; simp [ht]
      · simp [h, eq_comm]
    by_cases hp : p u
    · rw [if_pos hp, BitVec.getLsbD_or, show ((1 <<< u : Nat) : Mask) = BitVec.ofNat 32 (1 <<< u) from rfl, hb]
      by_cases h : t = u
      · subst h; simp [hp]
      · simp [h]
    · rw [if_neg hp]
      by_cases h : t = u
      · subst h; simp [hp]
      · simp [h]

/-- The participating threads are those of EM whose guard passes (R28). -/
theorem mem_participants (g : Gang) (grd : BitVec 5) (t : Nat) :
    t ∈ threadsOf (participants g grd) ↔ t ∈ threadsOf g.em ∧ guardPasses g grd t = true := by
  rw [mem_threadsOf]
  constructor
  · rintro ⟨ht, h⟩
    unfold participants maskOf at h
    rw [getLsbD_maskOf _ _ _ _ ht] at h
    simpa using h
  · rintro ⟨hm, hp⟩
    have ht := ((mem_threadsOf _ _).1 hm).1
    refine ⟨ht, ?_⟩
    unfold participants maskOf
    rw [getLsbD_maskOf _ _ _ _ ht]
    have hc : (threadsOf g.em).contains t = true := by simpa using hm
    rw [hc, hp]; simp

/-! ## The pending scoreboard -/

/-- An instruction without an origin has no span to check. -/
theorem spanFault_of_noOrigin (r : Roles) (opc : Nat) (f : Fields) (ha : originA opc f = none) (hb : originB opc f = none) :
    spanFault r opc f = none := by
  simp [spanFault, ha, hb]

/-- With nothing pending, an instruction without an origin passes the checks of the bay (R41, R111). -/
theorem hazard_of_empty (s : State) (g : Gang) (opc : Nat) (f : Fields) (h : g.pending = []) (ha : originA opc f = none)
    (hb : originB opc f = none) : hazard s g opc f = none := by
  simp [hazard, spanFault_of_noOrigin _ _ _ ha hb, h]

/-- A distance result is readable after its distance: only longer distances remain, each shorter by one (R40). -/
theorem mem_agePending (l : List Pending) (p : Pending) :
    p ∈ agePending l ↔
      (∃ n, 1 ≤ n ∧ p.kind = .distance n ∧ ⟨p.name, .distance (n + 1)⟩ ∈ l) ∨ ((∀ n, p.kind ≠ .distance n) ∧ p ∈ l) := by
  induction l with
  | nil => simp [agePending]
  | cons q r ih =>
    obtain ⟨qn, qk⟩ := q; obtain ⟨pn, pk⟩ := p
    cases qk with
    | distance m =>
      by_cases hm : m ≤ 1
      · simp only [agePending, hm, if_true, ih, List.mem_cons, Pending.mk.injEq, PendKind.distance.injEq]
        constructor
        · rintro (⟨n, h1, h2, h3⟩ | ⟨h1, h2⟩)
          exacts [.inl ⟨n, h1, h2, .inr h3⟩, .inr ⟨h1, .inr h2⟩]
        · rintro (⟨n, h1, h2, ⟨_, h3⟩ | h3⟩ | ⟨h1, ⟨_, h2⟩ | h2⟩)
          exacts [by omega, .inl ⟨n, h1, h2, h3⟩, absurd h2 (h1 m), .inr ⟨h1, h2⟩]
      · simp only [agePending, hm, if_false, ih, List.mem_cons, Pending.mk.injEq, PendKind.distance.injEq]
        constructor
        · rintro (⟨rfl, rfl⟩ | ⟨n, h1, h2, h3⟩ | ⟨h1, h2⟩)
          exacts [.inl ⟨m - 1, by omega, rfl, .inl ⟨rfl, by omega⟩⟩, .inl ⟨n, h1, h2, .inr h3⟩, .inr ⟨h1, .inr h2⟩]
        · rintro (⟨n, h1, h2, ⟨h3, h4⟩ | h3⟩ | ⟨h1, ⟨_, h2⟩ | h2⟩)
          · exact .inl ⟨h3, by rw [h2]; congr 1; omega⟩
          · exact .inr (.inl ⟨n, h1, h2, h3⟩)
          · exact absurd h2 (h1 m)
          · exact .inr (.inr ⟨h1, h2⟩)
    | load i =>
      simp only [agePending, ih, List.mem_cons, Pending.mk.injEq]
      constructor
      · rintro (⟨rfl, rfl⟩ | ⟨n, h1, h2, h3⟩ | ⟨h1, h2⟩)
        exacts [.inr ⟨by simp, .inl ⟨rfl, rfl⟩⟩, .inl ⟨n, h1, h2, .inr h3⟩, .inr ⟨h1, .inr h2⟩]
      · rintro (⟨n, h1, h2, ⟨_, h3⟩ | h3⟩ | ⟨h1, h2 | h2⟩)
        exacts [absurd h3 (by simp), .inr (.inl ⟨n, h1, h2, h3⟩), .inl h2, .inr (.inr ⟨h1, h2⟩)]
    | batch i =>
      simp only [agePending, ih, List.mem_cons, Pending.mk.injEq]
      constructor
      · rintro (⟨rfl, rfl⟩ | ⟨n, h1, h2, h3⟩ | ⟨h1, h2⟩)
        exacts [.inr ⟨by simp, .inl ⟨rfl, rfl⟩⟩, .inl ⟨n, h1, h2, .inr h3⟩, .inr ⟨h1, .inr h2⟩]
      · rintro (⟨n, h1, h2, ⟨_, h3⟩ | h3⟩ | ⟨h1, h2 | h2⟩)
        exacts [absurd h3 (by simp), .inr (.inl ⟨n, h1, h2, h3⟩), .inl h2, .inr (.inr ⟨h1, h2⟩)]

/-! ## How an instruction ends -/

/-- Retiring writes the gang of its slot alone. -/
theorem retire_setGang (s : State) (slot : Nat) (g : Gang) (pc : Nat) (ps : List Pending) :
    retire (setGang s slot g) slot pc ps = setGang (setGang s slot g) slot (retireAt s g pc ps) := by
  simp [retire, retireAt]

theorem retire_of_gang (s : State) (slot : Nat) (g : Gang) (pc : Nat) (ps : List Pending) (h : mapGet s.gangs slot = some g) :
    retire s slot pc ps = setGang s slot (retireAt s g pc ps) := by
  simp [retire, h]

/-- The end of an instruction is always a next state. -/
theorem finish_next (slot : Nat) (g : Gang) (len : Form) (r : Res) : ∃ t, finish slot g len r = .next t := by
  cases r with
  | trap s f => simp only [finish]; split <;> exact ⟨_, rfl⟩
  | _ => exact ⟨_, rfl⟩

@[simp] theorem finish_done (slot : Nat) (g : Gang) (len : Form) (s : State) (ps : List Pending) :
    finish slot g len (.done s ps) = .next (retire s slot (nextPc g len) ps) := rfl
@[simp] theorem finish_jump (slot : Nat) (g : Gang) (len : Form) (s : State) (ps : List Pending) (pc : Nat) :
    finish slot g len (.jump s ps pc) = .next (retire s slot (pc % 2 ^ 57) ps) := rfl
@[simp] theorem finish_hold (slot : Nat) (g : Gang) (len : Form) (s : State) (w : Hold) :
    finish slot g len (.hold s w) = .next (holdGang s slot w) := rfl
theorem finish_trap (slot : Nat) (g g' : Gang) (len : Form) (s : State) (f : GFault) (h : mapGet s.gangs slot = some g') :
    finish slot g len (.trap s f) = .next (takeFault s slot g' (formNum len) f) := by
  simp [finish, h]

/-! ## The two issue forms -/

/-- Everything the checks of an instruction can do (R41, R96, R111). -/
theorem checked_cases (s : State) (g : Gang) (opc : Nat) (f : Fields) (rest : State → Res) :
    (∃ t, rankAt s s.cur g opc f = .wait t ∧ checked s g opc f rest = .hold t .miss)
    ∨ (∃ r v, rankAt s s.cur g opc f = r ∧ hazard s g opc f = some v ∧ checked s g opc f rest = .trap (r.left s) v)
    ∨ ∃ r, rankAt s s.cur g opc f = r ∧ hazard s g opc f = none ∧ checked s g opc f rest = rest (r.left s) := by
  unfold checked
  cases hr : rankAt s s.cur g opc f with
  | wait t => exact .inl ⟨t, rfl, rfl⟩
  | known =>
    cases hh : hazard s g opc f with
    | some v => exact .inr (.inl ⟨_, v, rfl, rfl, rfl⟩)
    | none => exact .inr (.inr ⟨_, rfl, rfl, rfl⟩)
  | failed t =>
    cases hh : hazard s g opc f with
    | some v => exact .inr (.inl ⟨_, v, rfl, rfl, rfl⟩)
    | none => exact .inr (.inr ⟨_, rfl, rfl, rfl⟩)

/-- Everything the issue of a lane instruction can do (R28, R41, R43). -/
theorem issueLane_cases (opc : Nat) (f : Fields) (s : State) (body : Gang → List Nat → Res) :
    (mapGet s.gangs s.cur = none ∧ issueLane opc f s body = .fault .noGang)
    ∨ ∃ g, mapGet s.gangs s.cur = some g ∧
        ((∃ t, rankAt s s.cur g opc f = .wait t ∧ issueLane opc f s body = .next (holdGang t s.cur .miss))
        ∨ (∃ r v, rankAt s s.cur g opc f = r ∧ hazard s g opc f = some v ∧
            issueLane opc f s body = finish s.cur g f.len (.trap (r.left s) v))
        ∨ (∃ r, rankAt s s.cur g opc f = r ∧ hazard s g opc f = none ∧ threadsOf (participants g f.grd) = [] ∧
            issueLane opc f s body = .next (retire (r.left s) s.cur (nextPc g f.len) []))
        ∨ (hazard s g opc f = none ∧ threadsOf (participants g f.grd) ≠ [] ∧
            issueLane opc f s body = finish s.cur g f.len (body g (threadsOf (participants g f.grd))))) := by
  unfold issueLane
  cases hg : mapGet s.gangs s.cur with
  | none => exact .inl ⟨rfl, rfl⟩
  | some g =>
    refine .inr ⟨g, rfl, ?_⟩
    simp only
    cases ht : threadsOf (participants g f.grd) with
    | nil =>
      rcases checked_cases s g opc f (fun t => .done t []) with ⟨t, hr, hc⟩ | ⟨r, v, hr, hh, hc⟩ | ⟨r, hr, hh, hc⟩ <;>
        simp only [hc]
      exacts [.inl ⟨t, hr, rfl⟩, .inr (.inl ⟨r, v, hr, hh, rfl⟩), .inr (.inr (.inl ⟨r, hr, hh, trivial, rfl⟩))]
    | cons t ts =>
      rcases checked_cases s g opc f (fun _ => body g (t :: ts)) with ⟨t, hr, hc⟩ | ⟨r, v, hr, hh, hc⟩ | ⟨r, hr, hh, hc⟩ <;>
        simp only [hc]
      exacts [.inl ⟨t, hr, rfl⟩, .inr (.inl ⟨r, v, hr, hh, rfl⟩), .inr (.inr (.inr ⟨hh, by simp, trivial⟩))]

/-- Everything the issue of a uniform instruction can do (R30, R41, R43). -/
theorem issueUniform_cases (opc : Nat) (f : Fields) (s : State) (body : Gang → Res) :
    (mapGet s.gangs s.cur = none ∧ issueUniform opc f s body = .fault .noGang)
    ∨ ∃ g, mapGet s.gangs s.cur = some g ∧
        ((∃ t, rankAt s s.cur g opc f = .wait t ∧ issueUniform opc f s body = .next (holdGang t s.cur .miss))
        ∨ (∃ r v, rankAt s s.cur g opc f = r ∧ hazard s g opc f = some v ∧
            issueUniform opc f s body = finish s.cur g f.len (.trap (r.left s) v))
        ∨ (∃ r, rankAt s s.cur g opc f = r ∧ hazard s g opc f = none ∧ condPasses g f.grd = false ∧
            issueUniform opc f s body = .next (retire (r.left s) s.cur (nextPc g f.len) []))
        ∨ (hazard s g opc f = none ∧ condPasses g f.grd = true ∧ issueUniform opc f s body = finish s.cur g f.len (body g))) := by
  unfold issueUniform
  cases hg : mapGet s.gangs s.cur with
  | none => exact .inl ⟨rfl, rfl⟩
  | some g =>
    refine .inr ⟨g, rfl, ?_⟩
    simp only
    rcases checked_cases s g opc f (fun t => if condPasses g f.grd then body g else .done t []) with
      ⟨t, hr, hc⟩ | ⟨r, v, hr, hh, hc⟩ | ⟨r, hr, hh, hc⟩ <;> rw [hc]
    · exact .inl ⟨t, hr, rfl⟩
    · exact .inr (.inl ⟨r, v, hr, hh, rfl⟩)
    · cases ht : condPasses g f.grd with
      | false => exact .inr (.inr (.inl ⟨r, hr, hh, rfl, rfl⟩))
      | true => exact .inr (.inr (.inr ⟨hh, rfl, rfl⟩))

/-- A lane result, from issue to the next state: the register of every participating thread is written, the destination becomes
pending, and the gang goes on (R30, R33, R40). -/
theorem issueLane_laneResult (opc : Nat) (f : Fields) (s : State) (d : Nat) (val : Gang → Nat → Word) (g : Gang)
    (hg : mapGet s.gangs s.cur = some g) (hr : rankAt s s.cur g opc f = .known) (hh : hazard s g opc f = none)
    (hp : threadsOf (participants g f.grd) ≠ []) :
    issueLane opc f s (fun g ts => laneResult opc f s d g ts (val g))
      = .next (setGang (setGang s s.cur (putLanes g f.d (val g) (threadsOf (participants g f.grd)))) s.cur
          (retireAt s (putLanes g f.d (val g) (threadsOf (participants g f.grd))) (nextPc g f.len) (pendD opc f d))) := by
  rcases issueLane_cases opc f s (fun g ts => laneResult opc f s d g ts (val g)) with ⟨h, -⟩ | ⟨g', hg', h⟩
  · rw [hg] at h; exact absurd h (by simp)
  · rw [hg] at hg'; cases hg'
    rcases h with ⟨t, h, -⟩ | ⟨_, v, -, h, -⟩ | ⟨_, -, -, h, -⟩ | ⟨-, -, h⟩
    · rw [hr] at h; exact absurd h (by simp)
    · rw [hh] at h; exact absurd h (by simp)
    · exact absurd h hp
    · rw [h, laneResult, finish_done, retire_setGang]

/-! ## Exceptions -/

/-- Taking a fault resets the partition, aborts the launch or enters the handler (R328, R329). -/
theorem takeFault_cases (s : State) (slot : Nat) (g : Gang) (len : Nat) (f : GFault) :
    (f.code.uncontained = true ∧ takeFault s slot g len f
        = partitionReset s (partNo s g.vf) f.code.code f.detail
            (some ⟨launchKey g.vf g.lslot, nodeOfWg s g.wg, slot, f.logAddr.getD g.pc, f.tval⟩))
    ∨ (f.code.uncontained = false ∧ escalates s g f = true ∧ takeFault s slot g len f
        = abortLaunch s g.vf g.lslot (nodeOfWg s g.wg) slot g.pc f (handledGrade s g))
    ∨ (f.code.uncontained = false ∧ escalates s g f = false ∧ takeFault s slot g len f = setGang (leaveQueues s slot) slot (enterTrap s g len f)) := by
  unfold takeFault
  cases f.code.uncontained <;> cases escalates s g f <;> simp

/-- A handler that runs has ACTIVE set, so the next fault of its gang escalates (R327, R329). -/
theorem escalates_of_inHandler (s : State) (g : Gang) (f : GFault) (h : inHandler g = true) : escalates s g f = true := by
  simp [escalates, h]

/-- Trap entry keeps what R328 says it keeps. -/
theorem enterTrap_frame (s : State) (g : Gang) (len : Nat) (f : GFault) :
    (enterTrap s g len f).em = g.em ∧ (enterTrap s g len f).pm = g.pm ∧ (enterTrap s g len f).stack = g.stack
    ∧ (enterTrap s g len f).regs = g.regs ∧ (enterTrap s g len f).sregs = g.sregs ∧ (enterTrap s g len f).preds = g.preds
    ∧ (enterTrap s g len f).conds = g.conds ∧ (enterTrap s g len f).fpstat = g.fpstat
    ∧ (enterTrap s g len f).vstat = g.vstat ∧ (enterTrap s g len f).trapDone = g.done :=
  ⟨rfl, rfl, rfl, rfl, rfl, rfl, rfl, rfl, rfl, rfl⟩

/-! ## One step -/

/-- A step rests, or runs one row of the table. -/
theorem step_cases (s : State) :
    (∃ t, selectMove s = .rest t ∧ step s = .next t) ∨ ∃ i t, selectMove s = .run i t ∧ step s = exec i t := by
  unfold step
  cases h : selectMove s with
  | rest t => exact .inl ⟨t, rfl, rfl⟩
  | run i t => exact .inr ⟨i, t, rfl, rfl⟩

/-- An event at the head of the agenda, which the device acts on, is the next move. -/
theorem step_event (s : State) (i : Instr) (r : List Turn) (h : s.agenda = .event i :: r) (ho : heldOff s i = false) :
    step s = exec i { s with agenda := r } := by
  simp [step, selectMove, h, ho]

end Sys2Proof.Machine
end

