-- ==== Sys2Proof/Laws/PerInstr.lean ====
section
/-! SUPPORT. One lemma per instruction: the decoder's tables name it from its own opcode, or it is an event, which has no
bytes. -/

namespace Sys2Proof.Laws.Encodable

/-- The opcode that an instruction is encoded with names that instruction again, with its fields unchanged (R93, R97, R106 to
R110); RRES and RRES.init share theirs and differ in IMM[5] (R299). An event has no bytes. -/
def Statement (i : Instr) : Prop :=
  match bodyOf i with
  | .full opc f => wfSplit i = true → fullOf opc f = some i
  | .short opc f => shortOf opc f = some i
  | .event => encode i = []

theorem smov (f : Fields) : Statement (Instr.smov f) := fun _ => rfl
theorem smovi (f : Fields) : Statement (Instr.smovi f) := fun _ => rfl
theorem sadd (f : Fields) : Statement (Instr.sadd f) := fun _ => rfl
theorem ssub (f : Fields) : Statement (Instr.ssub f) := fun _ => rfl
theorem smul (f : Fields) : Statement (Instr.smul f) := fun _ => rfl
theorem smulh (f : Fields) : Statement (Instr.smulh f) := fun _ => rfl
theorem sdiv (f : Fields) : Statement (Instr.sdiv f) := fun _ => rfl
theorem srem (f : Fields) : Statement (Instr.srem f) := fun _ => rfl
theorem sand (f : Fields) : Statement (Instr.sand f) := fun _ => rfl
theorem sor (f : Fields) : Statement (Instr.sor f) := fun _ => rfl
theorem sxor (f : Fields) : Statement (Instr.sxor f) := fun _ => rfl
theorem snot (f : Fields) : Statement (Instr.snot f) := fun _ => rfl
theorem sshl (f : Fields) : Statement (Instr.sshl f) := fun _ => rfl
theorem sshr (f : Fields) : Statement (Instr.sshr f) := fun _ => rfl
theorem ssar (f : Fields) : Statement (Instr.ssar f) := fun _ => rfl
theorem smin (f : Fields) : Statement (Instr.smin f) := fun _ => rfl
theorem smax (f : Fields) : Statement (Instr.smax f) := fun _ => rfl
theorem scmp (f : Fields) : Statement (Instr.scmp f) := fun _ => rfl
theorem ssel (f : Fields) : Statement (Instr.ssel f) := fun _ => rfl
theorem sclz (f : Fields) : Statement (Instr.sclz f) := fun _ => rfl
theorem spopc (f : Fields) : Statement (Instr.spopc f) := fun _ => rfl
theorem sbfx (f : Fields) : Statement (Instr.sbfx f) := fun _ => rfl
theorem sbfi (f : Fields) : Statement (Instr.sbfi f) := fun _ => rfl
theorem imov (f : Fields) : Statement (Instr.imov f) := fun _ => rfl
theorem imovShort (f : ShortFields) : Statement (Instr.imovShort f) := rfl
theorem imovi (f : Fields) : Statement (Instr.imovi f) := fun _ => rfl
theorem imoviShort (f : ShortFields) : Statement (Instr.imoviShort f) := rfl
theorem iadd (f : Fields) : Statement (Instr.iadd f) := fun _ => rfl
theorem iaddShort (f : ShortFields) : Statement (Instr.iaddShort f) := rfl
theorem isub (f : Fields) : Statement (Instr.isub f) := fun _ => rfl
theorem isubShort (f : ShortFields) : Statement (Instr.isubShort f) := rfl
theorem imul (f : Fields) : Statement (Instr.imul f) := fun _ => rfl
theorem imulShort (f : ShortFields) : Statement (Instr.imulShort f) := rfl
theorem imulh (f : Fields) : Statement (Instr.imulh f) := fun _ => rfl
theorem idiv (f : Fields) : Statement (Instr.idiv f) := fun _ => rfl
theorem irem (f : Fields) : Statement (Instr.irem f) := fun _ => rfl
theorem iand (f : Fields) : Statement (Instr.iand f) := fun _ => rfl
theorem iandShort (f : ShortFields) : Statement (Instr.iandShort f) := rfl
theorem ior (f : Fields) : Statement (Instr.ior f) := fun _ => rfl
theorem iorShort (f : ShortFields) : Statement (Instr.iorShort f) := rfl
theorem ixor (f : Fields) : Statement (Instr.ixor f) := fun _ => rfl
theorem ixorShort (f : ShortFields) : Statement (Instr.ixorShort f) := rfl
theorem inot (f : Fields) : Statement (Instr.inot f) := fun _ => rfl
theorem inotShort (f : ShortFields) : Statement (Instr.inotShort f) := rfl
theorem ishl (f : Fields) : Statement (Instr.ishl f) := fun _ => rfl
theorem ishlShort (f : ShortFields) : Statement (Instr.ishlShort f) := rfl
theorem ishr (f : Fields) : Statement (Instr.ishr f) := fun _ => rfl
theorem ishrShort (f : ShortFields) : Statement (Instr.ishrShort f) := rfl
theorem isar (f : Fields) : Statement (Instr.isar f) := fun _ => rfl
theorem isarShort (f : ShortFields) : Statement (Instr.isarShort f) := rfl
theorem imin (f : Fields) : Statement (Instr.imin f) := fun _ => rfl
theorem iminShort (f : ShortFields) : Statement (Instr.iminShort f) := rfl
theorem imax (f : Fields) : Statement (Instr.imax f) := fun _ => rfl
theorem imaxShort (f : ShortFields) : Statement (Instr.imaxShort f) := rfl
theorem icmp (f : Fields) : Statement (Instr.icmp f) := fun _ => rfl
theorem isel (f : Fields) : Statement (Instr.isel f) := fun _ => rfl
theorem iclz (f : Fields) : Statement (Instr.iclz f) := fun _ => rfl
theorem iclzShort (f : ShortFields) : Statement (Instr.iclzShort f) := rfl
theorem ipopc (f : Fields) : Statement (Instr.ipopc f) := fun _ => rfl
theorem ipopcShort (f : ShortFields) : Statement (Instr.ipopcShort f) := rfl
theorem ibfx (f : Fields) : Statement (Instr.ibfx f) := fun _ => rfl
theorem ibfi (f : Fields) : Statement (Instr.ibfi f) := fun _ => rfl
theorem imad (f : Fields) : Statement (Instr.imad f) := fun _ => rfl
theorem iabs (f : Fields) : Statement (Instr.iabs f) := fun _ => rfl
theorem iabsShort (f : ShortFields) : Statement (Instr.iabsShort f) := rfl
theorem ineg (f : Fields) : Statement (Instr.ineg f) := fun _ => rfl
theorem inegShort (f : ShortFields) : Statement (Instr.inegShort f) := rfl
theorem irot (f : Fields) : Statement (Instr.irot f) := fun _ => rfl
theorem sfrom (f : Fields) : Statement (Instr.sfrom f) := fun _ => rfl
theorem pset (f : Fields) : Statement (Instr.pset f) := fun _ => rfl
theorem pmov (f : Fields) : Statement (Instr.pmov f) := fun _ => rfl
theorem pand (f : Fields) : Statement (Instr.pand f) := fun _ => rfl
theorem por (f : Fields) : Statement (Instr.por f) := fun _ => rfl
theorem pxor (f : Fields) : Statement (Instr.pxor f) := fun _ => rfl
theorem pnot (f : Fields) : Statement (Instr.pnot f) := fun _ => rfl
theorem pdec (f : Fields) : Statement (Instr.pdec f) := fun _ => rfl
theorem ptoi (f : Fields) : Statement (Instr.ptoi f) := fun _ => rfl
theorem vote (f : Fields) : Statement (Instr.vote f) := fun _ => rfl
theorem bra (f : Fields) : Statement (Instr.bra f) := fun _ => rfl
theorem braShort (f : ShortFields) : Statement (Instr.braShort f) := rfl
theorem brv (f : Fields) : Statement (Instr.brv f) := fun _ => rfl
theorem jmpi (f : Fields) : Statement (Instr.jmpi f) := fun _ => rfl
theorem call (f : Fields) : Statement (Instr.call f) := fun _ => rfl
theorem ret (f : Fields) : Statement (Instr.ret f) := fun _ => rfl
theorem sloop (f : Fields) : Statement (Instr.sloop f) := fun _ => rfl
theorem rcv (f : Fields) : Statement (Instr.rcv f) := fun _ => rfl
theorem rcvShort (f : ShortFields) : Statement (Instr.rcvShort f) := rfl
theorem exit (f : Fields) : Statement (Instr.exit f) := fun _ => rfl
theorem exitShort (f : ShortFields) : Statement (Instr.exitShort f) := rfl
theorem quit (f : Fields) : Statement (Instr.quit f) := fun _ => rfl
theorem quitShort (f : ShortFields) : Statement (Instr.quitShort f) := rfl
theorem nop (f : Fields) : Statement (Instr.nop f) := fun _ => rfl
theorem nopShort (f : ShortFields) : Statement (Instr.nopShort f) := rfl
theorem emset (f : Fields) : Statement (Instr.emset f) := fun _ => rfl
theorem emget (f : Fields) : Statement (Instr.emget f) := fun _ => rfl
theorem fmov (f : Fields) : Statement (Instr.fmov f) := fun _ => rfl
theorem fmovShort (f : ShortFields) : Statement (Instr.fmovShort f) := rfl
theorem fadd (f : Fields) : Statement (Instr.fadd f) := fun _ => rfl
theorem faddShort (f : ShortFields) : Statement (Instr.faddShort f) := rfl
theorem fsub (f : Fields) : Statement (Instr.fsub f) := fun _ => rfl
theorem fsubShort (f : ShortFields) : Statement (Instr.fsubShort f) := rfl
theorem fmul (f : Fields) : Statement (Instr.fmul f) := fun _ => rfl
theorem fmulShort (f : ShortFields) : Statement (Instr.fmulShort f) := rfl
theorem ffma (f : Fields) : Statement (Instr.ffma f) := fun _ => rfl
theorem fdiv (f : Fields) : Statement (Instr.fdiv f) := fun _ => rfl
theorem fsqrt (f : Fields) : Statement (Instr.fsqrt f) := fun _ => rfl
theorem fmin (f : Fields) : Statement (Instr.fmin f) := fun _ => rfl
theorem fminShort (f : ShortFields) : Statement (Instr.fminShort f) := rfl
theorem fmax (f : Fields) : Statement (Instr.fmax f) := fun _ => rfl
theorem fmaxShort (f : ShortFields) : Statement (Instr.fmaxShort f) := rfl
theorem fabs (f : Fields) : Statement (Instr.fabs f) := fun _ => rfl
theorem fabsShort (f : ShortFields) : Statement (Instr.fabsShort f) := rfl
theorem fneg (f : Fields) : Statement (Instr.fneg f) := fun _ => rfl
theorem fnegShort (f : ShortFields) : Statement (Instr.fnegShort f) := rfl
theorem fcmp (f : Fields) : Statement (Instr.fcmp f) := fun _ => rfl
theorem fclass (f : Fields) : Statement (Instr.fclass f) := fun _ => rfl
theorem frnd (f : Fields) : Statement (Instr.frnd f) := fun _ => rfl
theorem fscale (f : Fields) : Statement (Instr.fscale f) := fun _ => rfl
theorem fexp2 (f : Fields) : Statement (Instr.fexp2 f) := fun _ => rfl
theorem flog2 (f : Fields) : Statement (Instr.flog2 f) := fun _ => rfl
theorem frcpa (f : Fields) : Statement (Instr.frcpa f) := fun _ => rfl
theorem fmovIv (f : Fields) : Statement (Instr.fmovIv f) := fun _ => rfl
theorem faddIv (f : Fields) : Statement (Instr.faddIv f) := fun _ => rfl
theorem fsubIv (f : Fields) : Statement (Instr.fsubIv f) := fun _ => rfl
theorem fmulIv (f : Fields) : Statement (Instr.fmulIv f) := fun _ => rfl
theorem ffmaIv (f : Fields) : Statement (Instr.ffmaIv f) := fun _ => rfl
theorem fdivIv (f : Fields) : Statement (Instr.fdivIv f) := fun _ => rfl
theorem fsqrtIv (f : Fields) : Statement (Instr.fsqrtIv f) := fun _ => rfl
theorem fminIv (f : Fields) : Statement (Instr.fminIv f) := fun _ => rfl
theorem fmaxIv (f : Fields) : Statement (Instr.fmaxIv f) := fun _ => rfl
theorem fabsIv (f : Fields) : Statement (Instr.fabsIv f) := fun _ => rfl
theorem fnegIv (f : Fields) : Statement (Instr.fnegIv f) := fun _ => rfl
theorem fcmpIv (f : Fields) : Statement (Instr.fcmpIv f) := fun _ => rfl
theorem ivmk (f : Fields) : Statement (Instr.ivmk f) := fun _ => rfl
theorem ivlo (f : Fields) : Statement (Instr.ivlo f) := fun _ => rfl
theorem ivhi (f : Fields) : Statement (Instr.ivhi f) := fun _ => rfl
theorem ivmid (f : Fields) : Statement (Instr.ivmid f) := fun _ => rfl
theorem ivwid (f : Fields) : Statement (Instr.ivwid f) := fun _ => rfl
theorem ivhull (f : Fields) : Statement (Instr.ivhull f) := fun _ => rfl
theorem ivmeet (f : Fields) : Statement (Instr.ivmeet f) := fun _ => rfl
theorem ivin (f : Fields) : Statement (Instr.ivin f) := fun _ => rfl
theorem ivsplit (f : Fields) : Statement (Instr.ivsplit f) := fun _ => rfl
theorem ivchk (f : Fields) : Statement (Instr.ivchk f) := fun _ => rfl
theorem bisect (f : Fields) : Statement (Instr.bisect f) := fun _ => rfl
theorem cvt (f : Fields) : Statement (Instr.cvt f) := fun _ => rfl
theorem bxpk (f : Fields) : Statement (Instr.bxpk f) := fun _ => rfl
theorem bxupk (f : Fields) : Statement (Instr.bxupk f) := fun _ => rfl
theorem ldt (f : Fields) : Statement (Instr.ldt f) := fun _ => rfl
theorem stt (f : Fields) : Statement (Instr.stt f) := fun _ => rfl
theorem ldu (f : Fields) : Statement (Instr.ldu f) := fun _ => rfl
theorem stu (f : Fields) : Statement (Instr.stu f) := fun _ => rfl
theorem line (f : Fields) : Statement (Instr.line f) := fun _ => rfl
theorem shfx (f : Fields) : Statement (Instr.shfx f) := fun _ => rfl
theorem gath (f : Fields) : Statement (Instr.gath f) := fun _ => rfl
theorem scat (f : Fields) : Statement (Instr.scat f) := fun _ => rfl
theorem rebal (f : Fields) : Statement (Instr.rebal f) := fun _ => rfl
theorem pref (f : Fields) : Statement (Instr.pref f) := fun _ => rfl
theorem cflush (f : Fields) : Statement (Instr.cflush f) := fun _ => rfl
theorem cinv (f : Fields) : Statement (Instr.cinv f) := fun _ => rfl
theorem tdset (f : Fields) : Statement (Instr.tdset f) := fun _ => rfl
theorem tdget (f : Fields) : Statement (Instr.tdget f) := fun _ => rfl
theorem tdinv (f : Fields) : Statement (Instr.tdinv f) := fun _ => rfl
theorem atomAdd (f : Fields) : Statement (Instr.atomAdd f) := fun _ => rfl
theorem atomMin (f : Fields) : Statement (Instr.atomMin f) := fun _ => rfl
theorem atomMax (f : Fields) : Statement (Instr.atomMax f) := fun _ => rfl
theorem atomAnd (f : Fields) : Statement (Instr.atomAnd f) := fun _ => rfl
theorem atomOr (f : Fields) : Statement (Instr.atomOr f) := fun _ => rfl
theorem atomXor (f : Fields) : Statement (Instr.atomXor f) := fun _ => rfl
theorem atomExch (f : Fields) : Statement (Instr.atomExch f) := fun _ => rfl
theorem acas (f : Fields) : Statement (Instr.acas f) := fun _ => rfl
theorem fence (f : Fields) : Statement (Instr.fence f) := fun _ => rfl
theorem wait (f : Fields) : Statement (Instr.wait f) := fun _ => rfl
theorem mlds (f : Fields) : Statement (Instr.mlds f) := fun _ => rfl
theorem mswap (f : Fields) : Statement (Instr.mswap f) := fun _ => rfl
theorem mswapShort (f : ShortFields) : Statement (Instr.mswapShort f) := rfl
theorem maccz (f : Fields) : Statement (Instr.maccz f) := fun _ => rfl
theorem macc (f : Fields) : Statement (Instr.macc f) := fun _ => rfl
theorem mdrn (f : Fields) : Statement (Instr.mdrn f) := fun _ => rfl
theorem msto (f : Fields) : Statement (Instr.msto f) := fun _ => rfl
theorem mrd (f : Fields) : Statement (Instr.mrd f) := fun _ => rfl
theorem mfence (f : Fields) : Statement (Instr.mfence f) := fun _ => rfl
theorem mfenceShort (f : ShortFields) : Statement (Instr.mfenceShort f) := rfl
theorem mrel (f : Fields) : Statement (Instr.mrel f) := fun _ => rfl
theorem vacczSign (f : Fields) : Statement (Instr.vacczSign f) := fun _ => rfl
theorem vacczGt (f : Fields) : Statement (Instr.vacczGt f) := fun _ => rfl
theorem vacczTopk (f : Fields) : Statement (Instr.vacczTopk f) := fun _ => rfl
theorem vaccSign (f : Fields) : Statement (Instr.vaccSign f) := fun _ => rfl
theorem vaccGt (f : Fields) : Statement (Instr.vaccGt f) := fun _ => rfl
theorem vaccTopk (f : Fields) : Statement (Instr.vaccTopk f) := fun _ => rfl
theorem vtest (f : Fields) : Statement (Instr.vtest f) := fun _ => rfl
theorem tkins (f : Fields) : Statement (Instr.tkins f) := fun _ => rfl
theorem cpy (f : Fields) : Statement (Instr.cpy f) := fun _ => rfl
theorem cpym (f : Fields) : Statement (Instr.cpym f) := fun _ => rfl
theorem binit (f : Fields) : Statement (Instr.binit f) := fun _ => rfl
theorem bexp (f : Fields) : Statement (Instr.bexp f) := fun _ => rfl
theorem barv (f : Fields) : Statement (Instr.barv f) := fun _ => rfl
theorem bwait (f : Fields) : Statement (Instr.bwait f) := fun _ => rfl
theorem btry (f : Fields) : Statement (Instr.btry f) := fun _ => rfl
theorem rresInit (f : Fields) : Statement (Instr.rresInit f) := by
  intro h
  simp_all [wfSplit, fullOf, fullOfA]
theorem rres (f : Fields) : Statement (Instr.rres f) := by
  intro h
  simp_all [wfSplit, fullOf, fullOfA]
theorem rcmt (f : Fields) : Statement (Instr.rcmt f) := fun _ => rfl
theorem racq (f : Fields) : Statement (Instr.racq f) := fun _ => rfl
theorem rrel (f : Fields) : Statement (Instr.rrel f) := fun _ => rfl
theorem gbar (f : Fields) : Statement (Instr.gbar f) := fun _ => rfl
theorem gbarShort (f : ShortFields) : Statement (Instr.gbarShort f) := rfl
theorem emit (f : Fields) : Statement (Instr.emit f) := fun _ => rfl
theorem emith (f : Fields) : Statement (Instr.emith f) := fun _ => rfl
theorem emitr (f : Fields) : Statement (Instr.emitr f) := fun _ => rfl
theorem jinit (f : Fields) : Statement (Instr.jinit f) := fun _ => rfl
theorem jarr (f : Fields) : Statement (Instr.jarr f) := fun _ => rfl
theorem fbm (f : Fields) : Statement (Instr.fbm f) := fun _ => rfl
theorem fbmShort (f : ShortFields) : Statement (Instr.fbmShort f) := rfl
theorem trap (f : Fields) : Statement (Instr.trap f) := fun _ => rfl
theorem trapShort (f : ShortFields) : Statement (Instr.trapShort f) := rfl
theorem tret (f : Fields) : Statement (Instr.tret f) := fun _ => rfl
theorem tretShort (f : ShortFields) : Statement (Instr.tretShort f) := rfl
theorem rdsr (f : Fields) : Statement (Instr.rdsr f) := fun _ => rfl
theorem wrsr (f : Fields) : Statement (Instr.wrsr f) := fun _ => rfl
theorem plate (f : Fields) : Statement (Instr.plate f) := fun _ => rfl
theorem plateShort (f : ShortFields) : Statement (Instr.plateShort f) := rfl
theorem brk (f : Fields) : Statement (Instr.brk f) := fun _ => rfl
theorem brkShort (f : ShortFields) : Statement (Instr.brkShort f) := rfl
theorem rcvTimeout (slot : Nat) : Statement (Instr.rcvTimeout slot) := rfl
theorem loadComplete (slot : Nat) : Statement (Instr.loadComplete slot) := rfl
theorem storeComplete (slot : Nat) : Statement (Instr.storeComplete slot) := rfl
theorem matrixOpComplete (bay slot : Nat) : Statement (Instr.matrixOpComplete bay slot) := rfl
theorem markOverdueCount (slot : Nat) : Statement (Instr.markOverdueCount slot) := rfl
theorem markOverdueHeld (slot : Nat) : Statement (Instr.markOverdueHeld slot) := rfl
theorem copyComplete (copy : Nat) : Statement (Instr.copyComplete copy) := rfl
theorem copyFault (copy : Nat) (why : CopyFailure) (source : Bool) : Statement (Instr.copyFault copy why source) := rfl
theorem barrierRootArrival : Statement (Instr.barrierRootArrival) := rfl
theorem barrierBroadcast (cell : Nat) : Statement (Instr.barrierBroadcast cell) := rfl
theorem barrierOverrun (slot : Nat) : Statement (Instr.barrierOverrun slot) := rfl
theorem doorbell (vf q : Nat) (w : BitVec 32) : Statement (Instr.doorbell vf q w) := rfl
theorem launchStart (vf : Nat) : Statement (Instr.launchStart vf) := rfl
theorem entryEnqueue (vf lslot : Nat) : Statement (Instr.entryEnqueue vf lslot) := rfl
theorem launchCompletion (vf lslot : Nat) : Statement (Instr.launchCompletion vf lslot) := rfl
theorem workgroupGather (vf lslot node stack cell : Nat) : Statement (Instr.workgroupGather vf lslot node stack cell) := rfl
theorem flushTimeout (vf lslot node stack cell : Nat) : Statement (Instr.flushTimeout vf lslot node stack cell) := rfl
theorem shadowPrefetchComplete (wg : Nat) : Statement (Instr.shadowPrefetchComplete wg) := rfl
theorem workgroupLaunch (wg : Nat) (slots : List Nat) : Statement (Instr.workgroupLaunch wg slots) := rfl
theorem governorReassign (cell vf lslot node : Nat) : Statement (Instr.governorReassign cell vf lslot node) := rfl
theorem emissionReplace (slot : Nat) : Statement (Instr.emissionReplace slot) := rfl
theorem workgroupEnd (wg : Nat) : Statement (Instr.workgroupEnd wg) := rfl
theorem remoteRecordArrival (link source tag : Nat) (words : List (BitVec 64)) : Statement (Instr.remoteRecordArrival link source tag words) := rfl
theorem inboxTransfer (vf lslot index : Nat) : Statement (Instr.inboxTransfer vf lslot index) := rfl
theorem remoteAck (vf lslot chip : Nat) (accepted : Bool) : Statement (Instr.remoteAck vf lslot chip accepted) := rfl
theorem remoteAccessArrival (acc : RemoteAccess) : Statement (Instr.remoteAccessArrival acc) := rfl
theorem uetWriteArrival (port tenant va : Nat) (bytes : List (BitVec 8)) : Statement (Instr.uetWriteArrival port tenant va bytes) := rfl
theorem translationWalk (miss : Nat) : Statement (Instr.translationWalk miss) := rfl
theorem walkComplete (miss : Nat) : Statement (Instr.walkComplete miss) := rfl
theorem prreply (value : BitVec 64) : Statement (Instr.prreply value) := rfl
theorem atsCompletion (vf page : Nat) (answer : AtsAnswer) : Statement (Instr.atsCompletion vf page answer) := rfl
theorem atsInvalidateRequest (vf page count : Nat) : Statement (Instr.atsInvalidateRequest vf page count) := rfl
theorem priResponse (vf page : Nat) (success : Bool) : Statement (Instr.priResponse vf page success) := rfl
theorem tlbinvStage1Range (vf : Nat) (physical : Bool) (page count : Nat) : Statement (Instr.tlbinvStage1Range vf physical page count) := rfl
theorem tlbinvStage1All (vf : Nat) (physical : Bool) : Statement (Instr.tlbinvStage1All vf physical) := rfl
theorem tlbinvStage2Range (vf : Nat) (physical : Bool) (page count : Nat) : Statement (Instr.tlbinvStage2Range vf physical page count) := rfl
theorem tlbinvAll (vf : Nat) (physical : Bool) : Statement (Instr.tlbinvAll vf physical) := rfl
theorem tlbinvComplete (vf : Nat) : Statement (Instr.tlbinvComplete vf) := rfl
theorem s1rootWrite (vf : Nat) (value : BitVec 64) : Statement (Instr.s1rootWrite vf value) := rfl
theorem s2rootWrite (vf : Nat) (value : BitVec 64) : Statement (Instr.s2rootWrite vf value) := rfl
theorem prqbaseWrite (vf : Nat) (value : BitVec 64) : Statement (Instr.prqbaseWrite vf value) := rfl
theorem partcmdDefine (part : Nat) : Statement (Instr.partcmdDefine part) := rfl
theorem partcmdDelete (part : Nat) : Statement (Instr.partcmdDelete part) := rfl
theorem cellresWrite (cell : Nat) (value : BitVec 64) : Statement (Instr.cellresWrite cell value) := rfl
theorem bktProfileWrite (vf kind : Nat) (value : BitVec 64) : Statement (Instr.bktProfileWrite vf kind value) := rfl
theorem policyWrite (vf : Nat) (value : BitVec 64) : Statement (Instr.policyWrite vf value) := rfl
theorem qassignWrite (vf q : Nat) (value : BitVec 64) : Statement (Instr.qassignWrite vf q value) := rfl
theorem bucketAccrual : Statement (Instr.bucketAccrual) := rfl
theorem arbitrationRound (kind unit : Nat) (requests : List BucketRequest) : Statement (Instr.arbitrationRound kind unit requests) := rfl
theorem cellReclaim (cell : Nat) : Statement (Instr.cellReclaim cell) := rfl
theorem sliceExpiry (wg : Nat) : Statement (Instr.sliceExpiry wg) := rfl
theorem preemptVf (vf : Nat) : Statement (Instr.preemptVf vf) := rfl
theorem preemptPartition (part : Nat) : Statement (Instr.preemptPartition part) := rfl
theorem saveComplete (wg : Nat) : Statement (Instr.saveComplete wg) := rfl
theorem workgroupResume (wg cell : Nat) (slots : List Nat) : Statement (Instr.workgroupResume wg cell slots) := rfl
theorem hangRuntime (vf lslot : Nat) : Statement (Instr.hangRuntime vf lslot) := rfl
theorem hangUnitTimeout (part : Nat) : Statement (Instr.hangUnitTimeout part) := rfl
theorem linkFailure (link : Nat) : Statement (Instr.linkFailure link) := rfl
theorem sramUncorrectable (part : Option Nat) (die detail : Nat) : Statement (Instr.sramUncorrectable part die detail) := rfl
theorem softErrorCorrected (die kind : Nat) : Statement (Instr.softErrorCorrected die kind) := rfl
theorem l2LineRepair (line : Nat) : Statement (Instr.l2LineRepair line) := rfl
theorem linePoison (line : Nat) : Statement (Instr.linePoison line) := rfl
theorem thermalTrip : Statement (Instr.thermalTrip) := rfl
theorem throttleChange (report : SensorReport) : Statement (Instr.throttleChange report) := rfl
theorem watchEventWrite : Statement (Instr.watchEventWrite) := rfl
theorem weqstatClear (vf : Nat) : Statement (Instr.weqstatClear vf) := rfl
theorem plateFire : Statement (Instr.plateFire) := rfl
theorem qringEnable (vf q : Nat) (value : BitVec 64) : Statement (Instr.qringEnable vf q value) := rfl
theorem qringDisable (vf q : Nat) (value : BitVec 64) : Statement (Instr.qringDisable vf q value) := rfl
theorem queueResume (vf q : Nat) : Statement (Instr.queueResume vf q) := rfl
theorem eventSet (vf word : Nat) (mask : BitVec 64) : Statement (Instr.eventSet vf word mask) := rfl
theorem eventClear (vf word : Nat) (mask : BitVec 64) : Statement (Instr.eventClear vf word mask) := rfl
theorem drainEnter (scope : DrainScope) (target : Nat) : Statement (Instr.drainEnter scope target) := rfl
theorem drainReturn (scope : DrainScope) (target : Nat) : Statement (Instr.drainReturn scope target) := rfl
theorem drainComplete (scope : DrainScope) (target : Nat) : Statement (Instr.drainComplete scope target) := rfl
theorem bar2Access (vf addr size : Nat) (op : BarOp) : Statement (Instr.bar2Access vf addr size op) := rfl
theorem pfBar2Access (addr size : Nat) (op : BarOp) : Statement (Instr.pfBar2Access addr size op) := rfl
theorem surveyRefresh (page : Nat) : Statement (Instr.surveyRefresh page) := rfl
theorem linkStateChange (link : Nat) (state : LinkState) (peer : Nat) : Statement (Instr.linkStateChange link state peer) := rfl
theorem spdmRequest (function block : Nat) : Statement (Instr.spdmRequest function block) := rfl
theorem manifestUpdate (manifest : Manifest) : Statement (Instr.manifestUpdate manifest) := rfl
theorem coldReset : Statement (Instr.coldReset) := rfl
theorem stackGroupReady (stack : Nat) : Statement (Instr.stackGroupReady stack) := rfl
theorem registerWrite (function : Option Nat) (offset : Nat) (value : BitVec 64) : Statement (Instr.registerWrite function offset value) := rfl
theorem brkRelease (slot : Nat) : Statement (Instr.brkRelease slot) := rfl
theorem thermalTripRelease : Statement (Instr.thermalTripRelease) := rfl

end Sys2Proof.Laws.Encodable
end

