-- ==== Sys2Proof/Tests/Slice0.lean ====
section
/-! SUPPORT. Tests: words written out from the spec's encodings, ill-formed terms that WellFormed refuses, the spec's worked
examples run for one step, and for every statement with hypotheses a state and operands that meet them. -/

namespace Sys2Proof.Tests

open Sys2Proof.Machine Sys2Proof.Claims

/-! ## Small states -/

/-- The eight words of a descriptor, from its number. -/
def descWords (x : Nat) : List Word := (List.range 8).map fun i => BitVec.ofNat 64 (x >>> (64 * i))

/-- The number of a valid descriptor of rank 1 (R179): base, space, type code, extent. -/
def vector (base space ty extent : Nat) : Nat :=
  base + space * 2 ^ 57 + ty * 2 ^ 60 + 2 ^ 65 + 2 ^ 71 + extent * 2 ^ 128

/-- A gang of threads 0 and 2: v1 is 1 in thread 0 and 63 in thread 2, v2 is 64 in thread 0. -/
def gang : Gang := { Gang.launched 0 0 0 0 loadBase loadBase 5 with regs := [(1, 1), (2, 64), (1024 * 2 + 1, 63)] }

/-- A loaded program whose gang is `g`. -/
def world (g : Gang) : State := setGang (loaded State.reset) 0 g

/-- A long-form instruction: type, guard, D, A, B, C, immediate. -/
def fields (typ : BitVec 5) (grd : BitVec 5) (d a b c : BitVec 10) (imm : BitVec 31) : Fields :=
  ⟨.long, typ, 0, grd, d, a, b, c, imm⟩

/-- The current gang of a world is ready for what no hazard stops. -/
theorem ready_in (opc : Nat) (f : Fields) (g : Gang) (h : hazard (world g) g opc f = none := by decide)
    (hr : rankAt (world g) (world g).cur g opc f = .known := by decide) : Ready opc f (world g) g := ⟨rfl, hr, h⟩

/-- Nothing is pending in `world gang`. -/
theorem ready_gang (opc : Nat) (f : Fields) (h : hazard (world gang) gang opc f = none := by decide)
    (hr : rankAt (world gang) (world gang).cur gang opc f = .known := by decide) : Ready opc f (world gang) gang :=
  ready_in opc f gang h hr

/-- Whether every participating thread holds a proper interval in each source, or an empty one where the source takes it. -/
def goodIvs (f : Fields) (srcs : List (BitVec 10 × Bool)) (s : State) (g : Gang) : Bool :=
  (List.range 32).all fun t => !takesPart g f t || srcs.all fun x =>
    let c := (fmt f).classIv (readIv s s.cur g (tyOf f) t x.1)
    c == .proper || (x.2 && c == .empty)

theorem good_intervals (f : Fields) (srcs : List (BitVec 10 × Bool)) (s : State) (g : Gang) (h : goodIvs f srcs s g = true) :
    GoodIntervals f srcs s g := by
  intro t ht hp x hx
  have h1 := List.all_eq_true.1 h t (List.mem_range.2 ht)
  simp only [hp, Bool.not_true, Bool.false_or] at h1
  simpa using List.all_eq_true.1 h1 x hx

/-- Whether each word, with the bits the table gives the form, decodes to the instruction beside it. -/
def decodesTo (nbits : Nat) (l : List (Nat × Instr)) : Bool := l.all fun r => decodeTableWord nbits r.1 == some r.2

/-- Class 0x0 (R93, R97, R106 to R110). -/
theorem test_decode_uniform_integer_a : decodesTo 96
    [(0x00041D8260C0000000000003, .smov ⟨.long, 2, 0, 14, 0x304, 0x306, 0x0, 0x0, 0x0⟩),
     (0x00441D820000000100000017, .smovi ⟨.long, 2, 0, 14, 0x304, 0x0, 0x0, 0x0, 0x40000005⟩),
     (0x00841D8260C0000100000017, .sadd ⟨.long, 2, 0, 14, 0x304, 0x306, 0x0, 0x0, 0x40000005⟩),
     (0x00C41D8260C0000100000017, .ssub ⟨.long, 2, 0, 14, 0x304, 0x306, 0x0, 0x0, 0x40000005⟩),
     (0x01041D8260C0000100000017, .smul ⟨.long, 2, 0, 14, 0x304, 0x306, 0x0, 0x0, 0x40000005⟩),
     (0x01441D8260C0000100000017, .smulh ⟨.long, 2, 0, 14, 0x304, 0x306, 0x0, 0x0, 0x40000005⟩),
     (0x01841D8260C0000100000017, .sdiv ⟨.long, 2, 0, 14, 0x304, 0x306, 0x0, 0x0, 0x40000005⟩),
     (0x01C41D8260C0000100000017, .srem ⟨.long, 2, 0, 14, 0x304, 0x306, 0x0, 0x0, 0x40000005⟩),
     (0x02041D8260C0000100000017, .sand ⟨.long, 2, 0, 14, 0x304, 0x306, 0x0, 0x0, 0x40000005⟩),
     (0x02441D8260C0000100000017, .sor ⟨.long, 2, 0, 14, 0x304, 0x306, 0x0, 0x0, 0x40000005⟩),
     (0x02841D8260C0000100000017, .sxor ⟨.long, 2, 0, 14, 0x304, 0x306, 0x0, 0x0, 0x40000005⟩)] = true := by decide

/-- Class 0x0 (R93, R97, R106 to R110). -/
theorem test_decode_uniform_integer_b : decodesTo 96
    [(0x02C41D8260C0000000000003, .snot ⟨.long, 2, 0, 14, 0x304, 0x306, 0x0, 0x0, 0x0⟩),
     (0x03041D8260C0000100000017, .sshl ⟨.long, 2, 0, 14, 0x304, 0x306, 0x0, 0x0, 0x40000005⟩),
     (0x03441D8260C0000100000017, .sshr ⟨.long, 2, 0, 14, 0x304, 0x306, 0x0, 0x0, 0x40000005⟩),
     (0x03841D8260C0000100000017, .ssar ⟨.long, 2, 0, 14, 0x304, 0x306, 0x0, 0x0, 0x40000005⟩),
     (0x03C41D8260C0000100000017, .smin ⟨.long, 2, 0, 14, 0x304, 0x306, 0x0, 0x0, 0x40000005⟩),
     (0x04041D8260C0000100000017, .smax ⟨.long, 2, 0, 14, 0x304, 0x306, 0x0, 0x0, 0x40000005⟩),
     (0x04441C0560DA100000000017, .scmp ⟨.long, 2, 0, 14, 0xA, 0x306, 0x342, 0x0, 0x5⟩),
     (0x04841D8260DA103400000003, .ssel ⟨.long, 2, 0, 14, 0x304, 0x306, 0x342, 0x1A, 0x0⟩),
     (0x04C41D8260C0000000000003, .sclz ⟨.long, 2, 0, 14, 0x304, 0x306, 0x0, 0x0, 0x0⟩),
     (0x05041D8260C0000000000003, .spopc ⟨.long, 2, 0, 14, 0x304, 0x306, 0x0, 0x0, 0x0⟩),
     (0x05441D8260C0000000000C23, .sbfx ⟨.long, 2, 0, 14, 0x304, 0x306, 0x0, 0x0, 0x308⟩),
     (0x05841D8260DA100000000C23, .sbfi ⟨.long, 2, 0, 14, 0x304, 0x306, 0x342, 0x0, 0x308⟩)] = true := by decide

/-- Class 0x1 (R93, R97, R106 to R110). -/
theorem test_decode_lane_integer_a : decodesTo 96
    [(0x10041C0200C0000000000003, .imov ⟨.long, 2, 0, 14, 0x4, 0x6, 0x0, 0x0, 0x0⟩),
     (0x10441C020000000100000017, .imovi ⟨.long, 2, 0, 14, 0x4, 0x0, 0x0, 0x0, 0x40000005⟩),
     (0x10841C0200C0000100000017, .iadd ⟨.long, 2, 0, 14, 0x4, 0x6, 0x0, 0x0, 0x40000005⟩),
     (0x10C41C0200C0000100000017, .isub ⟨.long, 2, 0, 14, 0x4, 0x6, 0x0, 0x0, 0x40000005⟩),
     (0x11041C0200C0000100000017, .imul ⟨.long, 2, 0, 14, 0x4, 0x6, 0x0, 0x0, 0x40000005⟩),
     (0x11441C0200C0000100000017, .imulh ⟨.long, 2, 0, 14, 0x4, 0x6, 0x0, 0x0, 0x40000005⟩),
     (0x11841C0200C0000100000017, .idiv ⟨.long, 2, 0, 14, 0x4, 0x6, 0x0, 0x0, 0x40000005⟩),
     (0x11C41C0200C0000100000017, .irem ⟨.long, 2, 0, 14, 0x4, 0x6, 0x0, 0x0, 0x40000005⟩),
     (0x12041C0200C0000100000017, .iand ⟨.long, 2, 0, 14, 0x4, 0x6, 0x0, 0x0, 0x40000005⟩),
     (0x12441C0200C0000100000017, .ior ⟨.long, 2, 0, 14, 0x4, 0x6, 0x0, 0x0, 0x40000005⟩),
     (0x12841C0200C0000100000017, .ixor ⟨.long, 2, 0, 14, 0x4, 0x6, 0x0, 0x0, 0x40000005⟩),
     (0x12C41C0200C0000000000003, .inot ⟨.long, 2, 0, 14, 0x4, 0x6, 0x0, 0x0, 0x0⟩),
     (0x13041C0200C0000100000017, .ishl ⟨.long, 2, 0, 14, 0x4, 0x6, 0x0, 0x0, 0x40000005⟩),
     (0x13441C0200C0000100000017, .ishr ⟨.long, 2, 0, 14, 0x4, 0x6, 0x0, 0x0, 0x40000005⟩)] = true := by decide

/-- Class 0x1 (R93, R97, R106 to R110). -/
theorem test_decode_lane_integer_b : decodesTo 96
    [(0x13841C0200C0000100000017, .isar ⟨.long, 2, 0, 14, 0x4, 0x6, 0x0, 0x0, 0x40000005⟩),
     (0x13C41C0200C0000100000017, .imin ⟨.long, 2, 0, 14, 0x4, 0x6, 0x0, 0x0, 0x40000005⟩),
     (0x14041C0200C0000100000017, .imax ⟨.long, 2, 0, 14, 0x4, 0x6, 0x0, 0x0, 0x40000005⟩),
     (0x14441C0200C0400000000017, .icmp ⟨.long, 2, 0, 14, 0x4, 0x6, 0x8, 0x0, 0x5⟩),
     (0x14841C0200C0404200000003, .isel ⟨.long, 2, 0, 14, 0x4, 0x6, 0x8, 0x21, 0x0⟩),
     (0x14C41C0200C0000000000003, .iclz ⟨.long, 2, 0, 14, 0x4, 0x6, 0x0, 0x0, 0x0⟩),
     (0x15041C0200C0000000000003, .ipopc ⟨.long, 2, 0, 14, 0x4, 0x6, 0x0, 0x0, 0x0⟩),
     (0x15441C0200C0000000000C23, .ibfx ⟨.long, 2, 0, 14, 0x4, 0x6, 0x0, 0x0, 0x308⟩),
     (0x15841C0200C0400000000C23, .ibfi ⟨.long, 2, 0, 14, 0x4, 0x6, 0x8, 0x0, 0x308⟩),
     (0x15C41C0200C0404200000003, .imad ⟨.long, 2, 0, 14, 0x4, 0x6, 0x8, 0x21, 0x0⟩),
     (0x16041C0200C0000000000003, .iabs ⟨.long, 2, 0, 14, 0x4, 0x6, 0x0, 0x0, 0x0⟩),
     (0x16441C0200C0000000000003, .ineg ⟨.long, 2, 0, 14, 0x4, 0x6, 0x0, 0x0, 0x0⟩),
     (0x16841C0200C0000100000017, .irot ⟨.long, 2, 0, 14, 0x4, 0x6, 0x0, 0x0, 0x40000005⟩),
     (0x16D21D8200C000000000004B, .sfrom ⟨.long, 9, 0, 14, 0x304, 0x6, 0x0, 0x0, 0x12⟩)] = true := by decide

/-- Class 0x2 (R93, R97, R106 to R110). -/
theorem test_decode_predicate_control_a : decodesTo 96
    [(0x20001C020000000000000007, .pset ⟨.long, 0, 0, 14, 0x4, 0x0, 0x0, 0x0, 0x1⟩),
     (0x20401C0200C0000000000003, .pmov ⟨.long, 0, 0, 14, 0x4, 0x6, 0x0, 0x0, 0x0⟩),
     (0x20801C0200C0400000000003, .pand ⟨.long, 0, 0, 14, 0x4, 0x6, 0x8, 0x0, 0x0⟩),
     (0x20C01C0200C0400000000003, .por ⟨.long, 0, 0, 14, 0x4, 0x6, 0x8, 0x0, 0x0⟩),
     (0x21001C0200C0400000000003, .pxor ⟨.long, 0, 0, 14, 0x4, 0x6, 0x8, 0x0, 0x0⟩),
     (0x21401C0200C0000000000003, .pnot ⟨.long, 0, 0, 14, 0x4, 0x6, 0x0, 0x0, 0x0⟩),
     (0x21801C0200C0400000000003, .pdec ⟨.long, 0, 0, 14, 0x4, 0x6, 0x8, 0x0, 0x0⟩),
     (0x21CC1C0200C0000000000003, .ptoi ⟨.long, 6, 0, 14, 0x4, 0x6, 0x0, 0x0, 0x0⟩),
     (0x22001D8200C000000000000F, .vote ⟨.long, 0, 0, 14, 0x304, 0x6, 0x0, 0x0, 0x3⟩),
     (0x24001C000000000100000017, .bra ⟨.long, 0, 0, 14, 0x0, 0x0, 0x0, 0x0, 0x40000005⟩)] = true := by decide

/-- Class 0x2 (R93, R97, R106 to R110). -/
theorem test_decode_predicate_control_b : decodesTo 96
    [(0x24401C000000000100000017, .brv ⟨.long, 0, 0, 14, 0x0, 0x0, 0x0, 0x0, 0x40000005⟩),
     (0x24801C0060C0000000000003, .jmpi ⟨.long, 0, 0, 14, 0x0, 0x306, 0x0, 0x0, 0x0⟩),
     (0x24C01D820000000100000017, .call ⟨.long, 0, 0, 14, 0x304, 0x0, 0x0, 0x0, 0x40000005⟩),
     (0x25001C0060C0000000000003, .ret ⟨.long, 0, 0, 14, 0x0, 0x306, 0x0, 0x0, 0x0⟩),
     (0x25401D820000000100000017, .sloop ⟨.long, 0, 0, 14, 0x304, 0x0, 0x0, 0x0, 0x40000005⟩),
     (0x25800005000000000000C003, .rcv ⟨.long, 0, 0, 0, 0xA, 0x0, 0x0, 0x0, 0x3000⟩),
     (0x25C01C000000000000000003, .exit ⟨.long, 0, 0, 14, 0x0, 0x0, 0x0, 0x0, 0x0⟩),
     (0x26001C000000000000000003, .quit ⟨.long, 0, 0, 14, 0x0, 0x0, 0x0, 0x0, 0x0⟩),
     (0x264000000000000000000003, .nop ⟨.long, 0, 0, 0, 0x0, 0x0, 0x0, 0x0, 0x0⟩),
     (0x26801C0060C0000000000003, .emset ⟨.long, 0, 0, 14, 0x0, 0x306, 0x0, 0x0, 0x0⟩),
     (0x26C01D820000000000000003, .emget ⟨.long, 0, 0, 14, 0x304, 0x0, 0x0, 0x0, 0x0⟩)] = true := by decide

/-- Class 0x3 (R93, R97, R106 to R110). -/
theorem test_decode_float_a : decodesTo 96
    [(0x30161C0200C0000000000003, .fmov ⟨.long, 11, 0, 14, 0x4, 0x6, 0x0, 0x0, 0x0⟩),
     (0x30565C0200C0400000000003, .fadd ⟨.long, 11, 1, 14, 0x4, 0x6, 0x8, 0x0, 0x0⟩),
     (0x30965C0200C0400000000003, .fsub ⟨.long, 11, 1, 14, 0x4, 0x6, 0x8, 0x0, 0x0⟩),
     (0x30D65C0200C0400000000003, .fmul ⟨.long, 11, 1, 14, 0x4, 0x6, 0x8, 0x0, 0x0⟩),
     (0x31165C0200C0404200000003, .ffma ⟨.long, 11, 1, 14, 0x4, 0x6, 0x8, 0x21, 0x0⟩),
     (0x31565C0200C0400000000003, .fdiv ⟨.long, 11, 1, 14, 0x4, 0x6, 0x8, 0x0, 0x0⟩),
     (0x31965C0200C0000000000003, .fsqrt ⟨.long, 11, 1, 14, 0x4, 0x6, 0x0, 0x0, 0x0⟩),
     (0x31D61C0200C0400000000003, .fmin ⟨.long, 11, 0, 14, 0x4, 0x6, 0x8, 0x0, 0x0⟩),
     (0x32161C0200C0400000000003, .fmax ⟨.long, 11, 0, 14, 0x4, 0x6, 0x8, 0x0, 0x0⟩)] = true := by decide

/-- Class 0x3 (R93, R97, R106 to R110). -/
theorem test_decode_float_b : decodesTo 96
    [(0x32561C0200C0000000000003, .fabs ⟨.long, 11, 0, 14, 0x4, 0x6, 0x0, 0x0, 0x0⟩),
     (0x32961C0200C0000000000003, .fneg ⟨.long, 11, 0, 14, 0x4, 0x6, 0x0, 0x0, 0x0⟩),
     (0x32D61C0200C0400000000017, .fcmp ⟨.long, 11, 0, 14, 0x4, 0x6, 0x8, 0x0, 0x5⟩),
     (0x33161C0200C0000000000003, .fclass ⟨.long, 11, 0, 14, 0x4, 0x6, 0x0, 0x0, 0x0⟩),
     (0x33565C0200C0000000000003, .frnd ⟨.long, 11, 1, 14, 0x4, 0x6, 0x0, 0x0, 0x0⟩),
     (0x33965C0200C0400000000003, .fscale ⟨.long, 11, 1, 14, 0x4, 0x6, 0x8, 0x0, 0x0⟩),
     (0x33D65C0200C0000000000003, .fexp2 ⟨.long, 11, 1, 14, 0x4, 0x6, 0x0, 0x0, 0x0⟩),
     (0x34165C0200C0000000000003, .flog2 ⟨.long, 11, 1, 14, 0x4, 0x6, 0x0, 0x0, 0x0⟩),
     (0x34561C0200C0000000000003, .frcpa ⟨.long, 11, 0, 14, 0x4, 0x6, 0x0, 0x0, 0x0⟩)] = true := by decide

/-- Class 0x4 (R93, R97, R106 to R110). -/
theorem test_decode_interval_a : decodesTo 96
    [(0x40281C0200C0000000000003, .fmovIv ⟨.long, 20, 0, 14, 0x4, 0x6, 0x0, 0x0, 0x0⟩),
     (0x40681C0200C0400000000003, .faddIv ⟨.long, 20, 0, 14, 0x4, 0x6, 0x8, 0x0, 0x0⟩),
     (0x40A81C0200C0400000000003, .fsubIv ⟨.long, 20, 0, 14, 0x4, 0x6, 0x8, 0x0, 0x0⟩),
     (0x40E81C0200C0400000000003, .fmulIv ⟨.long, 20, 0, 14, 0x4, 0x6, 0x8, 0x0, 0x0⟩),
     (0x41281C0200C0402000000003, .ffmaIv ⟨.long, 20, 0, 14, 0x4, 0x6, 0x8, 0x10, 0x0⟩),
     (0x41681C0200C0400000000003, .fdivIv ⟨.long, 20, 0, 14, 0x4, 0x6, 0x8, 0x0, 0x0⟩),
     (0x41A81C0200C0000000000003, .fsqrtIv ⟨.long, 20, 0, 14, 0x4, 0x6, 0x0, 0x0, 0x0⟩),
     (0x41E81C0200C0400000000003, .fminIv ⟨.long, 20, 0, 14, 0x4, 0x6, 0x8, 0x0, 0x0⟩),
     (0x42281C0200C0400000000003, .fmaxIv ⟨.long, 20, 0, 14, 0x4, 0x6, 0x8, 0x0, 0x0⟩),
     (0x42681C0200C0000000000003, .fabsIv ⟨.long, 20, 0, 14, 0x4, 0x6, 0x0, 0x0, 0x0⟩),
     (0x42A81C0200C0000000000003, .fnegIv ⟨.long, 20, 0, 14, 0x4, 0x6, 0x0, 0x0, 0x0⟩)] = true := by decide

/-- Class 0x4 (R93, R97, R106 to R110). -/
theorem test_decode_interval_b : decodesTo 96
    [(0x42E81C0200C0400000000017, .fcmpIv ⟨.long, 20, 0, 14, 0x4, 0x6, 0x8, 0x0, 0x5⟩),
     (0x48281C0200C0400000000003, .ivmk ⟨.long, 20, 0, 14, 0x4, 0x6, 0x8, 0x0, 0x0⟩),
     (0x48681C0200C0000000000003, .ivlo ⟨.long, 20, 0, 14, 0x4, 0x6, 0x0, 0x0, 0x0⟩),
     (0x48A81C0200C0000000000003, .ivhi ⟨.long, 20, 0, 14, 0x4, 0x6, 0x0, 0x0, 0x0⟩),
     (0x48E81C0200C0000000000003, .ivmid ⟨.long, 20, 0, 14, 0x4, 0x6, 0x0, 0x0, 0x0⟩),
     (0x49281C0200C0000000000003, .ivwid ⟨.long, 20, 0, 14, 0x4, 0x6, 0x0, 0x0, 0x0⟩),
     (0x49681C0200C0400000000003, .ivhull ⟨.long, 20, 0, 14, 0x4, 0x6, 0x8, 0x0, 0x0⟩),
     (0x49A81C0200C0400600000007, .ivmeet ⟨.long, 20, 0, 14, 0x4, 0x6, 0x8, 0x3, 0x1⟩),
     (0x49E81C0200C0400000000003, .ivin ⟨.long, 20, 0, 14, 0x4, 0x6, 0x8, 0x0, 0x0⟩),
     (0x4A281C0200C0000000000003, .ivsplit ⟨.long, 20, 0, 14, 0x4, 0x6, 0x0, 0x0, 0x0⟩),
     (0x4A681C0200C0000000000003, .ivchk ⟨.long, 20, 0, 14, 0x4, 0x6, 0x0, 0x0, 0x0⟩),
     (0x4AA81C0000C04006000000A7, .bisect ⟨.long, 20, 0, 14, 0x0, 0x6, 0x8, 0x3, 0x29⟩)] = true := by decide

/-- Class 0x5 (R93, R97, R106 to R110). -/
theorem test_decode_conversion : decodesTo 96
    [(0x50045C0200C0000000000097, .cvt ⟨.long, 2, 1, 14, 0x4, 0x6, 0x0, 0x0, 0x25⟩),
     (0x50625C0200C0000000000003, .bxpk ⟨.long, 17, 1, 14, 0x4, 0x6, 0x0, 0x0, 0x0⟩),
     (0x50A21C0200C0000000000003, .bxupk ⟨.long, 17, 0, 14, 0x4, 0x6, 0x0, 0x0, 0x0⟩)] = true := by decide

/-- Class 0x6 (R93, R97, R106 to R110). -/
theorem test_decode_memory : decodesTo 96
    [(0x60045C0260C000000200A603, .ldt ⟨.long, 2, 1, 14, 0x4, 0x306, 0x0, 0x0, 0x802980⟩),
     (0x60445C0060C000420000C003, .stt ⟨.long, 2, 1, 14, 0x0, 0x306, 0x0, 0x21, 0x3000⟩),
     (0x60845D8260C000000200A603, .ldu ⟨.long, 2, 1, 14, 0x304, 0x306, 0x0, 0x0, 0x802980⟩),
     (0x60C45C0060C006040000C003, .stu ⟨.long, 2, 1, 14, 0x0, 0x306, 0x0, 0x302, 0x3000⟩),
     (0x61005C0260C000000200A603, .line ⟨.long, 0, 1, 14, 0x4, 0x306, 0x0, 0x0, 0x802980⟩),
     (0x61681C0200C00000000000A7, .shfx ⟨.long, 20, 0, 14, 0x4, 0x6, 0x0, 0x0, 0x29⟩),
     (0x61841C0260C040000290000F, .gath ⟨.long, 2, 0, 14, 0x4, 0x306, 0x8, 0x0, 0xA40003⟩),
     (0x61C41C0060C040420290000F, .scat ⟨.long, 2, 0, 14, 0x0, 0x306, 0x8, 0x21, 0xA40003⟩),
     (0x62101C0200D8400600000007, .rebal ⟨.long, 8, 0, 14, 0x4, 0x6, 0x308, 0x3, 0x1⟩),
     (0x62401C0060C0000100000017, .pref ⟨.long, 0, 0, 14, 0x0, 0x306, 0x0, 0x0, 0x40000005⟩),
     (0x62801C0060C0000100000017, .cflush ⟨.long, 0, 0, 14, 0x0, 0x306, 0x0, 0x0, 0x40000005⟩),
     (0x62C01C0060C0000100000017, .cinv ⟨.long, 0, 0, 14, 0x0, 0x306, 0x0, 0x0, 0x40000005⟩),
     (0x63001C0060C0000100000017, .tdset ⟨.long, 0, 0, 14, 0x0, 0x306, 0x0, 0x0, 0x40000005⟩),
     (0x63401D820000000100000017, .tdget ⟨.long, 0, 0, 14, 0x304, 0x0, 0x0, 0x0, 0x40000005⟩),
     (0x63801C000000000000000003, .tdinv ⟨.long, 0, 0, 14, 0x0, 0x0, 0x0, 0x0, 0x0⟩)] = true := by decide

/-- Class 0x7 (R93, R97, R106 to R110). -/
theorem test_decode_atomic : decodesTo 96
    [(0x70045C0260C000420000C003, .atomAdd ⟨.long, 2, 1, 14, 0x4, 0x306, 0x0, 0x21, 0x3000⟩),
     (0x70445C0260C000420000C003, .atomMin ⟨.long, 2, 1, 14, 0x4, 0x306, 0x0, 0x21, 0x3000⟩),
     (0x70845C0260C000420000C003, .atomMax ⟨.long, 2, 1, 14, 0x4, 0x306, 0x0, 0x21, 0x3000⟩),
     (0x70C45C0260C000420000C003, .atomAnd ⟨.long, 2, 1, 14, 0x4, 0x306, 0x0, 0x21, 0x3000⟩),
     (0x71045C0260C000420000C003, .atomOr ⟨.long, 2, 1, 14, 0x4, 0x306, 0x0, 0x21, 0x3000⟩),
     (0x71445C0260C000420000C003, .atomXor ⟨.long, 2, 1, 14, 0x4, 0x306, 0x0, 0x21, 0x3000⟩),
     (0x71845C0260C000420000C003, .atomExch ⟨.long, 2, 1, 14, 0x4, 0x306, 0x0, 0x21, 0x3000⟩),
     (0x74045C0260C000420000C003, .acas ⟨.long, 2, 1, 14, 0x4, 0x306, 0x0, 0x21, 0x3000⟩),
     (0x74405C00000000000000C003, .fence ⟨.long, 0, 1, 14, 0x0, 0x0, 0x0, 0x0, 0x3000⟩),
     (0x74801C00000000000290000F, .wait ⟨.long, 0, 0, 14, 0x0, 0x0, 0x0, 0x0, 0xA40003⟩)] = true := by decide

/-- Class 0x8 (R93, R97, R106 to R110). -/
theorem test_decode_matrix : decodesTo 96
    [(0x80161C0060C0000100000017, .mlds ⟨.long, 11, 0, 14, 0x0, 0x306, 0x0, 0x0, 0x40000005⟩),
     (0x80401C000000000000000003, .mswap ⟨.long, 0, 0, 14, 0x0, 0x0, 0x0, 0x0, 0x0⟩),
     (0x80961C01E0C0000100000017, .maccz ⟨.long, 11, 0, 14, 0x3, 0x306, 0x0, 0x0, 0x40000005⟩),
     (0x80D61C01E0C0000100000017, .macc ⟨.long, 11, 0, 14, 0x3, 0x306, 0x0, 0x0, 0x40000005⟩),
     (0x81165C02002000000000000F, .mdrn ⟨.long, 11, 1, 14, 0x4, 0x1, 0x0, 0x0, 0x3⟩),
     (0x81565C0060C0000700000017, .msto ⟨.long, 11, 1, 14, 0x0, 0x306, 0x0, 0x3, 0x40000005⟩),
     (0x81965C02002000000000004B, .mrd ⟨.long, 11, 1, 14, 0x4, 0x1, 0x0, 0x0, 0x12⟩),
     (0x81C01C000000000000000003, .mfence ⟨.long, 0, 0, 14, 0x0, 0x0, 0x0, 0x0, 0x0⟩),
     (0x82001C000020000000000003, .mrel ⟨.long, 0, 0, 14, 0x0, 0x1, 0x0, 0x0, 0x0⟩)] = true := by decide

/-- Class 0x9 (R93, R97, R106 to R110). -/
theorem test_decode_verdict : decodesTo 96
    [(0x90161C01E0C0000100000017, .vacczSign ⟨.long, 11, 0, 14, 0x3, 0x306, 0x0, 0x0, 0x40000005⟩),
     (0x90561C01E0C0060500000017, .vacczGt ⟨.long, 11, 0, 14, 0x3, 0x306, 0x0, 0x302, 0x40000005⟩),
     (0x90961C01E0C0004300000017, .vacczTopk ⟨.long, 11, 0, 14, 0x3, 0x306, 0x0, 0x21, 0x40000005⟩),
     (0x91161C01E0C0000100000017, .vaccSign ⟨.long, 11, 0, 14, 0x3, 0x306, 0x0, 0x0, 0x40000005⟩),
     (0x91561C01E0C0060500000017, .vaccGt ⟨.long, 11, 0, 14, 0x3, 0x306, 0x0, 0x302, 0x40000005⟩),
     (0x91961C01E0C0004300000017, .vaccTopk ⟨.long, 11, 0, 14, 0x3, 0x306, 0x0, 0x21, 0x40000005⟩),
     (0x92001C020020400000000003, .vtest ⟨.long, 0, 0, 14, 0x4, 0x1, 0x8, 0x0, 0x0⟩),
     (0x92561C0260C0004300000017, .tkins ⟨.long, 11, 0, 14, 0x4, 0x306, 0x0, 0x21, 0x40000005⟩)] = true := by decide

/-- Class 0xA (R93, R97, R106 to R110). -/
theorem test_decode_async : decodesTo 96
    [(0xA0001C0060D8400002900003, .cpy ⟨.long, 0, 0, 14, 0x0, 0x306, 0x308, 0x0, 0xA40000⟩),
     (0xA0401C0060D846040200A603, .cpym ⟨.long, 0, 0, 14, 0x0, 0x306, 0x308, 0x302, 0x802980⟩),
     (0xA0801C0060C0060500000017, .binit ⟨.long, 0, 0, 14, 0x0, 0x306, 0x0, 0x302, 0x40000005⟩),
     (0xA0C01C0060C0060500000017, .bexp ⟨.long, 0, 0, 14, 0x0, 0x306, 0x0, 0x302, 0x40000005⟩),
     (0xA1001C0260C0000100000017, .barv ⟨.long, 0, 0, 14, 0x4, 0x306, 0x0, 0x0, 0x40000005⟩),
     (0xA1401C0060C0060500000017, .bwait ⟨.long, 0, 0, 14, 0x0, 0x306, 0x0, 0x302, 0x40000005⟩),
     (0xA1801C0260C0060500000017, .btry ⟨.long, 0, 0, 14, 0x4, 0x306, 0x0, 0x302, 0x40000005⟩),
     (0xA1C01C0060C00000000000A7, .rresInit ⟨.long, 0, 0, 14, 0x0, 0x306, 0x0, 0x0, 0x29⟩),
     (0xA1C01C02000000060000004B, .rres ⟨.long, 0, 0, 14, 0x4, 0x0, 0x0, 0x3, 0x12⟩),
     (0xA2001C0000C0000000000027, .rcmt ⟨.long, 0, 0, 14, 0x0, 0x6, 0x0, 0x0, 0x9⟩),
     (0xA2401C02000000060000004B, .racq ⟨.long, 0, 0, 14, 0x4, 0x0, 0x0, 0x3, 0x12⟩),
     (0xA2801C0000C0000000000027, .rrel ⟨.long, 0, 0, 14, 0x0, 0x6, 0x0, 0x0, 0x9⟩),
     (0xA2C01C000000000000000007, .gbar ⟨.long, 0, 0, 14, 0x0, 0x0, 0x0, 0x0, 0x1⟩)] = true := by decide

/-- Class 0xB (R93, R97, R106 to R110). -/
theorem test_decode_record : decodesTo 96
    [(0xB0001C0000C0000000000003, .emit ⟨.long, 0, 0, 14, 0x0, 0x6, 0x0, 0x0, 0x0⟩),
     (0xB0401C0000C0400000000C23, .emith ⟨.long, 0, 0, 14, 0x0, 0x6, 0x8, 0x0, 0x308⟩),
     (0xB0801C0000C0400000000003, .emitr ⟨.long, 0, 0, 14, 0x0, 0x6, 0x8, 0x0, 0x0⟩),
     (0xB0C01C0200C0400000000003, .jinit ⟨.long, 0, 0, 14, 0x4, 0x6, 0x8, 0x0, 0x0⟩),
     (0xB1001C000000000000000003, .jarr ⟨.long, 0, 0, 14, 0x0, 0x0, 0x0, 0x0, 0x0⟩),
     (0xB140000000000000000000A7, .fbm ⟨.long, 0, 0, 0, 0x0, 0x0, 0x0, 0x0, 0x29⟩)] = true := by decide

/-- Class 0xC (R93, R97, R106 to R110). -/
theorem test_decode_system : decodesTo 96
    [(0xC0001C0060C0000000000027, .trap ⟨.long, 0, 0, 14, 0x0, 0x306, 0x0, 0x0, 0x9⟩),
     (0xC04000000000000000000003, .tret ⟨.long, 0, 0, 0, 0x0, 0x0, 0x0, 0x0, 0x0⟩),
     (0xC0801D820000000000000017, .rdsr ⟨.long, 0, 0, 14, 0x304, 0x0, 0x0, 0x0, 0x5⟩),
     (0xC0C01C0060C0000000000017, .wrsr ⟨.long, 0, 0, 14, 0x0, 0x306, 0x0, 0x0, 0x5⟩),
     (0xC1001C000000000000000003, .plate ⟨.long, 0, 0, 14, 0x0, 0x0, 0x0, 0x0, 0x0⟩),
     (0xC1401C0000000000000000A7, .brk ⟨.long, 0, 0, 14, 0x0, 0x0, 0x0, 0x0, 0x29⟩)] = true := by decide

/-- Short forms (R97, R108 to R110). -/
theorem test_decode_short_a : decodesTo 32
    [(0x00011880, .imovShort ⟨3, 1, 0, 0⟩), (0x24001882, .imoviShort ⟨3, 0, 0, 9⟩),
     (0x00411884, .iaddShort ⟨3, 1, 2, 0⟩), (0x00411886, .isubShort ⟨3, 1, 2, 0⟩),
     (0x00411888, .imulShort ⟨3, 1, 2, 0⟩), (0x00411890, .iandShort ⟨3, 1, 2, 0⟩),
     (0x00411892, .iorShort ⟨3, 1, 2, 0⟩), (0x00411894, .ixorShort ⟨3, 1, 2, 0⟩),
     (0x00011896, .inotShort ⟨3, 1, 0, 0⟩), (0x00411898, .ishlShort ⟨3, 1, 2, 0⟩),
     (0x0041189A, .ishrShort ⟨3, 1, 2, 0⟩), (0x0041189C, .isarShort ⟨3, 1, 2, 0⟩),
     (0x0041189E, .iminShort ⟨3, 1, 2, 0⟩), (0x004118A0, .imaxShort ⟨3, 1, 2, 0⟩),
     (0x000118A6, .iclzShort ⟨3, 1, 0, 0⟩), (0x000118A8, .ipopcShort ⟨3, 1, 0, 0⟩),
     (0x000118B0, .iabsShort ⟨3, 1, 0, 0⟩), (0x000118B2, .inegShort ⟨3, 1, 0, 0⟩)] = true := by decide

/-- Short forms (R97, R108 to R110). -/
theorem test_decode_short_b : decodesTo 32
    [(0xA4000120, .braShort ⟨0, 0, 0, 41⟩), (0xA400012C, .rcvShort ⟨0, 0, 0, 41⟩),
     (0x0000012E, .exitShort ⟨0, 0, 0, 0⟩), (0x00000130, .quitShort ⟨0, 0, 0, 0⟩),
     (0x00000132, .nopShort ⟨0, 0, 0, 0⟩), (0x00011980, .fmovShort ⟨3, 1, 0, 0⟩),
     (0x00411982, .faddShort ⟨3, 1, 2, 0⟩), (0x00411984, .fsubShort ⟨3, 1, 2, 0⟩),
     (0x00411986, .fmulShort ⟨3, 1, 2, 0⟩), (0x0041198E, .fminShort ⟨3, 1, 2, 0⟩),
     (0x00411990, .fmaxShort ⟨3, 1, 2, 0⟩), (0x00011992, .fabsShort ⟨3, 1, 0, 0⟩),
     (0x00011994, .fnegShort ⟨3, 1, 0, 0⟩), (0x00000402, .mswapShort ⟨0, 0, 0, 0⟩),
     (0x0000040E, .mfenceShort ⟨0, 0, 0, 0⟩), (0x04000516, .gbarShort ⟨0, 0, 0, 1⟩),
     (0xA400058A, .fbmShort ⟨0, 0, 0, 41⟩), (0x04000600, .trapShort ⟨0, 0, 0, 1⟩),
     (0x00000602, .tretShort ⟨0, 0, 0, 0⟩), (0x00000608, .plateShort ⟨0, 0, 0, 0⟩),
     (0xA400060A, .brkShort ⟨0, 0, 0, 41⟩)] = true := by decide

/-- Worked encodings of the spec, long forms (R97, R108, R109). -/
theorem test_decode_worked_long : decodesTo 96
    [(0x7480000000000000004FC817, .wait ⟨.long, 0, 0, 0, 0, 0, 0, 0, 0x13F205⟩),
     (0x7441C000000000000000C003, .fence ⟨.long, 0, 7, 0, 0, 0, 0, 0, 3 * 4096⟩),
     (0xA0000000605818000200A403, .cpy ⟨.long, 0, 0, 0, 0, 0x302, 0x303, 0, 0x802900⟩),
     (0x601600026040480003A00013, .ldt ⟨.long, 0xB, 0, 0, 4, 0x302, 9, 0, 0xE80004⟩)] = true := by decide

/-- Worked encodings of the spec, medium forms: arithmetic and control (R97, R108, R109). -/
theorem test_decode_worked_medium_a : decodesTo 64
    [(0x0003684C2294A311, .ffma ⟨.medium, 0xA, 0, 0b01010, 10, 0x101, 4, 0x303, 0⟩),
     (0x0A300000001E0245, .brv ⟨.medium, 0, 0, 0b01111, 0, 0, 0, 0, 5 * 2 ^ 15 + 12⟩),
     (0x00240100400144A9, .bisect ⟨.medium, 0x14, 0, 0, 0, 2, 16, 0, 9⟩),
     (0x00AC0000C140E501, .cvt ⟨.medium, 0xE, 0, 0, 5, 6, 0, 0, 0x2B⟩),
     (0x00000080C101440D, .fmulIv ⟨.medium, 0x14, 0, 0, 4, 6, 8, 0, 0⟩)] = true := by decide

/-- Worked encodings of the spec, medium forms: memory (R97, R108, R109). -/
theorem test_decode_worked_medium_b : decodesTo 64
    [(0x01D0009D8500B619, .gath ⟨.medium, 0xB, 0, 0, 20, 0x302, 9, 0, 7 * 2 ^ 21 + 2 * 2 ^ 18⟩),
     (0x01C8009D8500B619, .gath ⟨.medium, 0xB, 0, 0, 20, 0x302, 9, 0, 7 * 2 ^ 21 + 1 * 2 ^ 18⟩),
     (0x0180000DC7800611, .line ⟨.medium, 0, 0, 0, 30, 0x304, 0, 0, 6 * 2 ^ 21⟩),
     (0x00000093C1008615, .shfx ⟨.medium, 8, 0, 0, 4, 30, 9, 0, 0⟩),
     (0x0108101D40006605, .stt ⟨.medium, 6, 0, 0, 0, 0x300, 1, 2, 4 * 2 ^ 21 + 2 ^ 18⟩)] = true := by decide

/-- Worked encodings of the spec, medium forms: matrix, copies, records (R97, R108, R109). -/
theorem test_decode_worked_medium_c : decodesTo 64
    [(0x0110008D8040C80D, .macc ⟨.medium, 0xC, 0, 0, 1, 0x302, 8, 0, 0x880000⟩),
     (0x0110608D8000C919, .vaccTopk ⟨.medium, 0xC, 0, 0, 0, 0x302, 8, 12, 0x880000⟩),
     (0x00A0180100000B01, .emit ⟨.medium, 0, 0, 0, 0, 8, 0, 3, 0x28⟩),
     (0x0200000D41800A11, .barv ⟨.medium, 0, 0, 0, 6, 0x300, 0, 0, 8 * 2 ^ 21⟩)] = true := by decide

/-- Worked encodings of the spec, short forms (R97). -/
theorem test_decode_worked_short : decodesTo 32
    [(0x00411884, .iaddShort ⟨3, 1, 2, 0⟩), (0x00411982, .faddShort ⟨3, 1, 2, 0⟩), (0x0000040E, .mfenceShort ⟨0, 0, 0, 0⟩),
     (0x1400058A, .fbmShort ⟨0, 0, 0, 5⟩), (0x00000132, .nopShort ⟨0, 0, 0, 0⟩)] = true := by decide

/-- A short word whose opcode has no short form is ILLEGAL_ENCODING with the opcode in TVAL (R111, the spec's example). -/
theorem test_decode_refuses_form :
    decode (natToBytes 4 0x0000008C) = .fault ⟨.illegalEncoding, 0x46⟩ .short := by decide

/-- FMUL.iv64 with an odd destination is BAD_REGISTER (R96, the spec's example). -/
theorem test_decode_refuses_odd_pair :
    (match decode (natToBytes 8 0x80C141440D) with | .fault d _ => d.code == .badRegister | _ => false) = true := by decide

/-- Bytes too few; no opcode; SADD in a short form; SADD of FP32; NOP with the lowest bit of its immediate; SADD into v0, and from it (R89,
R111, R112). -/
theorem test_decode_refuses_in_order :
    decode [3] = .truncated .long
    ∧ decode (natToBytes 4 0x3FC) = .fault ⟨.illegalOpcode, 0x1FE⟩ .short
    ∧ decode (natToBytes 4 4) = .fault ⟨.illegalEncoding, 0x002⟩ .short
    ∧ decode (natToBytes 12 (3 + 11 * 2 ^ 81 + 0x002 * 2 ^ 86)) = .fault ⟨.illegalEncoding, 0x002 + 2 * 2 ^ 10 + 2 ^ 12⟩ .long
    ∧ decode (natToBytes 12 (3 + 2 ^ 2 + 0x099 * 2 ^ 86)) = .fault ⟨.reservedField, 2 * 2 ^ 10⟩ .long
    ∧ decode (natToBytes 12 (3 + 3 * 2 ^ 81 + 0x002 * 2 ^ 86)) = .fault ⟨.badRegister, 2 * 2 ^ 10⟩ .long
    ∧ decode (natToBytes 12 (3 + 0x300 * 2 ^ 63 + 3 * 2 ^ 81 + 0x002 * 2 ^ 86)) = .fault ⟨.badRegister, 2 * 2 ^ 10 + 1 * 2 ^ 12⟩ .long := by
  decide

/-! ## WellFormed: one ill-formed term for each check -/

/-- A function without an instruction, a form that the opcode lacks, a type it does not take. -/
theorem test_refuses_form_and_type :
    checkWord 0x060 (fields 0 0 0 0 0 0 0) ≠ none
    ∧ wellFormed (.iadd ⟨.short, 2, 0, 0, 3, 1, 2, 0, 0⟩) = false
    ∧ wellFormed (.iadd (fields 11 0 3 1 2 0 0)) = false ∧ wellFormed (.fadd (fields 2 0 3 1 2 0 0)) = false
    ∧ wellFormed (.iadd (fields 31 0 3 1 2 0 0)) = false := by decide

/-- A reserved field that is not zero, and a register that the operand does not take: out of range, of a wrong kind, an odd pair. -/
theorem test_refuses_fields :
    wellFormed (.iadd (fields 2 0 3 1 2 7 0)) = false ∧ wellFormed (.nop (fields 0 0 0 0 0 0 1)) = false
    ∧ wellFormed (.iadd (fields 2 0 0x304 1 2 0 0)) = false ∧ wellFormed (.smov (fields 2 0 3 0x306 0 0 0)) = false
    ∧ wellFormed (.fmulIv (fields 20 0 5 6 8 0 0)) = false := by decide

/-- A medium form that cannot hold the immediate, or a rounding mode; a short form with a field in use that it lacks. -/
theorem test_refuses_medium :
    wellFormed (.fence ⟨.medium, 0, 7, 0, 0, 0, 0, 0, 3 * 4096⟩) = false
    ∧ wellFormed (.iadd ⟨.medium, 0, 0, 0, 3, 0x101, 0, 0, 0x12345⟩) = false
    ∧ wellFormed (.iaddShort ⟨3, 1, 2, 1⟩) = false := by decide

/-- RRES without its bit of initialisation is not RRES.init (R299), and events name units that exist (R12, R14, R394, R406). -/
theorem test_refuses_split_and_events :
    wfSplit (.rres (fields 0 0 0 0 0 0 0x20)) = false ∧ wfSplit (.rresInit (fields 0 0 0 0 0 0 0)) = false
    ∧ wellFormed (.doorbell 1024 0 0) = false ∧ wellFormed (.doorbell 0 64 0) = false ∧ wellFormed (.rcvTimeout 8192) = false
    ∧ wellFormed (.cellReclaim 512) = false ∧ wellFormed (.linkFailure 28) = false ∧ wellFormed (.matrixOpComplete 2048 0) = false
    ∧ wellFormed (.stackGroupReady 8) = false ∧ wellFormed (.partcmdDefine 32) = false
    ∧ wellFormed (.remoteAccessArrival ⟨24, 4, 9, .load, false, 0, 4, [], []⟩) = false ∧ wellFormed (.sramUncorrectable none 4 3) = false
    ∧ wellFormed (.sramUncorrectable none 0 2) = false ∧ wellFormed (.softErrorCorrected 6 5) = false
    ∧ wellFormed (.softErrorCorrected 4 0) = false ∧ wellFormed (.throttleChange ⟨14, 0, false⟩) = false
    ∧ wellFormed (.bar2Access 0 0 4 (.write [1])) = false ∧ wellFormed (.bktProfileWrite 0 8 0) = false := by decide

/-! ## The spec's worked examples -/

/-- The state after an outcome, where it goes on. -/
def after (o : Host.Outcome State Fault Refusal) : State :=
  match o with
  | .next t => t
  | _ => State.reset

/-- Gang 0 after an outcome. -/
def gangAfter (o : Host.Outcome State Fault Refusal) : Gang := (mapGet (after o).gangs 0).getD gang

/-- The block of R131's example packs and unpacks: 6, -2, 0, 0, 1.5, 0.5 and zeros. -/
theorem test_bx3_block :
    (bxPack .bx3 .rne ([.fin false 6 0, .fin true 2 0, .fin false 0 0, .fin false 0 0, .fin false 3 (-1), .fin false 1 (-1)]
      ++ List.replicate 10 (.fin false 0 0))).1 = 0xB02BF881
    ∧ ([0, 1, 4, 5].map fun i => bxToF64 .bx3 0xB02BF881 i)
      = [0x4018000000000000, 0xC000000000000000, 0x3FF8000000000000, 0x3FE0000000000000] := by decide +kernel

/-- CVT.e4m3.f32.sat of 500.0 gives 448 with SAT, OF and NX; of 460.0 with NX; without .sat 0x7F; CVT.s8.s32.sat of -300 gives
-128 (R258, R259). -/
theorem test_cvt_saturates :
    cvtScalar (fields 14 0 5 6 0 0 0x2B) 0x43FA0000 = (0x7E, flagSAT ||| flagOF ||| flagNX)
    ∧ cvtScalar (fields 14 0 5 6 0 0 0x2B) 0x43E60000 = (0x7E, flagNX)
    ∧ (cvtScalar (fields 14 0 5 6 0 0 0x0B) 0x43FA0000).1 = 0x7F
    ∧ (cvtScalar (fields 0 0 5 6 0 0 0x22) 0xFFFFFED4).1 = 0x80 := by decide +kernel

/-- Four threads with counts 3, 0, 2 and 1, and the first item of the second round in s2. -/
def rationed : Gang :=
  { Gang.launched 0 0 0 0 loadBase loadBase 0xF with
    regs := [(5, 3), (1024 * 2 + 5, 2), (1024 * 3 + 5, 1)], sregs := [(2, 4)] }

/-- REBAL.map in rounds 0 and 4 of R226's example: owner and item of threads 0 to 3. -/
theorem test_rebal_map :
    ((List.range 4).map fun t => wordGet (gangAfter (execRebal (fields 6 0 30 5 0x300 0 0) (world rationed))).regs (1024 * t + 30))
      = [0, 1, 2, 2 * 2 ^ 32]
    ∧ ((List.range 4).map fun t => wordGet (gangAfter (execRebal (fields 6 0 30 5 0x302 0 0) (world rationed))).regs (1024 * t + 30))
      = [2 * 2 ^ 32 + 1, 3 * 2 ^ 32, 0xFFFFFFFFFFFFFFFF, 0xFFFFFFFFFFFFFFFF] := by decide +kernel

/-- A gang at 0x40 of its code, with every thread but thread 3 holding a divisor. -/
def divider : Gang :=
  { Gang.launched 0 0 0 0 loadBase loadBase 0xFFFFFFFF with
    pc := loadBase + 0x40
    regs := (List.range 32).filterMap fun t => if t = 3 then none else some (1024 * t + 3, 1) }

/-- IDIV.s32 by zero in thread 3 with a trap handler: the saved cause, address, value and masks of R333's example. -/
theorem test_idiv_traps :
    let s := { world divider with launches := [(0, { loadLaunch with codeSize := 0x100, nodes := [{ loadNode with trap := 0x80 }] })] }
    let g := gangAfter (execIdiv ⟨.medium, 2, 0, 0, 1, 2, 3, 0, 0⟩ s)
    g.tcause = 0x8000000000001013 ∧ g.tpc = BitVec.ofNat 64 (loadBase + 0x40) ∧ g.tval = 8 ∧ g.tmask = 0xFFFFFFFFFFFFFFFF
    ∧ g.pc = loadBase + 0x80 := by decide +kernel

/-- The doorbells of R400's example: RP 100, WP 110, 16 slots. -/
theorem test_doorbells :
    let q : Queue := ⟨0x2000000000000004, 0, 100, 110, 110, false, 0, [], []⟩
    let s := { world gang with ready := 0xFF, queues := [(0, q)], hreg := wordSet [] (pageReg 0 0x100) (2 ^ 63) }
    let wp := fun (w : BitVec 32) (s : State) => (mapGet (after (execDoorbell 0 0 w s)).queues 0).map fun q => (q.wp, q.dbstat)
    wp 116 s = some (116, 0) ∧ (wp 118 s).map (·.1) = some 110 ∧ (wp 105 s).map (·.1) = some 110 ∧ wp 118 s = wp 105 s
    ∧ (wp 116 { s with drainVf := [(0, .draining)] }).map (·.1) = some 110 := by decide +kernel

/-- The placement of PA 0x106000 in R358's example: channel 40, offset 0x57400, bank 138. -/
theorem test_placement :
    mapPA { loadPartition with channels := [0, 1, 40], banks := (List.range 16) ++ (List.range 16).map (128 + ·), clusters := [0, 8] } 0x106000
      = (40, 0x57400, 138) := by decide +kernel

/-- The reserves of R77's example: D of A, B and C. -/
theorem test_reserves :
    reserves [{ loadNode with gangs := 1, succs := [1] }, { loadNode with rlimit := 3, succs := [1, 2] }, { loadNode with gangs := 3 }]
      = [8, 7, 0] := by decide +kernel

/-- IADD.s8 wraps into the width of its type, and the upper bits are the image of R33: 0x7F + 1 in thread 0 of a gang with v1 = 0x7F. -/
theorem test_iadd_wraps :
    wordGet (gangAfter (execIadd (fields 0 0 4 1 0 0 0x40000001) (world { gang with regs := [(1, 0x7F)] }))).regs 4 = 0x80 := by decide +kernel
/-! ## Witnesses: integers, predicates, control flow -/

theorem witness_UniformIntegerResults : Ready 0x02 (fields 3 0 0x304 0x306 0 0 0x40000005) (world gang) gang
    ∧ condPasses gang 0 = true ∧ Ready 0x11 (fields 3 0 9 0x306 0x307 0 2) (world gang) gang :=
  ⟨ready_gang _ _, rfl, ready_gang _ _⟩

theorem witness_LaneIntegerResults : Ready 0x42 (fields 2 0 4 1 1 0 0) (world gang) gang
    ∧ anyPart gang (fields 2 0 4 1 1 0 0) = true ∧ Ready 0x51 (fields 2 0 4 1 1 0 2) (world gang) gang :=
  ⟨ready_gang _ _, by decide, ready_gang _ _⟩

theorem witness_NonzeroDivideResults :
    let f := fields 2 0 4 1 0 0 0x40000005
    let u := fields 3 0 0x304 0x306 0 0 0x40000005
    Ready 0x06 u (world gang) gang ∧ lo (tyOf u) (srcBI u (world gang) gang 0) ≠ 0 ∧ Ready 0x46 f (world gang) gang
      ∧ (∀ t < 32, takesPart gang f t → lo (tyOf f) (srcBI f (world gang) gang t) ≠ 0) ∧ anyPart gang f = true :=
  ⟨ready_gang _ _, by decide, ready_gang _ _, by decide, by decide⟩

theorem witness_PredicateResults : Ready 0x82 (fields 0 0 4 0x10 0x21 0 0) (world gang) gang
    ∧ anyPart gang (fields 0 0 4 0x10 0x21 0 0) = true := ⟨ready_gang _ _, by decide⟩

/-- Predicate p0 is true in thread 2. -/
def voters : Gang := { gang with preds := [(16, 1)] }

theorem witness_VoteAndThreadCopyResults :
    (∀ m < 4, Ready 0x88 (fields 0 0 0x304 0x10 0 0 (BitVec.ofNat 31 m)) (world voters) voters
      ∧ (BitVec.ofNat 31 m).extractLsb' 0 3 = BitVec.ofNat 3 m)
    ∧ (∀ t < 32, (4 : Mask).getLsbD t
        = (takesPart voters (fields 0 0 0x304 0x10 0 0 2) t && readPred voters t 0x10 == triT))
    ∧ Ready 0x5B (fields 9 0 0x304 1 0 0 0x20) (world voters) voters ∧ takesPart voters (fields 9 0 0x304 1 0 0 0x20) 0 = true
    ∧ Ready 0x5B (fields 9 0 0x304 1 0 0 0x40) (world voters) voters ∧ takesPart voters (fields 9 0 0x304 1 0 0 0x40) 2 = true
    ∧ (∀ u < 32, takesPart voters (fields 9 0 0x304 1 0 0 0x40) u → u ≤ 2)
    ∧ Ready 0x5B (fields 9 0 0x304 1 0 0 3) (world voters) voters
    ∧ Ready 0x5B (fields 9 0 0x304 1 0x305 0 0x60) (world voters) voters :=
  ⟨fun m _ => ⟨⟨rfl, rfl, rfl⟩, by interval_cases m <;> decide⟩, by decide, ⟨rfl, rfl, rfl⟩, by decide, ⟨rfl, rfl, rfl⟩, by decide, by decide,
    ⟨rfl, rfl, rfl⟩, ⟨rfl, rfl, rfl⟩⟩

theorem witness_JumpsMoveOnlyThePc : Ready 0x90 (fields 0 0 0 0 0 0 5) (world gang) gang
    ∧ Ready 0x92 (fields 0 0 0 0x306 0 0 0) (world gang) gang ∧ Ready 0x99 (expandShort 0x99 ⟨0, 0, 0, 0⟩) (world gang) gang :=
  ⟨ready_gang _ _, ready_gang _ _, ready_gang _ _⟩

theorem witness_UniformControlResults : Ready 0x93 (fields 0 0 0x304 0 0 0 5) (world gang) gang
    ∧ Ready 0x95 (fields 0 0 0x304 0 0 0 5) (world gang) gang ∧ Ready 0x9A (fields 0 0 0 0x306 0 0 0) (world gang) gang :=
  ⟨ready_gang _ _, ready_gang _ _, ready_gang _ _⟩

/-- The three outcomes: no thread passes p3.t, both pass an empty guard, thread 2 alone passes p0.t. -/
theorem witness_BranchOnThreadsDiverges :
    let far : BitVec 31 := 0x2800C
    Ready 0x91 (fields 0 13 0 0 0 0 far) (world voters) voters ∧ Participating voters (fields 0 13 0 0 0 0 far) 0
    ∧ Ready 0x91 (fields 0 0 0 0 0 0 far) (world voters) voters ∧ Participating voters (fields 0 0 0 0 0 0 far) 5
    ∧ Ready 0x91 (fields 0 1 0 0 0 0 far) (world voters) voters ∧ Participating voters (fields 0 1 0 0 0 0 far) 4
    ∧ (4 : Mask) ≠ voters.em := by
  refine ⟨⟨rfl, rfl, rfl⟩, ?_, ⟨rfl, rfl, rfl⟩, ?_, ⟨rfl, rfl, rfl⟩, ?_, by decide⟩ <;> unfold Participating <;> decide

/-- A gang whose thread 2 is pending, or has parked, at an RCV. -/
def diverged (rcv : Nat) (pend arr : Mask) : Gang :=
  { gang with em := 1, pm := 1, stack := [⟨rcv, 0x10040, pend, pend, arr, arr, if arr = 0 then none else some 0, 8, 0x10020, some 1⟩] }

/-- An empty stack, another RCV's address, a pending path, and a path that has arrived. -/
theorem witness_ReconvergenceParksThenJoins :
    let f := fields 0 0 9 0 0 0 8
    (f.grd = 0 ∧ Ready 0x96 f (world gang) gang ∧ gang.stack = [])
    ∧ Ready 0x96 f (world (diverged 0x10008 4 0)) (diverged 0x10008 4 0)
    ∧ Ready 0x96 f (world (diverged loadBase 4 0)) (diverged loadBase 4 0)
    ∧ Ready 0x96 f (world (diverged loadBase 0 4)) (diverged loadBase 0 4)
    ∧ Ready 0x96 (expandShort 0x96 ⟨0, 0, 0, 8⟩) (world (diverged loadBase 0 4)) (diverged loadBase 0 4) :=
  ⟨⟨rfl, ready_gang _ _, rfl⟩, ⟨rfl, rfl, rfl⟩, ⟨rfl, rfl, rfl⟩, ⟨rfl, rfl, rfl⟩, ⟨rfl, rfl, rfl⟩⟩

/-- A count of 8 that began at cycle 0 has expired at arithmetic cycle 8, not at 7, and not for an arrival at 8. -/
theorem witness_ExpiredTimeoutSwitchesPaths :
    let g := diverged 0x10020 0 4
    let late := { world g with acycle := 8 }
    let e : StackEntry := ⟨0x10020, 0x10040, 0, 0, 4, 4, some 0, 8, 0x10020, some 1⟩
    mapGet late.gangs 0 = some g ∧ g.stack = e :: [] ∧ g.hold = none ∧ e.parkedAt = some 0 ∧ e.arrPm ≠ 0 ∧ e.pendPm = 0
    ∧ e.timeout ≠ 0 ∧ 0 + e.timeout ≤ late.acycle ∧ g.pc ≠ e.rcv ∧ ({ world g with acycle := 7 } : State).acycle < 0 + e.timeout
    ∧ (diverged loadBase 0 4).pc = loadBase :=
  ⟨rfl, rfl, rfl, rfl, by decide, by decide, by decide, by decide, by decide, by decide, rfl⟩

/-- Thread 2 has parked beneath an entry that no thread is left in; a fault waits for the gang's end. -/
def emptyEntry : Gang :=
  { diverged 0x10020 0 4 with stack := ⟨0x10008, 0x10040, 0, 0, 0, 0, none, 0, 0, none⟩ :: (diverged 0x10020 0 4).stack }

/-- No thread exits, one of two exits, the last thread of a path exits with the other pending or parked, below an empty entry
too, and all exit, with a fault to report and without one. -/
theorem witness_ThreadsExitAndGangsQuit :
    let f := fields 0 0 0 0 0 0 0
    let two := { gang with pm := 5 }
    Ready 0x97 (fields 0 13 0 0 0 0 0) (world gang) gang ∧ Participating gang (fields 0 13 0 0 0 0 0) 0
    ∧ Ready 0x97 (fields 0 1 0 0 0 0 0) (world { voters with pm := 5 }) { voters with pm := 5 }
    ∧ Participating { voters with pm := 5 } (fields 0 1 0 0 0 0 0) 4
    ∧ Ready 0x97 f (world (diverged 0x10020 4 0)) (diverged 0x10020 4 0) ∧ Participating (diverged 0x10020 4 0) f 1
    ∧ Ready 0x97 f (world (diverged 0x10020 0 4)) (diverged 0x10020 0 4) ∧ Participating (diverged 0x10020 0 4) f 1
    ∧ Ready 0x97 f (world emptyEntry) emptyEntry ∧ Participating emptyEntry f 1
    ∧ ((emptyEntry.stack.dropWhile fun e => e.pendPm == 0 && e.arrPm == 0).map (·.arrPm)) = [4]
    ∧ Ready 0x97 f (world two) two ∧ Participating two f 5 ∧ two.deferred = []
    ∧ Ready 0x98 f (world { two with deferred := [⟨.report, precise .hazard 0⟩] }) { two with deferred := [⟨.report, precise .hazard 0⟩] }
    ∧ Ready 0x98 f (world gang) gang ∧ Ready 0x98 (expandShort 0x98 ⟨0, 0, 0, 0⟩) (world gang) gang := by
  refine ⟨⟨rfl, rfl, rfl⟩, ?_, ⟨rfl, rfl, rfl⟩, ?_, ⟨rfl, rfl, rfl⟩, ?_, ⟨rfl, rfl, rfl⟩, ?_, ⟨rfl, rfl, rfl⟩, ?_, rfl, ⟨rfl, rfl, rfl⟩, ?_, rfl, ⟨rfl, rfl, rfl⟩,
    ⟨rfl, rfl, rfl⟩, ⟨rfl, rfl, rfl⟩⟩ <;>
    unfold Participating <;> decide

/-- A b register that no slot, the same slot, or a later one has written in this cycle. -/
theorem witness_SharedRegisterWrites :
    let f := fields 3 0 0x340 0x306 0 0 0x40000005
    let with_ := fun j => { world gang with bTurn := [(0, (0, j))] }
    Ready 0x02 f (world gang) gang ∧ WritesShared (world gang) f 0 ∧ WritesShared (with_ 0) f 0 ∧ ¬WritesShared (with_ 3) f 0
    ∧ Overtaken (with_ 3) 0 ∧ ¬WritesShared (world gang) f 1 := by
  intro f with_
  have h3 : Overtaken (with_ 3) 0 := ⟨3, rfl, by decide⟩
  refine ⟨ready_gang _ _, ⟨by decide, by decide, ?_⟩, ⟨by decide, by decide, ?_⟩, fun h => h.2.2 h3, h3, fun h => absurd h.2.1 (by decide)⟩
  · rintro ⟨j, hj, -⟩
    have hj : (none : Option (Nat × Nat)) = some (0, j) := hj
    cases hj
  · rintro ⟨j, hj, hn⟩
    obtain rfl : 0 = j := by
      have hj : some ((0, 0) : Nat × Nat) = some (0, j) := hj
      simpa using hj
    exact absurd hn (by decide)

/-- A gang alone, one beside a gang that runs, and one whose fellow has stopped for a pre-emption. -/
theorem witness_GangsEnd :
    let two := fun (stopped : Bool) => { world gang with gangs := [(0, gang), (1, { gang with idx := 1, stopped := stopped })] }
    RunsOn (world gang) gang ∧ RunsOn (two false) gang ∧ OthersStopped (two true) gang
    ∧ (mapGet (two true).workgroups gang.wg).isSome = true := by
  intro two
  exact ⟨.inr (by decide), .inl ⟨1, _, by decide, rfl, rfl, rfl, rfl⟩, ⟨by decide, by decide⟩, rfl⟩

/-! ## Witnesses: floating point, intervals, conversions -/

theorem witness_FloatArithmeticResults :
    Ready 0xC1 (fields 11 0 4 1 6 0 0) (world gang) gang ∧ NoneAbandoned (fields 11 0 4 1 6 0 0) [patA, patB] (world gang) gang
    ∧ NoneAbandoned (fields 10 0 4 1 6 8 0) [patA, patB, patC] (world gang) gang := by
  refine ⟨ready_gang _ _, ?_, ?_⟩ <;> unfold NoneAbandoned <;> decide

theorem witness_FloatMoveClassCompare :
    Ready 0xC0 (fields 11 0 4 1 0 0 0) (world gang) gang ∧ Ready 0xCB (fields 11 0 4 1 6 0 2) (world gang) gang
    ∧ NoneAbandoned (fields 11 0 4 1 6 0 2) [patA, patB] (world gang) gang := by
  refine ⟨ready_gang _ _, ready_gang _ _, ?_⟩; unfold NoneAbandoned; decide

theorem witness_ShortFormResults :
    Ready 0x42 (expandShort 0x42 ⟨3, 1, 2, 0⟩) (world gang) gang ∧ Ready 0xC1 (expandShort 0xC1 ⟨3, 1, 2, 0⟩) (world gang) gang
    ∧ NoneAbandoned (expandShort 0xC1 ⟨3, 1, 2, 0⟩) [patA, patB] (world gang) gang := by
  refine ⟨ready_gang _ _, ready_gang _ _, ?_⟩; unfold NoneAbandoned; decide

/-- Points [0, 0] in v6 and v8, made by IVMK from +0, and the empty interval. -/
theorem witness_IntervalArithmeticResults :
    let f := fields 20 0 4 6 8 0x0A 0
    Ready 0x101 f (world gang) gang ∧ GoodIntervals f [(f.a, false), (f.b, false), (f.c, false)] (world gang) gang
    ∧ Ready 0x120 f (world gang) gang ∧ NoneAbandoned f [patA, patB] (world gang) gang
    ∧ (∀ t < 32, takesPart gang f t → (fmt f).value (patA f (world gang) gang t) = .fin false 0 (-1074)) := by
  refine ⟨ready_gang _ _, ?_, ready_gang _ _, ?_, ?_⟩
  · exact good_intervals _ _ _ _ (by decide)
  · unfold NoneAbandoned; decide
  · decide

/-- A gang whose v4:v5 in thread 0 is the empty `.iv64` interval, and [0, 0] in thread 2. -/
def emptied : Gang := { gang with regs := [(1, 1), (4, BitVec.ofNat 64 fmtF64.emptyIv.1), (5, BitVec.ofNat 64 fmtF64.emptyIv.2)] }

/-- Operands [0, 0], for the queries and IVSPLIT; an empty A for IVLO, IVCHK and IVMEET.e. -/
theorem witness_IntervalQueryAndSplitResults :
    let f := fields 19 0 4 6 8 0 0
    Ready 0x123 f (world gang) gang ∧ GoodIntervals f [(f.a, false), (f.b, false)] (world gang) gang
    ∧ Ready 0x126 f (world gang) gang ∧ f.imm.getLsbD 0 = false
    ∧ (∀ t < 32, takesPart gang f t → FVal.lt (lesser (bounds f (world gang) gang t f.a).2 (bounds f (world gang) gang t f.b).2)
        (greater (bounds f (world gang) gang t f.a).1 (bounds f (world gang) gang t f.b).1) = false)
    ∧ Ready 0x126 (fields 20 0 6 4 8 3 1) (world emptied) emptied
    ∧ GoodIntervals (fields 20 0 6 4 8 3 1) [(4, true), (8, true)] (world emptied) emptied
    ∧ (fields 20 0 6 4 8 3 1).imm.getLsbD 0 = true := by
  refine ⟨ready_gang _ _, good_intervals _ _ _ _ (by decide), ready_gang _ _, rfl, by decide, ⟨rfl, rfl, rfl⟩, good_intervals _ _ _ _ (by decide), rfl⟩

/-- 3 · 2^−2 is exact in every format, and the pattern of 1 in FP16 is finite, with its infinity and its NaN; the interval
[1, 1] with and without zero in the divisor; an integer and an FP8 type; blocks of zeros with and without a NaN. -/
theorem witness_DirectedRoundingBounds :
    let one := fmtF16.value 0x3C00
    fmtF16 ∈ ieee ∧ (fmtF16.round .rz true 3 (-2)).2 &&& flagNX = 0
    ∧ 0x3C00 < 2 ^ fmtF16.width ∧ one.isNan = false ∧ one = .fin false 1024 (-10) ∧ (0 : Nat) < 1024
    ∧ fmtF16.value 0x7C00 = .inf false ∧ (fmtF16.value 0x7E00).isNan ∧ (fmtF16.value 0).isZero ∧ (fmtF16.value 0x8000).isZero
    ∧ ProperBounds (one, one) ∧ ¬(one.isZero = true ∧ one.isZero = true)
    ∧ ProperBounds (.fin true 0 0, .fin false 0 0) ∧ Within 0 (.fin true 0 0, .fin false 0 0)
    ∧ (∀ x, Within x (.fin true 1 0, .fin true 1 0) → x < 0)
    ∧ Ty.s8.isInt ∧ Ty.e4m3.isFp8 ∧ fmtOf .f32 ∈ ieee ∧ (List.replicate 16 (FVal.fin false 0 0)).length = 16
    ∧ (∃ v ∈ FVal.nan false :: List.replicate 15 (FVal.fin false 0 0), v.isNan = true)
    ∧ ∀ v ∈ List.replicate 16 (FVal.fin false 0 0), v.isNan = false := by
  refine ⟨by simp [ieee], by decide, by decide, by decide, by decide, by decide, by decide, by decide, by decide, by decide, ?_, by decide,
    ?_, ?_, ?_, by decide, by decide, by simp [ieee, fmtOf], by decide, by decide, by decide⟩
  · unfold ProperBounds; decide
  · unfold ProperBounds; decide
  · simp [Within, AtLeast, AtMost, exact]
  · intro x h
    have h2 : x ≤ ((exact true 1 0 : ℚ) : ℝ) := h.2
    have : exact true 1 0 = -1 := by norm_num [exact]
    rw [this] at h2
    push_cast at h2
    linarith

/-- 0 lies in the point [0, 0] of both operands. -/
theorem witness_IntervalResultsEnclose :
    let f := fields 20 0 4 6 8 0 0
    tyOf f = .iv64
    ∧ (∀ j < ivRegs (tyOf f), ∃ r, RegName.ofSpec (f.d + BitVec.ofNat 10 j) = some r ∧ FileSet.vyz.has r = true)
    ∧ Ready 0x101 f (world gang) gang ∧ GoodIntervals f [(f.a, false), (f.b, false)] (world gang) gang
    ∧ takesPart gang f 0 = true ∧ Within 0 (bounds f (world gang) gang 0 f.a) ∧ Within 0 (bounds f (world gang) gang 0 f.b) := by
  have hb : ∀ x ∈ [(6 : BitVec 10), 8], bounds (fields 20 0 4 6 8 0 0) (world gang) gang 0 x
      = (.fin false 0 (-1074), .fin false 0 (-1074)) := by decide
  have hw : Within 0 (FVal.fin false 0 (-1074), FVal.fin false 0 (-1074)) := by simp [Within, AtLeast, AtMost, exact]
  refine ⟨rfl, ?_, ready_gang _ _, good_intervals _ _ _ _ (by decide), by decide, ?_, ?_⟩
  · intro j hj
    have hj : j < 2 := hj
    interval_cases j
    · exact ⟨.v 4, rfl, rfl⟩
    · exact ⟨.v 5, rfl, rfl⟩
  · exact (hb 6 (by simp)) ▸ hw
  · exact (hb 8 (by simp)) ▸ hw

/-- One conversion of each clause: s32 to s8, f32 to s32, s32 to f64, f32 to iv32, iv32 to iv64; a block of zeros. -/
theorem witness_ConversionResults :
    let conv := fun ty src => fields ty 0 4 6 0 0 src
    let plain := fun (f : Fields) (src : Ty) => ∀ t < 32, takesPart gang f t →
      (fmtOf src).isAbandoned ((srcA f (world gang) gang t).toNat % 2 ^ (fmtOf src).width) = false
    (∀ f ∈ [conv 0 2, conv 2 11, conv 10 2, conv 19 11, conv 20 19], Ready 0x140 f (world gang) gang)
    ∧ Ready 0x141 (conv 18 0) (world gang) gang ∧ Ready 0x142 (conv 18 0) (world gang) gang ∧ (tyOf (conv 0 2)).isInt ∧ (tyOf (conv 2 11)).isInt ∧ plain (conv 2 11) .f32 ∧ (tyOf (conv 10 2)).isInt = false
    ∧ (tyOf (conv 19 11)).isIv ∧ (tyOf (conv 20 19)).isIv
    ∧ (∀ t < 32, takesPart gang (conv 20 19) t →
        (fmtOf .iv32).classIv (readIv (world gang) 0 gang .iv32 t 6) = .proper)
    ∧ (List.range 32).all (fun t => !takesPart gang (conv 18 0) t || (List.range 16).all fun i =>
        !fmtF64.isAbandoned (readReg (world gang) 0 gang t (8 + BitVec.ofNat 10 i)).toNat) = true :=
  ⟨fun f hf => ⟨rfl, by revert f; decide⟩, ready_gang _ _, ready_gang _ _, by decide, by decide, by decide, by decide, by decide,
    by decide, by decide, by decide⟩

/-! ## Witnesses: memory -/

/-- A program with descriptors: td1 64 words of device memory, td2 the same under BMODE 1, td3 64 scratchpad registers, td4 64
FP64 numbers, td5 64 words one byte off their alignment. -/
def tensors (g : Gang) : State :=
  { world g with descs := [(1, descWords (vector 0x20000 0 8 64)), (2, descWords (vector 0x20000 0 8 64 + 2 ^ 70)),
      (3, descWords (vector 0x100 1 9 64)), (4, descWords (vector 0x20000 0 10 64)), (5, descWords (vector 0x20001 0 8 64))] }

/-- A memory instruction: type, D, B, C, descriptor, with one displacement register. -/
def access (typ : BitVec 5) (d b c : BitVec 10) (td : Nat) : Fields :=
  fields typ 0 d 0x302 b c (BitVec.ofNat 31 (td * 2 ^ 21 + 2 ^ 18))

/-- A uniform memory instruction. -/
def uniformAccess (typ : BitVec 5) (d c : BitVec 10) (td : Nat) : Fields :=
  fields typ 0 d 0x302 0 c (BitVec.ofNat 31 (td * 2 ^ 21))

/-- The descriptor of an index in `tensors`. -/
def tensor (td : Nat) : Desc := descOf ((mapGet (tensors gang).descs td).getD [])

/-- Where an item of a device tensor lies. -/
def deviceAt (it : Item) : Locus := .device loadPartition (consecutive it.va it.size)

/-- Whether elements pass steps 7c to 7e. -/
def placedOk (d : Desc) (els : List Elem) : Bool :=
  els.all fun e => match e.coords with
    | none => d.bmode
    | some c => (d.locate c).base % d.alignment == 0 && match d.limit with
      | none => true
      | some lim => decide ((d.locate c).addr + unitBytes d.type ≤ lim)

theorem placed (d : Desc) (els : List Elem) (h : placedOk d els = true) : Placed d els := by
  intro e he
  have h1 := List.all_eq_true.1 h e he
  cases hc : e.coords with
  | none => simp_all
  | some c =>
    cases hl : d.limit <;> simp_all

/-- Whether items reach device memory that is not poisoned. -/
def reachedOk (s : State) (g : Gang) (d : Desc) (acc : Access) (items : List Item) : Bool :=
  items.all fun it => reach s s.cur g d it.c1 it.va it.size acc (.gang s.cur) == .ok (deviceAt it)
    && !pasPoisoned s loadPartition (consecutive it.va it.size)

theorem reached (s : State) (g : Gang) (d : Desc) (acc : Access) (items : List Item) (h : reachedOk s g d acc items = true) :
    Reached s s g d acc items deviceAt := by
  intro it hit
  have h1 := List.all_eq_true.1 h it hit
  simpa [Local, deviceAt] using h1

theorem witness_LaneLoadsReadMemory :
    let f := access 8 4 1 0 1
    let x := access 8 4 2 0 2
    let s := tensors gang
    Fresh gang ∧ anyPart gang f ∧ LoadRoom s gang (tensor 1) 2 ∧ (lanes s gang f (tensor 1)).length = 2
    ∧ (flats s gang f (tensor 1)).length = 2 ∧ (tensor 1).layout ≠ 2 ∧ Ready 0x180 f s gang ∧ Ready 0x186 f s gang
    ∧ Described f (memTd f) true s gang s (tensor 1) ∧ Placed (tensor 1) (lanes s gang f (tensor 1))
    ∧ Reached s s gang (tensor 1) .read (itemsOf (tensor 1) 4 (lanes s gang f (tensor 1))) deviceAt
    ∧ Placed (tensor 1) (flats s gang f (tensor 1))
    ∧ Reached s s gang (tensor 1) .read (itemsOf (tensor 1) 4 (flats s gang f (tensor 1))) deviceAt
    ∧ Described x (memTd x) true s gang s (tensor 2) ∧ Placed (tensor 2) (lanes s gang x (tensor 2))
    ∧ (lanes s gang x (tensor 2)).any (fun e => e.coords.isNone) = true :=
  ⟨⟨rfl, rfl, rfl, rfl⟩, by decide, ⟨by decide, by decide⟩, by decide, by decide, by decide, ⟨rfl, rfl, rfl⟩, ⟨rfl, rfl, rfl⟩,
    ⟨rfl, ⟨_, rfl, rfl⟩, by decide, fun _ => by decide⟩, placed _ _ (by decide), reached _ _ _ _ _ (by decide),
    placed _ _ (by decide), reached _ _ _ _ _ (by decide), ⟨rfl, ⟨_, rfl, rfl⟩, by decide, fun _ => by decide⟩,
    placed _ _ (by decide), by decide⟩

theorem witness_UniformLoadReadsMemory :
    let f := uniformAccess 8 0x305 0 1
    let s := tensors gang
    Fresh gang ∧ condPasses gang f.grd = true ∧ LoadRoom s gang (tensor 1) 1 ∧ Ready 0x182 f s gang
    ∧ Described f (memTd f) true s gang s (tensor 1) ∧ Placed (tensor 1) (single s gang f (tensor 1))
    ∧ Reached s s gang (tensor 1) .read (itemsOf (tensor 1) 4 (single s gang f (tensor 1))) deviceAt
    ∧ UniformNames f.d (elemRegs (tyOf f)) :=
  ⟨⟨rfl, rfl, rfl, rfl⟩, rfl, ⟨by decide, by decide⟩, ⟨rfl, rfl, rfl⟩, ⟨rfl, ⟨_, rfl, rfl⟩, by decide, fun _ => by decide⟩,
    placed _ _ (by decide), reached _ _ _ _ _ (by decide), fun k hk => by
      have hk : k < 1 := hk
      interval_cases k; exact ⟨.s 5, rfl, rfl⟩⟩

theorem witness_StoresWriteExactlyTheirUnits :
    let f := access 8 0 1 6 1
    let u := uniformAccess 8 0 0x306 1
    let s := tensors gang
    let d := tensor 1
    let units := itemsOf d 4 (lanes s gang f d)
    Fresh gang ∧ StoreRoom s gang d 2 ∧ (lanes s gang f d).length = 2 ∧ (flats s gang f d).length = 2 ∧ d.layout = 0
    ∧ condPasses gang u.grd = true ∧ Ready 0x181 f s gang ∧ Ready 0x183 u s gang ∧ Ready 0x187 f s gang
    ∧ Described f (memTd f) true s gang s d ∧ Placed d (lanes s gang f d) ∧ Placed d (single s gang u d)
    ∧ Placed d (flats s gang f d) ∧ unitsOf f d units (fun it => storeData s 0 gang f (tyOf f) false it) = units
    ∧ Reached s s gang d .write units deviceAt ∧ (∀ it ∈ units, Owned s gang.wg (deviceAt it)) ∧ Unwatched s gang false units
    ∧ Disjoint units deviceAt
    ∧ Reached s s gang d .write (itemsOf d 4 (single s gang u d)) deviceAt
    ∧ Reached s s gang d .write (itemsOf d 4 (flats s gang f d)) deviceAt := by
  refine ⟨⟨rfl, rfl, rfl, rfl⟩, ⟨by decide, by decide⟩, by decide, by decide, rfl, rfl, ⟨rfl, rfl, rfl⟩, ⟨rfl, rfl, rfl⟩, ⟨rfl, rfl, rfl⟩,
    ⟨rfl, ⟨_, rfl, rfl⟩, by decide, fun _ => by decide⟩, placed _ _ (by decide), placed _ _ (by decide),
    placed _ _ (by decide), by decide, reached _ _ _ _ _ (by decide), fun _ _ => trivial, .inr (by decide), ?_,
    reached _ _ _ _ _ (by decide), reached _ _ _ _ _ (by decide)⟩
  unfold Claims.Disjoint; decide

theorem witness_LineLoadsFourBytesPerThread :
    let f := uniformAccess 0 4 0 1
    let s := tensors gang
    let d := tensor 1
    Fresh gang ∧ anyPart gang f ∧ LoadRoom s gang d 2 ∧ (parts gang f).length = 2 ∧ Ready 0x184 f s gang
    ∧ Described f (memTd f) false s gang s d ∧ coordsAt s 0 gang f d 0 = some [0] ∧ (d.locate [0]).addr = 0x20000
    ∧ d.limit = none ∧ parts gang f = [0, 2]
    ∧ (∀ u ∈ [0, 2], reach s 0 gang d 0 (0x20000 + 4 * u) 4 .read (.gang 0)
        = .ok (.device loadPartition (consecutive (0x20000 + 4 * u) 4))) :=
  ⟨⟨rfl, rfl, rfl, rfl⟩, by decide, ⟨by decide, by decide⟩, by decide, ⟨rfl, rfl, rfl⟩, ⟨rfl, ⟨_, rfl, rfl⟩, by decide, fun h => by simp at h⟩,
    by decide, by decide, rfl, by decide, by decide⟩

/-- A signalling pattern of neither kind: the abandoned encodings of FP32 (R144). -/
def spoilt : Gang :=
  { gang with regs := [(6, BitVec.ofNat 64 (fmtF32.abandoned 1)), (1024 * 2 + 8, BitVec.ofNat 64 (fmtF32.abandoned 1)), (1024 * 2 + 10, 64)] }

/-- A gang whose v4 in thread 0 is the FP32 pair given, and [0, 0] in thread 2. -/
def bounded (lo hi : Nat) : Gang := { gang with regs := [(1, 1), (4, BitVec.ofNat 64 (lo + hi * 2 ^ 32))] }

/-- Whether thread 0 alone holds an interval of class `c` in A, and thread 2 a proper one. -/
def firstIs (g : Gang) (c : IvClass) : Bool :=
  let f := fields 19 0 6 4 8 10 0
  let cls := fun t => (fmt f).classIv (readIv (world g) 0 g (tyOf f) t f.a)
  (List.range 32).all fun t => (takesPart g f t == (t == 0 || t == 2)) && (!takesPart g f t || cls t == if t = 0 then c else .proper)

/-- A zero divisor in both threads; an abandoned A in thread 0, B in thread 2; an empty, an abandoned and a malformed interval;
coordinate 64 of 64 in thread 0, and words off their alignment. -/
theorem witness_OperandFaultsNameTheThreads :
    let div := fields 2 0 4 1 6 0 0
    let add := fields 11 0 4 6 1 0 0
    let bdd := fields 11 0 4 1 8 0 0
    let far := access 8 4 2 0 1
    let odd := access 8 4 1 0 5
    let s := tensors gang
    (Ready 0x46 div s gang ∧ ∀ t < 32, (5 : Mask).getLsbD t = (takesPart gang div t && lo (tyOf div) (srcBI div s gang t) == 0))
    ∧ (∀ t < 32, (1 : Mask).getLsbD t = (takesPart spoilt add t && (fmt add).isAbandoned (patA add (tensors spoilt) spoilt t)))
    ∧ (∀ t < 32, (4 : Mask).getLsbD t = (takesPart spoilt bdd t && (fmt bdd).isAbandoned (patB bdd (tensors spoilt) spoilt t)))
    ∧ (∀ t < 32, (takesPart spoilt bdd t && (fmt bdd).isAbandoned (patA bdd (tensors spoilt) spoilt t)) = false)
    ∧ firstIs (bounded fmtF32.emptyIv.1 fmtF32.emptyIv.2) .empty = true
    ∧ firstIs (bounded (fmtF32.abandoned 1) 0) .abandoned = true
    ∧ firstIs (bounded 0x3F800000 0) .malformed = true
    ∧ Described far (memTd far) true s gang s (tensor 1) ∧ Ready 0x180 far s gang ∧ (tensor 1).bmode = false
    ∧ (∀ n < 64, (1 : BitVec 64).getLsbD n = (lanes s gang far (tensor 1)).any fun e => e.bit == n && e.coords.isNone)
    ∧ Described odd (memTd odd) true s gang s (tensor 5)
    ∧ (∀ e ∈ lanes s gang odd (tensor 5), e.coords ≠ none)
    ∧ (∀ n < 64, (5 : BitVec 64).getLsbD n = (lanes s gang odd (tensor 5)).any fun e => e.bit == n && match e.coords with
        | some c => decide (((tensor 5).locate c).base % (tensor 5).alignment ≠ 0)
        | none => false) :=
  ⟨⟨⟨rfl, rfl, rfl⟩, by decide⟩, by decide, by decide, by decide, by decide, by decide, by decide, ⟨rfl, ⟨_, rfl, rfl⟩, by decide, fun _ => by decide⟩,
    ⟨rfl, rfl, rfl⟩, rfl, by decide, ⟨rfl, ⟨_, rfl, rfl⟩, by decide, fun _ => by decide⟩, by decide, by decide⟩

/-- Shuffles of each mode at the narrowest and the widest width; counts 1 and 63 redistributed in each mode of REBAL. -/
theorem witness_ShuffleAndRebalanceResults :
    (∀ m < 5, ∀ w ∈ [0, 4], Ready 0x185 (fields 8 0 4 1 2 0 (BitVec.ofNat 31 (m + 8 * 31 + 256 * w))) (world gang) gang
      ∧ ((BitVec.ofNat 31 (m + 8 * 31 + 256 * w)).extractLsb' 0 3).toNat = m
      ∧ ((BitVec.ofNat 31 (m + 8 * 31 + 256 * w)).extractLsb' 8 3).toNat = w)
    ∧ (∀ m < 3, Ready 0x188 (fields 9 0 4 1 0x300 0 (BitVec.ofNat 31 m)) (world gang) gang)
    ∧ takesPart gang (fields 9 0 4 1 0x300 0 0) 0 = true ∧ (srcA (fields 9 0 4 1 0x300 0 0) (world gang) gang 0).toNat = 1
    ∧ (srcB (fields 9 0 4 1 0x300 0 0) (world gang) gang 0).toNat = 0 :=
  ⟨fun m hm w hw => ⟨⟨rfl, rfl, rfl⟩, by revert m w; decide, by revert m w; decide⟩, fun _ _ => ⟨rfl, rfl, rfl⟩, by decide, by decide, by decide⟩

theorem witness_CacheInstructionsKeepData :
    let f := access 8 0 1 0 1
    let n := access 9 0 1 0 3
    let s := { tensors gang with l2 := [(dramKey loadPartition 0x20040 / 128, ⟨0, 0, true, 0, false, none⟩)] }
    let items := itemsOf (tensor 1) 4 (lanes s gang f (tensor 1))
    Fresh gang ∧ anyPart gang f ∧ storesFull gang = false ∧ (tensor 1).layout ≠ 2 ∧ Ready 0x189 f s gang ∧ Ready 0x18A f s gang
    ∧ Ready 0x18B f s gang ∧ Described f (memTd f) false s gang s (tensor 1) ∧ Placed (tensor 1) (lanes s gang f (tensor 1))
    ∧ Reached s s gang (tensor 1) .read items deviceAt ∧ Unwatched s gang false items ∧ cacheClusters 0 f loadPartition 0x20040 0 = true
    ∧ Described n (memTd n) false s gang s (tensor 3) ∧ Placed (tensor 3) (lanes s gang n (tensor 3)) ∧ (tensor 3).space ≠ 0 :=
  ⟨⟨rfl, rfl, rfl, rfl⟩, by decide, by decide, by decide, ⟨rfl, rfl, rfl⟩, ⟨rfl, rfl, rfl⟩, ⟨rfl, rfl, rfl⟩,
    ⟨rfl, ⟨_, rfl, rfl⟩, by decide, fun h => by simp at h⟩, placed _ _ (by decide), reached _ _ _ _ _ (by decide),
    .inr (by decide), by decide, ⟨rfl, ⟨_, rfl, rfl⟩, by decide, fun h => by simp at h⟩, placed _ _ (by decide), by decide⟩

/-- Words 0 to 7 and word 7 alone, with a copy in the cell and without one; TDINV of one and of all. -/
theorem witness_DescriptorInstructionResults :
    let f := fun a d (imm : BitVec 31) => fields 0 0 d a 0 0 (2 ^ 21 + imm)
    let s := tensors gang
    let va := tdbase s 0 + 64
    let l := fun first n => Locus.device loadPartition (consecutive (va + 8 * first) n)
    condPasses gang 0 = true ∧ Fresh gang ∧ storesFull gang = false ∧ loadsFull gang = false
    ∧ (∀ imm ∈ [(0 : BitVec 31), 15], Ready 0x18D (f 0 0x310 imm) s gang ∧ Ready 0x18C (f 0x310 0 imm) s gang ∧ Ready 0x18E (f 0 0 imm) s gang)
    ∧ UniformNames 0x310 8 ∧ Ready 0x18D (f 0 0x310 0) (world gang) gang
    ∧ reach (world gang) 0 gang tableDesc 0 va 64 .read (.gang 0) = .ok (l 0 64) ∧ Local (world gang) (l 0 64)
    ∧ descKey 0 0 (memTd (f 0 0 0)) = 1 ∧ (mapGet s.descs 1).map (·.length) = some 8 ∧ mapGet (world gang).descs 1 = none
    ∧ reach s 0 gang tableDesc 0 va 64 .write (.gang 0) = .ok (l 0 64)
    ∧ reach s 0 gang tableDesc 0 (va + 56) 8 .write (.gang 0) = .ok (l 7 8)
    ∧ Local s (l 0 64) ∧ (cells (l 0 64)).Nodup ∧ (cells (l 0 64)).length = 64
    ∧ Unwatched s gang false [⟨1, 0, 0, va, 64, 0, 0⟩] := by
  have hn : ∀ k < 8, ∃ r, RegName.ofSpec (0x310 + BitVec.ofNat 10 k) = some r ∧ FileSet.sb.has r = true := by
    intro k hk
    exact ⟨.s (16 + k), by revert k; decide, rfl⟩
  refine ⟨rfl, ⟨rfl, rfl, rfl, rfl⟩, by decide, by decide,
    ?_, hn, ready_gang _ _, by decide, ?_,
    by decide, by decide, by decide, by decide, by decide, ?_, by decide, by decide, .inr (by decide)⟩
  · intro imm hi
    simp only [List.mem_cons, List.not_mem_nil, or_false] at hi
    obtain rfl | rfl := hi <;> exact ⟨⟨rfl, by decide⟩, ⟨rfl, by decide⟩, ⟨rfl, by decide⟩⟩
  · show pasPoisoned _ _ _ = false; decide
  · show pasPoisoned _ _ _ = false; decide

/-- Atomics of 32-bit words of device memory, of host memory, of scratchpad registers, and of FP64. -/
theorem witness_IntegerAtomicResults :
    let f := access 2 4 1 6 1
    let s := { tensors gang with descs := [(1, descWords (vector 0x20000 0 2 64))] }
    let d := descOf (descWords (vector 0x20000 0 2 64))
    (tyOf f).isInt ∧ (∀ o ∈ [0x1C0, 0x1C1, 0x1C2, 0x1C3, 0x1C4, 0x1C5, 0x1C6], Ready o f s gang) ∧ Fresh gang ∧ anyPart gang f
    ∧ LoadRoom s gang d 2 ∧ (lanes s gang f d).length = 2 ∧ d.layout = 0 ∧ Described f (memTd f) true s gang s d
    ∧ Placed d (lanes s gang f d)
    ∧ (∀ op ∈ [RemoteOp.add, .min, .max, .and, .or, .xor, .exch], atomSupported d op (tyOf f) = true)
    ∧ Reached s s gang d .atomic (atomItems s gang f d) deviceAt ∧ (∀ it ∈ atomItems s gang f d, Owned s gang.wg (deviceAt it))
    ∧ Unwatched s gang true (atomItems s gang f d) ∧ Disjoint (atomItems s gang f d) deviceAt := by
  refine ⟨rfl, fun o ho => ⟨rfl, by revert o; decide⟩, ⟨rfl, rfl, rfl, rfl⟩, by decide, ⟨by decide, by decide⟩, by decide, rfl,
    ⟨rfl, ⟨_, rfl, rfl⟩, by decide, fun _ => by decide⟩, placed _ _ (by decide), by decide, reached _ _ _ _ _ (by decide),
    fun _ _ => trivial, .inr (by decide), ?_⟩
  unfold Claims.Disjoint; decide

theorem witness_FloatAtomicAndCompareSwapResults :
    let f := access 10 4 1 6 4
    let c := access 8 4 1 6 1
    let s := tensors gang
    let d := tensor 4
    (tyOf f).isFloat ∧ (tyOf c).isFloat = false ∧ (∀ o ∈ [0x1C0, 0x1C1, 0x1C2, 0x1C6], Ready o f s gang) ∧ Ready 0x1D0 c s gang
    ∧ Fresh gang ∧ anyPart gang f ∧ LoadRoom s gang d 2 ∧ (lanes s gang f d).length = 2 ∧ Described f (memTd f) true s gang s d
    ∧ Placed d (lanes s gang f d) ∧ d.layout = 0 ∧ LoadRoom s gang (tensor 1) 2 ∧ (lanes s gang c (tensor 1)).length = 2
    ∧ (∀ op ∈ [RemoteOp.add, .min, .max, .exch], atomSupported d op (tyOf f) = true) ∧ NoneAbandoned f [patC] s gang
    ∧ Reached s s gang d .atomic (atomItems s gang f d) deviceAt ∧ Unwatched s gang true (atomItems s gang f d)
    ∧ Disjoint (atomItems s gang f d) deviceAt ∧ Described c (memTd c) true s gang s (tensor 1)
    ∧ atomSupported (tensor 1) .cas (tyOf c) = true ∧ Placed (tensor 1) (lanes s gang c (tensor 1))
    ∧ Reached s s gang (tensor 1) .atomic (atomItems s gang c (tensor 1)) deviceAt
    ∧ Disjoint (atomItems s gang c (tensor 1)) deviceAt := by
  refine ⟨rfl, rfl, fun o ho => ⟨rfl, by revert o; decide⟩, ⟨rfl, rfl, rfl⟩, ⟨rfl, rfl, rfl, rfl⟩, by decide, ⟨by decide, by decide⟩, by decide,
    ⟨rfl, ⟨_, rfl, rfl⟩, by decide, fun _ => by decide⟩, placed _ _ (by decide), rfl, ⟨by decide, by decide⟩, by decide, by decide, ?_,
    reached _ _ _ _ _ (by decide), .inr (by decide), ?_, ⟨rfl, ⟨_, rfl, rfl⟩, by decide, fun _ => by decide⟩, by decide,
    placed _ _ (by decide), reached _ _ _ _ _ (by decide), ?_⟩
  · unfold NoneAbandoned; decide
  · unfold Claims.Disjoint; decide
  · unfold Claims.Disjoint; decide

/-- A gang with one complete load, one that is not and brings a word of v4, and a store outstanding. -/
def busy : Gang :=
  { gang with loads := [⟨1, false, true, 0, 1, 0, none, []⟩, ⟨2, false, false, 0, 1, 0, some (0, 1), [⟨1, 0, 4, 77⟩]⟩], stores := [⟨3, 0, none⟩] }

/-- A WAIT that must hold, and one that may count past the first load and the store. -/
theorem witness_WaitAcquiresCompletedLoads :
    let stop := fields 0 0 0 0 0 0 0
    let go := fields 0 0 0 0 0 0 (1 * 2 ^ 18 + 1 * 2 ^ 12 + 255)
    let open_ := (busy.loads.filter fun l => !l.complete).length
    Ready 0x1D1 (fields 0 0 0 0 0 0 0) (world gang) gang ∧ Ready 0x1D2 stop (world busy) busy ∧ condPasses busy stop.grd
    ∧ open_ > 0 ∧ Ready 0x1D2 go (world busy) busy ∧ open_ ≤ (go.imm.extractLsb' 18 6).toNat
    ∧ busy.stores.length ≤ (go.imm.extractLsb' 12 6).toNat
    ∧ closedIncomplete (world busy) 0 busy ≤ (go.imm.extractLsb' 8 4).toNat ∧ (world busy).copies = []
    ∧ busy.loads.take 1 = [⟨1, false, true, 0, 1, 0, none, []⟩] ∧ busy.deferred = [] ∧ busy.batches = []
    ∧ busy.loads = [⟨1, false, true, 0, 1, 0, none, []⟩] ++ ⟨2, false, false, 0, 1, 0, some (0, 1), [⟨1, 0, 4, 77⟩]⟩ :: []
    ∧ RegName.ofSpec 4 = some (.v 4) ∧ busy.stores = ⟨3, 0, none⟩ :: [] :=
  ⟨⟨rfl, rfl, rfl⟩, ⟨rfl, rfl, rfl⟩, rfl, by decide, ⟨rfl, rfl, rfl⟩, by decide, by decide, by decide, rfl, rfl, rfl, rfl, rfl, rfl, rfl⟩

/-- `tensors` with td6 and td7 over the 64 words at the start of the register window, td7 under BMODE 1. -/
def windowed : State :=
  { tensors gang with descs := [(6, descWords (vector 0 2 9 64)), (7, descWords (vector 0 2 9 64 + 2 ^ 70))] }

def windowTensor (td : Nat) : Desc := descOf ((mapGet windowed.descs td).getD [])

/-- Words 1 and 63 of the window, v1 and v63 of thread 0; word 64 out of range and word 0; the line of word 0. -/
theorem witness_RegisterWindowAccesses :
    let f := access 9 4 1 6 6
    let x := access 9 4 2 6 7
    let u := uniformAccess 9 0x305 0x306 6
    let l := uniformAccess 0 4 0 6
    let d := windowTensor 6
    let e := windowTensor 7
    let s := windowed
    d.space = 2 ∧ d.layout = 0 ∧ Ready 0x180 f s gang ∧ Ready 0x186 f s gang ∧ Ready 0x181 f s gang ∧ Ready 0x187 f s gang ∧ Ready 0x182 u s gang
    ∧ Ready 0x183 u s gang ∧ Ready 0x184 l s gang ∧ Described f 6 true s gang s d ∧ Described x 7 true s gang s e ∧ Described u 6 true s gang s d
    ∧ Described l 6 false s gang s d
    ∧ (lanes s gang f d).map (·.coords) = [some [1], some [63]] ∧ (lanes s gang x e).map (·.coords) = [none, some [0]]
    ∧ Placed d (lanes s gang f d) ∧ Placed d (flats s gang f d) ∧ Placed e (lanes s gang x e) ∧ Placed d (single s gang u d)
    ∧ LoadRoom s gang d 2 ∧ StoreRoom s gang d 2
    ∧ ReadsApart f s d (lanes s gang f d) ∧ WindowHas s 0 8 1 ∧ WindowHas s 0 (0x8000 + 8) 0
    ∧ (lanes s gang f d).Pairwise (fun a b => ∀ c c', a.coords = some c → b.coords = some c' → (d.locate c).addr ≠ (d.locate c').addr)
    ∧ NamesRegister 0 8 0 0 1 ∧ mapGet s.gangs 1 = none
    ∧ WindowHas s (cellOf s.cur) ((d.locate [0]).addr + 8 * 0) 0
    ∧ coordsAt s 0 gang l d 0 = some [0] ∧ d.limit = some 0x8A000 ∧ (d.locate [0]).addr = 0
    ∧ ∀ u ∈ parts gang l, ∀ w, w ∈ parts gang l → ¬NamesRegister 0 (8 * (u / 2)) 0 w l.d := by
  intro f x u l d e s
  have desc : ∀ td, td = 6 ∨ td = 7 → fetchDesc s s.cur gang td = .ok ((mapGet windowed.descs td).getD []) s := by
    rintro td (rfl | rfl) <;> decide +kernel
  have named : ∀ a u, ∀ n < 128, a = 8 * (128 * u + n) → u < 32 → NamesRegister 0 a 0 u (BitVec.ofNat 10 n) := fun a u n hn ha hu =>
    ⟨0, 0, by decide, by decide, hu, rfl, .inl ⟨n, hn, rfl, by omega⟩⟩
  have hz : NamesRegister (cellOf s.cur) ((d.locate [0]).addr + 8 * 0) 0 0 0 := by
    rw [show (d.locate [0]).addr + 8 * 0 = 0 by decide, show cellOf s.cur = 0 by decide]
    exact named 0 0 0 (by decide) rfl (by decide : 0 < 32)
  have only : ∀ a u x, a < 0x400 → NamesRegister 0 a 0 u x → x = BitVec.ofNat 10 (a / 8) ∧ u = 0 := by
    rintro a u x ha ⟨q, k, hq, hk, hu, hs, ⟨n, hn, rfl, h⟩ | ⟨n, hn, rfl, h⟩ | ⟨n, hn, rfl, h⟩⟩
    · obtain ⟨h1, h2⟩ : a / 8 = n ∧ u = 0 := by omega
      exact ⟨by rw [h1], h2⟩
    · omega
    · omega
  refine ⟨by decide, by decide, ⟨rfl, by decide, by decide⟩, ⟨rfl, by decide, by decide⟩, ⟨rfl, by decide, by decide⟩, ⟨rfl, by decide, by decide⟩, ⟨rfl, by decide, by decide⟩, ⟨rfl, by decide, by decide⟩, ⟨rfl, by decide, by decide⟩,
    ⟨rfl, ⟨_, desc 6 (.inl rfl), rfl⟩, by decide, fun _ => by decide⟩, ⟨rfl, ⟨_, desc 7 (.inr rfl), rfl⟩, by decide, fun _ => by decide⟩,
    ⟨rfl, ⟨_, desc 6 (.inl rfl), rfl⟩, by decide, fun _ => by decide⟩, ⟨rfl, ⟨_, desc 6 (.inl rfl), rfl⟩, by decide, fun h => by simp at h⟩, by decide, by decide,
    placed _ _ (by decide), placed _ _ (by decide), placed _ _ (by decide), placed _ _ (by decide), ⟨by decide, by decide⟩, ⟨by decide, by decide⟩,
    ?_, ⟨0, 0, 1, named 8 0 1 (by decide) rfl (by decide), by decide⟩, ⟨1, 0, 1, ?_, by decide⟩, ?_, named 8 0 1 (by decide) rfl (by decide),
    by decide, ⟨0, 0, 0, hz, by decide⟩, by decide, by decide, by decide, ?_⟩
  · have hb : ∀ e ∈ lanes s gang f d, ∀ c, e.coords = some c → (d.locate c).addr = 8 ∨ (d.locate c).addr = 504 := by decide
    have hd : ∀ e ∈ lanes s gang f d, elemSpec (tyOf f) f.d e.bit = 4 := by decide
    intro e he c hc k hk u x hx e' he' j hj ht heq
    have hk : k < 1 := hk
    have hj : j < 1 := hj
    obtain rfl : k = 0 := by omega
    obtain rfl : j = 0 := by omega
    rw [hd e' he'] at heq
    have ha := hb e he c hc
    rw [show cellOf s.cur = 0 by decide, show s.cur = 0 by decide] at hx
    have hx' := (only _ u x (by omega) hx).1
    obtain ha | ha := ha <;> rw [ha] at hx' <;> rw [hx'] at heq <;> exact absurd heq (by decide)
  · exact ⟨0, 1, by decide, by decide, by decide, rfl, .inl ⟨1, by decide, rfl, by decide⟩⟩
  · have hl : lanes s gang f d = [⟨0, 0, some [1]⟩, ⟨2, 2, some [63]⟩] := by decide
    have h1 : (d.locate [1]).addr ≠ (d.locate [63]).addr := by decide
    rw [hl]
    refine List.pairwise_pair.2 ?_
    rintro c c' ⟨⟩ ⟨⟩
    exact h1
  · intro u hu w hw h
    have hu : u = 0 ∨ u = 2 := by
      have : parts gang l = [0, 2] := by decide
      rw [this] at hu
      simpa using hu
    have h1 := (only _ w l.d (by omega) h).1
    obtain rfl | rfl := hu <;> exact absurd h1 (by decide)

/-- A gang with a poisoned load, with a fault that an operation of batch 0 has left, with one that a copy on token 3 has left, and with
two closed batches, one of which goes. -/
theorem witness_WaitRaisesAndRetires :
    let all := fields 0 0 0 0 0 0 255
    let one := fields 0 0 0 0 0 0 (255 + 1 * 2 ^ 8)
    let load := fun (p : Mask) => (⟨1, false, true, p, 1, 8, none, []⟩ : OutLoad)
    let g1 := { gang with loads := [load 0, load 5] }
    let d : Deferred := ⟨.batch 0, precise .poison 1⟩
    let c : Deferred := ⟨.copy 3 0, precise .poison 1⟩
    let g2 := { gang with deferred := [d], openBatch := 1 }
    let g3 := { gang with deferred := [c] }
    let g4 := { gang with batches := [⟨0, flagNV, 2, 1, true⟩, ⟨1, 0, 0, 0, false⟩], openBatch := 2 }
    (∀ g ∈ [g1, g2, g3, g4], Ready 0x1D2 all (world g) g ∧ condPasses g all.grd = true ∧ (g.loads.filter fun l => !l.complete).length ≤ 0
      ∧ g.stores.length ≤ 0 ∧ closedIncomplete (world g) (world g).cur g ≤ 0 ∧ (world g).copies = [])
    ∧ g1.loads.take (g1.loads.length - 0) = [load 0] ++ load 5 :: [] ∧ (load 5).poison ≠ 0
    ∧ g2.deferred = [] ++ d :: [] ∧ 0 < g2.openBatch - 0 ∧ g3.deferred = [] ++ c :: [] ∧ (255 : BitVec 8).getLsbD 3 = true
    ∧ (∀ f ∈ [all, one], Ready 0x1D2 f (world g4) g4)
    ∧ (one.imm.extractLsb' 8 4).toNat = 1 ∧ (g4.batches.filter fun b => decide (b.n < g4.openBatch - 1)) = [] ++ [⟨0, flagNV, 2, 1, true⟩]
    ∧ (g4.batches.filter fun b => decide (b.n < 0)) = [] := by
  intro all one load g1 d c g2 g3 g4
  refine ⟨?_, rfl, by decide, rfl, by decide, rfl, by decide, ?_, by decide, by decide, by decide⟩
  · intro g hg
    simp only [List.mem_cons, List.not_mem_nil, or_false] at hg
    obtain rfl | rfl | rfl | rfl := hg <;> exact ⟨⟨rfl, rfl, by decide⟩, rfl, by decide, by decide, by decide, rfl⟩
  · intro f hf
    simp only [List.mem_cons, List.not_mem_nil, or_false] at hf
    obtain rfl | rfl := hf <;> exact ⟨rfl, rfl, by decide⟩

/-! ## Witnesses: the matrix unit -/

/-- A gang with four bound names whose rows begin 56 and 112 elements in. -/
def drainer : Gang :=
  { gang with regs := [(1, 56), (1024 * 2 + 1, 112)], accs := [(0, 0), (1, 1), (2, 2), (3, 3)] }

/-- A filled plane of FP16 of a layout. -/
def filled (layout : Nat) : Plane := ⟨true, 12, layout, 0, 64, [], [], gang.wg, none⟩

/-- A bay whose tiles 0 to 3 hold a chain of each kind; td1 plain FP16, td2 magnitude-ordered FP16, td3 a threshold cell, td4 a
top-k structure. -/
def matrices (layout : Nat) (g : Gang) : State :=
  { world g with
    matrix := [(0, { active := 0, planes := [filled layout, filled layout], claim := some gang.wg, queue := []
                     tiles := [(0, Tile.fresh .plain 0), (1, Tile.fresh .sign 0), (2, Tile.fresh .gt 0), (3, Tile.fresh .topk 0)] })]
    descs := [(1, descWords (vector 0x20000 0 12 4096)), (2, descWords (vector 0x20000 0 12 4096 + 3 * 2 ^ 68)),
              (3, descWords (vector 0x200 1 11 16)), (4, descWords (vector 0x400 1 9 64))] }

/-- The same bay with all sixteen tiles bound and the operations given. -/
def crowded (queue : List MatOp) : State :=
  let s := matrices 0 drainer
  { s with matrix := [(0, { unitOf s 0 with queue := queue, tiles := (List.range 16).map fun k => (k, Tile.fresh .plain 0) })] }

theorem mapGet_mem {α : Type} (m : AMap α) (k : Nat) (v : α) (h : mapGet m k = some v) : (k, v) ∈ m := by
  induction m with
  | nil => simp [mapGet] at h
  | cons e r ih =>
    obtain ⟨j, x⟩ := e
    have h : (if j = k then some x else mapGet r k) = some v := h
    split at h
    · next hj => obtain rfl := Option.some.inj h; exact hj ▸ List.mem_cons_self ..
    · exact List.mem_cons_of_mem _ (ih h)

theorem bound_in_use (u : Matrix) (h : (u.tiles.all fun e => e.2.owner.isSome) = true) : RetiringInUse u := by
  intro j t hj ho
  have hm : (j, t) ∈ u.tiles := mapGet_mem u.tiles j t hj
  have := List.all_eq_true.1 h _ hm
  simp [ho] at this

/-- The descriptor of an index. -/
def matrixTensor (td : Nat) : Desc := descOf ((mapGet (matrices 0 gang).descs td).getD [])

/-- Plain rows, magnitude-ordered rows, the four kinds of chain bound and unbound, and the reads of an accumulator. -/
theorem witness_MatrixOperationsAreQueued :
    let f := fun d c td => access 12 d 1 c td
    let s := matrices 0 drainer
    let o := matrices 3 drainer
    let d := matrixTensor 1
    let e := matrixTensor 2
    anyPart drainer (f 0 0 1) ∧ Participating drainer (f 0 0 1) 5 ∧ PairFree s drainer ∧ unitFaulted drainer = false ∧ d.layout ≠ 2
    ∧ Ready 0x200 (f 0 0 1) s drainer ∧ Described (f 0 0 1) 1 true s drainer s d
    ∧ rowFault d (chunkSpan d) (chunkSpan d) (lanes s drainer (f 0 0 1) d) = none
    ∧ Described (f 0 0 2) 2 true o drainer o e ∧ rowFault e (chunkSpan e) (chunkSpan e) (lanes o drainer (f 0 0 2) e) = none
    ∧ Ready 0x203 (f 0 0 1) s drainer ∧ planeAgrees (planeOf (unitOf s 0) 0) drainer d false = true
    ∧ Threshold (f 0 0 1) s s drainer .plain 0 none ∧ mapGet drainer.accs 0 = some 0
    ∧ Ready 0x244 (f 1 0 2) o drainer ∧ planeAgrees (planeOf (unitOf o 0) 0) drainer e true = true
    ∧ Threshold (f 1 0 2) o o drainer .sign 0 none ∧ mapGet drainer.accs 1 = some 1
    ∧ Ready 0x245 (f 2 6 2) o drainer ∧ Threshold (f 2 6 2) o o drainer .gt (srcC (f 2 6 2) o drainer 0) none
    ∧ Ready 0x246 (f 3 3 2) o drainer ∧ Threshold (f 3 3 2) o o drainer .topk 0 (some (matrixTensor 3, 3))
    ∧ (∀ k ∈ [(0, ChainKind.plain), (1, .sign), (2, .gt), (3, .topk)],
        (mapGet (unitOf s 0).tiles k.1).map (·.kind) = some k.2)
    ∧ Ready 0x202 (f 4 0 1) s drainer ∧ Ready 0x242 (f 4 3 2) o drainer ∧ mapGet drainer.accs 4 = none
    ∧ FirstFree (unitOf s 0) 4 ∧ RetiringInUse (unitOf s 0)
    ∧ NoneFree (unitOf (crowded []) 0) ∧ RetiringInUse (unitOf (crowded []) 0) ∧ inUse (unitOf (crowded []) 0) 0 = false
    ∧ inUse (unitOf (crowded [{ MatOp.of .macc (f 0 0 1) 0 drainer [] with tile := 0 }]) 0) 0 = true ∧ Ready 0x202 (f 0 0 1) (crowded []) drainer
    ∧ PairFree (crowded []) drainer ∧ planeAgrees (planeOf (unitOf (crowded []) 0) 0) drainer d false = true
    ∧ Ready 0x204 (fields 11 0 8 0 0 0 3) s drainer ∧ Ready 0x206 (fields 11 0 8 0 0 0 31) s drainer
    ∧ Ready 0x248 (fields 0 0 2 1 6 0 0) s drainer ∧ Ready 0x205 (f 0 0 1) s drainer ∧ storeRowLayout d = true
    ∧ rowFault d (spanOf d.type) 32 (lanes s drainer (f 0 0 1) d) = none
    ∧ Ready 0x249 (uniformAccess 0 3 8 4) s drainer ∧ Described (uniformAccess 0 3 8 4) 4 false s drainer s (matrixTensor 4)
    ∧ topkDesc (matrixTensor 4) = true ∧ coordsAt s 0 drainer (uniformAccess 0 3 8 4) (matrixTensor 4) 0 = some [0]
    ∧ topkFault s 0 (matrixTensor 4) (some [0]) 5 = none ∧ (∀ x, cellAt s 0 drainer 3 x = .go (matrixTensor 3) s) :=
  ⟨by decide, by unfold Participating; decide, .inr rfl, rfl, by decide, ⟨rfl, rfl, rfl⟩,
    ⟨rfl, ⟨_, rfl, rfl⟩, by decide, fun _ => by decide⟩, by decide,
    ⟨rfl, ⟨_, rfl, rfl⟩, by decide, fun _ => by decide⟩, by decide, ⟨rfl, rfl, rfl⟩, by decide, ⟨rfl, rfl⟩, rfl, ⟨rfl, rfl, rfl⟩, by decide,
    ⟨rfl, rfl⟩, rfl, ⟨rfl, rfl, rfl⟩, ⟨rfl, rfl⟩, ⟨rfl, rfl, rfl⟩, ⟨rfl, _, _, fun _ => rfl, rfl⟩, by decide, ⟨rfl, rfl, rfl⟩, ⟨rfl, rfl, rfl⟩, rfl,
    ⟨by decide, rfl, by decide⟩, bound_in_use _ (by decide), by unfold NoneFree; decide, bound_in_use _ (by decide), by decide, by decide,
    ⟨rfl, rfl, rfl⟩, .inr rfl, by decide,
    ⟨rfl, rfl, rfl⟩, ⟨rfl, rfl, rfl⟩, ⟨rfl, rfl, rfl⟩, ⟨rfl, rfl, rfl⟩, by decide, by decide, ⟨rfl, rfl, rfl⟩,
    ⟨rfl, ⟨_, rfl, rfl⟩, by decide, fun h => by simp at h⟩, by decide, by decide, by decide, fun _ => rfl⟩

theorem witness_PlaneSwapBatchCloseAndRelease :
    let s := matrices 0 drainer
    condPasses drainer 0 = true ∧ Ready 0x201 (fields 0 0 0 0 0 0 0) s drainer ∧ PairFree s drainer ∧ (unitOf s (here s)).queue = []
    ∧ Ready 0x201 (expandShort 0x201 ⟨0, 0, 0, 0⟩) s drainer ∧ Ready 0x207 (fields 0 0 0 0 0 0 0) s drainer
    ∧ closedIncomplete s s.cur drainer < 16 ∧ Ready 0x208 (fields 0 0 0 3 0 0 0) s drainer ∧ mapGet drainer.accs 3 = some 3
    ∧ mapGet s.matrix (here s) = some (unitOf s (here s)) ∧ mapGet (unitOf s (here s)).tiles 3 = some (Tile.fresh .topk 0) :=
  ⟨rfl, ⟨rfl, rfl, rfl⟩, .inr rfl, rfl, ⟨rfl, rfl, rfl⟩, ⟨rfl, rfl, rfl⟩, by decide, ⟨rfl, rfl, rfl⟩, rfl, rfl, rfl⟩

/-- The header of a line of matrix rows: FP16, exponent bound 100, 56 elements (R133). -/
def rowHeader : Nat := 1 + 12 * 2 ^ 8 + 100 * 2 ^ 24 + 56 * 2 ^ 32

/-- An operation on tile 1 into register or predicate 2 of threads 0 and 2. -/
def drainOp (kind : MatKind) : MatOp := { MatOp.of kind (fields 12 0 2 1 0 0 0) 0 drainer [] with threads := 5, tile := 1, dst := 2 }

/-- An operation on row 0 of a descriptor, in thread 0. -/
def rowOp (kind : MatKind) (td : Nat) : MatOp := { drainOp kind with desc := matrixTensor td, threads := 1, coords := [(0, [0])] }

/-- TKINS of thread 0 into an empty structure of capacity 4 at 0x400. -/
def insertOp : MatOp := { rowOp .tkins 4 with cell := some (matrixTensor 3, 3), data := [(0, 0x3F800000)] }

/-- A bay with one operation; row 0 of td2 has a header, the top-k structure of td4 its capacity. -/
def unitAt (op : MatOp) : State :=
  let s := paWrite (spadWrite (matrices 0 drainer) 0 0x400 [4]) loadPartition 0x20000 (natToBytes 16 rowHeader)
  { s with matrix := [(0, { unitOf (matrices 0 drainer) 0 with queue := [op] })] }

theorem heads (op : MatOp) (hs : op.slot = 0 := by rfl) (h : op.fetched = [] ∧ op.sent = [] ∧ op.failed = [] := by exact ⟨rfl, rfl, rfl⟩) :
    Heads (unitAt op) 0 0 drainer { unitOf (matrices 0 drainer) 0 with queue := [op] } op [] :=
  ⟨rfl, rfl, rfl, hs, h.1, h.2.1, h.2.2, List.Pairwise.nil⟩

/-- What fetching the rows of an operation in the machine of `unitAt` gives. -/
def fetchedRows (op : MatOp) : Gather :=
  gatherAll (unitAt op) 0 drainer op op.desc .read 0
    (op.coords.map fun e => ⟨e.1, op.desc.permCoord e.2, (op.desc.rowSpan e.2 (chunkSpan op.desc)).1, (op.desc.rowSpan e.2 (chunkSpan op.desc)).2⟩)

/-- The rows themselves. -/
def theRows (op : MatOp) : AMap Row :=
  op.coords.map fun e => (e.1, rowOf op.desc (chunkSpan op.desc) e.2 ((fetchedRows op).op.bytes 0 e.1))

/-- Whether the rows come, and are good. -/
def rowsCome (op : MatOp) : Bool :=
  let w := fetchedRows op
  decide (op.desc.layout ≠ 2) && (op.coords.all fun e => (op.desc.rowSpan e.2 (chunkSpan op.desc)).2 != 0 && decide (e.1 < 32))
    && !w.missed && !w.away && (failureOf w.op.failed).isNone && decide (op.coords.map (·.1)).Nodup
    && decide (w.s.gangs = (unitAt op).gangs) && decide (w.s.matrix = (unitAt op).matrix)
    && wideMask ((theRows op).map (·.1)) (fun t => ((mapGet (theRows op) t).map fun r => !r.ok).getD false) == 0

theorem rows_are (op : MatOp) (h : rowsCome op = true) :
    RowsAre (unitAt op) 0 drainer op op.coords (fetchedRows op).s (theRows op) := by
  simp only [rowsCome, Bool.and_eq_true, decide_eq_true_eq, Bool.not_eq_true', beq_iff_eq, Option.isNone_iff_eq_none] at h
  obtain ⟨⟨⟨⟨⟨⟨⟨⟨hl, hz⟩, hm⟩, ha⟩, hf⟩, hn⟩, hg⟩, hx⟩, hb⟩ := h
  have hz' : ∀ e ∈ op.coords, (op.desc.rowSpan e.2 (chunkSpan op.desc)).2 ≠ 0 ∧ e.1 < 32 := by
    intro e he
    simpa using List.all_eq_true.1 hz e he
  have hfil : (op.coords.map fun e => (⟨e.1, op.desc.permCoord e.2, (op.desc.rowSpan e.2 (chunkSpan op.desc)).1,
      (op.desc.rowSpan e.2 (chunkSpan op.desc)).2⟩ : Range)).filter (fun r => r.size != 0)
      = op.coords.map fun e => ⟨e.1, op.desc.permCoord e.2, (op.desc.rowSpan e.2 (chunkSpan op.desc)).1, (op.desc.rowSpan e.2 (chunkSpan op.desc)).2⟩ := by
    refine List.filter_eq_self.2 fun r hr => ?_
    obtain ⟨e, he, rfl⟩ := List.mem_map.1 hr
    simpa using (hz' e he).1
  have hmap : (theRows op).map (·.1) = op.coords.map (·.1) := by simp [theRows]
  refine ⟨fun k => ?_, hmap, hmap ▸ hn, ?_, hg, hx⟩
  · simp only [opRows, hl, if_false, plainRows, hfil]
    change gathered op.td 0 (fetchedRows op) _ = _
    simp only [gathered, hm, ha, hf, Bool.or_self, Bool.false_eq_true, if_false]
    change (if wideMask ((theRows op).map (·.1)) (fun t => ((mapGet (theRows op) t).map fun r => !r.ok).getD false) ≠ 0 then _ else _) = _
    rw [hb]; simp only [ne_eq, not_true_eq_false, if_false]
    rfl
  · intro e he
    obtain ⟨x, hx, rfl⟩ := List.mem_map.1 he
    exact (hz' x hx).2

/-- Each performance of the unit: a drain, a read, a test; a row of plain FP16 and one with a header, which a load, an
accumulation and a verdict take; a store of a row; an insertion. -/
theorem witness_UnitPerformsDrains :
    (∀ kind ∈ [MatKind.mdrn, .mrd, .vtest], Heads (unitAt (drainOp kind)) 0 0 drainer { unitOf (matrices 0 drainer) 0 with queue := [drainOp kind] } (drainOp kind) []
      ∧ fmtOf (opTy (drainOp kind)) ∈ ieee ∧ mapGet (unitOf (matrices 0 drainer) 0).tiles (drainOp kind).tile = some (Tile.fresh .sign 0)
      ∧ (drainOp kind).column + 8 ≤ 32)
    ∧ (∀ kind ∈ [MatKind.mlds, .macc, .vacc], ∀ td ∈ [1, 2],
      RowsAre (unitAt (rowOp kind td)) 0 drainer (rowOp kind td) (rowOp kind td).coords (fetchedRows (rowOp kind td)).s (theRows (rowOp kind td))
      ∧ (rowOp kind td).desc.layout ≠ 2 ∧ ((rowOp kind td).coords.map (·.1)).Nodup ∧ (∀ e ∈ theRows (rowOp kind td), e.2.vals.length ≤ 512))
    ∧ (∀ kind ∈ [MatKind.mlds, .macc, .vacc, .msto, .tkins], ∀ td ∈ [1, 2, 4],
      Heads (unitAt (rowOp kind td)) 0 0 drainer { unitOf (matrices 0 drainer) 0 with queue := [rowOp kind td] } (rowOp kind td) [])
    ∧ (Tile.fresh .sign 0).owner.isSome ∧ (rowOp .mlds 1).plane < 2 ∧ (rowOp .vacc 2).cell = none
    ∧ (rowOp .vacc 2).coords.filter (fun e => !rowAbandoned { Tile.fresh .sign 0 with threshold := (rowOp .vacc 2).threshold } e.1) = (rowOp .vacc 2).coords
    ∧ (let op := rowOp .msto 1
       partialBlocks op = [] ∧ rowHasAbandoned op (Tile.fresh .sign 0) 0 [0] = false
       ∧ (storeRow op (Tile.fresh .sign 0) 0 [0] []).1.length = 64 ∧ op.desc.layout = 0 ∧ op.desc.scale = 0 ∧ (opTy op).isBx = false
       ∧ reach (unitAt op) 0 drainer op.desc (op.desc.permCoord [0]) (op.desc.rowSpan [0] 32).1 64 .write (.matrix 0)
         = .ok (.device loadPartition (consecutive 0x20000 64))
       ∧ (cells (.device loadPartition (consecutive 0x20000 64))).Nodup)
    ∧ Heads (unitAt insertOp) 0 0 drainer { unitOf (matrices 0 drainer) 0 with queue := [insertOp] } insertOp []
    ∧ (let d := insertOp.desc
       let place := fun n => (consecutive (d.locate [0]).addr n).map (permuteAddr d.perm (coord1 [0]))
       d.space = 1 ∧ TopkSorted [] ∧ (place 16).map (spadByte (unitAt insertOp) 0) = natToBytes 8 4 ++ natToBytes 8 0
       ∧ (∀ a ∈ place (16 + 8 * 4), a < 0xE8000) ∧ insertOp.threads ≠ 0
       ∧ reach (unitAt insertOp) 0 drainer (matrixTensor 3) 0 (matrixTensor 3).base 4 .atomic (.matrix 0) = .ok (.scratch 0 (consecutive 0x200 4))
       ∧ (cells (.scratch 0 (consecutive 0x200 4))).Nodup ∧ (cells (.scratch 0 (consecutive 0x200 4))).length = 4
       ∧ (∀ a ∈ place (16 + 8 * 4), (2, a) ∉ cells (.scratch 0 (consecutive 0x200 4)))
       ∧ ∀ o ∈ consecutive 0x200 4, foreignSlot (unitAt insertOp) drainer.wg o = false) := by
  refine ⟨fun kind hk => ⟨heads _, by simp [ieee, opTy, drainOp, MatOp.of, fields, Ty.ofCode, fmtOf], rfl, by simp [drainOp, MatOp.of]⟩,
    fun kind hk td ht => ⟨rows_are _ ?_, ?_, by simp [rowOp], ?_⟩, fun kind hk td ht => heads _, rfl, by decide, rfl, by decide +kernel,
    ⟨rfl, by decide +kernel, by decide +kernel, by decide +kernel, by decide +kernel, by decide +kernel, by decide +kernel, by decide +kernel⟩, heads _,
    by decide +kernel, List.Pairwise.nil, by decide +kernel, by decide +kernel, by decide +kernel, by decide +kernel, by decide +kernel, by decide +kernel, by decide +kernel, by decide +kernel⟩
  all_goals (revert kind td; decide +kernel)

/-- 1 + 1·1 and −0 + (−0)·1. -/
theorem witness_ChunkSumRoundsOnce :
    let one := FVal.fin false 1 0
    let zero := FVal.fin true 0 0
    ratOf (fmtF64.value (0x3FF0000000000000 : Word).toNat) = some 1 ∧ [some 1] = List.zipWith (fun x y => ratOf (x.mul y)) [one] [one]
    ∧ ratOf (fmtF64.value (0x8000000000000000 : Word).toNat) = some 0
    ∧ [some 0] = List.zipWith (fun x y => ratOf (x.mul y)) [zero] [one]
    ∧ (∀ v ∈ [one, zero], ratOf v ≠ none) := by
  have h1 : fmtF64.value (0x3FF0000000000000 : Word).toNat = .fin false (2 ^ 52) (-52) := by decide
  have h2 : fmtF64.value (0x8000000000000000 : Word).toNat = .fin true 0 (-1074) := by decide
  rw [h1, h2]
  refine ⟨?_, ?_, ?_, ?_, ?_⟩ <;> norm_num [ratOf, exact, FVal.mul]
  exact ⟨Option.some_ne_none _, Option.some_ne_none _⟩

/-- An MLDS of another gang that issued before an MSWAP, and one that issued after it. -/
theorem witness_PlaneSwapHolds :
    let g := { drainer with issuedAt := 5 }
    let load := fun n => { MatOp.of .mlds (fields 0 0 0 0 0 0 0) 1 drainer [] with seq := n }
    let with_ := fun n => let s := matrices 0 g; { s with matrix := [(0, { unitOf s 0 with queue := [load n] })] }
    (∀ n ∈ [4, 5], Ready 0x201 (fields 0 0 0 0 0 0 0) (with_ n) g ∧ PairFree (with_ n) g)
    ∧ (∃ o ∈ (unitOf (with_ 4) 0).queue, o.kind = .mlds ∧ o.seq < g.issuedAt)
    ∧ ∀ o ∈ (unitOf (with_ 5) 0).queue, o.kind = .mlds → g.issuedAt ≤ o.seq := by
  intro g load with_
  refine ⟨?_, ⟨_, List.mem_singleton_self _, rfl, by decide⟩, by decide⟩
  intro n hn
  simp only [List.mem_cons, List.not_mem_nil, or_false] at hn
  obtain rfl | rfl := hn <;> exact ⟨⟨rfl, rfl, rfl⟩, .inr (by decide)⟩

/-! ## Witnesses: barriers, rings, copies -/

/-- s6 is an argument; td3 names scratchpad words from 0x100 on, where a barrier of the value `x` lies. -/
def waiter (arg : Word) : Gang := { gang with sregs := [(6, arg)] }
def barriers (arg : Word) (x : Nat) : State :=
  { tensors gang with gangs := [(0, waiter arg)], spad := (barPut State.reset 0 0x100 x).spad }

theorem fetch_cached (s : State) (slot : Nat) (g : Gang) (td : Nat) (w : List Word)
    (h : mapGet s.descs (descKey (cellOf slot) g.vf td) = some w) : fetchDesc s slot g td = .ok w s := by
  simp [fetchDesc, fetchEntry, h]

theorem barrier_named (arg : Word) (x : Nat) :
    NamesBarrier (uniformAccess 9 4 0x306 3) (barriers arg x) (waiter arg) (barriers arg x) 0x100 := by
  refine ⟨_, tensor 3, [0], fetch_cached _ _ _ _ _ (show mapGet (tensors gang).descs (descKey (cellOf 0) 0 3) = _ from rfl), rfl, ?_, ?_, ?_, ?_, ?_, ?_, ?_, ?_, ?_⟩
  · decide
  · decide
  · decide
  · decide
  · rfl
  · decide
  · decide
  · decide
  · decide

theorem barrier_rank (arg : Word) (x : Nat) : originRank (barriers arg x) (barriers arg x).cur (waiter arg) 3 = 1 := by
  have h : peekDesc (barriers arg x) (barriers arg x).cur (waiter arg) 3 = (descWords (vector 0x100 1 9 64))[1]? := by
    have h : mapGet (barriers arg x).descs (descKey (cellOf (barriers arg x).cur) (waiter arg).vf 3) = some (descWords (vector 0x100 1 9 64)) := by
      show mapGet (tensors gang).descs (descKey (cellOf 0) 0 3) = _
      decide
    simp [peekDesc, h]
  show (if 1 ≤ bits ((peekDesc (barriers arg x) (barriers arg x).cur (waiter arg) 3).getD 0).toNat 1 3 ∧ _ then _ else _) = 1
  rw [h]
  decide

theorem barrier_known (arg : Word) (x opc : Nat) (f : Fields) (h : originDescs opc f = [3]) :
    rankAt (barriers arg x) (barriers arg x).cur (waiter arg) opc f = .known := by
  have hd : (mapGet (barriers arg x).descs (descKey (cellOf (barriers arg x).cur) (waiter arg).vf 3)).isSome := by
    show (mapGet (tensors gang).descs (descKey (cellOf 0) 0 3)).isSome
    decide
  have hr : descRank (barriers arg x) (barriers arg x).cur (waiter arg) 3 = .known := by
    unfold descRank
    rw [if_pos (.inl hd)]
  unfold rankAt
  rw [h]
  split
  · rfl
  · exact hr

theorem barrier_ready (arg : Word) (x : Nat) :
    ∀ opc ∈ [0x282, 0x283, 0x284, 0x285, 0x286], Ready opc (uniformAccess 9 4 0x306 3) (barriers arg x) (waiter arg) := by
  intro opc h
  simp only [List.mem_cons, List.not_mem_nil, or_false] at h
  have hA : ∀ opc ∈ [0x282, 0x283, 0x284, 0x285, 0x286], originA opc (uniformAccess 9 4 0x306 3) = some 3 := by decide
  have hB : ∀ opc ∈ [0x282, 0x283, 0x284, 0x285, 0x286], originB opc (uniformAccess 9 4 0x306 3) = none := by decide
  refine ⟨rfl, barrier_known _ _ _ _ (by rw [originDescs, hA opc (by simpa using h), hB opc (by simpa using h)]; rfl), ?_⟩
  unfold hazard spanRoles
  rw [hA opc (by simpa using h), hB opc (by simpa using h)]
  simp only [barrier_rank]
  obtain rfl | rfl | rfl | rfl | rfl := h <;> rfl

theorem barrier_reportable (arg : Word) (x : Nat) : Reportable (barriers arg x) (waiter arg) :=
  ⟨rfl, loadWorkgroup, rfl, by decide, by decide⟩

/-- A gang that an overrun will be reported to. -/
def overrun : GFault := ⟨.barrierOverrun, 0x100, 1, false, some 0, 0⟩

/-- BINIT of a local barrier; BEXP within 2^32 and past it; BARV with and without an arrival left; both answers of BWAIT and
BTRY; an arrival at a root and a broadcast in cells 0 to 7, and a pending report. -/
theorem witness_BarrierResults :
    let f := uniformAccess 9 4 0x306 3
    let full := (2 ^ 32 - 1) * 2 ^ 96
    let one := 2 ^ 80
    let root : RootArrival := ⟨1, 0x200, 0, 0x100, ⟨0, 0, 0, 0, 0, none, 0⟩⟩
    let r := { barriers 0 (one + 2 * 2 ^ 62) with rootArrivals := [root] }
    let b : Broadcast := ⟨0, 0x100, ⟨0, 0, 0, 0, 0, none, 0⟩⟩
    let late := { waiter 0 with deferred := [⟨.report, overrun⟩] }
    anyPart (waiter 2) f ∧ bits (srcC f (barriers 2 0) (waiter 2) 0).toNat 16 24 = 0
    ∧ bits (srcC f (barriers 2 0) (waiter 2) 0).toNat 56 3 = 0 ∧ bits (srcC f (barriers 2 0) (waiter 2) 0).toNat 62 2 = 0
    ∧ pbytesIn (barGet (barriers 1 0) 0 0x100) + 1 < 2 ^ 32 ∧ pbytesIn (barGet (barriers 1 full) 0 0x100) + 1 = 2 ^ 32
    ∧ parrIn (barGet (barriers 0 one) 0 0x100) = 1 ∧ parrIn (barGet (barriers 0 0) 0 0x100) = 0 ∧ NoLateCopy (waiter 0)
    ∧ phaseIn (barGet (barriers 0 0) 0 0x100) = 0 ∧ phaseIn (barGet (barriers 1 0) 0 0x100) ≠ 1
    ∧ r.rootArrivals = root :: [] ∧ root.rootOffset + 16 ≤ 2 ^ 20 ∧ parrIn (barGet r 0 0x100) ≠ 0 ∧ modeIn (barGet r 0 0x100) = 2
    ∧ r.leaves = [] ∧ ({ r with broadcasts := [b] }).broadcasts = [] ++ b :: [] ∧ b.offset + 16 ≤ 2 ^ 20
    ∧ late.deferred = [] ++ ⟨.report, overrun⟩ :: [] :=
  ⟨by decide, by decide, by decide, by decide, by decide, by decide, by decide, by decide, fun _ h => by simp [waiter, gang, Gang.launched] at h,
    by decide, by decide, rfl, by decide, by decide, by decide, rfl, rfl, by decide, rfl⟩

/-- A ring of the issuing cell. -/
def ring (slots : List RingSlot) : Ring := ⟨gang.wg, 0, 128, slots, 0, 0, []⟩

/-- A ring's gang: s6 configures the largest ring that ends at 0xE8000, s7 names slot 1, s8 slot 2. -/
def ringer : Gang := { gang with sregs := [(6, 0x0D200080), (7, 1 * 2 ^ 24), (8, 2 * 2 ^ 24)] }

/-- A cell with ring 2. -/
def ringed (slots : List RingSlot) : State := { world ringer with rings := [(2, ring slots)] }

/-- RRES.init of a ring of 14 slots of 64 KiB; a slot taken and missed; a slot returned in order, out of order, and past the
last. -/
theorem witness_RingResults :
    let f := fun (a : BitVec 10) (imm : BitVec 31) => fields 0 0 4 a 0 1 imm
    let cfg := (srcA (f 0x306 0) (world ringer) ringer 0).toNat
    let size := bits cfg 12 12 * 128
    anyPart ringer (f 0 0) ∧ NoLateCopy ringer ∧ Ready 0x287 (f 0x306 34) (world ringer) ringer ∧ (34 : BitVec 31).getLsbD 5 = true
    ∧ cfg < 2 ^ 30 ∧ 0 < size ∧ size = 512 * 128 ∧ bits cfg 0 12 * 256 + (bits cfg 24 6 + 1) * size = 0xE8000
    ∧ mapGet (world ringer).rings 2 = none ∧ (∀ e ∈ (world ringer).gangs, e.1 ≠ 0 → e.2.hold ≠ some (.ring 0 2))
    ∧ OwnsRing (f 0 2) (ringed [.free, .filled]) ringer (ring [.free, .filled]) ∧ Ready 0x287 (f 0 2) (ringed [.free, .filled]) ringer
    ∧ OwnsRing (f 0 18) (ringed [.reserved, .filled]) ringer (ring [.reserved, .filled])
    ∧ Ready 0x287 (f 0 18) (ringed [.reserved, .filled]) ringer
    ∧ OwnsRing (f 0 2) (ringed [.filled, .free]) ringer (ring [.filled, .free]) ∧ Ready 0x289 (f 0 2) (ringed [.filled, .free]) ringer
    ∧ Ready 0x289 (f 0 2) (ringed [.free, .filled]) ringer ∧ Lowest ringer (f 0 0) 0
    ∧ bits (srcA (f 0x307 2) (ringed [.acquired, .reserved]) ringer 0).toNat 24 6 = 1
    ∧ bits (srcA (f 0 2) (ringed [.acquired, .reserved]) ringer 0).toNat 24 6 = 0
    ∧ bits (srcA (f 0x308 2) (ringed [.acquired, .reserved]) ringer 0).toNat 24 6 = 2
    ∧ Ready 0x288 (f 0x307 2) (ringed [.acquired, .reserved]) ringer ∧ Ready 0x28A (f 0 2) (ringed [.acquired, .reserved]) ringer :=
  ⟨by decide, fun _ h => by simp [ringer, gang, Gang.launched] at h, ⟨rfl, rfl, rfl⟩, rfl, by decide, by decide, by decide, by decide, rfl, by decide,
    ⟨rfl, rfl⟩, ⟨rfl, rfl, rfl⟩, ⟨rfl, rfl⟩, ⟨rfl, rfl, rfl⟩, ⟨rfl, rfl⟩, ⟨rfl, rfl, rfl⟩, ⟨rfl, rfl, rfl⟩,
    ⟨by decide, by decide, fun u h => absurd h (Nat.not_lt_zero u)⟩, by decide, by decide, by decide, ⟨rfl, rfl, rfl⟩, ⟨rfl, rfl, rfl⟩⟩

/-- The words of a descriptor of tiles of 4 words, and the descriptor. -/
def tiles (base space : Nat) : List Word := (descWords (vector base space 8 64)).take 6 ++ [4 * 2 ^ 48, 1]
def tiled (base space : Nat) : Desc := descOf (tiles base space)

/-- td1 in device memory, td3 in the scratchpad; s6 names the barrier at 0x200, s7 cells 0 and 1 as well. -/
def copier : Gang := { gang with sregs := [(6, 0x200), (7, 0x200 + 3 * 2 ^ 32), (8, 0x200)] }
def copying (rings : AMap Ring) : State :=
  { world copier with descs := [(1, tiles 0x20000 0),
      (3, tiles 0x100 1)], rings := rings }

/-- A copy of td1's first tile to td3's. -/
def copyFields (c : BitVec 10) (imm : Nat) : Fields := fields 0 0 0 0x302 0x304 c (BitVec.ofNat 31 (3 * 2 ^ 21 + 2 ^ 11 + imm))

/-- Whether the copy's descriptors and places pass. -/
def copyOk (f : Fields) (s : State) (target : Desc) (bar : Option Nat) (scratch : Bool) : Bool :=
  let dd := tiled 0x100 1
  let ds := tiled 0x20000 0
  mapGet s.descs (descKey (cellOf s.cur) copier.vf (bits f.imm.toNat 21 10)) == some (tiles 0x100 1)
    && mapGet s.descs (descKey (cellOf s.cur) copier.vf (bits f.imm.toNat 11 10)) == some (tiles 0x20000 0) && dd.ok && ds.ok
    && copier.idx == ((nodeOf s copier).map (·.producer)).getD 0 && s.parts == [(0, loadPartition)] && cellOf s.cur == 0
    && copyAgrees dd ds scratch && tileAligned dd (originAt s s.cur copier f.a dd.rank) && tileAligned ds (originAt s s.cur copier f.b ds.rank)
    && bar.getD 0 % 16 == 0 && inRange (originAt s s.cur copier f.a dd.rank) dd.extents && inRange (originAt s s.cur copier f.b ds.rank) ds.extents
    && copyPlace s target ds (originAt s s.cur copier f.a dd.rank) (originAt s s.cur copier f.b ds.rank) bar == none && s.copies.isEmpty

theorem copy_checked (f : Fields) (s : State) (target : Desc) (bar : Option Nat) (scratch : Bool)
    (h : copyOk f s target bar scratch = true) :
    CopyChecked f s s copier (tiled 0x100 1) (tiled 0x20000 0) target bar scratch := by
  simp only [copyOk, Bool.and_eq_true, beq_iff_eq, List.isEmpty_iff] at h
  obtain ⟨⟨⟨⟨⟨⟨⟨⟨⟨⟨⟨⟨⟨⟨hd, hs⟩, hdo⟩, hso⟩, hi⟩, hp⟩, hc⟩, ha⟩, ht1⟩, ht2⟩, hb⟩, hr1⟩, hr2⟩, hpl⟩, hn⟩ := h
  refine ⟨⟨_, _, s, fetch_cached _ _ _ _ _ hd, rfl, hdo, fetch_cached _ _ _ _ _ hs, rfl, hso⟩, hi,
    ⟨0, loadPartition, ?_, ?_⟩, ha, ht1, ht2, hb, fun _ => hr1, fun _ => hr2, hpl, ?_⟩
  · unfold partOf; rw [hp]; rfl
  · rw [hc]; decide
  · rw [hn]; simp

/-- A pending copy of the tile, with completion at the barrier of 0x200 and commitment of slot 0 of ring 2. -/
def pendingCopy : Copy :=
  { slot := 0, vf := 0, lslot := 0, wg := gang.wg, idx := 0, cell := 0, token := 0, dst := tiled 0x100 1, src := tiled 0x20000 0
    dstTd := 3, srcTd := 1, dstAt := [0], srcAt := [0], bar := some 0x200, mask := none, ring := some (2, 0), addr := 0, marks := 0
    sent := [], fetched := [], data := none, counted := [], written := [], hit := none, keys := [] }

/-- The cell whose barrier expects 16 bytes, and whose ring's slot 0 is reserved. -/
def copyPending : State :=
  { copying [(2, ring [.reserved])] with copies := [(5, pendingCopy)], spad := (barPut State.reset 0 0x200 (16 * 2 ^ 96)).spad }

theorem has_turn : HasTurn copyPending 5 pendingCopy := by
  refine ⟨by decide, fun m h => by simp [show copyPending.matrix = [] from rfl, mapGet] at h, fun g h => ?_⟩
  have h : some copier = some g := h
  obtain rfl := Option.some.inj h
  exact ⟨by decide, by decide⟩

/-- Where the words of the tiles lie. -/
def tookAt (n : Nat) : Option Locus := if n < 4 then some (.device loadPartition (consecutive (0x20000 + 4 * n) 4)) else none
def putAt (n : Nat) : Option Locus := if n < 4 then some (.scratch 0 (consecutive (0x100 + 4 * n) 4)) else none

/-- Whether a unit reaches a local place. -/
def unitOk (s : State) (c : Copy) (id : Nat) (d : Desc) (acc : Access) (l : Option Locus) (u : TileUnit) : Bool :=
  match u.place, l with
  | some (a, c1), some l =>
    reach s (16 * c.cell) (copyGang c.vf c.lslot c.wg c.idx) d c1 a u.size acc (c.source s id) == .ok l
      && (cells l).length == u.size && match l with
        | .device p pas => !pasPoisoned s p pas
        | .scratch cell offs => cell == c.cell && offs.all fun o => decide (o < 0xE8000)
        | _ => false
  | _, _ => false

theorem tile_reached (s : State) (c : Copy) (id : Nat) (d : Desc) (origin : List Int) (acc : Access) (count : Nat)
    (loc : Nat → Option Locus) (h : (tileUnits d origin).zipIdx.all (fun e => unitOk s c id d acc (loc e.2) e.1) = true) :
    TileReached s c id d origin acc count loc := by
  intro n u _ hu
  have h1 := List.all_eq_true.1 h (u, n) (List.mem_zipIdx_iff_getElem?.2 hu)
  simp only [unitOk] at h1
  split at h1
  next a c1 l hp hl =>
    simp only [hp]
    refine ⟨l, hl, ?_⟩
    simp only [Bool.and_eq_true, beq_iff_eq] at h1
    obtain ⟨⟨hr, hlen⟩, h2⟩ := h1
    refine ⟨hr, ?_, hlen, ?_⟩
    · split at h2 <;> simp_all [Local]
    · rintro cell offs rfl
      simpa using h2
  next => simp at h1

/-- A gang of the same workgroup in the next slot, arrived at a GBAR as often as given. -/
def beside (n : Nat) : State := { world gang with gangs := [(0, gang), (1, { gang with idx := 1, gbar := (n, n) })] }

/-- Copies to a barrier, into a ring, to two cells and to none; a copy that completes; a copy whose remote side is lost; a GBAR
that completes and one that is held. -/
theorem witness_CopyAndGangBarrierResults :
    let f := copyFields
    let r := ring [.free, .filled]
    let target := { tiled 0x100 1 with base := 0 }
    let away := { pendingCopy with src := { tiled 0x20000 3 with chip := 9 } }
    let shared := { pendingCopy with mask := some 3, ring := none, data := some (List.replicate 16 0), counted := [0] }
    let two := { copyPending with gangs := [(0, copier), (16, { copier with idx := 1 })] }
    anyPart copier (f 0x306 0x80) ∧ Ready 0x280 (f 0x306 0x80) (copying []) copier
    ∧ (srcC (f 0x306 0x80) (copying []) copier 0).toNat < 2 ^ 20
    ∧ CopyChecked (f 0x306 0x80) (copying []) (copying []) copier (tiled 0x100 1) (tiled 0x20000 0) (tiled 0x100 1) (some 0x200) false
    ∧ Ready 0x280 (f 0x306 0x48) (copying [(2, r)]) copier ∧ r.wg = copier.wg ∧ r.slots[r.rp]? = some .free
    ∧ (tiled 0x100 1).tileBytes ≤ r.size ∧ r.waiters = []
    ∧ CopyChecked (f 0x306 0x48) (copying [(2, r)]) (copying [(2, r)]) copier (tiled 0x100 1) (tiled 0x20000 0) target none true
    ∧ Ready 0x281 (f 0x307 0x80) (copying []) copier
    ∧ bits (srcC (f 0x307 0x80) (copying []) copier 0).toNat 32 8 = 3 ∧ bits (srcC (f 0x308 0x80) (copying []) copier 0).toNat 32 8 = 0
    ∧ CopyChecked (f 0x307 0x80) (copying []) (copying []) copier (tiled 0x100 1) (tiled 0x20000 0) (tiled 0x100 1) (some 0x200) true
    ∧ mapGet copyPending.copies 5 = some pendingCopy ∧ HasTurn copyPending 5 pendingCopy
    ∧ ((receivers two { shared with counted := [] }).filter fun x => !([] : List Nat).contains x) = [0, 1]
    ∧ ((receivers two shared).filter fun x => !shared.counted.contains x) = [1]
    ∧ (List.replicate 16 (0 : Byte)).length = shared.src.tileBytes ∧ (∀ u ∈ tileUnits shared.src [0], u.place ≠ none)
    ∧ TileReached copyPending pendingCopy 5 pendingCopy.src [0] .read 4 tookAt
    ∧ TileReached copyPending pendingCopy 5 pendingCopy.dst [0] .write 4 putAt
    ∧ (tileUnits pendingCopy.src [0]).length = 4 ∧ (tileUnits pendingCopy.dst [0]).length = 4
    ∧ (∀ u ∈ tileUnits pendingCopy.src [0] ++ tileUnits pendingCopy.dst [0], u.size = pendingCopy.src.tileBytes / 4)
    ∧ ((List.range 4).all fun n => (List.range 4).all fun k => match putAt n, putAt k with
        | some l, some l' => decide (cells l).Nodup && (k == n || (cells l).all fun q => !(cells l').contains q) &&
            (cells l).all fun q => q.1 == 2 && decide (q.2 < 0x200)
        | _, _ => false) = true
    ∧ (∀ u ∈ tileUnits pendingCopy.dst [0], ∀ a ∈ u.place, matchBytes copyPending 0 false (consecutive a.1 u.size) = none)
    ∧ pendingCopy.src.tileBytes ≤ pbytesIn (barGet copyPending 0 0x200)
    ∧ (ring [.reserved]).slots[0]? = some .reserved
    ∧ mapGet { copyPending with copies := [(5, away)] }.copies 5 = some away ∧ copier.ended = false ∧ away.src.space = 3
    ∧ away.src.chip ≠ chipId copyPending
    ∧ Ready 0x28B (fields 0 0 0 0 0 0 1) (beside 1) gang ∧ condPasses gang 0 = true ∧ NoLateCopy gang ∧ gang.gbarIn = false
    ∧ (∀ k h, Gathered (beside 1) gang 1 k h → arrivals gang 1 < arrivals h 1) ∧ mapSorted (beside 1).gangs = true
    ∧ Ready 0x28B (expandShort 0x28B ⟨0, 0, 0, 0⟩) (beside 0) gang
    ∧ Gathered (beside 0) gang 0 1 { gang with idx := 1, gbar := (0, 0) } :=
  ⟨by decide, ⟨rfl, rfl, rfl⟩, by decide, copy_checked _ _ _ _ _ (by decide), ⟨rfl, rfl, rfl⟩, rfl, rfl, by decide, rfl,
    copy_checked _ _ _ _ _ (by decide), ⟨rfl, rfl, rfl⟩, by decide, by decide, copy_checked _ _ _ _ _ (by decide), rfl, has_turn,
    by decide, by decide, by decide, by decide, tile_reached _ _ _ _ _ _ _ _ (by decide), tile_reached _ _ _ _ _ _ _ _ (by decide), by decide, by decide, by decide, by decide,
    by decide, by decide, rfl, rfl, rfl, by decide, by decide, ⟨rfl, rfl, rfl⟩, rfl, fun _ h => by simp [gang, Gang.launched] at h, rfl,
    fun k h hg => by
      obtain ⟨hk, hne, -⟩ := hg
      have hk : (if 0 = k then some gang else if 1 = k then some { gang with idx := 1, gbar := (1, 1) } else none) = some h := hk
      have hne : k ≠ 0 := hne
      split at hk
      · omega
      · split at hk
        · obtain rfl := Option.some.inj hk; decide
        · simp at hk,
    rfl, ⟨rfl, rfl, rfl⟩, ⟨rfl, by decide, rfl, rfl, fun _ => rfl⟩⟩

/-- A gang to which an earlier copy has left a fault, behind a report that is not yet due. -/
def latecomer : Gang := { gang with deferred := [⟨.report, overrun⟩, ⟨.copy 3 0, precise .poison 1⟩] }

/-- Each instruction that raises the fault of an earlier copy. -/
theorem witness_CopyFaultsAreRaised :
    let f := uniformAccess 9 4 0x306 3
    let r := fun (imm : BitVec 31) => fields 0 0 4 0x306 0 1 imm
    let s := tensors latecomer
    anyPart latecomer f ∧ anyPart latecomer (r 2) ∧ Ready 0x285 f s latecomer ∧ Ready 0x286 f s latecomer ∧ Ready 0x287 (r 34) s latecomer
    ∧ Ready 0x287 (r 2) s latecomer ∧ Ready 0x289 (r 2) s latecomer ∧ Ready 0x28B (r 1) s latecomer ∧ condPasses latecomer (r 1).grd = true
    ∧ Ready 0x28B (expandShort 0x28B ⟨0, 0, 0, 0⟩) s latecomer
    ∧ latecomer.deferred = [⟨.report, overrun⟩] ++ ⟨.copy 3 0, precise .poison 1⟩ :: []
    ∧ ∀ x ∈ [(⟨.report, overrun⟩ : Deferred)], ∀ k m, x.site ≠ .copy k m :=
  ⟨by decide, by decide, ⟨rfl, by decide, by decide⟩, ⟨rfl, by decide, by decide⟩, ⟨rfl, by decide, by decide⟩, ⟨rfl, by decide, by decide⟩,
    ⟨rfl, by decide, by decide⟩, ⟨rfl, by decide, by decide⟩, rfl, ⟨rfl, by decide, by decide⟩, rfl, by simp⟩

/-- A broadcast in the cycle of an operation of its cell, and after it. -/
theorem witness_BroadcastWaits :
    let b : Broadcast := ⟨0, 0x100, ⟨0, 0, 0, 0, 0, none, 0⟩⟩
    let with_ := fun n => { barriers 0 0 with broadcasts := [⟨1, 0x200, b.doer⟩, b], barTurn := [(0, (n, 2))] }
    (∀ n, (with_ n).broadcasts = [⟨1, 0x200, b.doer⟩] ++ b :: []) ∧ (∀ e ∈ [(⟨1, 0x200, b.doer⟩ : Broadcast)], e.cell ≠ b.cell)
    ∧ mapGet (with_ 0).barTurn b.cell = some ((with_ 0).acycle, 2) ∧ ∀ k, mapGet (with_ 1).barTurn b.cell ≠ some ((with_ 1).acycle, k) := by
  intro b with_
  refine ⟨fun n => rfl, by decide, rfl, fun k h => ?_⟩
  have h : some ((1, 2) : Nat × Nat) = some (0, k) := h
  simp at h

/-- An RRES whose slot is free, behind a gang that was held before it. -/
theorem witness_RingOrder :
    let f := fields 0 0 4 0 0 1 2
    let r := { ring [.free, .filled] with waiters := [2, 1] }
    let s := { world ringer with rings := [(2, r)], gangs := [(0, ringer), (1, { gang with hold := some (.ring 0 2) })] }
    OwnsRing f s ringer r ∧ Ready 0x287 f s ringer ∧ r.slots[r.rp]? = some .free ∧ r.waiters = [2] ++ 1 :: []
    ∧ (∀ j ∈ [2], ¬∃ h, mapGet s.gangs j = some h ∧ h.hold = some (.ring 0 2)) ∧ ∃ h, mapGet s.gangs 1 = some h ∧ h.hold = some (.ring 0 2) := by
  intro f r s
  refine ⟨⟨by decide, by decide⟩, ⟨rfl, by decide, by decide⟩, rfl, rfl, ?_, _, rfl, rfl⟩
  rintro j hj ⟨h, hg, -⟩
  obtain rfl : j = 2 := by simpa using hj
  have hg : (none : Option Gang) = some h := hg
  cases hg

/-- The code of a place that is not reached. -/
def fails : Reach → Option FaultCode
  | .fail c _ _ => some c
  | _ => none

/-- Copies that meet a page without the right to read or to write, and a poisoned line; one that waits for another on its token; a lost
one whose gang has ended, and one that has hit a watchpoint. -/
theorem witness_CopiesFail :
    let from_ := { pendingCopy with src := tiled 0x20000 0 }
    let onto := { pendingCopy with dst := tiled 0x30000 0, data := some (List.replicate 16 7) }
    let page := fun (c : Copy) (perm : BitVec 3) => { copyPending with copies := [(5, c)], tlb := [⟨0, 0, 0, 2 ^ 24, 0, 0, perm, perm⟩] }
    let denied := page from_ 2
    let fixed := page onto 1
    let dirty := { copyPending with poison := [dramKey loadPartition 0x20000 / 128] }
    let behind := { copyPending with copies := [(4, pendingCopy), (5, pendingCopy)] }
    let away := { pendingCopy with src := { tiled 0x20000 3 with chip := 9 } }
    let gone := { copyPending with copies := [(5, away)], gangs := [(0, { copier with ended := true })] }
    let hit := { away with hit := some ⟨0x100, 4, 1⟩ }
    let at_ := fun (s : State) (c : Copy) (d : Desc) (acc : Access) (a : Nat) =>
      reachUnit c.cell (copyGang c.vf c.lslot c.wg c.idx) d acc (c.source s 5) s a 0 4
    (∀ s ∈ [denied, dirty], HasTurn s 5 pendingCopy ∧ mapGet s.gangs 0 = some copier ∧ NextCell s pendingCopy 0 [])
    ∧ HasTurn fixed 5 onto ∧ NextCell fixed onto 0 [] ∧ ¬HasTurn behind 5 pendingCopy
    ∧ (tileUnits from_.src [0])[0]? = some ⟨some (0x20000, 0), 4⟩ ∧ (tileUnits onto.dst [0])[0]? = some ⟨some (0x30000, 0), 4⟩
    ∧ fails (at_ denied from_ from_.src .read 0x20000) = some .protection ∧ causes (.translation 0) .protection
    ∧ at_ dirty pendingCopy pendingCopy.src .read 0x20000 = .ok (.device loadPartition (consecutive 0x20000 4))
    ∧ pasPoisoned dirty loadPartition (consecutive 0x20000 4) = true
    ∧ fails (at_ fixed onto onto.dst .write 0x30000) = some .protection
    ∧ (∀ u ∈ tileUnits onto.dst [0], ∀ a ∈ u.place, matchBytes fixed 0 false (consecutive a.1 u.size) = none)
    ∧ (tileUnits onto.src [0]).length = (tileUnits onto.dst [0]).length
    ∧ mapGet gone.gangs away.slot = some { copier with ended := true } ∧ away.hit = none ∧ away.src.space = 3 ∧ away.src.chip ≠ chipId gone
    ∧ hit.hit = some ⟨0x100, 4, 1⟩ := by
  intro from_ onto page denied fixed dirty behind away gone hit at_
  have turn : ∀ (s : State) (c : Copy), s.copies = [(5, c)] → s.matrix = [] → s.gangs = copyPending.gangs → c.slot = 0 → HasTurn s 5 c := by
    intro s c h1 h2 h3 h4
    refine ⟨by simp [h1], by simp [h2, mapGet], fun g h => ?_⟩
    rw [h3, h4] at h
    exact has_turn.2.2 g h
  refine ⟨?_, turn _ _ rfl rfl rfl rfl, ⟨rfl, rfl⟩, fun h => ?_, by decide, by decide, by decide +kernel, ⟨⟨0, rfl⟩, .inr (.inl rfl)⟩, by decide +kernel,
    by decide +kernel, by decide +kernel, by decide, by decide, rfl, rfl, rfl, by decide, rfl⟩
  · intro s hs
    simp only [List.mem_cons, List.not_mem_nil, or_false] at hs
    obtain rfl | rfl := hs <;> exact ⟨turn _ _ rfl rfl rfl rfl, rfl, ⟨rfl, rfl⟩⟩
  · exact h.1 (4, pendingCopy) (by simp [behind]) (by decide) rfl rfl

/-- A GBAR that was held: the others have arrived, and one has not. -/
theorem witness_GangBarrierGoesOn :
    let g := { gang with gbar := (1, 1), gbarIn := true }
    let with_ := fun n => { beside n with gangs := [(0, g), (1, { gang with idx := 1, gbar := (n, n) })] }
    (∀ n, n ≤ 1 → Ready 0x28B (fields 0 0 0 0 0 0 1) (with_ n) g ∧ mapSorted (with_ n).gangs = true) ∧ g.gbarIn = true ∧ NoLateCopy g
    ∧ (∀ k h, Gathered (with_ 1) g 1 k h → arrivals g 1 ≤ arrivals h 1)
    ∧ Gathered (with_ 0) g 1 1 { gang with idx := 1, gbar := (0, 0) } ∧ arrivals { gang with idx := 1, gbar := (0, 0) } 1 < arrivals g 1 := by
  intro g with_
  refine ⟨fun n hn => ⟨⟨rfl, rfl, rfl⟩, rfl⟩, rfl, fun _ h => by simp [g, gang, Gang.launched] at h, ?_, ⟨rfl, by decide, rfl, rfl, fun _ => by decide⟩,
    by decide⟩
  rintro k h ⟨hk, hne, -⟩
  have hk : (if 0 = k then some g else if 1 = k then some { gang with idx := 1, gbar := (1, 1) } else none) = some h := hk
  have hne : k ≠ 0 := hne
  split at hk
  · omega
  · split at hk
    · obtain rfl := Option.some.inj hk; decide
    · simp at hk

/-! ## Witnesses: records, marks, the system -/

/-- A gang whose v8 heads a record of node 1, v16 one of node 2 with SIZE 1, and v20 names this chip. -/
def emitter : Gang := { gang with regs := [(1, 1), (2, 64), (8, 1), (16, 2 + 2 ^ 40), (2049, 63), (2056, 1), (2064, 2 + 2 ^ 40)] }

/-- A launch of three nodes; node 0 may emit to both others, each of `quota` lines; the gang's record names a join of count 2,
and a descriptor of 64 words is at hand. -/
def recorder (quota : Nat) : State :=
  { world emitter with
    launches := [(0, { loadLaunch with nodes := [{ loadNode with succs := [1, 2], trap := 0x40, recipes := [0x05 * 2 ^ 32] },
      { loadNode with lquota := quota }, { loadNode with lquota := quota, rsize := 1 }] })]
    workgroups := [(0, { loadWorkgroup with records := [⟨[2 * 2 ^ 16, 0], 0, false⟩] })]
    joins := [(2, ⟨0, 0, 0, 2, [1, 0]⟩)], descs := [(1, tiles 0x20000 0)], buckets := [(bucketKey 6 0 0, 65536)] }

/-- A record instruction: A, B, immediate. -/
def recordFields (a b : BitVec 10) (imm : BitVec 31) : Fields := fields 20 0 30 a b 1 imm

theorem may_emit (quota : Nat) (f : Fields) (t : Nat) (w : List Word) (n : Nat) (hn : n = 1 ∨ n = 2)
    (h0 : bits (w.headD 0).toNat 0 12 = n) (h1 : bits (w.headD 0).toNat 40 2 = Machine.sizeOf f) (h2 : bits (w.headD 0).toNat 45 3 = 0)
    (h3 : n - 1 = Machine.sizeOf f) : MayEmit (recorder quota) emitter f t w := by
  refine ⟨_, _, rfl, rfl, ?_, h1, h2, ?_, ?_⟩ <;> rw [h0] <;> obtain rfl | rfl := hn
  · decide
  · decide
  · rw [← h3]; rfl
  · rw [← h3]; rfl
  · intro h; exact absurd (show 1 = 0 from h) (by decide)
  · intro h; exact absurd (show 2 = 0 from h) (by decide)

/-- The threads of an order place their records one after another. -/
def placedIn (s0 : State) (one : PlaceOne) (items : AMap (List Emission)) (order : List Nat) : Bool × State :=
  order.foldl (fun (a : Bool × State) t =>
    (a.1 && (placeAll one a.2 t ((mapGet items t).getD [])).1, (placeAll one a.2 t ((mapGet items t).getD [])).2)) (true, s0)

/-- Whether every thread's records find room in either order of threads 0 and 2. -/
def roomy (s0 : State) (one : PlaceOne) (items : AMap (List Emission)) : Bool :=
  [[0, 2], [2, 0]].all fun o => (placedIn s0 one items o).1 && (mapGet (placedIn s0 one items o).2.gangs 0).isSome

theorem room_in_every_order (s0 : State) (one : PlaceOne) (items : AMap (List Emission)) (h : roomy s0 one items = true) :
    ∀ order : List Nat, order.Perm [0, 2] → ∃ (x : State) (g : Gang), placedIn s0 one items order = (true, x) ∧ mapGet x.gangs 0 = some g := by
  intro order ho
  have hm : order = [0, 2] ∨ order = [2, 0] := by
    have := List.mem_permutations.2 ho
    simpa [List.permutations, List.permutationsAux, List.permutationsAux.rec, List.permutationsAux2] using this
  have hall := List.all_eq_true.1 h order (by simpa using hm)
  simp only [Bool.and_eq_true] at hall
  obtain ⟨g, hg⟩ := Option.isSome_iff_exists.1 hall.2
  exact ⟨_, g, Prod.ext hall.1 rfl, hg⟩

/-- Whether no thread's first record finds room. -/
def cramped (s0 : State) (one : PlaceOne) (items : AMap (List Emission)) : Bool :=
  items.all fun e => match e.2.head? with
    | some x => decide (one s0 e.1 x = (false, s0))
    | none => true

/-- What JINIT places for `emitter`. -/
def counted : AMap (List Emission) :=
  let s := recorder 4
  let f := recordFields 8 1 0
  emissionsOf emitter f fun t =>
    [⟨placedWords s emitter f t (wordsAt s emitter 8 0 t), 0, BitVec.ofNat 64 ((readReg s 0 emitter t 1).toNat % 2 ^ 24 + 30 * 2 ^ 32)⟩]

/-- What EMIT.j places for `emitter`. -/
def joined : AMap (List Emission) :=
  let s := recorder 4
  let f := recordFields 8 1 4
  emissionsOf emitter f fun t => [⟨placedWords s emitter f t (wordsAt s emitter 8 0 t), raisedJoin s emitter f t, 0⟩]

theorem room_for_records : roomy { recorder 4 with free := 2 } (placeEmit 0 0) joined = true := by decide +kernel
theorem room_for_joins : roomy { recorder 4 with free := 2 } (placeJoin 0 0) counted = true := by decide +kernel
theorem room_in_larder : (larderPlace (recorder 4) 0 1 ⟨[1, 0], 0, 0⟩ 0).isSome = true := by decide +kernel

/-- Records of EMIT, plain, joined and tried, of EMITH and JINIT, with room and without; remote records to this chip; JARR. -/
theorem witness_RecordInstructionResults :
    let s := recorder 4
    let k := launchKey emitter.vf emitter.lslot
    let f := recordFields 8 1
    let h := recordFields 16 20 (8 + 64)
    let items := fun (f : Fields) => emissionsOf emitter f fun t =>
      [⟨placedWords s emitter f t (wordsAt s emitter f.a (Machine.sizeOf f) t), raisedJoin s emitter f t, 0⟩]
    let remote := emissionsOf emitter (recordFields 8 20 0) fun t => [⟨carried ((wordsAt s emitter 8 0 t).headD 0) 0 none :: (wordsAt s emitter 8 0 t).tail, 0, 0⟩]
    let start := fun (s : State) => { s with free := s.free + 2 }
    anyPart emitter (f 0) ∧ emitter.emit = none ∧ parts emitter (f 0) = [0, 2] ∧ Ready 0x2C0 (f 0) s emitter ∧ Ready 0x2C0 (f 36) s emitter
    ∧ (∀ t ∈ parts emitter (f 0), MayEmit s emitter (f 0) t (wordsAt s emitter 8 0 t))
    ∧ MayJoin s emitter (f 4) ∧ isJoin (f 4) = true ∧ isTry (f 36) = true
    ∧ (∀ order : List Nat, order.Perm [0, 2] → ∃ (x : State) (g : Gang),
        placedIn { s with free := 2 } (placeEmit 0 0) joined order = (true, x) ∧ mapGet x.gangs 0 = some g)
    ∧ cramped (start (recorder 0)) (placeEmit 0 k) (items (f 4)) = true
    ∧ Ready 0x2C1 h s emitter ∧ fetchDesc s 0 emitter (emithTd h) = .ok (tiles 0x20000 0) s ∧ (descOf (tiles 0x20000 0)).ok = true
    ∧ (descOf (tiles 0x20000 0)).rank = 1
    ∧ (∀ t ∈ parts emitter h, readReg s 0 emitter t h.b = 0) ∧ inRange [0] (descOf (tiles 0x20000 0)).extents = true
    ∧ tileAligned (descOf (tiles 0x20000 0)) [0] = true ∧ Machine.sizeOf h = 1
    ∧ (∀ t ∈ parts emitter h, MayEmit s emitter h t [2 + 2 ^ 40 + 2 ^ 42, 1, 0, 0])
    ∧ Ready 0x2C2 (recordFields 8 20 0) s emitter ∧ (readReg s 0 emitter 0 20).toNat % 2 ^ 21 = chipId s
    ∧ roomy { start s with launches := mapUpdate s.launches k fun l => { l with escaped := true } } (placeRemote 0 0 k) remote = true
    ∧ Ready 0x2C3 (f 0) s emitter ∧ (∀ t ∈ parts emitter (f 0), (readReg s 0 emitter t 1).toNat % 2 ^ 24 ≠ 0)
    ∧ roomy { s with free := 2 } (placeJoin 0 0) counted = true ∧ cramped (start (recorder 0)) (placeJoin 0 k) counted = true
    ∧ Ready 0x2C4 (f 0) s emitter ∧ emitter.lslot < 64 ∧ (mapGet s.workgroups 0).isSome = true
    ∧ (∀ t ∈ parts emitter (f 0), arrivalOf s emitter t = some 2) ∧ arrivalsAt s emitter (f 0) 2 = 1
    ∧ (liveJoin s 0 0 2).map (·.count) = some 2 ∧ (larderPlace s 0 1 ⟨[1, 0], 0, 0⟩ 0).isSome = true ∧ (mapGet s.launches 0).isSome = true := by
  refine ⟨by decide, rfl, by decide, ⟨rfl, rfl, rfl⟩, ⟨rfl, rfl, rfl⟩, ?_, ?_, rfl, rfl, room_in_every_order _ _ _ room_for_records, by decide,
    ⟨rfl, rfl, rfl⟩, rfl, by decide, by decide, by decide, by decide, by decide, by decide, ?_, ⟨rfl, rfl, rfl⟩, by decide, by decide,
    ⟨rfl, rfl, rfl⟩, by decide, room_for_joins, by decide, ⟨rfl, rfl, rfl⟩, by decide, rfl, by decide, by decide, by decide, room_in_larder, rfl⟩
  · intro t ht
    have ht : t ∈ [0, 2] := ht
    simp only [List.mem_cons, List.not_mem_nil, or_false] at ht
    obtain rfl | rfl := ht <;> exact may_emit _ _ _ _ 1 (.inl rfl) (by decide) (by decide) (by decide) (by decide)
  · intro _ t ht
    have ht : t ∈ [0, 2] := ht
    simp only [List.mem_cons, List.not_mem_nil, or_false] at ht
    obtain rfl | rfl := ht <;> exact ⟨by decide, _, rfl, by decide⟩
  · intro t _
    exact may_emit _ _ _ _ 2 (.inr rfl) (by decide) (by decide) (by decide) (by decide)

/-- BISECT of [0, 0] at word 1 of a record of 4 words, with room and without. -/
theorem witness_BisectAndMarkResults :
    let f := fields 20 0 0 4 16 1 (8 + 1)
    let s := recorder 4
    let items := emissionsOf emitter f fun _ => [(⟨[2 + 2 ^ 40, 0, 0, 0], 0, 0⟩ : Emission), ⟨[2 + 2 ^ 40, 0, 0, 0], 0, 0⟩]
    let e := 0x05 * 2 ^ 32
    anyPart emitter f ∧ emitter.emit = none ∧ Ready 0x12A f s emitter ∧ GoodIntervals f [(f.a, false)] s emitter
    ∧ (∀ t ∈ parts emitter f, MayEmit s emitter f t (wordsAt s emitter f.b (Machine.sizeOf f) t))
    ∧ cramped { recorder 0 with free := 2 } (placeEmit 0 0) items = true
    ∧ roomy { recorder 4 with free := 2 } (placeEmit 0 0) items = true
    ∧ Ready 0x2C5 (fields 0 0 0 0 0 0 5) s emitter ∧ emitter.stack = [] ∧ ((nodeOf s emitter).map (·.recipes)) = some [e]
    ∧ (bits e 32 8 == bits (5 : BitVec 31).toNat 0 8) = true ∧ recipeOk e 12 true = true ∧ emitter.pending = [] ∧ emitter.accs = []
    ∧ Ready 0x2C5 (expandShort 0x2C5 ⟨0, 0, 0, 5⟩) (world (diverged 0x10008 4 0)) (diverged 0x10008 4 0)
    ∧ (diverged 0x10008 4 0).stack ≠ [] := by
  refine ⟨by decide, rfl, ⟨rfl, rfl, rfl⟩, good_intervals _ _ _ _ (by decide), ?_, by decide, by decide +kernel, ⟨rfl, rfl, rfl⟩, rfl, rfl,
    by decide, by decide, rfl, rfl, ⟨rfl, rfl, rfl⟩, by decide⟩
  intro t ht
  have ht : t ∈ [0, 2] := ht
  simp only [List.mem_cons, List.not_mem_nil, or_false] at ht
  obtain rfl | rfl := ht <;> exact may_emit _ _ _ _ 2 (.inr rfl) (by decide) (by decide) (by decide) (by decide)

/-- A gang in its handler, entered by a watchpoint, that goes back to TPC. -/
def handling : Gang := { gang with tcause := 0x8000000000000026, tpc := 0x10010, tpcEntry := 0x10010, tmask := 5 }

/-- The context's policy with BRK and PLATE allowed, PLATECTL with PLATE and armed. -/
def allowed : State :=
  { recorder 4 with gangs := [(0, gang)], hreg := wordSet (wordSet [] (pageReg 0 0) (3 <<< 43)) (pfReg 0x220) 0x81 }

/-- The watch queue without a plate to capture. -/
def breaking : State := { recorder 4 with gangs := [(0, gang)], hreg := wordSet [] (pageReg 0 0) (3 <<< 43) }

theorem witness_SystemInstructionResults :
    let f := fields 0 0 0x304 0x306 0 0 0
    Ready 0x300 f (recorder 4) emitter ∧ condPasses emitter f.grd = true ∧ emitter.tcause.getLsbD 63 = false
    ∧ ((nodeOf (recorder 4) emitter).map (·.trap)) = some 0x40 ∧ Ready 0x300 (fields 0 1 0 0 0 0 0) (world gang) gang
    ∧ condPasses gang 1 = false ∧ Ready 0x300 (expandShort 0x300 ⟨0, 0, 0, 3⟩) (recorder 4) emitter
    ∧ mapGet (world handling).gangs 0 = some handling ∧ handling.tcause.getLsbD 63 = true ∧ handling.tpc = handling.tpcEntry
    ∧ gang.tcause.getLsbD 63 = false
    ∧ (∀ k < 8, ((BitVec.ofNat 31 k).extractLsb' 0 8).toNat < 8 ∧ Ready 0x302 (fields 0 0 0x304 0 0 0 (BitVec.ofNat 31 k)) (world gang) gang
        ∧ Ready 0x303 (fields 0 0 0 0x306 0 0 (BitVec.ofNat 31 k)) (world gang) gang)
    ∧ Ready 0x304 f allowed gang ∧ condPasses gang f.grd = true ∧ (policyOf allowed 0).getLsbD 44 = true
    ∧ (plateCtl allowed).getLsbD 7 = true ∧ (plateCtl allowed).getLsbD 0 = true ∧ Ready 0x304 f (world gang) gang
    ∧ (policyOf (world gang) 0).getLsbD 44 = false
    ∧ Ready 0x305 f breaking gang ∧ (policyOf breaking 0).getLsbD 43 = true ∧ partOf breaking 0 = some (0, loadPartition)
    ∧ 0 + 4096 ≤ memorySize loadPartition ∧ wordGet breaking.hreg (vfReg 0 0x140) = 0 ∧ wordGet breaking.hreg (vfReg 0 0x148) = 0
    ∧ wordGet breaking.hreg (vfReg 0 0x150) = 0 ∧ (plateCtl breaking).getLsbD 7 = false
    ∧ Ready 0x305 f (world gang) gang ∧ (policyOf (world gang) 0).getLsbD 43 = false
    ∧ ({ gang with hold := some .brk }).hold = some .brk :=
  ⟨⟨rfl, rfl, rfl⟩, rfl, rfl, rfl, ⟨rfl, rfl, rfl⟩, by decide, ⟨rfl, rfl, rfl⟩, rfl, by decide, rfl, by decide,
    fun k hk => ⟨by interval_cases k <;> decide, ⟨rfl, rfl, rfl⟩, ⟨rfl, rfl, rfl⟩⟩, ⟨rfl, rfl, rfl⟩, rfl, by decide, by decide, by decide, ⟨rfl, rfl, rfl⟩, by decide,
    ⟨rfl, rfl, rfl⟩, by decide, rfl, by decide, by decide, by decide, by decide, by decide, ⟨rfl, rfl, rfl⟩, by decide, rfl⟩

/-- A divide fault of a node with a trap entry; of a node without one, in a handler, escalated, and MARK_OVERDUE. -/
theorem witness_FaultEntryAndEscalation :
    let f : GFault := ⟨.intDivide, 5, 0, false, none, 0⟩
    mapGet (recorder 4).gangs 0 = some emitter ∧ ((nodeOf (recorder 4) emitter).map (·.trap)) = some 0x40
    ∧ f.code.uncontained = false ∧ f.escalates = false ∧ f.code ≠ .markOverdue ∧ emitter.tcause.getLsbD 63 = false
    ∧ (launchOf (world gang) gang).isSome = true ∧ gang.lslot < 64 ∧ NothingDue (world gang) 0 0
    ∧ ((nodeOf (world gang) gang).map (·.trap)) = some 0xFFFFFFFF ∧ handling.tcause.getLsbD 63 = true
    ∧ FaultCode.markOverdue.uncontained = false :=
  ⟨rfl, rfl, rfl, rfl, by decide, by decide, rfl, by decide, fun x h => absurd h (by rw [show mapGet (world gang).queues (64 * 0 + 0) = none from rfl]; simp), rfl,
    by decide, rfl⟩

/-- v1 is pending. -/
def waiting : Gang := { gang with pending := [⟨.reg (.v 1), .distance 2⟩] }

/-- td1 has two ranks. -/
def ranked : State := { world gang with descs := [(1, descWords (vector 0x20000 0 8 64 + 2 ^ 65)), (3, descWords (vector 0x100 1 9 64))] }

/-- A pending source of a long and a short form; no pending name; an origin at A that leaves the s registers, and one at B. -/
theorem witness_PendingNamesTrapHazard :
    let f := fields 2 0 4 1 2 0 0
    let w : ShortFields := ⟨3, 1, 2, 0⟩
    let out := fields 8 0 4 0x33F 0 0 (BitVec.ofNat 31 (2 ^ 21))
    let src := fields 0 0 0 0x302 0x33F 0 (BitVec.ofNat 31 (3 * 2 ^ 21 + 2 ^ 11))
    let first := fun (d : Nat) => [(0, [Name.reg (.v d)])] ++ (1, [] ++ Name.reg (.v 1) :: []) :: [(2, [Name.reg (.v 2)]), (3, []), (4, [])]
    wellFormed (.iadd f) = true ∧ bodyOf (.iadd f) = .full 0x42 f ∧ mapGet (world waiting).gangs 0 = some waiting
    ∧ fieldNames (spanRoles (world waiting) waiting 0x42 f) f ++ [(4, guardNames 0x42 f)] = first 4
    ∧ wellFormed (.iaddShort w) = true ∧ bodyOf (.iaddShort w) = .short 0x42 w
    ∧ fieldNames (spanRoles (world waiting) waiting 0x42 (expandShort 0x42 w)) (expandShort 0x42 w)
        ++ [(4, guardNames 0x42 (expandShort 0x42 w))] = first 3
    ∧ (∃ p ∈ waiting.pending, p.name = .reg (.v 1)) ∧ (∀ n ∈ [Name.reg (.v 3), .reg (.v 4)], ¬∃ p ∈ waiting.pending, p.name = n)
    ∧ gang.pending = [] ∧ wellFormed (.ldt out) = true ∧ bodyOf (.ldt out) = .full 0x180 out ∧ originA 0x180 out ≠ none
    ∧ (spanRoles ranked gang 0x180 out).2.1.names out.a = none
    ∧ wellFormed (.cpy src) = true ∧ (spanRoles ranked gang 0x280 src).2.1.names src.a ≠ none ∧ originB 0x280 src ≠ none
    ∧ (spanRoles ranked gang 0x280 src).2.2.1.names src.b = none :=
  ⟨by decide, rfl, rfl, by decide, by decide, rfl, by decide, by decide, by decide, rfl, by decide, rfl, by decide, by decide, by decide,
    by decide, by decide, by decide⟩

/-! ## Witnesses: queues, launches -/

/-- A queue of 16 packets in host memory, from 0x1000 on. -/
def ringQueue (wp : BitVec 32) : Queue := ⟨0xA000000000001004, 0x4000, 0, wp, 0, false, 0, [], []⟩

/-- EN with the least and the greatest size, and one past each; a queue that is enabled. -/
theorem witness_QueueAndEventRegisters :
    (∀ n < 32, (BitVec.ofNat 64 (2 ^ 61 + n)).getLsbD 61 = true ∧ ((BitVec.ofNat 64 (2 ^ 61 + n)).extractLsb' 0 5).toNat = n)
    ∧ (queueAt (world gang) 0 1).qring.getLsbD 61 = false
    ∧ (∀ e ∈ (world gang).launches, ¬(e.1 / 64 = 0 ∧ e.2.queue = 1))
    ∧ (0 : BitVec 64).getLsbD 61 = false ∧ (queueAt { world gang with queues := [(0, ringQueue 1)] } 0 0).qring.getLsbD 61 = true
    ∧ (queueAt { world gang with queues := [(1, ringQueue 1)] } 0 1).ended = [] ∧ (3 : Nat) < 4 := by
  refine ⟨by decide, by decide, by decide, by decide, by decide, by decide, by decide⟩

/-- Stage 2 of the context maps its memory onto itself: a table at 0x40000 whose entry 0 names one at 0x48000, whose entry 0 is a
page of 2^34 bytes with every permission. -/
def mapped (s : State) : State :=
  paWrite (paWrite { s with hreg := wordSet s.hreg (pageReg 0 0x8) (2 ^ 63 + 0x40000) } loadPartition 0x40000 (natToBytes 8 (0x48000 + 1)))
    loadPartition 0x48000 (natToBytes 8 31)

/-- A graph image of one node at 0x30000, its code at 0x30100. -/
def imaged (s : State) : State :=
  paWrite (paWrite (mapped s) loadPartition 0x30000 (natToBytes 17 (0x47595448 + 2 ^ 32 + 2 ^ 48 + 64 * 2 ^ 64 + 256 * 2 ^ 96 + 12 * 2 ^ 128)))
    loadPartition 0x30040 (natToBytes 28 (0xFFFFFFFF * 2 ^ 32 + 2 ^ 66 + 2 ^ 128 + 65535 * 2 ^ 208))

/-- A launch about to be checked, with an entry record. -/
def starting : Launch :=
  { loadLaunch with phase := .starting, image := 0x30000, entryBase := 0x30400, entryCount := 1, nodes := [] }

/-- A packet in host memory. -/
def queued : State :=
  { world gang with queues := [(0, ringQueue 1)], host := [(0x1000, 1), (0x100A, 3)] }

/-- A start candidate; a launch that passes; an entry record with room and without; a launch that completes. -/
theorem witness_LaunchLifeEvents :
    let packet := bytesToNat (hostRead queued 0x1000 128)
    let s := { imaged (world gang) with launches := [(1, starting)] }
    let enq := fun q => { recorder q with launches := mapUpdate (recorder q).launches 0 fun l => { l with entries := [[1, 0]] } }
    let done := { world gang with workgroups := [], gangs := [], queues := [(0, ringQueue 1)] }
    (∀ e ∈ queued.launches, e.2.phase ≠ .starting) ∧ partOf queued 0 = some (0, loadPartition) ∧ queued.trip = false
    ∧ mapGet queued.startCycle 0 ≠ some queued.clock ∧ (∀ q < 64, q ≠ 0 → (queueAt queued 0 q).qring.getLsbD 61 = false)
    ∧ (ringQueue 1).qring.getLsbD 61 = true ∧ (ringQueue 1).sp ≠ (ringQueue 1).wp ∧ (ringQueue 1).qring.getLsbD 63 = true
    ∧ ((ringQueue 1).qring.extractLsb' 7 50).toNat * 128 = 0x1000 ∧ packetOk loadPartition packet = true
    ∧ BitVec.ofNat 256 (bits packet 256 256) = 0 ∧ mapGet queued.launches 1 = none ∧ mapGet queued.launches 0 ≠ none
    ∧ mapGet s.launches 1 = some starting ∧ starting.phase = .starting
    ∧ (match readGraph s 0 0x30000 with
        | .got (nodes, base, size) _ => nodes == [loadNode] && base == 0x30100 && size == 12
        | _ => false) = true
    ∧ (match readImage s 0 0x30400 64 with
        | .got l u => (chunks 64 1 l).map (entryRecord [loadNode]) == [some [0, 0]] && decide (u.launches = s.launches)
            && decide (launchReserve [loadNode] ≤ 16 * (entitledCells u 0 0).length)
        | _ => false) = true
    ∧ starting.registered = false ∧ starting.stackGroups = [0] ∧ loadNode.cquota ≤ starting.cellarLines
    ∧ (0 ∉ queued.atsEnabled ∧ 0 ∉ done.atsEnabled) ∧ (ringQueue 1).qring.getLsbD 63 = true
    ∧ ((mapGet (enq 4).launches 0).map (·.entries)) = some [[1, 0]] ∧ (enq 4).blocked = []
    ∧ ((placeRecord (enq 4) 0 0 [1 + 2 ^ 44, 0]).result (enq 4)).1 = true ∧ placeRecord (enq 0) 0 0 [1 + 2 ^ 44, 0] = .full
    ∧ mapGet done.launches 0 = some loadLaunch ∧ Idle done 0 0 loadLaunch ∧ loadLaunch.published = false
    ∧ mapGet done.queues 0 = some (ringQueue 1) ∧ (ringQueue 1).stopped = false ∧ (ringQueue 1).ended = []
    ∧ loadLaunch.packet = (ringQueue 1).rp.toNat ∧ loadLaunch.fence < 2 ^ 32 ∧ (∀ e ∈ done.launches, e.1 = 0) := by
  refine ⟨by decide, rfl, rfl, by decide, by decide, by decide, by decide, by decide, by decide, by decide +kernel, by decide +kernel, by decide,
    by decide, rfl, rfl, by decide +kernel, by decide +kernel, rfl, rfl, by decide, ⟨by decide, by decide⟩, rfl, rfl, rfl, by decide +kernel, by decide, rfl, ?_, rfl, rfl, rfl, rfl,
    by decide, by decide, by decide⟩
  exact ⟨rfl, rfl, by decide, rfl, rfl, by decide, fun h => by simp [loadLaunch] at h⟩

/-- `recorder` whose node 1 has a quota of larder lines and one of cellar lines, in the stack groups given, and a cellar at 0x20000;
its larder bank stands in stack group 1. -/
def placing (lquota cquota : Nat) (groups : List Nat) (shards : AMap Shard) : State :=
  let l := (mapGet (recorder 4).launches 0).getD loadLaunch
  { mapped (recorder 4) with
    parts := [(0, { loadPartition with larder := [16] })], buckets := [(bucketKey 6 16 0, 65536)]
    launches := [(0, { l with stackGroups := groups, cellar := 0x20000, cellarLines := 4, shards := shards
                              nodes := [loadNode, { loadNode with lquota := lquota, cquota := cquota }] })] }

/-- A shard of node 1 in stack group 0 with a cellar line of one record, as the scheduler wrote it. -/
def cellarShard : AMap Shard := [(shardKey 1 0, ⟨[], [⟨0, List.replicate 128 0, [⟨[1, 0x77], 0, 7⟩]⟩], false⟩)]

/-- Whether no stack group of some takes the record. -/
def noneTakes (s : State) (w : List Word) (groups : List Nat) : Bool :=
  groups.all fun x => (larderPlace { s with nextId := s.nextId + 1 } 0 1 ⟨w, s.clock, s.nextId⟩ x).isNone

/-- Whether the write of a line of the launch's cellar is done, and leaves its launch. -/
def writesLine (s : State) (va : Nat) : Bool :=
  match cellarWrite s 0 va 128 with
  | .bytes _ u => decide (mapGet u.launches 0 = mapGet s.launches 0)
  | _ => false

/-- Whether a line of the cellar comes as it was written, and takes another write. -/
def rewritesLine (s : State) (x : CellarLine) : Bool :=
  match cellarRead s 0 ((mapGet s.launches 0).getD loadLaunch) x with
  | .ok y u => y.line == x.line && writesLine u 0x20000 && decide (mapGet u.launches 0 = mapGet s.launches 0)
  | _ => false

/-- A record for which the second group's larder has room; one for which none has, of a group that is not the launch's, of one
without a cellar line left, of one with a line to take, and of one with room in a line; the quota at its end, and room for a line. -/
theorem witness_RecordsFindTheirPlace :
    let w : List Word := [1, 0]
    let second := placing 1 0 [0, 1] []
    let outside := placing 0 1 [1] []
    let full := placing 0 0 [0] []
    let cellar := placing 0 1 [0] []
    let filling := placing 0 1 [0] cellarShard
    let step := fun (s : State) => { s with nextId := s.nextId + 1 }
    (∀ s ∈ [second, outside, full, cellar, filling], ((mapGet s.launches 0).map fun l => (l.nodes[1]?).isSome) = some true)
    ∧ tryOrder [0, 1] 0 = [0] ++ 1 :: [] ∧ noneTakes second w [0] = true
    ∧ (larderPlace (step second) 0 1 ⟨w, second.clock, second.nextId⟩ 1).isSome = true
    ∧ tryOrder [0, 1, 2, 7] 2 = [2, 7, 0, 1]
    ∧ (∀ s ∈ [outside, full, cellar, filling], noneTakes s w [0, 1] = true)
    ∧ ((mapGet outside.launches 0).map fun l => l.stackGroups) = some [1]
    ∧ ((mapGet full.launches 0).map fun l => (shardOf l 1 0).cellar.length + cellarLines l 1) = some 0
    ∧ ((mapGet cellar.launches 0).map fun l => (shardOf l 1 0).cellar.length + cellarLines l 1) = some 0 ∧ writesLine (step cellar) 0x20000 = true
    ∧ ((mapGet filling.launches 0).map fun l => (shardOf l 1 0).cellar.map (·.recs.length)) = some [1]
    ∧ rewritesLine (step filling) ⟨0, List.replicate 128 0, [⟨[1, 0x77], 0, 7⟩]⟩ = true
    ∧ (∀ s ∈ [second, full], s.blocked = []) ∧ (placeRecord second 0 0 w != .full) = true ∧ placeRecord full 0 0 w = .full
    ∧ ((mapGet second.launches 0).map fun l => chargedLines second 0 l 1 1) = some 0 ∧ (takeLine second 0 1 0).isSome = true
    ∧ (takeLine second 0 0 0).isNone = true := by
  decide +kernel

/-- A descriptor whose page no TLB of the cell holds. -/
theorem witness_RankWaits :
    let f := fields 8 0 4 0x302 0 0 (BitVec.ofNat 31 (2 ^ 21))
    let s := { world gang with tlb := [] }
    wellFormed (.ldt f) = true ∧ bodyOf (.ldt f) = .full 0x180 f ∧ mapGet s.gangs s.cur = some gang
    ∧ ∃ u, rankAt s s.cur gang 0x180 f = .wait u :=
  ⟨by decide, rfl, rfl, _, rfl⟩

/-- A return from a handler that has moved TPC. -/
theorem witness_ReturnElsewhere :
    let g := { handling with tpc := 0x10014 }
    mapGet (world g).gangs 0 = some g ∧ g.tcause.getLsbD 63 = true ∧ g.tpc ≠ g.tpcEntry := ⟨rfl, by decide, by decide⟩

/-! ## Witnesses: workgroups, pre-emption, remote accesses -/

/-- A launch with one record for node 1 in stack group 0; node 1 fits one gang, or two. -/
def gatherable (gangs clock : Nat) : State :=
  { recorder 4 with
    clock := clock, governor := [(1, (0, 0, 1))], larder := [(0, 0)]
    launches := [(0, { loadLaunch with
      nodes := [{ loadNode with succs := [1] }, { loadNode with lquota := 4, gangs := gangs }]
      shards := [(shardKey 1 0, ⟨[⟨0, [⟨[1, 0x77], 0, 7⟩]⟩], [], false⟩)] })] }

/-- A launch whose nodes fetch a tile ahead: of the handle in the first payload words, to offset 0x200. -/
def prefetching : Launch := { loadLaunch with nodes := [{ loadNode with rsize := 1, pf0 := 0x8002 }] }

/-- A workgroup of a cell with one record. -/
def grouped (phase : WgPhase) (node cell : Nat) (words : List Word) : Workgroup :=
  { loadWorkgroup with phase := phase, node := node, cell := cell, records := [⟨words, 3, false⟩], slots := [] }

/-- A workgroup that prefetches the tile of a coordinate of td1. -/
def prefetcher (coord : Nat) : Workgroup := grouped .shadow 0 0 [2 ^ 40, BitVec.ofNat 64 (1 + 1024 * coord), 0, 0]

/-- The cell that it waits in. -/
def early (coord : Nat) : State :=
  { tensors gang with descs := [(1, tiles 0x20000 0)], launches := [(0, prefetching)], workgroups := [(5, prefetcher coord)] }

/-- Whether a unit of its tile reaches device memory that is not poisoned. -/
def prefetchOk (s : State) (l : Option Locus) (u : TileUnit) : Bool :=
  match u.place, l with
  | some (a, c1), some (.device p pas) =>
    reach s 0 (copyGang 0 0 5 0) (tiled 0x20000 0) c1 a u.size .read (.copy 5) == .ok (.device p pas) && !pasPoisoned s p pas
  | _, _ => false

/-- The tile at coordinate 0 comes to offset 0x200; the one at coordinate 64 lies out of range. -/
theorem tiles_come : TileComes (early 0) 5 (prefetcher 0) 0x8002 0 0x200 1 (List.replicate 16 0) none
    ∧ TileComes (early 64) 5 (prefetcher 64) 0x8002 0 0x200 1 [] (some .coordRange) := by
  refine ⟨⟨tiles 0x20000 0, by decide, rfl, by decide, by decide, fun h => absurd h.2 (by decide), by decide, by decide, tookAt, ?_, by decide⟩,
    ⟨tiles 0x20000 0, by decide, rfl, by decide, .inr (.inl ⟨by decide, by decide, rfl⟩)⟩⟩
  have h : ((tileUnits (tiled 0x20000 0) [0]).zipIdx.all fun e => prefetchOk (early 0) (tookAt e.2) e.1) = true := by decide
  intro n u hu
  have h1 := List.all_eq_true.1 h (u, n) (List.mem_zipIdx_iff_getElem?.2 hu)
  simp only [prefetchOk] at h1
  split at h1
  next a c1 p pas hp hl =>
    simp only [hp]
    simp only [Bool.and_eq_true, beq_iff_eq, Bool.not_eq_true'] at h1
    exact ⟨_, hl, h1.2, h1.1⟩
  next => simp at h1

/-- The record of `gatherable`, in a cellar line as the scheduler wrote it. -/
def cellarLine : CellarLine := ⟨0, List.replicate 128 0, [⟨[1, 0x77], 0, 7⟩]⟩

/-- The Full trigger of one record for one gang, with the record in the cellar too, and the timeout of one record for two; a
prefetch that brings its tile and one that faults; a launch; a cell assigned; a blocked record placed; an end whose record makes
its arrival. -/
theorem witness_WorkgroupLifeEvents :
    let full := gatherable 0 0
    let late := gatherable 1 4096
    let ready := { gatherable 0 0 with workgroups := [(5, grouped .runnable 1 1 [1, 0x77])] }
    let stuck := { recorder 4 with gangs := [(0, { emitter with emit := some [(0, [⟨[1, 0], 0, 0⟩])], hold := some .emission })] }
    let atEnd := { recorder 4 with gangs := [(0, { emitter with ended := true })] }
    (mapGet full.launches 0).isSome = true ∧ partOf full 0 = some (0, loadPartition)
    ∧ ((mapGet full.launches 0).map fun l => (l.phase == .running && l.stackGroups.contains 0, (l.nodes[1]?).isSome)) = some (true, true)
    ∧ ((mapGet full.launches 0).map fun l => (l.nodes[1]?).map fun n =>
        (mayGather full loadPartition 0 0 1 n 1, triggerOf full 0 l 1 n 0, capacity n)) = some (some (true, some .full, 1))
    ∧ ((mapGet late.launches 0).map fun l => (l.nodes[1]?).map fun n =>
        (mayGather late loadPartition 0 0 1 n 1, triggerOf late 0 l 1 n 0, capacity n)) = some (some (true, some .timeout, 2))
    ∧ 2 ≤ (freeWindowSlots late 1).length
    ∧ (∃ s1, Claims.CellarRead (mapped full) s1 0 { loadLaunch with cellar := 0x20000 } [cellarLine])
    ∧ mapGet (early 0).workgroups 5 = some (prefetcher 0) ∧ (prefetcher 0).phase = .shadow ∧ mapGet (early 0).launches 0 = some prefetching
    ∧ ((prefetching.nodes[0]?).map fun n => (n.pf0, n.pf1, n.binding)) = some (0x8002, 0, 1) ∧ (prefetcher 0).records.length = 1
    ∧ TileComes (early 0) 5 (prefetcher 0) 0x8002 0 0x200 1 (List.replicate 16 0) none
    ∧ TileComes (early 64) 5 (prefetcher 64) 0x8002 0 0x200 1 [] (some .coordRange)
    ∧ mapGet ready.workgroups 5 = some (grouped .runnable 1 1 [1, 0x77]) ∧ FreeSlots ready 1 1 [16]
    ∧ entitled ready 0 1 = true ∧ slotsFor ready 0 1 1 = some []
    ∧ ((mapGet ready.launches 0).map fun l => ((l.nodes[1]?).map fun n => reserveMet ready 0 l 1 n 1,
        outranked ready 5 l (grouped .runnable 1 1 [1, 0x77]))) = some (some true, false)
    ∧ ((mapGet full.launches 0).map fun l => governorOutranked full 0 0 (governorOrder full 0 l 1 0)) = some false
    ∧ (∀ e ∈ full.workgroups, e.2.cell ≠ 1) ∧ entitled full 0 1 = true
    ∧ ((mapGet stuck.gangs 0).map fun g => (g.emit.isSome, g.hold)) = some (true, some .emission)
    ∧ (∀ order : List Nat, order.Perm [0] → order = [0])
    ∧ (let x := placeAll (placeEmit 0 0) { stuck with free := stuck.free + 1 } 0 [⟨[1, 0], 0, 0⟩]; x.1 && (mapGet x.2.gangs 0).isSome) = true
    ∧ (mapGet atEnd.workgroups 0).isSome = true ∧ mapSorted atEnd.gangs = true
    ∧ (∀ e ∈ atEnd.gangs, e.2.ended = true ∧ e.2.loads = [] ∧ e.2.stores = []) ∧ atEnd.copies = [] ∧ atEnd.matrix = []
    ∧ ((mapGet atEnd.workgroups 0).map fun w => (pendingRefs w, w.phase, w.slots.length)) = some ([2], .running, 1)
    ∧ ArrivalsLive atEnd 0 [2] := by
  refine ⟨rfl, rfl, by decide +kernel, by decide +kernel, by decide +kernel, by decide +kernel, ⟨(readLines (mapped (gatherable 0 0)) 0 { loadLaunch with cellar := 0x20000 } [cellarLine]).2.2, by decide +kernel, by decide +kernel⟩,
    rfl, rfl, rfl, rfl, rfl, tiles_come.1, tiles_come.2,
    rfl, ⟨rfl, by decide +kernel, by decide +kernel⟩, by decide +kernel, by decide +kernel,
    by decide +kernel, by decide +kernel, by decide +kernel, by decide +kernel, rfl, fun o h => List.perm_singleton.1 h, by decide +kernel, rfl, by decide +kernel, by decide +kernel, rfl, rfl,
    by decide +kernel, ?_⟩
  intro i ref h
  match i with
  | 0 => obtain rfl : 2 = ref := by simpa using h
         decide
  | i + 1 => simp at h

/-- Two contexts in one partition: cells 1 to 7 are reserved for VF 0, VF 1 waits for 16 free slots. -/
def shared : State :=
  { world gang with
    parts := [(0, { loadPartition with vfs := [0, 1] })]
    launches := [(0, loadLaunch), (64, { loadLaunch with nodes := [{ loadNode with gangs := 15 }] })]
    workgroups := [(0, { loadWorkgroup with cell := 0 }), (1, { grouped .runnable 0 0 [0, 0] with vf := 1 }),
      (2, { grouped .running 0 1 [0, 0] with vf := 1, borrower := true }), (3, grouped .runnable 0 1 [0, 0])]
    hreg := [1, 2, 3, 4, 5, 6, 7].foldl (fun h k => wordSet h (pfReg (0x2000 + 8 * k)) 0x8000) (wordSet [] (pageReg 0 0x30) (2 ^ 63)) }

/-- A gang saved at a mark with a kept register, a range and a barrier. -/
def marked : Gang :=
  { gang with noMark := false, lastMark := 5
              shelf := { Shelf.start loadBase 5 with regs := [(8, 7)], spads := [(0x100, [1, 2])], bars := [(0x200, List.replicate 16 3)] } }

/-- A saved workgroup. -/
def savedGroup : Workgroup := { grouped .saved 0 0 [0, 0] with saved := [(0, marked)], window := [List.replicate 64 9] }

/-- A workgroup to be saved into slot 0 of its save area of class 0, and one that pre-emption finds without a free slot. -/
def savingGroup : Workgroup := { loadWorkgroup with phase := .saving, saveSlots := [0], saveClass := 0 }

theorem witness_PreemptionEvents :
    let saving := { world gang with workgroups := [(0, savingGroup)], hreg := wordSet [] (pageReg 0 0x40) (2 ^ 16 * 4 + 1) }
    let back := { world gang with workgroups := [(0, savedGroup)], gangs := [] }
    mapSorted shared.workgroups = true ∧ (mapGet shared.parts 0).isSome = true ∧ reserver shared 1 = some 0
    ∧ (∃ e ∈ shared.workgroups, e.2.vf = 0 ∧ e.2.phase = .runnable ∧ e.2.cell = 1)
    ∧ (mapGet shared.workgroups 0).isSome = true ∧ (partOf shared 0).isSome = true
    ∧ (wordGet shared.hreg (pageReg 0 0x30)).getLsbD 63 = true ∧ reserver shared 0 = none
    ∧ 0 + 1400 * ((wordGet shared.hreg (pageReg 0 0x30)).toNat % 2 ^ 32) ≤ shared.clock
    ∧ (∃ e ∈ shared.workgroups, e.2.vf ≠ 0 ∧ e.2.vf ∈ [0, 1] ∧ lacksCell shared e.2 = true)
    ∧ mapGet saving.workgroups 0 = some savingGroup ∧ savingGroup.phase = .saving ∧ (∀ e ∈ saving.gangs, e.2.ended = false)
    ∧ mapGet back.workgroups 0 = some savedGroup ∧ couldResume back savedGroup 2 = true ∧ FreeSlots back 2 1 [32]
    ∧ resumeOutranked back 0 savedGroup = false ∧ (∀ e ∈ savedGroup.saved, e.2.shelf.rings = [] ∧ e.2.shelf.tiles = [])
    ∧ back.matrix = [] ∧ savedGroup.records.length ≤ capacity loadNode ∧ (∀ r ∈ savedGroup.records, r.words.length ≤ 8)
    ∧ (∀ x ∈ savedGroup.window, x.length = 64)
    ∧ (∀ r ∈ savedGroup.saved.flatMap fun e => e.2.shelf.spads ++ e.2.shelf.bars, r.1 + r.2.length ≤ 0xE8000)
    ∧ (savedGroup.saved.flatMap fun e => e.2.shelf.spads ++ e.2.shelf.bars).Pairwise
        (fun a b => a.1 + a.2.length ≤ b.1 ∨ b.1 + b.2.length ≤ a.1) := by
  refine ⟨rfl, rfl, by decide +kernel, by decide +kernel, rfl, rfl, by decide +kernel, by decide +kernel, by decide +kernel, by decide +kernel, rfl, rfl, by decide +kernel, rfl, by decide +kernel,
    ⟨rfl, by decide +kernel, by decide +kernel⟩, by decide +kernel, by decide +kernel, rfl, by decide +kernel, by decide +kernel, by decide +kernel, by decide +kernel,
    by decide +kernel⟩

/-- A registered launch of a partition with a link and a port, whose window takes tenant 9's stores and atomics. -/
def linked : State :=
  let s := mapped (recorder 4)
  { s with
    ready := 0xFF, hreg := wordSet s.hreg (pageReg 0 0xC0) (7 * 2 ^ 61 + 9 * 2 ^ 32)
    launches := mapUpdate s.launches 0 fun l => { l with registered := true, tag := 7, unacked := 1, inbox := [⟨[1, 0], 4, 0, none, [0], List.replicate 16 0⟩, ⟨[1, 0], 0, 0, some 0, [1], List.replicate 16 0⟩] }
    windows := [(5, 1)], sends := [(0, 6, 1), (0, 5, 2)] }

/-- An access of tenant 9 to 4 bytes at 0x20000. -/
def remote (op : RemoteOp) : RemoteAccess :=
  { station := 0, source := 4, tenant := 9, op := op, signed := true, va := 0x20000, size := 4, data := [1, 0, 0, 0], compare := [0, 0, 0, 0] }

/-- The bytes it reaches. -/
def reachedBytes : List Nat := consecutive 0x20000 4

theorem link_serves (link : Nat) (h : link = 0 ∨ link = 24) : LinkServes linked link loadPartition := by
  refine ⟨⟨0, ?_⟩, fun l hl => ?_⟩
  · obtain rfl | rfl := h <;> decide +kernel
  · simp [show linked.links = [] from rfl, mapGet] at hl

theorem served : ServedBy linked loadPartition 9 0 := ⟨by decide +kernel, by decide +kernel, by decide +kernel, fun v h => absurd h (Nat.not_lt_zero v)⟩

/-- Whether the scheduler writes parts of the inbox and leaves the launches as they are. -/
def writesInbox (s : State) (spots : List Nat) : Bool :=
  match inboxWrite s 0 0 spots [] with
  | .bytes _ u => decide (u.launches = s.launches)
  | _ => false

/-- Whether the scheduler reads a record out of the inbox as it stands there, and places it. -/
def placesInbox (s : State) (r : InRec) : Bool :=
  match inboxRead s 0 0 r.spots [] with
  | .bytes b v => b == r.image && match placeRecord v 0 0 r.words with | .put _ => true | _ => false
  | _ => false

theorem writes_inbox (s : State) (spots : List Nat) (h : writesInbox s spots = true) :
    ∃ image u, inboxWrite s 0 0 spots [] = .bytes image u ∧ u.launches = s.launches := by
  unfold writesInbox at h
  split at h
  · exact ⟨_, _, ‹_›, of_decide_eq_true h⟩
  · simp at h

/-- The bytes that an access from another package has found. -/
def remoteReaches : RemoteAt → Option (List Nat)
  | .ok pas _ => some pas
  | _ => none

theorem linked_cellar : ((mapGet linked.launches 0).getD loadLaunch).cellar = 0 := by decide +kernel
theorem linked_spots : inboxSpots ((mapGet linked.launches 0).getD loadLaunch).inbox 2 = [2] := by decide +kernel

theorem written_inbox : let l := (mapGet linked.launches 0).getD loadLaunch
    ∃ image u, inboxWrite linked 0 l.cellar (inboxSpots l.inbox 2) [] = .bytes image u ∧ u.launches = linked.launches := by
  intro l
  rw [linked_cellar, linked_spots]
  exact writes_inbox linked [2] (by decide +kernel)

theorem places_inbox (s : State) (r : InRec) (h : placesInbox s r = true) :
    ∃ v u, inboxRead s 0 0 r.spots [] = .bytes r.image v ∧ placeRecord v 0 0 r.words = .put u := by
  unfold placesInbox at h
  split at h
  · rename_i b v hb
    simp only [Bool.and_eq_true, beq_iff_eq] at h
    obtain ⟨rfl, h⟩ := h
    split at h
    · exact ⟨_, _, hb, ‹_›⟩
    · simp at h
  · simp at h

theorem read_inbox : let l := (mapGet linked.launches 0).getD loadLaunch
    ∀ r ∈ l.inbox, ∃ v u, inboxRead linked 0 l.cellar r.spots [] = .bytes r.image v ∧ placeRecord v 0 0 r.words = .put u := by
  intro l r hr
  rw [linked_cellar]
  exact places_inbox linked r
    ((show ∀ r ∈ ((mapGet linked.launches 0).getD loadLaunch).inbox, placesInbox linked r = true by decide +kernel) r hr)

/-- A record taken and one rejected; a transfer for each kind of sender; an acknowledgement; an access rejected for its size and
for its tenant, one of each kind served; a bulk copy. -/
theorem witness_RemoteEvents :
    let l := (mapGet linked.launches 0).getD loadLaunch
    mapGet linked.launches 0 = some l ∧ (l.registered = true ∧ l.tag = 7 ∧ l.phase = .running)
    ∧ ((l.nodes[1]?).map (·.rsize)) = some 0
    ∧ (l.inbox.map fun r => 8 * r.words.length).sum + 8 * ([1, 0] : List Word).length ≤ 32768
    ∧ (∃ image u, inboxWrite linked 0 l.cellar (inboxSpots l.inbox 2) [] = .bytes image u ∧ u.launches = linked.launches)
    ∧ (∀ e ∈ linked.launches, e.2.tag ≠ 8) ∧ (∀ e ∈ linked.launches, e.1 = 0)
    ∧ (l.inbox.map (·.sender)) = [none, some 0] ∧ l.stackGroups = [0]
    ∧ (∀ r ∈ l.inbox, ∃ v u, inboxRead linked 0 l.cellar r.spots [] = .bytes r.image v ∧ placeRecord v 0 0 r.words = .put u)
    ∧ linked.sends = [(0, 6, 1)] ++ (0, 5, 2) :: [] ∧ l.unacked ≠ 0 ∧ mapGet linked.windows (2 ^ 21 * 0 + 5) = some 1
    ∧ (∀ v ∈ loadPartition.vfs, accepts linked v 8 = false) ∧ partReady linked loadPartition = true
    ∧ (remote .add).size ≠ 0 ∧ (remote .add).va % (remote .add).size = 0
    ∧ (∀ op ∈ [RemoteOp.load, .store, .add, .cas], remoteReaches (remoteBytes linked 0 0x20000 4 (remoteAccess op)) = some reachedBytes)
    ∧ (cells (.device loadPartition reachedBytes)).Nodup ∧ linked.poison = []
    ∧ (wordGet linked.hreg (pageReg 0 0xC0)).getLsbD 62 = true ∧ (wordGet linked.hreg (pageReg 0 0xC0)).getLsbD 61 = true
    ∧ remoteReaches (remoteBytes linked 0 0x20000 4 .write) = some reachedBytes := by
  refine ⟨rfl, ⟨rfl, rfl, rfl⟩, rfl, by decide +kernel, written_inbox, by decide +kernel, by decide +kernel, rfl, rfl, read_inbox, rfl, by decide +kernel, rfl, by decide +kernel, by decide +kernel,
    by decide +kernel, by decide +kernel, by decide +kernel, by decide +kernel, rfl, by decide +kernel, by decide +kernel, by decide +kernel⟩

/-! ## Witnesses: translation, partitions, tokens -/

/-- A miss of VF 0 on the page at 0x20000, with gang 0 waiting. -/
def missed (phase : MissPhase) (result : WalkResult) : Miss :=
  { vf := 0, page := 2, va := 0x20000, source := .gang 0, cell := 511, cells := [511], acc := 1, phase := phase, result := result, waiters := [.gang 0] }

/-- A machine with that miss as number 3, page requests enabled at 0x800. -/
def missing (phase : MissPhase) (result : WalkResult) : State :=
  { mapped (world gang) with
    misses := [(3, missed phase result)], buckets := [(2 ^ 24 * 7 + 1024 * 7, 1024)]
    hreg := wordSet (mapped (world gang)).hreg (pageReg 0 0x10) (2 ^ 63 + 0x800) }

/-- A page request of VF 0 under an id. -/
def asked (id : Nat) : PageRequest := { vf := 0, id := id, seq := 9, ipa := 0x90000 }

/-- A host translation in progress, and one of another page. -/
def hostMiss (page : Nat) (pri failed : Bool) : AtsMiss := { vf := 0, page := page, acc := 9, pri := pri, queued := false, failed := failed, waiters := [.copy 1, .gang 0], places := [] }

/-- A walk taken with one token left; its end under TLBINV, with an entry, a cause, and an absent page: not enabled, no id left,
the last id; a page whose accesses are all denied; a reply that names the request, and others; host translations; TLBINV idle, busy, complete; PRQBASE with and
without requests. -/
theorem witness_TranslationEvents :
    let queued := missing .queued .none
    let walking := missing .walking (.absent 0x20000 3 false)
    let invalidated := { walking with tlbBusy := [(0, [3])] }
    let off := { walking with hreg := [] }
    let full := { walking with requests := (List.range 64).map asked }
    let last := { walking with requests := (List.range 63).map asked }
    let waits := { missing (.requested 5) (.absent 0x20000 3 false) with requests := [asked 5] }
    let host := { world gang with atsMisses := [hostMiss 1 false false, hostMiss 2 false false], ats := [⟨0, 0, 2, 7, true, false⟩] }
    let pri := { host with atsMisses := [hostMiss 1 false false, hostMiss 2 true false] }
    let waitsPri : AtsMiss := { hostMiss 2 true false with queued := true }
    let denied := WalkResult.checked 1 6 (.absent 0x20000 3 false)
    mapGet queued.misses 3 = some (missed .queued .none)
    ∧ (queued.misses.filter fun e => e.2.phase == .walking && e.2.cell / 64 == 7).length < 32
    ∧ mapGet queued.buckets (2 ^ 24 * 7 + 1024 * (511 / 64) + 0) = some 1024
    ∧ mapGet walking.misses 3 = some (missed .walking (.absent 0x20000 3 false))
    ∧ (∃ e ∈ invalidated.tlbBusy, 3 ∈ e.2) ∧ (∀ e ∈ walking.tlbBusy, 3 ∉ e.2)
    ∧ mapGet (missing .walking (.ok ⟨0, 0, 0x20000, 2 ^ 16, 0, 0x20000, 7, 7⟩)).misses 3
        = some (missed .walking (.ok ⟨0, 0, 0x20000, 2 ^ 16, 0, 0x20000, 7, 7⟩))
    ∧ mapGet (missing .walking (.cause 3)).misses 3 = some (missed .walking (.cause 3))
    ∧ absentOf (.cause 3) = none ∧ absentOf denied = some (0x20000, 3, false)
    ∧ (∀ a, accBit a &&& 1 ≠ 0 ↔ accBit a &&& 1 ≠ 0 ∧ ∀ st, (WalkResult.absent 0x20000 3 false).for a ≠ .denied st)
    ∧ (∀ a, accBit a &&& 0 ≠ 0 ↔ accBit a &&& 1 ≠ 0 ∧ ∀ st, denied.for a ≠ .denied st)
    ∧ partOf walking 0 = some (0, loadPartition) ∧ (wordGet off.hreg (pageReg 0 0x10)).getLsbD 63 = false
    ∧ (wordGet walking.hreg (pageReg 0 0x10)).getLsbD 63 = true ∧ 0x800 + 2048 ≤ memorySize loadPartition
    ∧ (∀ r ∈ full.requests, r.vf = 0 → r.ipa / 2 ^ 16 ≠ 0x20000 / 2 ^ 16) ∧ (∀ i < 64, ∃ r ∈ full.requests, r.vf = 0 ∧ r.id = i)
    ∧ (¬∃ r ∈ last.requests, r.vf = 0 ∧ r.id = 63) ∧ (∀ i < 63, ∃ r ∈ last.requests, r.vf = 0 ∧ r.id = i)
    ∧ (cells (.device loadPartition (consecutive (0x800 + 32 * 63) 32))).Nodup
    ∧ mapSorted waits.misses = true ∧ mapGet waits.misses 3 = some (missed (.requested 5) (.absent 0x20000 3 false))
    ∧ (∃ r ∈ waits.requests, r.vf = 0 ∧ r.id = 5 ∧ r.seq = 9) ∧ (∀ r ∈ waits.requests, ¬(r.vf = 0 ∧ r.id = 5 ∧ r.seq = 8))
    ∧ host.atsMisses = [hostMiss 1 false false] ++ hostMiss 2 false false :: []
    ∧ (∀ x ∈ [hostMiss 1 false false] ++ [], x ≠ hostMiss 2 false false ∧ ¬(x.vf = 0 ∧ x.page = 2))
    ∧ (hostMiss 2 false false).acc &&& 9 ≠ 0 ∧ (hostMiss 2 false false).acc &&& 10 ≠ 0
    ∧ 0 ∈ ({ host with priEnabled := [0] } : State).priEnabled ∧ 0 ∉ host.priEnabled
    ∧ pri.atsMisses = [hostMiss 1 false false] ++ hostMiss 2 true false :: []
    ∧ (∃ l out, NextPri { pri with priLimit := [(0, 1)] } 0 [hostMiss 1 false false, waitsPri] l out)
    ∧ (∃ l out, NextPri pri 0 [hostMiss 1 false false, waitsPri] l out)
    ∧ mapGet walking.tlbBusy 0 = none ∧ mapGet invalidated.tlbBusy 0 ≠ none
    ∧ mapGet ({ walking with tlbBusy := [(0, [])] } : State).tlbBusy 0 = some []
    ∧ (∀ r ∈ walking.requests, r.vf ≠ 0) ∧ ∃ r ∈ waits.requests, r.vf = 0 := by
  refine ⟨rfl, by decide +kernel, rfl, rfl, by decide +kernel, by decide +kernel, rfl, rfl, rfl, rfl, ?_, ?_, rfl, by decide +kernel, by decide +kernel,
    by decide +kernel, by decide +kernel, by decide +kernel, by decide +kernel, by decide +kernel, by decide +kernel, rfl, rfl,
    by decide +kernel, by decide +kernel, rfl, by decide +kernel, by decide, by decide, by decide +kernel, by decide +kernel, rfl, ?_, ?_, rfl,
    by decide +kernel, rfl, by decide +kernel, by decide +kernel⟩
  · intro a
    simp [WalkResult.for]
  · intro a
    cases a <;> simp [WalkResult.for, accBit, needed]
  · refine ⟨[hostMiss 1 false false, hostMiss 2 true false], [.pri 0 2], fun h => absurd h (by decide), fun c x d _ hl hx _ _ => ?_⟩
    rcases c with - | ⟨y, - | ⟨z, c⟩⟩
    · obtain ⟨rfl, -⟩ := List.cons.inj hl
      exact absurd hx.2.1 (by decide)
    · simp only [List.cons_append, List.nil_append, List.cons.injEq] at hl
      obtain ⟨h1, h2, h3⟩ := hl
      subst h1 h2 h3
      exact ⟨rfl, rfl⟩
    · simp at hl
  · exact ⟨_, [], fun _ => ⟨rfl, rfl⟩, fun c x d h => absurd h (by decide)⟩

/-- A machine after bring-up whose PARTDESC names one unit of each kind that a partition must have, with reserved bits added. -/
def proposing (extra : Word) (clusters : Word) : State :=
  { world gang with
    bringup := 2, parts := [(1, { loadPartition with clusters := [1], banks := [1], channels := [1], larder := [1], copy := [], fabric := [],
                                                     stations := [], ports := [], vfs := [5] })]
    hreg := wordSet (wordSet (wordSet (wordSet (wordSet [] (pfReg 0) clusters) (pfReg 8) 1) (pfReg 136) 1) (pfReg 168) 1) (pfReg (8 * 63)) extra }

/-- Each answer of PARTCMD at its first condition; a cell of a VF and one of no VF; a profile reserved, of no partition, too
large, and one that fits; a queue number free and taken; a drain of each scope with and without work. -/
theorem witness_PartitionEvents :
    let good := proposing 0 1
    let drained := { proposing 0 1 with parts := [(0, loadPartition)], drainPart := [(0, .drained)] }
    let owner := { world gang with bringup := 2 }
    let taken := { owner with hreg := wordSet [] (pageReg 1023 (0x100 + 8 * 63)) (2 ^ 63 + 7) }
    let going := { owner with drainVf := [(0, .draining)], drainPart := [(0, .draining)], drainDevice := .draining }
    2 ≤ good.bringup ∧ good.bringup ≠ 8
    ∧ descBit (proposing (2 ^ 63) 1) 4095 = true ∧ (∀ k < 16, wordGet good.hreg (pfReg (8 * (48 + k))) = 0) ∧ wordGet good.hreg (pfReg (8 * 31)) = 0
    ∧ mapGet good.parts 1 ≠ none ∧ (∃ p, mapGet good.parts 1 = some p ∧ ∃ kind < 9, unitsOfKind p kind ≠ []) ∧ mapGet good.drainPart 1 ≠ some .drained
    ∧ mapGet good.parts 0 = none ∧ mapGet drained.parts 0 = some loadPartition ∧ mapGet drained.drainPart 0 = some .drained
    ∧ (∃ u ∈ unitsOfKind (described (proposing 0 2)) 0, ∃ e ∈ (proposing 0 2).parts, u ∈ unitsOfKind e.2 0)
    ∧ (∀ e ∈ good.parts, ∀ kind < 9, ∀ u ∈ unitsOfKind (described good) kind, u ∉ unitsOfKind e.2 kind)
    ∧ (described (proposing 0 0)).clusters = [] ∧ (described good).clusters = [0] ∧ (described good).banks = [0]
    ∧ (described good).channels = [0] ∧ (described good).larder = [0]
    ∧ (∀ kind < 8, profilesFit (described good) kind (fun v => profile good v kind) = true)
    ∧ (partOf owner 0 = some (0, loadPartition) ∧ 7 / 8 ∈ loadPartition.clusters) ∧ partOf owner 1 = none
    ∧ profilesFit loadPartition 0 (fun o => if o = 0 then 512 * 2 ^ 48 + 2 ^ 32 else profile owner o 0) = true
    ∧ profilesFit loadPartition 0 (fun o => if o = 0 then 513 * 2 ^ 48 + 2 ^ 32 else profile owner o 0) = false
    ∧ (wordGet taken.hreg (pageReg 1023 (0x100 + 8 * 63))).getLsbD 63 = true
    ∧ owner.queues = [] ∧ going.queues = [] ∧ mapGet going.drainVf 0 = some .draining
    ∧ drainAt { going with queues := [(0, { qring := 0, qlog := 0, rp := 0, wp := 0, sp := 0, stopped := false, dbstat := 0
                                            ended := [⟨0, 0, 0, 0⟩], bells := [] })] } .partition 0 = .draining := by
  refine ⟨by decide, by decide, by decide +kernel, by decide +kernel, by decide +kernel, by decide, ⟨_, rfl, 0, by decide, by decide⟩, by decide, rfl, rfl, rfl,
    by decide +kernel, by decide +kernel, by decide +kernel, by decide +kernel, by decide +kernel, by decide +kernel, by decide +kernel,
    by decide +kernel, ⟨rfl, by decide⟩, rfl, by decide +kernel, by decide +kernel, by decide +kernel, rfl, rfl, rfl, rfl⟩

theorem partitions_disjoint_world : PartitionsDisjoint (world gang) := by
  refine ⟨by decide, by decide +kernel, List.pairwise_singleton _ _⟩

theorem partitions_disjoint_of (s : State) (h : s.parts = (world gang).parts) : PartitionsDisjoint s := by
  unfold PartitionsDisjoint
  rw [h]
  exact partitions_disjoint_world

/-- A fabric cycle of one partition, with profiles that lend; a request that owns, one that borrows from the pool, and several. -/
theorem witness_TokenEvents :
    let s := { world gang with hreg := wordSet [] (pageReg 0 0x80) (512 * 2 ^ 48 + 2 ^ 32 + 2 ^ 31), buckets := [(0, 1024)], pools := [(0, 2048)] }
    let asks : BucketRequest := ⟨0, 2, 0⟩
    PartitionsDisjoint (world gang) ∧ arbiterVfs s 0 0 = [0] ∧ ((arbiterVfs s 0 0).map fun v => rate s v 0).sum ≤ capacityOf 0
    ∧ ((partOf s asks.vf).any fun e => (arbitersOf e.2 0).contains 0) = true ∧ bucket s 0 0 0 = 1024
    ∧ bucket { s with buckets := [(0, 1023)] } 0 0 0 < 1024 ∧ 1024 * asks.tokens ≤ pool s 0 0 := by
  exact ⟨partitions_disjoint_world, by decide +kernel, by decide +kernel, by decide +kernel, by decide +kernel, by decide +kernel, by decide +kernel⟩

/-- Whether an access from another package is held back, fails, or finds its bytes. -/
def remoteState : RemoteAt → Nat
  | .wait => 0
  | .fail _ => 1
  | .ok _ _ => 2

/-- 32 walks of stack group 0. -/
def walkersBusy (s : State) : State :=
  { s with misses := (List.range 32).map fun k => (k, { missed .walking .none with page := 100 + k, cell := 0, cells := [0] }) }

/-- An acknowledgement of a launch that was aborted, behind another chip's; accesses and writes that the walkers hold back, and one
that fails. -/
theorem witness_RemoteAccessesWaitAndFail :
    let old : Nat × Nat × Nat := (65536, 5, 2)
    let s := { linked with sends := [(65536, 6, 1), old] }
    let waits := walkersBusy linked
    mapGet s.launches 65536 = none ∧ s.sends = [(65536, 6, 1)] ++ old :: [] ∧ mapGet s.windows (2 ^ 21 * 0 + 5) = some 1
    ∧ (((mapGet s.launches 0).map (·.unacked)).getD 0) ≠ 0
    ∧ remoteState (remoteBytes waits 0 0x20000 4 .read) = 0 ∧ remoteState (remoteBytes waits 0 0x20000 4 .write) = 0
    ∧ remoteState (remoteBytes linked 0 (2 ^ 57) 4 .read) = 1 ∧ linkOwner waits 0 = linkOwner linked 0 ∧ linkOwner waits 24 = linkOwner linked 24 := by
  decide +kernel

/-- A walk whose requesters are a gang and the scheduler, with a completion entry of a packet that ended without a launch not among them; an
entry that fills; two queued misses of one walker, the second of a VF without a token. -/
theorem witness_WalksServeTheirRequesters :
    let e : TlbEntry := ⟨0, 0, 0x20000, 2 ^ 16, 0, 0x20000, 7, 7⟩
    let m := { missed .walking (.ok e) with waiters := [.gang 0, .scheduler 5] }
    let poor := { missed .queued .none with vf := 1, page := 9 }
    let s := { missing .queued .none with misses := [(2, poor), (3, missed .queued .none)] }
    NoEntryWaits m.waiters ∧ Source.scheduler 5 ∈ m.waiters ∧ NoEntryWaits (missed .walking (.ok e)).waiters
    ∧ (∀ task, Source.scheduler task ∉ (missed .walking (.ok e)).waiters)
    ∧ mapGet s.misses 2 = some poor ∧ mapGet s.misses 3 = some (missed .queued .none) ∧ poor.cell / 64 = 511 / 64
    ∧ (∀ x ∈ s.misses, x.2.phase = .queued → x.2.cell / 64 = 7 → 1024 ≤ bucketOf s 7 7 x.2.vf → 3 ≤ x.1)
    ∧ (∀ x ∈ s.misses, NoEntryWaits x.2.waiters) ∧ NoEntryWaits (hostMiss 1 false false).waiters := by
  have h : ∀ l : List Source, (∀ x ∈ l, ∀ task, x = .scheduler task → task < 2 ^ 20) → NoEntryWaits l := fun l hl task ht => hl _ ht task rfl
  refine ⟨h _ ?_, by decide, h _ ?_, ?_, rfl, rfl, by decide, by decide +kernel, ?_, h _ ?_⟩
  · intro x hx task ht
    subst ht
    have : task = 5 := by simpa using hx
    omega
  · intro x hx task ht
    subst ht
    simp [missed] at hx
  · intro task ht
    simp [missed] at ht
  · intro x hx
    refine h _ fun y hy task ht => ?_
    subst ht
    simp only [List.mem_cons, List.not_mem_nil, or_false] at hx
    obtain rfl | rfl := hx <;> simp [missed] at hy
  · intro x hx task ht
    subst ht
    simp [hostMiss] at hx

/-- Tokens owed that the VF's bucket pays, that the pool pays, and that nothing pays yet. -/
theorem witness_TokensOwed :
    let with_ := fun (profile : BitVec 64) (b : Int) (p : Nat) =>
      { world gang with hreg := wordSet [] (pageReg 0 0x80) profile, buckets := [(0, b)], pools := [(0, p)], owed := [⟨0, 0, 0, 2⟩] }
    let own := with_ (512 * 2 ^ 48 + 2 * 2 ^ 32) 1024 0
    let lent := with_ (2 ^ 32) 0 4096
    let poor := with_ (2 ^ 32) (-512) 0
    PartitionsDisjoint own ∧ (∀ s ∈ [own, lent, poor], s.owed = [⟨0, 0, 0, 2⟩] ∧ 0 ∈ arbiterVfs s 0 0)
    ∧ 1024 ≤ accrued own 0 0 0 ∧ accrued lent 0 0 0 < 1024 ∧ accrued poor 0 0 0 < 1024
    ∧ (∀ s ∈ [lent, poor], ((arbiterVfs s 0 0).map fun v => rate s v 0).sum ≤ capacityOf 0)
    ∧ 1024 * 2 ≤ swollen lent 0 0 ∧ (world gang).owed = []
    ∧ Claims.filled { own with refills := [(0, 0)] } 0 0 0 = 2048 := by
  intro with_ own lent poor
  exact ⟨partitions_disjoint_world, by decide +kernel, by decide +kernel, by decide +kernel, by decide +kernel, by decide +kernel, by decide +kernel, rfl,
    by decide +kernel⟩

/-- An aperture access that the walkers hold back, and one that they do not; a scope that enters a drain already at DRAINED; a launch
with a line of cellar; a prefetch not yet begun. -/
theorem witness_EventsThatWait :
    let s := mapped (world gang)
    let idle := { world gang with drainVf := [(0, .drained)], bringup := 2 }
    ¬walksOf (walkersBusy s) (schedStack (walkersBusy s) 0) < 32 ∧ walksOf s (schedStack s 0) < 32
    ∧ AtomicLegal 0x20000 .add [1, 0, 0, 0] [] ∧ vfDrain idle 0 = 2
    ∧ regionLines s 0 { loadLaunch with cellar := 0x20000, cellarLines := 1 } ≠ [] ∧ (prefetcher 0).fetched = [] := by
  intro s idle
  exact ⟨by decide +kernel, by decide +kernel, by unfold AtomicLegal; decide, by decide +kernel, by decide +kernel, rfl⟩

/-! ## Witnesses: faults of units, the host, bring-up, a step -/

/-- A gang between RCV and MARK at the last count, held at a barrier since 65,536 cycles. -/
def overdue : Gang := { gang with sealed := true, markCount := 4096, hold := some .barrier, heldCycles := 65536 }

/-- MARK_OVERDUE by count and by time; a launch at its watchdog; partitions that do not share a unit; a die that carries each
structure; a chip at the trip's temperature and below its release. -/
theorem witness_UncontainedFaultEvents :
    let s := { world overdue with workgroups := [(0, { loadWorkgroup with acted := true })] }
    let hung := { world gang with clock := 1400000, launches := [(63, { loadLaunch with started := 0 })], hreg := wordSet [] (pfReg 0x1000) (2 ^ 63 + 1) }
    mapGet s.gangs 0 = some overdue ∧ overdue.ended = false ∧ overdue.stopped = false ∧ overdue.sealed = true ∧ overdue.charged = false
    ∧ 4096 ≤ overdue.markCount ∧ mapGet s.workgroups overdue.wg = some { loadWorkgroup with acted := true }
    ∧ loadWorkgroup.phase = .running ∧ overdue.hold = some .barrier ∧ 65536 ≤ overdue.heldCycles
    ∧ mapGet hung.launches (64 * 0 + 63) = some { loadLaunch with started := 0 } ∧ partOf hung 0 = some (0, loadPartition)
    ∧ (wordGet hung.hreg (pfReg (0x1000 + 8 * 0))).getLsbD 63 = true ∧ (wordGet hung.hreg (pfReg 0x1000)).toNat % 2 ^ 32 = 1
    ∧ 0 + 1400000 * 1 ≤ hung.clock ∧ loadLaunch.phase = .running ∧ PartitionsDisjoint hung ∧ mapGet hung.parts 0 = some loadPartition
    ∧ (∃ b ∈ loadPartition.larder, b / 32 = 0) ∧ (∃ c ∈ loadPartition.clusters, c / 16 = 0)
    ∧ (hung.trip = false ∧ ∃ e ∈ ({ hung with temps := [(0, 115)] } : State).temps, 115 ≤ e.2)
    ∧ (∀ e ∈ ({ hung with temps := [(0, 94)] } : State).temps, e.2 < 95) := by
  exact ⟨rfl, rfl, rfl, rfl, rfl, by decide, rfl, rfl, rfl, by decide, rfl, rfl, by decide +kernel, by decide +kernel, by decide, rfl,
    partitions_disjoint_world, rfl, by decide, by decide, ⟨rfl, by decide⟩, by decide⟩

/-- A gang with a load outstanding, a complete one before it, and a store. -/
def awaiting (remote : Option (Nat × BitVec 64)) (loads : Bool) : Gang :=
  { gang with loads := if loads then [⟨6, false, true, 0, 1, 8, remote, []⟩, ⟨7, false, false, 0, 1, 12, remote, []⟩] else []
              stores := [⟨8, 16, remote⟩] }

/-- A link down with nothing on it, with one copy, with a matrix operation, with a record, with a load, with a store; a line clean, dirty, repaired before; a line poisoned first in
its partition; a frequency; a watch event with room and without; the trigger of the plate armed or not. -/
theorem witness_ErrorAndDebugEvents :
    let away := { pendingCopy with src := { tiled 0x20000 3 with chip := 9 } }
    let carrying := { copyPending with copies := [(5, { away with sent := [(3, 0)] })], links := [(0, ⟨.up, 9⟩)] }
    let op : MatOp := { MatOp.of .macc (fields 4 0 0 0 0 0 1) 0 gang [] with sent := [(2, 0)] }
    let working := { crowded [op] with gangs := [(0, gang)] }
    let telling := { world gang with sends := [(0, 9, 1), (0, 9, 0)] }
    let waiting := fun loads => { world gang with links := [(0, ⟨.up, 9⟩)], gangs := [(0, gang), (1, awaiting (some (0, 5)) loads)] }
    let cached := fun dirty => { world gang with l2 := [(2 ^ 40 + 5, ⟨0, 0, dirty, 1, false, none⟩)] }
    let event : WatchEvent := ⟨0, 15, 4, 0x20000, 4, 1, 99⟩
    let watched := fun (prod : Nat) => { world gang with
      watch := [event], hreg := wordSet (wordSet [] (vfReg 0 0x140) 0x3000) (vfReg 0 0x148) (BitVec.ofNat 64 prod), watchSeq := [(0, 65535)] }
    let armed := { world gang with hreg := wordSet [] (pfReg 0x220) 0x86 }
    (∀ e ∈ (world gang).gangs, e.2.loads = []) ∧ lostCopies (world gang) 0 = [] ∧ lostCopies carrying 0 = [(5, { away with sent := [(3, 0)] }, true)]
    ∧ lostOps (world gang) 0 = [] ∧ lostOps carrying 0 = [] ∧ (∀ e ∈ (world gang).gangs, e.2.stores = []) ∧ (world gang).sends = []
    ∧ (∀ e ∈ carrying.gangs, e.2.loads = [] ∧ e.2.stores = []) ∧ carrying.sends = []
    ∧ lostOps working 0 = [(0, op)] ∧ lostCopies working 0 = [] ∧ (∀ e ∈ working.gangs, e.2.loads = [] ∧ e.2.stores = [])
    ∧ telling.sends = [(0, 9, 1)] ++ (0, 9, 0) :: [] ∧ partOf telling (0 / 64) = some (0, loadPartition) ∧ PartitionsDisjoint telling
    ∧ (∀ loads, (waiting loads).gangs = [(0, gang)] ++ (1, awaiting (some (0, 5)) loads) :: [])
    ∧ (awaiting (some (0, 5)) true).loads = [⟨6, false, true, 0, 1, 8, some (0, 5), []⟩] ++ ⟨7, false, false, 0, 1, 12, some (0, 5), []⟩ :: []
    ∧ (awaiting (some (0, 5)) false).loads = [] ∧ (awaiting (some (0, 5)) false).stores = [] ++ ⟨8, 16, some (0, 5)⟩ :: []
    ∧ (∃ (t : State) (late : List Late), mapGet (putLate { t with free := t.free + 1 } 1 late).gangs 1 = some gang)
    ∧ mapGet (cached true).l2 (2 ^ 40 + 5) = some ⟨0, 0, true, 1, false, none⟩
    ∧ mapGet (cached false).l2 (2 ^ 40 + 5) = some ⟨0, 0, false, 1, false, none⟩
    ∧ (2 ^ 40 + 5) % 2 ^ 36 ∉ (cached false).repaired ∧ lineOwner (cached false) 5 = some (0, loadPartition)
    ∧ 5 ∈ ({ cached false with repaired := [5] } : State).repaired
    ∧ 2 ^ 24 - 1 ∉ (world gang).poison ∧ lineOwner (world gang) (2 ^ 24 - 1) = some (0, loadPartition)
    ∧ (0, paOf loadPartition (128 * (2 ^ 24 - 1)) / 65536) ∉ (world gang).quarantinedPages ∧ (world gang).quarantine.length < 512
    ∧ 13 < 14
    ∧ (watched 5).watch = event :: [] ∧ ¬Armed (watched 5) 2 ∧ partOf (watched 5) event.vf = some (0, loadPartition)
    ∧ ((wordGet (watched 127).hreg (vfReg 0 0x148)).toNat + 1) % 128 = (wordGet (watched 127).hreg (vfReg 0 0x150)).toNat
    ∧ ((wordGet (watched 5).hreg (vfReg 0 0x148)).toNat + 1) % 128 ≠ (wordGet (watched 5).hreg (vfReg 0 0x150)).toNat
    ∧ bits (wordGet (watched 5).hreg (vfReg 0 0x140)).toNat 12 45 * 4096 + 4096 ≤ memorySize loadPartition
    ∧ (cells (.device loadPartition (consecutive (0x3000 + 32 * 5) 32))).Nodup ∧ event.vf < 1024 ∧ event.kind < 16
    ∧ Armed armed 1 ∧ ¬Armed (world gang) 1 := by
  refine ⟨by decide, rfl, by decide +kernel, rfl, rfl, by decide, rfl, by decide, rfl, by decide +kernel, rfl, by decide, rfl, rfl,
    partitions_disjoint_world, fun _ => rfl, rfl, rfl, rfl, ⟨{ world gang with gangs := [(1, gang)] }, [], rfl⟩, rfl, rfl, by decide +kernel, by decide +kernel, by decide, by decide, by decide +kernel,
    by decide, by decide, by decide, rfl, ?_, rfl, by decide +kernel, by decide +kernel, by decide +kernel, by decide +kernel, by decide, by decide, ?_, ?_⟩ <;>
    unfold Armed <;> decide +kernel

/-- Two bytes that stage 2 maps, for each kind of access; AtomicOps that PCIe has and one that it lacks; an aperture that maps nothing: no partition, no second stage, beyond its size; the physical
function's window; pages of the survey; functions that answer. -/
theorem witness_HostAccessEvents :
    let s := mapped (world gang)
    let bare := { world gang with hreg := [] }
    let up := { world gang with bringup := 4, links := [(27, ⟨.up, 1025⟩)], logSeq := [(31, 7)], measured := [(1023, 0x77)] }
    partOf s 0 = some (0, loadPartition) ∧ ApertureMaps s 0 loadPartition true false 0x20000 2 [0x20000, 0x20001]
    ∧ (∀ x ∈ [0x20000, 0x20001], dramKey loadPartition x / 128 ∉ s.poison) ∧ ApertureMaps s 0 loadPartition false true 0x20000 2 [0x20000, 0x20001]
    ∧ (∀ r w n, n = 2 ∨ n = 4 → (apertureParts s 0 loadPartition r w (pagesOf 0x20000 n) []).1 = some (consecutive 0x20000 n))
    ∧ AtomicLegal 0x20000 .add [1, 0, 0, 0] [] ∧ AtomicLegal 0x20000 .cas [1, 0, 0, 0] [0, 0, 0, 0] ∧ ¬AtomicLegal 0x20000 .min [1, 0, 0, 0] []
    ∧ (cells (.device loadPartition (consecutive 0x20000 4))).Nodup
    ∧ (cells (.device loadPartition [0x20000, 0x20001])).Nodup
    ∧ partOf s 1 = none ∧ (∀ r w, (apertureParts bare 0 loadPartition r w (pagesOf 0x20000 2) []).1 = none)
    ∧ mapGet bare.parts ((wordGet bare.hreg (pfReg 0x238)).toNat % 32) = some loadPartition
    ∧ 0x20000 + 2 ≤ memorySize loadPartition ∧ 0x20000 + 2 ≤ 2 ^ 39 ∧ (∀ i < 2, dramKey loadPartition (0x20000 + i) / 128 ∉ bare.poison)
    ∧ (cells (.device loadPartition (consecutive 0x20000 2))).Nodup
    ∧ 2 ≤ up.bringup ∧ up.bringup < 256 ∧ up.freq < 65536 ∧ mapGet up.links 27 = some ⟨.up, 1025⟩
    ∧ 252 = 0x80 + 4 * 31 ∧ (mapGet up.logSeq 31).getD 0 < 2 ^ 64 ∧ up.bringup ≠ 8 ∧ mapGet up.measured (1024 - 1) = some 0x77
    ∧ mapGet up.measured (1 - 1) = none := by
  have hb : 0x20000 < 2 ^ (30 + (Config.aperture 0).val) :=
    lt_of_lt_of_le (by decide : 0x20000 < 2 ^ 30) (Nat.pow_le_pow_right (by decide) (Nat.le_add_right _ _))
  have hw : (stage2 (mapped (world gang)) (schedStack (mapped (world gang)) 0) 0 loadPartition 0x20000 false []).1
      = .ok 0x20000 (2 ^ 34) 7 := by decide +kernel
  have h : ∀ reads writes, ApertureMaps (mapped (world gang)) 0 loadPartition reads writes 0x20000 2 [0x20000, 0x20001] :=
    fun _ _ => ⟨hb, _, _, _, hw, fun _ => rfl, fun _ => rfl, rfl⟩
  refine ⟨rfl, h .., by decide +kernel, h .., ?_, by unfold AtomicLegal; decide, by unfold AtomicLegal; decide, by unfold AtomicLegal; decide,
    by decide +kernel, by decide +kernel, by decide +kernel, ?_, rfl, by decide, by decide, by decide +kernel, by decide +kernel, by decide, by decide, by decide, rfl,
    rfl, by decide, by decide, rfl, rfl⟩
  · rintro r w n (rfl | rfl)
    · have hp : pagesOf 0x20000 2 = [(0x20000, 2)] := by decide
      simp only [hp, apertureParts, apertureAt, if_neg (not_le.mpr hb), hw]
      cases r <;> cases w <;> rfl
    · have hp : pagesOf 0x20000 4 = [(0x20000, 4)] := by decide
      simp only [hp, apertureParts, apertureAt, if_neg (not_le.mpr hb), hw]
      cases r <;> cases w <;> rfl
  · intro r w
    have hp : pagesOf 0x20000 2 = [(0x20000, 2)] := by decide
    simp only [hp, apertureParts, apertureAt, if_neg (not_le.mpr hb)]
    rfl

/-- The last VF and queue, a disabled ring, bits written and not written; a manifest that verifies and one that does not; the
first stack group and the last. -/
theorem witness_RegisterAndBringupEvents :
    let s := { State.reset with staged := some { State.reset.manifest with rollback := 3, signatureValid := true }, rollback := 3 }
    let bad := { s with staged := some { State.reset.manifest with rollback := 3, signatureValid := false } }
    let old := { s with rollback := 4 }
    let last := { State.reset with bringup := 3, ready := 0x7F }
    1023 < 1024 ∧ (queueAt s 1023 63).qring.getLsbD 61 = false ∧ (0 : BitVec 64).getLsbD 61 = false ∧ (3 : BitVec 64).getLsbD 0 = true
    ∧ (3 : BitVec 64).getLsbD 1 = true ∧ (0xFF : BitVec 64).getLsbD 8 = false
    ∧ ((s.staged.getD s.manifest).signatureValid = true ∧ s.rollback ≤ (s.staged.getD s.manifest).rollback)
    ∧ (bad.staged.getD bad.manifest).signatureValid = false ∧ (old.staged.getD old.manifest).rollback < old.rollback
    ∧ ({ s with bringup := 2 } : State).ready.getLsbD 0 = false ∧ last.ready.getLsbD 7 = false ∧ ∀ k < 7, last.ready.getLsbD k = true := by
  refine ⟨by decide, rfl, by decide, by decide, by decide, by decide, by decide, rfl, by decide, rfl, rfl, by decide⟩

/-- A loaded program whose first instruction is the long-form FENCE of R97's examples. -/
def started : State := State.reset.withFetchWord 96 0x7441C000000000000000C003

/-- Its gang. -/
def first : Gang := (mapGet started.gangs 0).getD gang

/-- What the three words at its PC decode to. -/
def firstInstr : Instr := .fence ⟨.long, 0, 7, 0, 0, 0, 0, 0, 3 * 4096⟩

/-- The `n` words of 4 bytes at the start of the loaded program are those of `w`, and nothing of them has been fetched. -/
def codeIs (s : State) (n w : Nat) : Bool :=
  let pa := fun k => loadBase + 4 * k
  let line := fun k => (List.range 128).map fun j => dramByte s (dramKey loadPartition (pa k) - pa k % 128 + j)
  partOf s first.vf == some (0, loadPartition) && s.icache == [] &&
  ((List.range n).all fun k => lookup s 0 first.vf (first.pc + 4 * k) .fetch == .pa (pa k) && !paPoisoned s loadPartition (pa k) 4 &&
    ((line k).drop ((first.pc + 4 * k) % 128)).take 4 == paRead s loadPartition (pa k) 4 &&
    (List.range n).all fun j => line j == line k) &&
  natToBytes (4 * n) w == (List.range n).flatMap fun k => paRead s loadPartition (pa k) 4

theorem words_at_pc (s : State) (n w : Nat) (h : codeIs s n w = true) : WordsAtPc s 0 first n (natToBytes (4 * n) w) := by
  unfold codeIs at h
  simp only [Bool.and_eq_true, beq_iff_eq, List.all_eq_true, List.mem_range, Bool.not_eq_true'] at h
  obtain ⟨⟨⟨hp, hi⟩, hk⟩, hb⟩ := h
  exact ⟨0, loadPartition, fun k => loadBase + 4 * k, hp, fun k hn => ⟨(hk k hn).1.1.1, (hk k hn).1.1.2⟩,
    fun k hn => ⟨(hk k hn).1.2, fun j hj _ => (hk k hn).2 j hj, fun seen hs => by rw [hi] at hs; exact absurd hs (by simp [mapGet])⟩, hb⟩

theorem bytes_at_pc (s : State) (len : Form) (w : Nat) (h : codeIs s (formBytes len / 4) w = true) (hl : launchOf s first = some loadLaunch)
    (hf : formOf ((natToBytes (4 * (formBytes len / 4)) w).headD 0) = len := by decide +kernel)
    (hc : first.pc + formBytes len ≤ loadLaunch.codeBase + loadLaunch.codeSize := by decide +kernel) :
    BytesAtPc s 0 first len (natToBytes (4 * (formBytes len / 4)) w) :=
  ⟨hf, words_at_pc s _ w h, loadLaunch, hl, by decide +kernel, hc⟩

theorem holds_at_pc (s : State) (h : codeIs s 3 0x7441C000000000000000C003 = true) (hl : launchOf s first = some loadLaunch) :
    HoldsAtPc s 0 first firstInstr :=
  ⟨.long, _, bytes_at_pc s .long _ h hl, by decide +kernel⟩

/-- A long-form word whose C names no register: a CPY with a barrier, its origins at A and at B. -/
def straying (a b : Nat) : Nat :=
  3 + (2 ^ 21 + 2 ^ 11 + 2 ^ 7) * 2 ^ 2 + 0x3FF * 2 ^ 33 + b * 2 ^ 43 + a * 2 ^ 53 + 0x280 * 2 ^ 86

/-- A loaded program that begins with a word, with descriptor 1 of rank 2 at hand. -/
def begun (nbits w : Nat) : State :=
  { State.reset.withFetchWord nbits w with buckets := [(0, 1024)], pools := [], descs := [(1, descWords (vector 0x20000 0 8 64 + 2 ^ 65))] }

/-- Whether no gang of the first bay has anything to do but the instruction at the PC of gang 0. -/
def boundary (s : State) : Bool :=
  s.parts == (world gang).parts && s.agenda == [] && s.cur == 0 && mapGet s.gangs 0 == some first && !stopDue s first && !timeoutDue s first && s.busy == []
    && bayPick s 0 == 0

theorem turn_at (s : State) (h : boundary s = true) : HasIssueTurn s 0 first := by
  unfold boundary at h
  simp only [Bool.and_eq_true, beq_iff_eq, Bool.not_eq_true'] at h
  obtain ⟨⟨⟨⟨⟨-, hg⟩, h1⟩, h2⟩, h3⟩, -⟩ := h
  exact ⟨hg, rfl, rfl, by decide, h1, rfl, h2, fun n hn => by simp [h3, mapGet] at hn⟩

theorem bay_issues (s : State) (h : boundary s = true) : BayIssues s s 0 0 first := by
  have ht := turn_at s h
  unfold boundary at h
  simp only [Bool.and_eq_true, beq_iff_eq, Bool.not_eq_true'] at h
  obtain ⟨⟨⟨⟨⟨⟨⟨hp, ha⟩, hc⟩, hg⟩, -⟩, -⟩, -⟩, hb⟩ := h
  refine ⟨partitions_disjoint_of s hp, by decide, [], first, .inr ⟨ha, rfl, hc, rfl⟩, ht, rfl, by decide, ?_, hb, hg, rfl, by decide, by decide⟩
  have hn : ¬(first.hold = some .miss ∧ (nextCost s 0 first).isSome = true) := fun hh => absurd hh.1 (by decide)
  rw [if_neg hn, ← ha]

/-- A turn whose gang issues, owning a token, borrowing one, with none, after a fetch that was held, and charged before; a barrier
operation that comes too late; bytes that are no opcode, that name a bad register, with an origin that leaves its file at A, at B and
at neither, a PC before and past the code area, and a form that passes its end; events that the device does not act on; a bay with
nobody ready; nothing to do. -/
theorem witness_StepRunsDecodedInstruction :
    let paid := { started with buckets := [(0, 1024)], pools := [] }
    let lent := { started with buckets := [], pools := [(0, 4096)] }
    let poor := { started with buckets := [], pools := [] }
    let late := { paid with barTurn := [(0, paid.acycle, 3)] }
    let missed := { first with hold := some .miss }
    let fetching := { paid with agenda := [.issue 0], gangs := [(0, missed)] }
    let illegal := begun 32 0x3FC
    let words := [straying 0x33F 0x302, straying 0x302 0x33F, straying 0x302 0x304]
    let leaves := fun (w : Nat) =>
      let f := (fieldsOf .long w).2
      let r := spanRoles (begun 96 w) first 0x280 f
      ((r.2.1.names f.a).isNone, (r.2.2.1.names f.b).isNone)
    let outside := fun pc => { paid with gangs := [(0, { first with pc := pc })] }
    let short := { paid with launches := [(0, { loadLaunch with codeSize := 8 })] }
    (∀ s ∈ [paid, lent, poor, late], BayIssues s s 0 0 first ∧ HasIssueTurn s 0 first ∧ HoldsAtPc s 0 first firstInstr)
    ∧ first.charged = false ∧ NothingElseDue first ∧ wellFormed firstInstr = true
    ∧ BayIssues fetching { fetching with agenda := [], gangs := mapSet fetching.gangs 0 { missed with hold := none, ready := fetching.acycle } } 0 0
        { missed with hold := none, ready := fetching.acycle }
    ∧ 1024 ≤ bucket paid 0 (0 / 4) first.vf
    ∧ bucket lent 0 (0 / 4) first.vf < 1024 ∧ 1024 * cyclesOf first firstInstr ≤ pool lent 0 (0 / 4)
    ∧ bucket poor 0 (0 / 4) first.vf < 1024 ∧ pool poor 0 (0 / 4) < 1024 * cyclesOf first firstInstr
    ∧ ReadyToIssue paid 0 (cyclesOf first firstInstr) first
    ∧ ¬TooLate paid 0 first firstInstr ∧ TooLate late 0 first (.bwait (fields 0 0 0 0 0 0 0))
    ∧ ¬TooLate late 0 { first with hold := some .barrier } (.bwait (fields 0 0 0 0 0 0 0))
    ∧ (∃ d, BayIssues illegal illegal 0 0 first ∧ BytesAtPc illegal 0 first .short (natToBytes 4 0x3FC) ∧
        decode (natToBytes 4 0x3FC) = .fault d .short ∧ d.code = .illegalOpcode)
    ∧ (∀ w ∈ words, ∃ d, BayIssues (begun 96 w) (begun 96 w) 0 0 first ∧ BytesAtPc (begun 96 w) 0 first .long (natToBytes 12 w) ∧
        decode (natToBytes 12 w) = .fault d .long ∧ d.code = .badRegister ∧ (d.tval.extractLsb' 12 2).toNat = 3 ∧
        rankAt (begun 96 w) 0 first 0x280 (fieldsOf .long w).2 = .known)
    ∧ words.map leaves = [(true, false), (false, true), (false, false)]
    ∧ launchOf paid first = some loadLaunch ∧ partOf paid first.vf = some (0, loadPartition)
    ∧ (∀ pc ∈ [loadBase - 4, loadBase + 12], mapGet (outside pc).gangs 0 = some { first with pc := pc } ∧ bayPick (outside pc) 0 = 0 ∧
        (pc < loadLaunch.codeBase ∨ loadLaunch.codeBase + loadLaunch.codeSize ≤ pc))
    ∧ (BayIssues short short 0 0 first ∧ WordsAtPc short 0 first 1 (natToBytes 4 0xC003) ∧ launchOf short first = some { loadLaunch with codeSize := 8 } ∧
        loadBase + 8 < first.pc + formBytes (formOf 3))
    ∧ ¬HeldOff paid .bucketAccrual ∧ HeldOff { paid with trip := true } .plateFire ∧ HeldOff { paid with bringup := 8 } (.doorbell 0 0 0)
    ∧ (∀ k n g, ¬ReadyToIssue State.reset k n g)
    ∧ (State.reset.agenda = [] ∧ mapGet State.reset.gangs State.reset.cur = none) := by
  intro paid lent poor late missed fetching illegal words leaves outside short
  have hb : ¬BarrierOp firstInstr := by
    rintro ⟨f, h⟩
    simp [firstInstr] at h
  refine ⟨?_, rfl, ⟨rfl, by decide, by decide⟩, by decide, ?_, by decide +kernel, by decide +kernel, by decide +kernel, by decide +kernel,
    by decide +kernel, ⟨rfl, rfl, rfl, rfl, rfl, by decide +kernel, by decide +kernel, by decide +kernel, .inr (.inl (by decide +kernel))⟩,
    fun h => hb h.1.1, ⟨⟨⟨_, .inr (.inr (.inr (.inl rfl)))⟩, by decide⟩, 3, by decide +kernel, by decide⟩, fun h => h.1.2 rfl, ?_, ?_, by decide +kernel,
    by decide +kernel, by decide +kernel, ?_, ?_, ?_, ?_, ?_, ?_, ⟨rfl, rfl⟩⟩
  · have hr : ∀ s ∈ [paid, lent, poor, late], boundary s = true ∧ codeIs s 3 0x7441C000000000000000C003 = true
        ∧ launchOf s first = some loadLaunch := by
      decide +kernel
    intro s hs
    exact ⟨bay_issues s (hr s hs).1, turn_at s (hr s hs).1, holds_at_pc s (hr s hs).2.1 (hr s hs).2.2⟩
  · have hs : nextCost fetching 0 missed ≠ none := by decide +kernel
    refine ⟨partitions_disjoint_of _ (by decide +kernel), by decide, [], missed, .inl rfl, ⟨by decide +kernel, rfl, rfl, by decide, by decide +kernel, rfl, by decide +kernel, ?_⟩, rfl, by decide, ?_,
      by decide +kernel, rfl, rfl, by decide, by decide⟩
    · intro n hn
      have h0 : mapGet fetching.busy (0 / 4) = none := by decide +kernel
      simp [h0] at hn
    · rw [if_pos ⟨rfl, Option.isSome_iff_ne_none.2 hs⟩]
  · obtain ⟨h1, h2, h3, h4⟩ : boundary illegal = true ∧ codeIs illegal 1 0x3FC = true ∧
        decode (natToBytes 4 0x3FC) = .fault ⟨.illegalOpcode, 0x1FE⟩ .short ∧ launchOf illegal first = some loadLaunch := by decide +kernel
    exact ⟨_, bay_issues illegal h1, bytes_at_pc illegal .short _ h2 h4, h3, rfl⟩
  · have hw : ∀ w ∈ words, boundary (begun 96 w) = true ∧ codeIs (begun 96 w) 3 w = true ∧
        decode (natToBytes 12 w) = .fault ⟨.badRegister, BitVec.ofNat 64 (0x3FF + 2 * 2 ^ 10 + 3 * 2 ^ 12)⟩ .long ∧
        formOf ((natToBytes 12 w).headD 0) = .long ∧
        rankAt (begun 96 w) 0 first 0x280 (fieldsOf .long w).2 = .known ∧ launchOf (begun 96 w) first = some loadLaunch := by
      decide +kernel
    intro w hx
    obtain ⟨h1, h2, h3, h4, h5, h6⟩ := hw w hx
    exact ⟨_, bay_issues _ h1, bytes_at_pc _ .long w h2 h6 h4, h3, rfl, by decide, h5⟩
  · decide +kernel
  · obtain ⟨h1, h2⟩ : boundary short = true ∧ codeIs short 1 0xC003 = true := by decide +kernel
    exact ⟨bay_issues short h1, words_at_pc short 1 _ h2, rfl, by decide +kernel⟩
  · rintro (h | h)
    · exact h.2.1 rfl
    · exact absurd h.1 (by decide +kernel)
  · exact .inl ⟨rfl, by simp, by simp, by simp, by simp⟩
  · exact .inr ⟨rfl, .inl ⟨0, 0, 0, rfl⟩⟩
  · intro k n g h
    exact absurd h.1 (by simp [State.reset, mapGet])

/-- Encoded instructions of the three forms, with fields at their greatest values. -/
theorem witness_DecodeEncodeAgree :
    let i : Instr := .fence ⟨.long, 0, 7, 0, 0, 0, 0, 0, 3 * 4096⟩
    let j : Instr := .iaddShort ⟨255, 255, 255, 0⟩
    let k : Instr := .iadd ⟨.medium, 0, 0, 0, 3, 0x101, 0, 0, 0x7FFFFFFF⟩
    encoded i = true ∧ wellFormed i = true ∧ encoded j = true ∧ wellFormed j = true ∧ encoded k = true ∧ wellFormed k = true := by
  decide

/-- Reset and a loaded program meet the invariants, and they step. -/
theorem witness_Invariants :
    MemoryInForm State.reset ∧ TablesInForm State.reset ∧ MemoryInForm started ∧ TablesInForm started
    ∧ (∃ t, step State.reset = .next t) ∧ ∃ t, step started = .next t := by
  have h : PartitionsDisjoint started := partitions_disjoint_world
  refine ⟨show Memory.wf _ = true by decide +kernel, ⟨rfl, rfl, rfl, by decide, by decide, List.Pairwise.nil⟩, show Memory.wf _ = true by decide +kernel, ⟨rfl, rfl, rfl, h⟩, ⟨_, rfl⟩, ?_⟩
  exact ⟨_, rfl⟩

end Sys2Proof.Tests
end

section
namespace Sys2Proof.Machine
open Sys2Proof.Claims
/-- The tables of a reset state are in form: each of them is empty. -/
theorem tablesInForm_reset : TablesInForm State.reset :=
  ⟨rfl, rfl, rfl, by decide, by decide, List.Pairwise.nil⟩

/-- Every byte reads zero after a reset: nothing is stored, and no line or scratchpad has become undefined. -/
theorem peek_reset (q : Nat × Nat) : peek State.reset q = 0 := by
  have hdram : State.reset.dram = [] ∧ State.reset.voids = [] := ⟨rfl, rfl⟩
  have hspad : State.reset.spad = [] ∧ State.reset.spadGen = [] := ⟨rfl, rfl⟩
  have hhost : State.reset.host = [] := rfl
  unfold peek
  split
  · simp [dramByte, dramMask, hdram]
  · split
    · simp [hhost]
    · simp [spadByte, spadMask, hspad]

/-- Settles O58: the fields are those that the reset state lists, and `memory_wf_reset` gives the memories their form. -/
theorem resetState : Obligations.ResetState :=
  ⟨rfl, rfl, rfl, rfl, rfl, rfl, rfl, rfl, rfl, rfl, rfl, rfl, rfl, rfl, rfl, rfl, rfl, rfl, rfl, rfl, rfl, rfl, rfl, rfl, rfl,
    fun _ => rfl, fun _ => rfl, fun _ => rfl, peek_reset, memory_wf_reset, tablesInForm_reset⟩

end Sys2Proof.Machine
end

section
namespace Sys2Proof.Machine

/-! ## What an operation keeps -/

/-- A table of words is in form where the table `a` was. -/
def WordKept {w : Nat} (a b : Sparse w) : Prop := wordWf a = true → wordWf b = true

/-- A table is sorted where the table `a` was. -/
def SortKept {α : Type} (a b : AMap α) : Prop := mapSorted a = true → mapSorted b = true

section
variable {w : Nat} {a b : Sparse w} {α : Type} {c d : AMap α}

@[simp] theorem wordKept_refl : WordKept a a := id
@[simp] theorem wordKept_wordSet (k : Nat) (v : BitVec w) : WordKept a (wordSet a k v) := wordWf_wordSet _ _ _
@[simp] theorem wordKept_filter (p : Nat × BitVec w → Bool) : WordKept a (a.filter p) := wordWf_filter _ _
@[simp] theorem sortKept_refl : SortKept c c := id
@[simp] theorem sortKept_mapSet (k : Nat) (v : α) (h : SortKept c d) : SortKept c (mapSet d k v) :=
  fun e => mapSorted_mapSet _ _ _ (h e)
@[simp] theorem sortKept_mapErase (k : Nat) (h : SortKept c d) : SortKept c (mapErase d k) :=
  fun e => mapSorted_mapErase _ _ (h e)
@[simp] theorem sortKept_mapUpdate (k : Nat) (f : α → α) (h : SortKept c d) : SortKept c (mapUpdate d k f) :=
  fun e => mapSorted_mapUpdate _ _ _ (h e)
@[simp] theorem sortKept_mapFilter (p : Nat → α → Bool) (h : SortKept c d) : SortKept c (mapFilter p d) :=
  fun e => mapSorted_mapFilter _ _ (h e)
@[simp] theorem sortKept_mapAll (f : Nat → α → α) (h : SortKept c d) : SortKept c (mapAll f d) :=
  fun e => mapSorted_mapAll _ _ (h e)
@[simp] theorem sortKept_dropWaiters {m l : AMap Miss} (gone : Source → Bool) (h : SortKept m l) :
    SortKept m (dropWaiters gone l) := sortKept_mapFilter _ (sortKept_mapAll _ h)
@[simp] theorem sortKept_ite {p : Prop} [Decidable p] {x y : AMap α} (hx : SortKept c x) (hy : SortKept c y) :
    SortKept c (if p then x else y) := by split <;> assumption

end

/-- From `s` to `t` the memories stay in their canonical form, the tables of gangs, workgroups and misses stay sorted, and the
partitions are as they were. Every operation of the model but the partition commands and the cold reset is of this kind. -/
structure Keeps (s t : State) : Prop where
  dram : WordKept s.dram t.dram
  spad : WordKept s.spad t.spad
  host : WordKept s.host t.host
  gangs : SortKept s.gangs t.gangs
  workgroups : SortKept s.workgroups t.workgroups
  misses : SortKept s.misses t.misses
  parts : t.parts = s.parts

/-- What a next state keeps; a fault and a refusal have none. -/
def KeepsNext (s : State) : Host.Outcome State Fault Refusal → Prop
  | .next t => Keeps s t
  | _ => True

section
variable {o s t : State}

theorem Keeps.refl (s : State) : Keeps s s := ⟨id, id, id, id, id, id, rfl⟩

/-- A change of any other field keeps the form: `t` with the tables of `s` put into it is `t`. -/
theorem Keeps.same (h : Keeps o s) (e : { t with
    dram := s.dram, spad := s.spad, host := s.host, gangs := s.gangs, workgroups := s.workgroups, misses := s.misses
    parts := s.parts } = t) : Keeps o t :=
  (congrArg (Keeps o) e).mp ⟨h.dram, h.spad, h.host, h.gangs, h.workgroups, h.misses, h.parts⟩

/-- So does a change that keeps the form table by table. -/
theorem Keeps.update (h : Keeps o s) (hp : t.parts = s.parts)
    (hk : WordKept s.dram t.dram ∧ WordKept s.spad t.spad ∧ WordKept s.host t.host ∧ SortKept s.gangs t.gangs ∧
      SortKept s.workgroups t.workgroups ∧ SortKept s.misses t.misses) : Keeps o t := by
  obtain ⟨hd, hs, hh, hg, hw, hm⟩ := hk
  exact ⟨hd ∘ h.dram, hs ∘ h.spad, hh ∘ h.host, hg ∘ h.gangs, hw ∘ h.workgroups, hm ∘ h.misses, hp.trans h.parts⟩

theorem Keeps.ite {c : Prop} [Decidable c] (hs : Keeps o s) (ht : Keeps o t) : Keeps o (if c then s else t) := by
  split <;> assumption

/-- Whichever of two answers is given, the state that it leaves is kept. -/
theorem keeps_ite {β : Type} (f : β → State) {c : Prop} [Decidable c] {x y : β} (hx : Keeps o (f x)) (hy : Keeps o (f y)) :
    Keeps o (f (if c then x else y)) := by
  split <;> assumption

theorem keepsNext_ite {c : Prop} [Decidable c] {x y : Host.Outcome State Fault Refusal} (hx : KeepsNext o x)
    (hy : KeepsNext o y) : KeepsNext o (if c then x else y) := by
  split <;> assumption

/-- A kept state read off an answer, once the answer is known. -/
theorem Keeps.along {β : Type} {f : β → State} {x y : β} (h : Keeps o (f x)) (e : x = y) : Keeps o (f y) := e ▸ h

/-- A fold keeps what each of its steps keeps; `p` is the state in what is folded. -/
theorem keeps_foldl {α β : Type} (p : β → State) {f : β → α → β} (hf : ∀ b x, Keeps o (p b) → Keeps o (p (f b x)))
    (l : List α) {b : β} (h : Keeps o (p b)) : Keeps o (p (l.foldl f b)) := by
  induction l generalizing b with
  | nil => exact h
  | cons x r ih => exact ih (hf b x h)

end

/-! ## Memory and caches -/

section
variable {o s t : State} {p : Partition} {x : LineAt} {k n vf kind unit cell : Nat}

theorem keeps_regPut {v} (h : Keeps o s) : Keeps o (regPut s k v) := h.same rfl

theorem keeps_dramPut {b} (h : Keeps o s) : Keeps o (dramPut s k b) := by unfold dramPut; exact h.update rfl (by simp)

theorem keeps_spadPut {b} (h : Keeps o s) : Keeps o (spadPut s cell k b) := by unfold spadPut; exact h.update rfl (by simp)

theorem keeps_hostByte {b} (h : Keeps o s) : Keeps o { s with host := wordSet s.host k b } := h.update rfl (by simp)

theorem keeps_voidLines {l} (h : Keeps o s) : Keeps o (voidLines s l) := by unfold voidLines; exact h.ite (h.same rfl)

theorem keeps_paWrite {pa l} (h : Keeps o s) : Keeps o (paWrite s p pa l) := by
  induction l generalizing s pa with
  | nil => exact h
  | cons b r ih => exact ih (keeps_dramPut h)

theorem keeps_spadWrite {l} (h : Keeps o s) : Keeps o (spadWrite s cell k l) := by
  induction l generalizing s k with
  | nil => exact h
  | cons b r ih => exact ih (keeps_spadPut h)

theorem keeps_hostWrite {l} (h : Keeps o s) : Keeps o (hostWrite s k l) := by
  induction l generalizing s k with
  | nil => exact h
  | cons b r ih => exact ih (keeps_hostByte h)

theorem keeps_clearWhole {l} (h : Keeps o s) : Keeps o (clearWhole s l) := by
  unfold clearWhole
  exact h.ite (keeps_foldl id (fun _ _ h => h.same rfl) _ h)

theorem keeps_grant (h : Keeps o s) (e : grant s kind unit vf n = some t) : Keeps o t := by
  unfold grant at e
  split at e
  · cases e; exact h.same rfl
  · split at e
    · cases e; exact h.same rfl
    · cases e

theorem keeps_charge (h : Keeps o s) : Keeps o (charge s kind unit vf n) := by
  unfold charge
  split
  · exact h
  · split
    · next e => exact keeps_grant h e
    · exact h.same rfl

theorem keeps_chargeChannel (h : Keeps o s) : Keeps o (chargeChannel s k vf n) := keeps_charge h

theorem keeps_l2 {m} (h : Keeps o s) : Keeps o { s with l2 := m } := h.same rfl

theorem keeps_l2Evict (h : Keeps o s) : Keeps o (l2Evict s k) := by
  unfold l2Evict
  split
  · exact h
  · exact keeps_l2 ((keeps_chargeChannel h).ite h)

theorem keeps_l2Through (h : Keeps o s) : Keeps o (l2Through s x) := keeps_chargeChannel h

theorem keeps_l2Put {dirty early} (h : Keeps o s) : Keeps o (l2Put s x dirty early) :=
  keeps_l2 (keeps_chargeChannel (keeps_charge h))

theorem keeps_l2Fill {dirty early} (h : Keeps o s) : Keeps o (l2Fill s x dirty early) := by
  unfold l2Fill
  split
  · exact keeps_l2Put h
  · exact keeps_l2Put (keeps_l2Evict h)
  · exact keeps_l2Through h

theorem keeps_l2Load {hint} (h : Keeps o s) : Keeps o (l2Load s x hint) := by
  unfold l2Load
  split
  · exact (keeps_l2 h).ite ((keeps_l2Through h).ite h)
  · exact (keeps_l2Fill h).ite ((keeps_l2Fill h).ite (keeps_l2Through h))

theorem keeps_l2Store {hint} (h : Keeps o s) : Keeps o (l2Store s x hint) := by
  unfold l2Store
  split
  · exact (keeps_l2 h).ite ((keeps_l2Through (keeps_l2 h)).ite (keeps_l2 h))
  · exact (keeps_l2Fill h).ite ((keeps_l2Fill h).ite (keeps_l2Through h))

theorem keeps_touchIn {slice hint store pas} (h : Keeps o s) : Keeps o (touchIn s p slice vf hint store pas) :=
  keeps_foldl id (fun _ _ h => (keeps_l2Store h).ite (keeps_l2Load h)) _ h

theorem keeps_paStore {pa l} (h : Keeps o s) : Keeps o (paStore s p vf pa l) :=
  keeps_touchIn (keeps_clearWhole (keeps_paWrite h))

theorem keeps_l2Lock {wg} (h : Keeps o s) : Keeps o (l2Lock s x wg) := by
  unfold l2Lock
  refine (keeps_l2 h).ite ?_
  split
  · exact keeps_l2 (keeps_l2Put (keeps_l2Evict h))
  · exact h

end

end Sys2Proof.Machine
end

section
namespace Sys2Proof.Machine

/-! ## Translation -/

/-- The state that an answer leaves; `s` where it carries none. -/
@[simp] def Missed.after (s : State) : Missed → State
  | .wait t => t
  | .fail _ => s

@[simp, inherit_doc Missed.after]
def HostAt.after (s : State) : HostAt → State
  | .miss t => t
  | _ => s

@[simp, inherit_doc Missed.after]
def Posted.after (s : State) : Posted → State
  | .posted _ t => t
  | _ => s

section
variable {o s : State} {m : Miss} {src : Source} {acc : Access} {k n vf va ipa level cell place : Nat}

theorem keeps_cacheEntry {x} (h : Keeps o s) : Keeps o (cacheEntry s x) := h.same rfl

theorem keeps_cacheWalk {l} (h : Keeps o s) : Keeps o (cacheWalk s vf l) := by
  induction l with
  | nil => exact h
  | cons x r ih =>
    cases x with
    | entry e => exact keeps_cacheEntry ih
    | read a =>
      unfold cacheWalk
      dsimp only
      split
      · exact ih
      · exact keeps_touchIn ih

theorem keeps_makeRoom (h : Keeps o s) : Keeps o (makeRoom s place) := by
  unfold makeRoom
  exact h.ite ((h.same rfl).ite (h.same rfl))

theorem keeps_tlb {l} (h : Keeps o s) : Keeps o { s with tlb := l } := h.same rfl

theorem keeps_ats {l} (h : Keeps o s) : Keeps o { s with ats := l } := h.same rfl

theorem keeps_fillPlace {e} (h : Keeps o s) : Keeps o (fillPlace e s place) :=
  keeps_tlb (keeps_makeRoom (keeps_tlb h))

theorem keeps_fillAts {e} (h : Keeps o s) : Keeps o (fillAts e s place) :=
  keeps_ats (keeps_makeRoom (keeps_ats h))

theorem keeps_fillTlb {e} (h : Keeps o s) : Keeps o (fillTlb s e cell) :=
  keeps_foldl id (fun _ _ h => keeps_fillPlace h) _ h

theorem keeps_leaveMiss (h : Keeps o s) : Keeps o (leaveMiss s k m src) := by unfold leaveMiss; exact h.update rfl (by simp)

theorem keeps_leaveFailed (h : Keeps o s) : Keeps o (leaveFailed s src) := by unfold leaveFailed; exact h.update rfl (by simp)

theorem keeps_addMiss (h : Keeps o s) : Keeps o (addMiss s vf va src cell acc) := by
  unfold addMiss
  split
  · exact h.update rfl (by simp)
  · exact h.ite (h.update rfl (by simp))

theorem keeps_missAccess (h : Keeps o s) : Keeps o ((missAccess s vf va src cell acc).after s) := by
  unfold missAccess
  split
  · exact h
  · split
    · exact h
    · exact keeps_addMiss h

theorem keeps_leavePage (h : Keeps o s) : Keeps o (leavePage s vf va src) := by
  unfold leavePage
  split
  · exact keeps_leaveMiss h
  · exact h

theorem keeps_atsAsk {page} (h : Keeps o s) : Keeps o (atsAsk s vf page src acc) := by
  unfold atsAsk
  dsimp only
  split
  · exact h.same rfl
  · exact h.same rfl

theorem keeps_hostAt (h : Keeps o s) : Keeps o ((hostAt s vf va acc src).after s) := by
  unfold hostAt
  split
  · exact h
  · split
    · exact h
    · split
      · exact h
      · exact keeps_atsAsk h

theorem keeps_postRequest {table mask} (h : Keeps o s) :
    Keeps o ((postRequest s vf va ipa level table mask src cell).after s) := by
  unfold postRequest
  split
  · exact h
  · dsimp only
    split
    · exact h
    · split
      · exact h
      · split
        · exact h
        · exact (keeps_paStore h).same rfl

end

/-! ## Logs and messages -/

section
variable {o s : State} {k n vf : Nat}

theorem keeps_notify {f} (h : Keeps o s) : Keeps o (notify s f n) := h.same rfl

theorem keeps_plateTrigger (h : Keeps o s) : Keeps o (plateTrigger s k) := by
  unfold plateTrigger
  exact (keeps_regPut (h.same rfl)).ite h

theorem keeps_logAppend {e} (h : Keeps o s) : Keeps o (logAppend s e) := by
  have hk := keeps_notify (f := none) (n := 2) (h.same (t := { s with
    log := mapSet s.log e.part ((mapGet s.log e.part).getD [] ++ [{ e with seq := nextSeq s.logSeq e.part, time := s.clock }])
    logSeq := mapSet s.logSeq e.part (nextSeq s.logSeq e.part) }) rfl)
  have hn := hk.ite (c := e.kind = 3 ∨ e.kind = 4) (keeps_notify (f := some e.vf) (n := 3) hk)
  exact (keeps_plateTrigger hn).ite hn

theorem keeps_healthAdd (h : Keeps o s) : Keeps o (healthAdd s k) := h.same rfl

end

/-! ## The scheduler's accesses and the life of a launch -/

@[simp, inherit_doc Missed.after]
def Sched.after : Sched → State
  | .pa _ s | .fail _ s | .stall s => s

@[simp, inherit_doc Missed.after]
def SchedRead.after : SchedRead → State
  | .bytes _ s | .fail _ s | .stall s => s

@[simp, inherit_doc Missed.after]
def SchedWrite.after : SchedWrite → State
  | .done s | .fail _ s | .stall s => s

section
variable {o s : State} {acc : Access} {k n vf va ipa level task lslot qn : Nat}

theorem keeps_schedLeave {page} (h : Keeps o s) : Keeps o (schedLeave s vf page task) := by
  unfold schedLeave; exact h.update rfl (by simp)

theorem keeps_schedAbsent {table} (h : Keeps o s) : Keeps o (schedAbsent s task vf va ipa level table acc).after := by
  unfold schedAbsent
  dsimp only
  split
  · exact h
  · exact h
  · next e => exact ((keeps_postRequest h).along e).update rfl (by simp)

theorem keeps_schedEnds {r} (h : Keeps o s) : Keeps o (schedEnds s va acc r).after := by
  unfold schedEnds
  split
  · split
    · exact h
    · exact h
  · exact h

theorem keeps_schedWalk (h : Keeps o s) : Keeps o (schedWalk s task vf va acc).after := by
  unfold schedWalk
  dsimp only
  split
  · exact keeps_addMiss h
  · split
    · exact h
    · split
      · exact keeps_schedAbsent (keeps_cacheWalk (keeps_charge h))
      · exact keeps_schedEnds (keeps_cacheWalk (keeps_charge h))

theorem keeps_schedTranslate (h : Keeps o s) : Keeps o (schedTranslate s task vf va acc).after := by
  unfold schedTranslate
  split
  · exact h
  · split
    · exact keeps_schedEnds (keeps_leaveMiss h)
    · split
      · exact keeps_schedLeave h
      · exact keeps_addMiss h
    · exact keeps_schedWalk h

theorem keeps_schedReadFrom {p known l} (h : Keeps o s) : Keeps o (schedReadFrom s task vf p va known n l).after := by
  induction n generalizing s va known l with
  | zero => exact h
  | succ n ih =>
    unfold schedReadFrom
    have hk : Keeps o (match known with
      | some (pg, a) => if pg = va / 2 ^ 16 then Sched.pa (a + va % 2 ^ 16) s else schedTranslate s task vf va .read
      | none => schedTranslate s task vf va .read).after := by
      split
      · split
        · exact h
        · exact keeps_schedTranslate h
      · exact keeps_schedTranslate h
    dsimp only
    split
    · next e => exact hk.along e
    · next e => exact hk.along e
    · next e =>
      split
      · exact hk.along e
      · exact ih ((keeps_l2Load (hk.along e)).ite (hk.along e))

theorem keeps_schedHost (h : Keeps o s) : Keeps o (schedHost s task vf va acc).after := by
  unfold schedHost
  split
  · exact h
  · next e => exact (keeps_hostAt h).along e
  · exact keeps_leaveFailed h

theorem keeps_schedRead {host} (h : Keeps o s) : Keeps o (schedRead s task vf host va n).after := by
  unfold schedRead
  split
  · split <;> next e => exact (keeps_schedHost h).along e
  · split
    · exact h
    · exact keeps_schedReadFrom h

theorem keeps_schedWrite {host l} (h : Keeps o s) : Keeps o (schedWrite s task vf host va l).after := by
  unfold schedWrite
  split
  · split
    · next e => exact keeps_hostWrite ((keeps_schedHost h).along e)
    · next e => exact (keeps_schedHost h).along e
    · next e => exact (keeps_schedHost h).along e
  · split
    · exact h
    · split
      · next e => exact (keeps_schedTranslate h).along e
      · next e => exact (keeps_schedTranslate h).along e
      · next e => exact keeps_paStore ((keeps_schedTranslate h).along e)

theorem keeps_setUnit {bay m} (h : Keeps o s) : Keeps o (setUnit s bay m) := h.same rfl

theorem keeps_discardWorkgroups {mine} (h : Keeps o s) : Keeps o (discardWorkgroups s mine) := by
  unfold discardWorkgroups; exact h.update rfl (by simp)

theorem keeps_freeQueues (h : Keeps o s) : Keeps o (freeQueues s vf lslot).1 := h.same rfl

theorem keeps_waiters {m a} (h : Keeps o s) (hm : SortKept s.misses m) : Keeps o { s with misses := m, atsMisses := a } :=
  { h with misses := hm ∘ h.misses }

theorem keeps_discardLaunch (h : Keeps o s) : Keeps o (discardLaunch s vf lslot).1 :=
  keeps_freeQueues (keeps_waiters (keeps_discardWorkgroups h) (sortKept_dropWaiters _ sortKept_refl))

theorem keeps_writeEntry {packet gr e} (h : Keeps o s) : Keeps o (writeEntry s vf qn packet gr e).1 := by
  unfold writeEntry
  split
  · exact h
  · split
    · next e =>
      have hk := (keeps_schedWrite h).along e
      dsimp only
      split
      · exact keeps_notify (hk.same rfl)
      · exact hk.same rfl
    · next e => exact (keeps_schedWrite h).along e
    · next e => exact (keeps_logAppend ((keeps_schedWrite h).along e)).same rfl

theorem keeps_publishMemory (h : Keeps o s) : Keeps o (publishMemory s vf) := by
  unfold publishMemory; exact (h.same rfl).ite h

theorem keeps_publishEvents {l} (h : Keeps o s) : Keeps o (publishEvents s vf lslot l) := by
  unfold publishEvents
  have hk := keeps_publishMemory (vf := vf) h
  exact h.ite ((hk.same rfl).ite (hk.same rfl))

theorem keeps_eraseLaunch (h : Keeps o s) : Keeps o (eraseLaunch s k) := h.same rfl

theorem keeps_voidRegion {l} (h : Keeps o s) : Keeps o (voidRegion s vf l) := keeps_voidLines h

theorem keeps_retireOne (h : Keeps o s) : Keeps o (retireOne s vf qn).1 := by
  unfold retireOne
  split
  · exact h
  · split
    · exact h
    · split
      · dsimp only
        split
        · exact (keeps_writeEntry h).same rfl
        · exact keeps_writeEntry h
      · split
        · exact h
        · dsimp only
          split
          · exact keeps_eraseLaunch (keeps_voidRegion (keeps_writeEntry (keeps_publishEvents h)))
          · exact keeps_writeEntry (keeps_publishEvents h)

theorem keeps_retireQueue (h : Keeps o s) : Keeps o (retireQueue s vf qn n) := by
  induction n generalizing s with
  | zero => exact h
  | succ n ih =>
    unfold retireQueue
    split
    · next e => exact ih ((keeps_retireOne h).along e)
    · next e => exact (keeps_retireOne h).along e

theorem keeps_retireAll (h : Keeps o s) : Keeps o (retireAll s vf qn) := keeps_retireQueue h

theorem keeps_launches {l} (h : Keeps o s) : Keeps o { s with launches := l } := h.same rfl

theorem keeps_sends {l} (h : Keeps o s) : Keeps o { s with sends := l } := h.same rfl

theorem keeps_abortLaunch {node gslot addr f before} (h : Keeps o s) :
    Keeps o (abortLaunch s vf lslot node gslot addr f before) := by
  unfold abortLaunch
  split
  · exact h
  · exact keeps_retireAll (keeps_launches (keeps_sends (keeps_discardLaunch (keeps_logAppend h))))

theorem keeps_logDiscarded {part code detail met} (h : Keeps o s) : Keeps o (logDiscarded s part code detail met k) := by
  unfold logDiscarded
  split
  · exact h
  · exact keeps_logAppend h

theorem keeps_rewindQueues {l} (h : Keeps o s) : Keeps o (rewindQueues s l) := h.same rfl

theorem keeps_resetRegs {l} (h : Keeps o s) : Keeps o (resetRegs s l) :=
  keeps_foldl id (fun _ _ h => keeps_foldl id (fun _ _ h => keeps_regPut h) _ h) _ h

theorem keeps_resetTranslation {l} (h : Keeps o s) : Keeps o (resetTranslation s l) := by
  unfold resetTranslation; exact h.update rfl (by simp)

theorem keeps_resetCells {l} (h : Keeps o s) : Keeps o (resetCells s l) := by
  unfold resetCells; exact h.update rfl (by simp)

theorem keeps_senders {w x l} (h : Keeps o s) : Keeps o { s with windows := w, sends := x, l2 := l } := h.same rfl

theorem keeps_partitionReset {part code detail met} (h : Keeps o s) : Keeps o (partitionReset s part code detail met) := by
  unfold partitionReset
  split
  · exact h
  · exact keeps_foldl id (fun _ _ h => keeps_notify h) _ (keeps_notify (keeps_resetCells (keeps_resetTranslation
      (keeps_resetRegs (keeps_rewindQueues (keeps_senders (keeps_foldl id (fun _ _ h => keeps_eraseLaunch h) _
        (keeps_foldl id (fun _ _ h => keeps_discardLaunch h) _ (keeps_foldl id (fun _ _ h => keeps_logDiscarded h) _
          (h.ite (keeps_logAppend h)))))))))))

theorem keeps_resetAll {code detail} (h : Keeps o s) : Keeps o (resetAll s code detail) :=
  keeps_foldl id (fun _ _ h => keeps_partitionReset h) _ h

end

end Sys2Proof.Machine
end

section
namespace Sys2Proof.Machine

/-! ## Operands, faults and retiring -/

@[simp, inherit_doc Missed.after]
def RankAt.after (s : State) : RankAt → State
  | .failed t | .wait t => t
  | .known => s

@[simp, inherit_doc Missed.after]
def Res.after : Res → State
  | .done s _ | .jump s _ _ | .mark s | .hold s _ | .trap s _ => s

section
variable {o s : State} {g : Gang} {slot bay n k : Nat} {f : Fields} {opc : Nat} {r : Res}

theorem keeps_setGang (h : Keeps o s) : Keeps o (setGang s slot g) := by unfold setGang; exact h.update rfl (by simp)

theorem keeps_gangs {m} (h : Keeps o s) (hm : SortKept s.gangs m) : Keeps o { s with gangs := m } := { h with gangs := hm ∘ h.gangs }

theorem keeps_putShared {v} (h : Keeps o s) : Keeps o (putShared s slot n v) := by unfold putShared; exact h.ite (h.same rfl)

theorem keeps_putUniform {x v} (h : Keeps o s) : Keeps o (putUniform s slot g x v).1 := by
  unfold putUniform
  split
  · exact h
  · exact keeps_putShared h
  · exact h

theorem keeps_descRank (h : Keeps o s) : Keeps o ((descRank s slot g n).after s) := by
  unfold descRank
  dsimp only
  split
  · exact h
  · split
    · split
      · exact keeps_leavePage h
      · next e => exact (keeps_missAccess h).along e
    · exact h

theorem keeps_rankAt (h : Keeps o s) : Keeps o ((rankAt s slot g opc f).after s) := by
  unfold rankAt
  split
  · exact h
  · refine keeps_foldl (RankAt.after s) (fun r i hr => ?_) _ h
    cases r with
    | known => exact keeps_descRank h
    | failed t => exact hr
    | wait t => exact hr

theorem keeps_left {r : RankAt} (h : Keeps o s) (hr : Keeps o (r.after s)) : Keeps o (r.left s) := by
  cases r with
  | known => exact h
  | failed t => exact hr
  | wait t => exact h

theorem keeps_leaveQueues (h : Keeps o s) : Keeps o (leaveQueues s slot) := h.same rfl

theorem keeps_takeFault {len fl} (h : Keeps o s) : Keeps o (takeFault s slot g len fl) := by
  unfold takeFault
  exact (keeps_partitionReset h).ite ((keeps_abortLaunch h).ite (keeps_setGang (keeps_leaveQueues h)))

theorem keeps_retire {pc ps} (h : Keeps o s) : Keeps o (retire s slot pc ps) := by
  unfold retire
  split
  · exact h
  · exact keeps_setGang h

theorem keeps_onGang {u} (h : Keeps o s) : Keeps o (onGang s slot u) := by unfold onGang; exact h.update rfl (by simp)

theorem keeps_holdGang {why} (h : Keeps o s) : Keeps o (holdGang s slot why) := keeps_onGang h

theorem keeps_zeroCount (h : Keeps o s) : Keeps o (zeroCount s slot) := keeps_onGang h

theorem keeps_releaseNames (h : Keeps o s) : Keeps o (releaseNames s slot) := h.same rfl

theorem keeps_endGang (h : Keeps o s) : Keeps o (endGang s slot g) := keeps_setGang (keeps_releaseNames h)

theorem keeps_finish {len} (h : Keeps o r.after) : KeepsNext o (finish slot g len r) := by
  unfold finish
  split
  · exact keeps_retire h
  · exact keeps_retire h
  · exact keeps_zeroCount (keeps_retire h)
  · exact keeps_holdGang h
  · split
    · exact h
    · exact keeps_takeFault h

theorem keeps_checked {rest : State → Res} (h : Keeps o s) (hr : ∀ t, Keeps o t → Keeps o (rest t).after) :
    Keeps o (checked s g opc f rest).after := by
  have hk := keeps_rankAt (slot := s.cur) (g := g) (opc := opc) (f := f) h
  unfold checked
  split
  · next e => exact hk.along e
  · split
    · exact keeps_left h hk
    · exact hr _ (keeps_left h hk)

theorem keeps_issueUniform {body : Gang → Res} (h : Keeps o s) (hb : ∀ g, Keeps o (body g).after) :
    KeepsNext o (issueUniform opc f s body) := by
  unfold issueUniform
  split
  · trivial
  · refine keeps_finish (keeps_checked h fun t ht => ?_)
    split
    · exact hb _
    · exact ht

theorem keeps_issueLane {body : Gang → List Nat → Res} (h : Keeps o s) (hb : ∀ g ts, Keeps o (body g ts).after) :
    KeepsNext o (issueLane opc f s body) := by
  unfold issueLane
  split
  · trivial
  · refine keeps_finish (keeps_checked h fun t ht => ?_)
    split
    · exact ht
    · exact hb _ _

/-- An instruction that faults on an operand, or else has its effect. -/
theorem keeps_orTrap {q : Option GFault} {r : Res} (h : Keeps o s) (hr : Keeps o r.after) :
    Keeps o (match q with
      | some fl => .trap s fl
      | none => r : Res).after := by
  split
  · exact h
  · exact hr

end

/-! ## Integer, control and floating-point instructions -/

section
variable {o s : State} {g : Gang} {ts : List Nat} {n k d : Nat} {f : Fields} {opc : Nat} {r : Res}

theorem keeps_laneResult {val} (h : Keeps o s) : Keeps o (laneResult opc f s d g ts val).after := keeps_setGang h

theorem keeps_predResult {val} (h : Keeps o s) : Keeps o (predResult opc f s d g ts val).after := keeps_setGang h

theorem keeps_uniformResult {v} (h : Keeps o s) : Keeps o (uniformResult opc f s d g v).after :=
  keeps_setGang (keeps_putUniform h)

theorem keeps_condResult {v} (h : Keeps o s) : Keeps o (condResult opc f s d g v).after := keeps_setGang h

theorem keeps_flaggedResult {val} (h : Keeps o s) : Keeps o (flaggedResult opc f s d g ts val).after := keeps_setGang h

theorem keeps_ivResult {val} (h : Keeps o s) : Keeps o (ivResult opc f s d g ts val).after := keeps_setGang h

theorem keeps_gangResult (h : Keeps o s) : Keeps o (gangResult s g).after := keeps_setGang h

theorem keeps_uniUnary {val} (h : Keeps o s) : KeepsNext o (uniUnary opc f s val) :=
  keeps_issueUniform h fun _ => keeps_uniformResult h

theorem keeps_uniBinary {val} (h : Keeps o s) : KeepsNext o (uniBinary opc f s d val) :=
  keeps_issueUniform h fun _ => keeps_uniformResult h

theorem keeps_uniDivide {val} (h : Keeps o s) : KeepsNext o (uniDivide opc f s val) :=
  keeps_issueUniform h fun _ => by
    split
    · exact h
    · exact keeps_uniformResult h

theorem keeps_laneUnary {val} (h : Keeps o s) : KeepsNext o (laneUnary opc f s val) :=
  keeps_issueLane h fun _ _ => keeps_laneResult h

theorem keeps_laneBinary {val} (h : Keeps o s) : KeepsNext o (laneBinary opc f s d val) :=
  keeps_issueLane h fun _ _ => keeps_laneResult h

theorem keeps_laneDivide {val} (h : Keeps o s) : KeepsNext o (laneDivide opc f s val) :=
  keeps_issueLane h fun _ _ => by
    dsimp only
    split
    · exact keeps_laneResult h
    · exact h

theorem keeps_laneConst (h : Keeps o s) : KeepsNext o (laneConst opc f s) :=
  keeps_issueLane h fun _ _ => keeps_laneResult h

theorem keeps_float1 {val} (h : Keeps o s) : KeepsNext o (float1 opc f s d val) :=
  keeps_issueLane h fun _ _ => keeps_orTrap h (keeps_flaggedResult h)

theorem keeps_float2 {val} (h : Keeps o s) : KeepsNext o (float2 opc f s d val) :=
  keeps_issueLane h fun _ _ => keeps_orTrap h (keeps_flaggedResult h)

theorem keeps_arith1 {op} (h : Keeps o s) : KeepsNext o (arith1 opc f s d op) := keeps_float1 h

theorem keeps_arith2 {op} (h : Keeps o s) : KeepsNext o (arith2 opc f s d op) := keeps_float2 h

theorem keeps_floatAdd (h : Keeps o s) : KeepsNext o (floatAdd opc f s) := keeps_arith2 h

theorem keeps_floatSub (h : Keeps o s) : KeepsNext o (floatSub opc f s) := keeps_arith2 h

theorem keeps_floatMul (h : Keeps o s) : KeepsNext o (floatMul opc f s) := keeps_arith2 h

theorem keeps_floatPick {less} (h : Keeps o s) : KeepsNext o (floatPick opc less f s) := keeps_float2 h

theorem keeps_floatAbs (h : Keeps o s) : KeepsNext o (floatAbs opc f s) := keeps_float1 h

theorem keeps_floatNeg (h : Keeps o s) : KeepsNext o (floatNeg opc f s) := keeps_float1 h

theorem keeps_floatMove (h : Keeps o s) : KeepsNext o (floatMove opc f s) :=
  keeps_issueLane h fun _ _ => keeps_laneResult h

theorem keeps_execFfma (h : Keeps o s) : KeepsNext o (execFfma f s) :=
  keeps_issueLane h fun _ _ => keeps_orTrap h (keeps_flaggedResult h)

end

end Sys2Proof.Machine
end

section
namespace Sys2Proof.Machine

section
variable {o s : State} {g : Gang} {ts : List Nat} {slot k d wg : Nat} {f : Fields} {opc : Nat}

/-! ## Intervals, conversions and predicates -/

theorem keeps_ivOp1 {op} (h : Keeps o s) : KeepsNext o (ivOp1 opc f s d op) :=
  keeps_issueLane h fun _ _ => keeps_orTrap h (keeps_ivResult h)

theorem keeps_ivOp2 {e op} (h : Keeps o s) : KeepsNext o (ivOp2 opc f s d e op) :=
  keeps_issueLane h fun _ _ => keeps_orTrap h (keeps_ivResult h)

theorem keeps_ivQuery {e op} (h : Keeps o s) : KeepsNext o (ivQuery opc f s d e op) :=
  keeps_issueLane h fun _ _ => keeps_orTrap h (keeps_flaggedResult h)

theorem keeps_execIvmeet (h : Keeps o s) : KeepsNext o (execIvmeet f s) :=
  keeps_issueLane h fun _ _ => keeps_orTrap h (keeps_setGang h)

theorem keeps_execCvt (h : Keeps o s) : KeepsNext o (execCvt f s) :=
  keeps_issueLane h fun _ _ => keeps_orTrap h (by
    split
    · exact keeps_ivResult h
    · exact keeps_laneResult h)

theorem keeps_predUnary {val} (h : Keeps o s) : KeepsNext o (predUnary opc f s val) :=
  keeps_issueLane h fun _ _ => keeps_predResult h

theorem keeps_predBinary {val} (h : Keeps o s) : KeepsNext o (predBinary opc f s val) :=
  keeps_issueLane h fun _ _ => keeps_predResult h

theorem keeps_execVote (h : Keeps o s) : KeepsNext o (execVote f s) :=
  keeps_issueLane h fun _ _ => by
    dsimp only
    split
    · exact keeps_condResult h
    · exact keeps_condResult h
    · exact keeps_uniformResult h
    · exact keeps_uniformResult h

/-! ## Pre-emption of a gang -/

theorem keeps_workgroups {m} (h : Keeps o s) (hm : SortKept s.workgroups m) : Keeps o { s with workgroups := m } :=
  { h with workgroups := hm ∘ h.workgroups }

theorem keeps_actPreempt (h : Keeps o s) : Keeps o (actPreempt s wg) := by
  unfold actPreempt
  split
  · exact h
  · split
    · exact h
    · split
      · exact h.update rfl (by simp)
      · split
        · exact h
        · exact h.update rfl (by simp)

theorem keeps_requestPreempt (h : Keeps o s) : Keeps o (requestPreempt s wg) := by
  unfold requestPreempt
  split
  · exact h
  · refine Keeps.ite (keeps_actPreempt ?_) h
    exact h.update rfl (by simp)

theorem keeps_saveWorkgroup (h : Keeps o s) : Keeps o (saveWorkgroup s wg) := by
  unfold saveWorkgroup
  split
  · exact h
  · exact h.update rfl (by simp)

theorem keeps_settleStops (h : Keeps o s) : Keeps o (settleStops s wg) := by
  unfold settleStops
  exact h.ite (keeps_saveWorkgroup h)

theorem keeps_stopGang (h : Keeps o s) : Keeps o (stopGang s slot) := by
  unfold stopGang
  split
  · exact h
  · exact keeps_settleStops (keeps_setGang (keeps_leaveQueues h))

theorem keeps_slotRestored {idx} (h : Keeps o s) : Keeps o (slotRestored s wg idx) := by
  unfold slotRestored
  have hk := keeps_workgroups h (sortKept_mapUpdate wg
    (fun w => { w with keptSlots := w.keptSlots.filter fun x => x.1 != idx }) sortKept_refl)
  exact (hk.same rfl).ite hk

theorem keeps_restoreTiles (h : Keeps o s) : Keeps o (restoreTiles s slot g) := by
  unfold restoreTiles
  split
  · exact h
  · exact keeps_slotRestored (keeps_setGang (keeps_setUnit h))

/-! ## Control -/

theorem keeps_branch (h : Keeps o s) : KeepsNext o (branch f s) := keeps_issueUniform h fun _ => h

theorem keeps_execBrv (h : Keeps o s) : KeepsNext o (execBrv f s) :=
  keeps_issueLane h fun _ _ => by
    dsimp only
    split
    · exact h
    · exact keeps_setGang h

theorem keeps_execCall (h : Keeps o s) : KeepsNext o (execCall f s) :=
  keeps_issueUniform h fun _ => keeps_setGang (keeps_putUniform h)

theorem keeps_execSloop (h : Keeps o s) : KeepsNext o (execSloop f s) :=
  keeps_issueUniform h fun _ => by
    dsimp only
    split
    · exact keeps_setGang (keeps_putUniform h)
    · exact keeps_setGang (keeps_putUniform h)

theorem keeps_reconverge (h : Keeps o s) : KeepsNext o (reconverge opc f s) :=
  keeps_issueUniform h fun g => by
    dsimp only
    split
    · exact h
    · split
      · exact h
      · split
        · exact keeps_setGang h
        · exact keeps_setGang h

theorem keeps_execRcvTimeout (h : Keeps o s) : KeepsNext o (execRcvTimeout slot s) := by
  unfold execRcvTimeout
  split
  · exact h
  · split
    · exact keeps_setGang h
    · exact h

theorem keeps_quitGang (h : Keeps o s) : Keeps o (quitGang s slot g).after :=
  keeps_orTrap h (keeps_settleStops (keeps_endGang h))

theorem keeps_exitThreads (h : Keeps o s) : KeepsNext o (exitThreads opc f s) :=
  keeps_issueLane h fun g ts => by
    dsimp only
    split
    · exact keeps_setGang h
    · split
      · exact keeps_quitGang h
      · exact keeps_setGang h

end

/-! ## Fetching -/

@[simp, inherit_doc Missed.after]
def Fetched.after : Fetched → State
  | .bytes _ s | .fault _ s | .miss s => s

@[simp, inherit_doc Missed.after]
def Move.after : Move → State
  | .run _ s | .rest s => s

section
variable {o s : State} {g : Gang} {p : Partition} {slot vf va a n : Nat} {i : Instr}

theorem keeps_fetchLine (h : Keeps o s) : Keeps o (fetchLine s slot vf p a) := keeps_touchIn h

theorem keeps_icache {l n} (h : Keeps o s) : Keeps o { s with icache := l, free := n } := h.same rfl

theorem keeps_codeBytes (h : Keeps o s) : Keeps o (codeBytes s slot g p va a).2 := by
  unfold codeBytes
  dsimp only
  split
  · exact h
  · split
    · exact (keeps_fetchLine h).same rfl
    · exact keeps_icache (h.ite (keeps_fetchLine h))

theorem keeps_fetchWords {l} (h : Keeps o s) : Keeps o (fetchWords s slot g p va n l).after := by
  induction n generalizing s va l with
  | zero => exact h
  | succ n ih =>
    unfold fetchWords
    dsimp only
    split
    · split
      · exact h
      · exact ih (keeps_codeBytes h)
    · exact h
    · split
      · exact keeps_leavePage h
      · next e => exact (keeps_missAccess h).along e

theorem keeps_fetchForm {base size} (h : Keeps o s) : Keeps o (fetchForm s slot g p base size).after := by
  unfold fetchForm
  split
  · exact h
  · split
    · next e =>
      have hk := (keeps_fetchWords h).along e
      dsimp only
      split
      · exact hk
      · exact keeps_fetchWords hk
    · exact keeps_fetchWords h

theorem keeps_fetchFirst (h : Keeps o s) : Keeps o (fetchFirst s slot g).after := by
  unfold fetchFirst
  split
  · split
    · exact h
    · exact keeps_fetchWords h
  · exact h

theorem keeps_fetchNext {r : Fetched} (h : Keeps o s) (e : fetchNext s slot g = some r) : Keeps o r.after := by
  unfold fetchNext at e
  split at e
  · cases e; exact keeps_fetchForm h
  · cases e

/-! ## The turn of a gang -/

theorem keeps_releaseTokens (h : Keeps o s) : Keeps o (releaseTokens s) := by unfold releaseTokens; exact h.update rfl (by simp)

theorem keeps_barrierTurn (h : Keeps o s) : Keeps o (barrierTurn s slot g i) := by unfold barrierTurn; exact (h.same rfl).ite h

theorem keeps_cur (h : Keeps o s) : Keeps o { s with cur := slot } := h.same rfl

theorem keeps_busy {m} (h : Keeps o s) : Keeps o { s with busy := m } := h.same rfl

theorem keeps_issueInstr (h : Keeps o s) : Keeps o (issueInstr s slot g i).after := by
  unfold issueInstr
  dsimp only
  split
  · exact h.same rfl
  · split
    · exact keeps_barrierTurn (keeps_cur h)
    · split
      · exact keeps_holdGang (keeps_cur h)
      · next e => exact keeps_barrierTurn (keeps_setGang (keeps_busy (keeps_grant (keeps_cur h) e)))

theorem keeps_spanFirst {b len d} (h : Keeps o s) : Keeps o (spanFirst s slot g b len d).after := by
  unfold spanFirst
  dsimp only
  split
  · exact keeps_takeFault h
  · split
    · next e => exact keeps_holdGang ((keeps_rankAt h).along e)
    · have hk := keeps_left h (keeps_rankAt (slot := slot) (g := g)
        (opc := (fieldsOf len (bytesToNat (b.take (formBytes len)))).1)
        (f := (fieldsOf len (bytesToNat (b.take (formBytes len)))).2) h)
      split
      · split
        · exact keeps_takeFault hk
        · exact keeps_takeFault hk
      · exact keeps_takeFault hk

theorem keeps_fetchMove (h : Keeps o s) : Keeps o (fetchMove s slot g).after := by
  unfold fetchMove
  split
  · exact h
  · next e => exact keeps_holdGang (keeps_fetchNext h e)
  · next e => exact keeps_takeFault (keeps_fetchNext h e)
  · next e =>
    have hk := keeps_fetchNext h e
    split
    · exact keeps_issueInstr hk
    · exact keeps_spanFirst hk
    · exact keeps_takeFault hk

theorem keeps_faultFirst {fl} (h : Keeps o s) : Keeps o (faultFirst s slot g fl).after := by
  unfold faultFirst
  split
  · next e => exact keeps_holdGang ((keeps_fetchFirst h).along e)
  · next e => exact keeps_takeFault ((keeps_fetchFirst h).along e)
  · next e => exact keeps_takeFault ((keeps_fetchFirst h).along e)

theorem keeps_nextInstr (h : Keeps o s) : Keeps o (nextInstr s slot g).after := by
  unfold nextInstr
  split
  · exact keeps_faultFirst h
  · split
    · exact keeps_faultFirst h
    · split
      · exact h
      · exact keeps_fetchMove h

theorem keeps_wakeFetch (h : Keeps o s) : Keeps o (wakeFetch s slot g).1 := by
  unfold wakeFetch
  split
  · exact keeps_setGang h
  · exact h

theorem keeps_bayMove (h : Keeps o s) : Keeps o (bayMove s slot g).after := by
  unfold bayMove
  dsimp only
  split
  · exact keeps_nextInstr h
  · split
    · exact h
    · exact keeps_nextInstr h

theorem keeps_gangMove (h : Keeps o s) : Keeps o (gangMove s slot).after := by
  unfold gangMove
  split
  · exact h
  · split
    · exact h
    · split
      · exact keeps_stopGang h
      · split
        · exact keeps_restoreTiles h
        · split
          · exact h
          · split
            · split
              · exact h
              · exact keeps_fetchMove h
            · split
              · exact h
              · exact keeps_bayMove (keeps_wakeFetch h)

theorem keeps_agenda {l} (h : Keeps o s) : Keeps o { s with agenda := l } := h.same rfl

theorem keeps_selectMove (h : Keeps o s) : Keeps o (selectMove s).after := by
  unfold selectMove
  split
  · split
    · exact keeps_agenda h
    · exact keeps_agenda h
  · exact keeps_gangMove (keeps_agenda h)
  · split
    · exact keeps_gangMove h
    · exact h

end

end Sys2Proof.Machine
end

section
namespace Sys2Proof.Machine

/-! ## Descriptors and reaching memory -/

@[simp, inherit_doc Missed.after]
def DescFetch.after : DescFetch → State
  | .ok _ s | .miss s | .fail _ s => s

@[simp, inherit_doc Missed.after]
def Reach.after (s : State) : Reach → State
  | .ok _ => s
  | .miss t | .fail _ _ t => t

@[simp, inherit_doc Missed.after]
def Front.after : Front → State
  | .go _ s => s
  | .stop r => r.after

section
variable {o s : State} {g : Gang} {p : Partition} {d : Desc} {src : Source} {acc : Access} {x : WalkResult}
  {slot cell vf va n index : Nat}

theorem keeps_fetchEntry (h : Keeps o s) : Keeps o (fetchEntry s src cell vf index).after := by
  unfold fetchEntry
  split
  · exact h
  · dsimp only
    split
    · exact h
    · split
      · exact h
      · split
        · split
          · exact keeps_touchIn h
          · exact (keeps_touchIn h).same rfl
        · exact h
        · split
          · exact h
          · next e => exact (keeps_missAccess h).along e

theorem keeps_fetchDesc (h : Keeps o s) : Keeps o (fetchDesc s slot g index).after := by
  unfold fetchDesc
  split
  · next e => exact keeps_leavePage ((keeps_fetchEntry h).along e)
  · exact keeps_fetchEntry h

theorem keeps_frontAt {ty layoutOk} (h : Keeps o s) : Keeps o (frontAt s slot g index ty layoutOk).after := by
  unfold frontAt
  split
  · exact h
  · split
    · next e => exact (keeps_fetchDesc h).along e
    · next e => exact (keeps_fetchDesc h).along e
    · next e =>
      have hk := (keeps_fetchDesc h).along e
      dsimp only
      split
      · exact hk
      · split
        · exact hk
        · split
          · exact hk
          · exact hk

theorem keeps_reachParts {l out} (h : Keeps o s) : Keeps o ((reachParts s p vf acc src cell l out).after s) := by
  induction l generalizing out with
  | nil => exact h
  | cons e r ih =>
    unfold reachParts
    split
    · split
      · exact h
      · exact ih
    · exact h
    · split
      · exact h
      · next e => exact (keeps_missAccess h).along e

theorem keeps_reachDevice (h : Keeps o s) : Keeps o ((reachDevice s vf va n acc src cell).after s) := by
  unfold reachDevice
  split
  · exact h
  · split
    · exact h
    · exact keeps_reachParts h

theorem keeps_hostParts {l out} (h : Keeps o s) : Keeps o ((hostParts s vf acc src l out).after s) := by
  induction l generalizing out with
  | nil => exact h
  | cons e r ih =>
    unfold hostParts
    split
    · exact ih
    · next e => exact (keeps_hostAt h).along e
    · exact h

theorem keeps_reachHost (h : Keeps o s) : Keeps o ((reachHost s vf va n acc src).after s) := by
  unfold reachHost
  split
  · exact h
  · exact keeps_hostParts h

theorem keeps_reach {c1} (h : Keeps o s) : Keeps o ((reach s slot g d c1 va n acc src).after s) := by
  unfold reach
  split
  · exact keeps_reachDevice h
  · exact h
  · exact h
  · split
    · exact h
    · split
      · exact keeps_reachDevice h
      · split
        · exact h
        · split
          · exact h
          · exact h
  · exact keeps_reachHost h

end

/-! ## Reads and writes of a place -/

section
variable {o s : State} {g : Gang} {p : Partition} {l : Locus} {slot cell vf n k wg : Nat}

theorem keeps_free {n} (h : Keeps o s) : Keeps o { s with free := n } := h.same rfl

theorem keeps_windowWrite {v} (h : Keeps o s) : Keeps o (windowWrite s cell k v) := by unfold windowWrite; exact h.update rfl (by simp)

theorem keeps_windowWriteN {ws} (h : Keeps o s) : Keeps o (windowWriteN s cell k ws) := by
  induction ws generalizing s k with
  | nil => exact h
  | cons w r ih => exact ih (keeps_windowWrite h)

theorem keeps_freeBytes (h : Keeps o s) : Keeps o (freeBytes s n).2 := by
  induction n generalizing s with
  | zero => exact h
  | succ n ih => exact ih (keeps_free h)

theorem keeps_locusRead (h : Keeps o s) : Keeps o (locusRead s l).2.2 := by
  unfold locusRead
  split
  · split
    · exact keeps_freeBytes h
    · exact h
  · exact h
  · exact h
  · exact h
  · exact keeps_freeBytes (keeps_free h)

theorem keeps_pasWrite {pas bs} (h : Keeps o s) : Keeps o (pasWrite s p pas bs) := by
  induction pas generalizing s bs with
  | nil => exact h
  | cons a r ih =>
    cases bs with
    | nil => exact h
    | cons b bs => exact ih (keeps_dramPut h)

theorem keeps_scratchWrite {offs bs} (h : Keeps o s) : Keeps o (scratchWrite s cell wg offs bs) := by
  induction offs generalizing s bs with
  | nil => exact h
  | cons x r ih =>
    cases bs with
    | nil => exact h
    | cons b bs => exact ih (h.ite (keeps_spadPut h))

theorem keeps_hostPut {l bs} (h : Keeps o s) : Keeps o (hostPut s l bs) := by
  induction l generalizing s bs with
  | nil => exact h
  | cons a r ih =>
    cases bs with
    | nil => exact h
    | cons b bs => exact ih (keeps_hostByte h)

theorem keeps_outbox {m} (h : Keeps o s) : Keeps o { s with outbox := m } := h.same rfl

theorem keeps_sendOver {out} (h : Keeps o s) : Keeps o (sendOver s k vf n out) :=
  keeps_outbox ((keeps_charge h).ite (keeps_charge h))

theorem keeps_locusWrite {bytes} (h : Keeps o s) : Keeps o (locusWrite s wg l bytes) := by
  unfold locusWrite
  split
  · exact keeps_clearWhole (keeps_pasWrite h)
  · exact keeps_scratchWrite h
  · exact keeps_windowWriteN h
  · exact keeps_hostPut h
  · exact keeps_sendOver h

theorem keeps_writeWatch {e} (h : Keeps o s) : Keeps o (writeWatch s e) := by
  have hk : Keeps o { plateTrigger s 2 with
      watchSeq := mapSet (plateTrigger s 2).watchSeq e.vf (nextSeq (plateTrigger s 2).watchSeq e.vf) } :=
    (keeps_plateTrigger h).same rfl
  unfold writeWatch
  dsimp only
  split
  · exact hk
  · split
    · exact keeps_regPut hk
    · exact keeps_notify (keeps_regPut (keeps_paStore hk))

end

/-! ## The sweep over the elements of a memory instruction -/

section
variable {o s : State} {g : Gang} {p : Partition} {d : Desc} {l : Locus} {f : Fields} {ty : Ty} {cx : Ctx} {w : Sweep}
  {perform : Perform} {slot cell vf n k wg hint : Nat}

theorem keeps_clampScope (h : Keeps o s) : Keeps o (clampScope s vf n k) := by unfold clampScope; exact (h.same rfl).ite h

theorem keeps_keepOperands (h : Keeps o s) : Keeps o (keepOperands s slot d) := keeps_onGang h

theorem keeps_touchLines {store pas} (h : Keeps o s) : Keeps o (touchLines s slot vf hint store p pas) := keeps_touchIn h

theorem keeps_serveItem {it} (hp : ∀ s it l, Keeps o s → Keeps o (perform s it l).s) (h : Keeps o w.s) :
    Keeps o (serveItem cx perform w it l).s := by
  unfold serveItem
  extract_lets far u s r
  have hs : Keeps o s := (keeps_free h).ite h
  split
  · exact hs
  · split
    · exact hs
    · split
      · exact hs
      · exact hp _ _ _ hs

theorem keeps_sweepItem {it} (hp : ∀ s it l, Keeps o s → Keeps o (perform s it l).s) (h : Keeps o w.s) :
    Keeps o (sweepItem cx perform w it).s := by
  unfold sweepItem
  split
  · exact h
  · split
    · next e => exact (keeps_reach h).along e
    · next e => exact (keeps_reach h).along e
    · exact keeps_serveItem hp h

theorem keeps_sweepAll {items} (hp : ∀ s it l, Keeps o s → Keeps o (perform s it l).s) (h : Keeps o w.s) :
    Keeps o (sweepAll cx perform w items).s := by
  induction items generalizing w with
  | nil => exact h
  | cons it r ih => exact ih (keeps_sweepItem hp h)

theorem keeps_putDest {dst x ws} (h : Keeps o s) : Keeps o (putDest s slot dst x ws) := by
  induction ws generalizing s x with
  | nil => exact h
  | cons w r ih =>
    unfold putDest
    refine ih ?_
    split
    · exact keeps_onGang h
    · split
      · exact h
      · exact keeps_setGang (keeps_putUniform h)

theorem keeps_putLate {l} (h : Keeps o s) : Keeps o (putLate s slot l) := keeps_foldl id (fun _ _ h => keeps_putDest h) _ h

theorem keeps_sweepEnd {finished : State → Sweep → Res} (h : Keeps o w.s)
    (hf : ∀ s w, Keeps o s → Keeps o (finished s w).after) : Keeps o (sweepEnd cx k w finished).after := by
  unfold sweepEnd
  extract_lets s
  have hs : Keeps o s := keeps_onGang (keeps_leaveFailed (keeps_clearWhole h))
  split
  · exact keeps_putLate hs
  · split
    · exact keeps_putLate hs
    · split
      · exact keeps_writeWatch (keeps_putLate hs)
      · exact hf _ _ hs

theorem keeps_performAll {items} {finished : State → Sweep → Res} (h : Keeps o s)
    (hp : ∀ s it l, Keeps o s → Keeps o (perform s it l).s) (hf : ∀ s w, Keeps o s → Keeps o (finished s w).after) :
    Keeps o (performAll s cx k perform items finished).after :=
  keeps_sweepEnd (keeps_sweepAll hp (keeps_keepOperands h)) hf

theorem keeps_nextId {n} (h : Keeps o s) : Keeps o { s with nextId := n } := h.same rfl

theorem keeps_issueLoad {names atomic poison remote late} (h : Keeps o s) :
    Keeps o (issueLoad s slot n names atomic poison remote late).after := keeps_onGang (keeps_nextId h)

theorem keeps_sweptLoad {td names atomic} (h : Keeps o s) : Keeps o (sweptLoad cx td names atomic s w).after := keeps_issueLoad h

theorem keeps_issueStore {remote} (h : Keeps o s) : Keeps o (issueStore s slot remote).after := keeps_onGang (keeps_nextId h)

theorem keeps_sweptStore (h : Keeps o s) : Keeps o (sweptStore cx s w).after := keeps_issueStore h

theorem keeps_effectFlags (h : Keeps o s) : Keeps o (effectFlags s g d) := h.same rfl

theorem keeps_sealGang (h : Keeps o s) : Keeps o (sealGang s slot) := keeps_onGang h

theorem keeps_laneOrder {acc items} (h : Keeps o s) : Keeps o (laneOrder s slot g d acc items).2 := by
  unfold laneOrder
  split
  · exact h.same rfl
  · exact h

theorem keeps_loadAt (h : Keeps o s) : Keeps o (loadAt cx hint s l).2.2 := by
  unfold loadAt
  dsimp only
  split
  · exact keeps_touchLines (keeps_locusRead h)
  · exact keeps_sendOver (keeps_locusRead h)
  · exact keeps_locusRead h

theorem keeps_deliverElem {dst x it words poison} (h : Keeps o s) :
    Keeps o (deliverElem slot dst x it l words s poison).s := by
  unfold deliverElem
  split
  · exact h
  · exact keeps_putDest h

theorem keeps_loadPerform {uniform it} (h : Keeps o s) : Keeps o (loadPerform cx f ty uniform s it l).s :=
  keeps_deliverElem (keeps_loadAt h)

theorem keeps_zeroOut {uniform els} (h : Keeps o s) : Keeps o (zeroOut slot f ty uniform els s) := by
  induction els generalizing s with
  | nil => exact h
  | cons e r ih =>
    unfold zeroOut
    refine ih ?_
    split
    · exact h
    · exact keeps_putDest h

theorem keeps_touchStore (h : Keeps o s) : Keeps o (touchStore cx f s l) := by
  unfold touchStore
  split
  · exact keeps_touchLines h
  · exact h

theorem keeps_storePerform {data it} (h : Keeps o s) : Keeps o (storePerform cx f ty data s it l).s :=
  keeps_touchStore (keeps_locusWrite (keeps_onGang h))

theorem keeps_blockRead (h : Keeps o s) : Keeps o (blockRead cx hint s l).2.2 := by
  unfold blockRead
  split
  · exact keeps_loadAt h
  · exact keeps_locusRead h

theorem keeps_blockPerform {m it} (h : Keeps o s) : Keeps o (blockPerform cx f ty m s it l).s := by
  unfold blockPerform
  refine keeps_touchStore (keeps_locusWrite (keeps_onGang ?_))
  split
  · exact keeps_blockRead h
  · exact h

theorem keeps_sealStore {td items} (h : Keeps o s) : Keeps o (sealStore s slot g d td items) := by
  unfold sealStore; exact (keeps_sealGang h).ite h

theorem keeps_linePerform {it} (h : Keeps o s) : Keeps o (linePerform cx f s it l).s := keeps_deliverElem (keeps_loadAt h)

theorem keeps_prefDesc {d t} (h : Keeps o s) (e : prefDesc s slot g f = some (d, t)) : Keeps o t := by
  unfold prefDesc at e
  split at e
  · next hd =>
    split at e
    · cases e; exact (keeps_fetchDesc h).along hd
    · cases e
  · cases e

theorem keeps_prefElem {e} (h : Keeps o s) : Keeps o (prefElem s slot g f d e) := by
  unfold prefElem
  split
  · dsimp only
    split
    · exact h
    · exact keeps_touchLines h
  · exact h

theorem keeps_cleanLine {inScope invalidate} (h : Keeps o s) : Keeps o (cleanLine s inScope invalidate n) :=
  keeps_l2 (keeps_foldl id (fun _ _ h => keeps_chargeChannel h) _ h)

theorem keeps_cachePerform {invalidate it} (h : Keeps o s) : Keeps o (cachePerform slot f invalidate s it l).s := by
  unfold cachePerform
  split
  · exact keeps_foldl id (fun _ _ h => keeps_cleanLine h) _ h
  · exact h

theorem keeps_descs {m} (h : Keeps o s) : Keeps o { s with descs := m } := h.same rfl

theorem keeps_tdsetPerform {index first words it} (h : Keeps o s) : Keeps o (tdsetPerform cx index first words s it l).s := by
  unfold tdsetPerform
  refine keeps_descs ?_
  split
  · exact keeps_touchLines (keeps_locusWrite h)
  · exact keeps_locusWrite h

theorem keeps_tdgetPerform {it} (h : Keeps o s) : Keeps o (tdgetPerform cx f s it l).s := keeps_putDest (keeps_loadAt h)

theorem keeps_touchAtomic (h : Keeps o s) : Keeps o (touchAtomic cx f s l) := by
  unfold touchAtomic
  split
  · exact keeps_touchIn h
  · exact h

theorem keeps_atomPerform {op data compare new it} (h : Keeps o s) :
    Keeps o (atomPerform cx f op ty data compare new s it l).s := by
  unfold atomPerform
  refine keeps_deliverElem ?_
  split
  · exact keeps_sendOver (keeps_locusRead h)
  · split
    · exact keeps_touchAtomic (keeps_locusRead h)
    · exact keeps_touchAtomic (keeps_locusWrite (keeps_locusRead h))

end

end Sys2Proof.Machine
end

section
namespace Sys2Proof.Machine

section
variable {o s : State} {g : Gang} {d : Desc} {f : Fields} {ty : Ty} {slot opc : Nat}

/-- An instruction whose descriptor or a cell of it must be fetched first. -/
theorem keeps_afterFront {q : Front} {k : Desc → State → Res} :
    Keeps o q.after → (∀ d t, Keeps o t → Keeps o (k d t).after) →
      Keeps o (match q with
        | .stop r => r
        | .go d s => k d s : Res).after := by
  intro h hk
  split
  · exact h
  · exact hk _ _ h

theorem keeps_loadElems {uniform all} (h : Keeps o s) : Keeps o (loadElems opc f ty uniform s slot g d all).after := by
  unfold loadElems
  refine keeps_orTrap h ?_
  split
  · exact h
  · exact keeps_performAll (keeps_clampScope (keeps_zeroOut (keeps_keepOperands h))) (fun _ _ _ h => keeps_loadPerform h)
      fun _ _ h => keeps_sweptLoad h

theorem keeps_storeElems {uniform all} (h : Keeps o s) : Keeps o (storeElems f ty uniform s slot g d all).after := by
  unfold storeElems
  refine keeps_orTrap h (keeps_orTrap h ?_)
  split
  · exact h
  · have hk := keeps_clampScope (vf := g.vf) (n := f.rnd.toNat) (k := memOrder f) (keeps_effectFlags (g := g) (d := d)
      (keeps_sealStore (slot := slot) (g := g) (d := d) (td := memTd f)
        (items := itemsOf d (unitBytes d.type) (openElems g all)) h))
    dsimp only
    split
    · exact keeps_performAll (keeps_laneOrder (keeps_laneOrder hk)) (fun _ _ _ h => keeps_blockPerform h)
        fun _ _ h => keeps_sweptStore h
    · exact keeps_performAll (keeps_laneOrder hk) (fun _ _ _ h => keeps_storePerform h) fun _ _ h => keeps_sweptStore h

theorem keeps_execLdt (h : Keeps o s) : KeepsNext o (execLdt f s) :=
  keeps_issueLane h fun _ _ => keeps_afterFront (keeps_frontAt h) fun _ _ h => keeps_loadElems h

theorem keeps_execStt (h : Keeps o s) : KeepsNext o (execStt f s) :=
  keeps_issueLane h fun _ _ => keeps_afterFront (keeps_frontAt h) fun _ _ h => keeps_storeElems h

theorem keeps_execLdu (h : Keeps o s) : KeepsNext o (execLdu f s) :=
  keeps_issueUniform h fun _ => keeps_afterFront (keeps_frontAt h) fun _ _ h => keeps_loadElems h

theorem keeps_execStu (h : Keeps o s) : KeepsNext o (execStu f s) :=
  keeps_issueUniform h fun _ => keeps_afterFront (keeps_frontAt h) fun _ _ h => keeps_storeElems h

theorem keeps_execGath (h : Keeps o s) : KeepsNext o (execGath f s) :=
  keeps_issueLane h fun _ _ => keeps_afterFront (keeps_frontAt h) fun _ _ h => keeps_loadElems h

theorem keeps_execScat (h : Keeps o s) : KeepsNext o (execScat f s) :=
  keeps_issueLane h fun _ _ => keeps_afterFront (keeps_frontAt h) fun _ _ h => keeps_storeElems h

theorem keeps_execLine (h : Keeps o s) : KeepsNext o (execLine f s) := by
  refine keeps_issueLane h fun _ _ => keeps_afterFront (keeps_frontAt h) fun d t ht => ?_
  dsimp only
  split
  · split
    · split
      · exact ht
      · exact keeps_issueLoad (keeps_onGang (keeps_clampScope ht))
    · exact ht
  · refine keeps_ite Res.after ht (keeps_ite Res.after ht ?_)
    exact keeps_performAll (keeps_clampScope ht) (fun _ _ _ h => keeps_linePerform h) fun _ _ h => keeps_sweptLoad h

theorem keeps_execPref (h : Keeps o s) : KeepsNext o (execPref f s) := by
  refine keeps_issueLane h fun g ts => ?_
  split
  · exact h
  · next e =>
    have hk := keeps_prefDesc h e
    split
    · exact hk
    · exact keeps_foldl id (fun _ _ h => keeps_prefElem h) _ (keeps_clampScope hk)

theorem keeps_cacheOp {invalidate} (h : Keeps o s) : KeepsNext o (cacheOp opc invalidate f s) := by
  refine keeps_issueLane h fun _ _ => keeps_afterFront (keeps_frontAt h) fun d t ht => keeps_orTrap ht ?_
  split
  · exact ht
  · dsimp only
    split
    · exact keeps_issueStore (keeps_clampScope ht)
    · exact keeps_performAll (keeps_clampScope ht) (fun _ _ _ h => keeps_cachePerform h) fun _ _ h => keeps_sweptStore h

theorem keeps_execTdset (h : Keeps o s) : KeepsNext o (execTdset f s) := by
  refine keeps_issueUniform h fun g => ?_
  split
  · exact h
  · exact keeps_performAll (keeps_effectFlags h) (fun _ _ _ h => keeps_tdsetPerform h) fun _ _ h => keeps_sweptStore h

theorem keeps_execTdget (h : Keeps o s) : KeepsNext o (execTdget f s) := by
  refine keeps_issueUniform h fun g => ?_
  split
  · exact h
  · split
    · exact keeps_issueLoad (keeps_putDest h)
    · exact keeps_performAll h (fun _ _ _ h => keeps_tdgetPerform h) fun _ _ h => keeps_sweptLoad h

theorem keeps_execTdinv (h : Keeps o s) : KeepsNext o (execTdinv f s) := keeps_issueUniform h fun _ => keeps_descs h

theorem keeps_atomic {op data compare new} (h : Keeps o s) : KeepsNext o (atomic opc op f s data compare new) := by
  refine keeps_issueLane h fun _ _ => keeps_afterFront (keeps_frontAt h) fun d t ht =>
    keeps_orTrap ht (keeps_orTrap ht ?_)
  split
  · exact ht
  · exact keeps_performAll
      (keeps_laneOrder (keeps_zeroOut (keeps_keepOperands (keeps_sealGang (keeps_clampScope (keeps_effectFlags ht))))))
      (fun _ _ _ h => keeps_atomPerform h) fun _ _ h => keeps_sweptLoad h

theorem keeps_atom {op} (h : Keeps o s) : KeepsNext o (atom opc op f s) := keeps_atomic h

theorem keeps_execAcas (h : Keeps o s) : KeepsNext o (execAcas f s) := keeps_atomic h

theorem keeps_execFence (h : Keeps o s) : KeepsNext o (execFence f s) := keeps_issueUniform h fun _ => keeps_clampScope h

theorem keeps_execWait (h : Keeps o s) : KeepsNext o (execWait f s) := by
  refine keeps_issueUniform h fun g => ?_
  dsimp only
  split
  · exact h
  · split
    · exact keeps_onGang h
    · split
      · exact keeps_onGang h
      · exact keeps_setGang h

theorem keeps_execLoadComplete (h : Keeps o s) : KeepsNext o (execLoadComplete slot s) := keeps_onGang (keeps_putLate h)

theorem keeps_execStoreComplete (h : Keeps o s) : KeepsNext o (execStoreComplete slot s) := keeps_onGang h

end

end Sys2Proof.Machine
end

section
namespace Sys2Proof.Machine

/-! ## The matrix unit -/

@[simp, inherit_doc Missed.after]
def UnitRes.after : UnitRes → State
  | .done s _ _ _ _ | .wait s _ | .fault s _ => s

section
variable {o s : State} {g : Gang} {w : Gather} {op : MatOp} {d : Desc} {l : Locus} {acc : Access}
  {slot bay vf n k index : Nat}

theorem keeps_gatherArrive {r} (h : Keeps o w.s) : Keeps o (w.arrive r k).s := by
  unfold Gather.arrive
  dsimp only
  split
  · exact keeps_free h
  · split
    · exact keeps_free h
    · exact keeps_freeBytes (keeps_free h)

theorem keeps_gatherOne {x r} (h : Keeps o w.s) : Keeps o (gatherOne x w r).s := by
  unfold gatherOne
  dsimp only
  split
  · exact h
  · split
    · exact keeps_gatherArrive h
    · split
      · next e => exact (keeps_reach h).along e
      · next e => exact (keeps_reach h).along e
      · split
        · exact h
        · exact keeps_sendOver h
      · have hs : ∀ l : Locus, Keeps o (match l with
            | .device p pas => touchLines (locusRead w.s l).2.2 x.slot x.g.vf w.op.hint false p pas
            | _ => (locusRead w.s l).2.2) := fun l => by
          split
          · exact keeps_touchLines (keeps_locusRead h)
          · exact keeps_locusRead h
        exact keeps_ite Gather.s (hs _) (hs _)

theorem keeps_gatherAll {stage rs} (h : Keeps o s) : Keeps o (gatherAll s slot g op d acc stage rs).s :=
  keeps_foldl Gather.s (fun _ _ h => keeps_gatherOne h) _ h

theorem keeps_gathered {k : State → MatOp → UnitRes} (h : Keeps o w.s) (hk : ∀ s op, Keeps o s → Keeps o (k s op).after) :
    Keeps o (gathered index slot w k).after := by
  unfold gathered
  split
  · exact h
  · split
    · exact keeps_leaveFailed h
    · exact hk _ _ h

theorem keeps_plainRows {span coords} {k : State → AMap Row → UnitRes} (h : Keeps o s)
    (hk : ∀ s rows, Keeps o s → Keeps o (k s rows).after) : Keeps o (plainRows s slot g op span coords k).after := by
  unfold plainRows
  exact keeps_gathered (keeps_gatherAll h) fun _ _ h => hk _ _ h

theorem keeps_fillUnused {l m} (h : Keeps o s) : Keeps o (fillUnused s l m).1 := by
  induction l generalizing s m with
  | nil => exact h
  | cons e r ih =>
    obtain ⟨t, used, row⟩ := e
    cases used with
    | true => exact ih h
    | false => exact ih (keeps_free h)

theorem keeps_sparseRows {k : State → AMap Row → UnitRes} (h : Keeps o s)
    (hk : ∀ s rows, Keeps o s → Keeps o (k s rows).after) : Keeps o (sparseRows s slot g op k).after := by
  unfold sparseRows
  refine keeps_gathered (keeps_gatherAll h) fun t op ht => ?_
  refine keeps_ite UnitRes.after ht ?_
  exact keeps_gathered (keeps_gatherAll ht) fun _ _ h => hk _ _ (keeps_fillUnused h)

theorem keeps_opRows {coords} {k : State → AMap Row → UnitRes} (h : Keeps o s)
    (hk : ∀ s rows, Keeps o s → Keeps o (k s rows).after) : Keeps o (opRows s slot g op coords k).after := by
  have hc : ∀ s rows, Keeps o s → Keeps o (UnitRes.after (if
      wideMask (rows.map (·.1)) (fun t => ((mapGet rows t).map fun r : Row => !r.ok).getD false) ≠ 0 then
        .fault s (unitFault op.addr op.td .planeFormat 0
          (wideMask (rows.map (·.1)) fun t => ((mapGet rows t).map fun r : Row => !r.ok).getD false))
      else k s rows)) := fun s rows hs => keeps_ite UnitRes.after hs (hk s rows hs)
  exact keeps_ite UnitRes.after (keeps_sparseRows h hc) (keeps_plainRows h hc)

theorem keeps_doMlds (h : Keeps o s) : Keeps o (doMlds s slot g op bay).after :=
  keeps_opRows h fun _ _ h => keeps_setUnit h

theorem keeps_setTile {t} (h : Keeps o s) : Keeps o (setTile s bay k t) := keeps_setUnit h

theorem keeps_doMacc (h : Keeps o s) : Keeps o (doMacc s slot g op bay).after :=
  keeps_opRows h fun _ _ h => keeps_setTile h

theorem keeps_readCell {k : State → MatOp → Word → UnitRes} (h : Keeps o s)
    (hk : ∀ s op t, Keeps o s → Keeps o (k s op t).after) : Keeps o (readCell s slot g op k).after := by
  unfold readCell
  split
  · exact hk _ _ _ h
  · exact keeps_gathered (w := Gather.whole _) (keeps_gatherAll h) fun _ _ h => hk _ _ _ h

theorem keeps_doVacc (h : Keeps o s) : Keeps o (doVacc s slot g op bay).after :=
  keeps_readCell h fun _ _ _ h => keeps_opRows h fun _ _ h => keeps_setTile h

theorem keeps_doDrain (h : Keeps o s) : Keeps o (doDrain s slot op bay n).after := keeps_onGang h

theorem keeps_scatterOne {x : Scatter} {r} (h : Keeps o x.gather.s) : Keeps o (scatterOne slot g d acc x r).gather.s := by
  unfold scatterOne
  split
  · next e => exact (keeps_reach h).along e
  · next e => exact (keeps_reach h).along e
  · exact h

theorem keeps_answers (h : Keeps o s) : Keeps o (answers s op).s := by
  refine keeps_foldl Gather.s (fun w e h => ?_) _ h
  exact keeps_ite Gather.s (keeps_free h) (keeps_free h)

theorem keeps_watch {e} (h : Keeps o s) : Keeps o { s with watch := e } := h.same rfl

theorem keeps_unitEvent {m} (h : Keeps o s) : Keeps o (unitEvent s vf k n m) := by
  unfold unitEvent
  split
  · exact h
  · exact keeps_watch h

theorem keeps_rowOrder {l} (h : Keeps o s) : Keeps o (rowOrder s l).2 := by
  unfold rowOrder
  split
  · exact keeps_free h
  · exact h

theorem keeps_writeRow {hint bytes e} (h : Keeps o s) : Keeps o (writeRow slot g hint bytes s e) := by
  unfold writeRow
  dsimp only
  split
  · exact keeps_touchLines (keeps_locusWrite h)
  · exact keeps_locusWrite h

theorem keeps_writeRows {hint bytes} {l : List (Range × Locus)} (h : Keeps o s) : Keeps o (l.foldl (writeRow slot g hint bytes) s) :=
  keeps_foldl id (fun _ _ h => keeps_writeRow h) _ h

theorem keeps_doMsto (h : Keeps o s) : Keeps o (doMsto s slot g op bay).after := by
  unfold doMsto
  refine keeps_ite UnitRes.after h (keeps_ite UnitRes.after (keeps_gathered (keeps_answers h) fun _ _ h => h) ?_)
  refine keeps_gathered (keeps_gatherAll h) fun t op ht => ?_
  refine keeps_gathered (w := { Scatter.gather _ with away := _ })
    (keeps_foldl (fun x : Scatter => x.gather.s) (fun _ _ h => keeps_scatterOne h) _ ht) fun t op ht => ?_
  refine keeps_ite UnitRes.after ?_ ?_ <;>
    exact keeps_unitEvent (keeps_clearWhole (keeps_writeRows (keeps_rowOrder ht)))

theorem keeps_doVtest (h : Keeps o s) : Keeps o (doVtest s slot op bay).after := keeps_onGang h

theorem keeps_raiseCell {hint v} (h : Keeps o s) : Keeps o (raiseCell s g l hint v) := by
  unfold raiseCell
  dsimp only
  split
  · exact keeps_touchIn (keeps_locusWrite h)
  · exact keeps_locusWrite h

theorem keeps_insertOrder {ts} (h : Keeps o s) : Keeps o (insertOrder s ts).2 := by
  unfold insertOrder
  split
  · exact h
  · exact keeps_free h

theorem keeps_doTkins (h : Keeps o s) : Keeps o (doTkins s slot g op bay).after := by
  unfold doTkins
  refine keeps_ite UnitRes.after h ?_
  split
  · exact h
  · refine keeps_gathered (keeps_foldl (fun x : Scatter => x.gather.s) (fun _ _ h => keeps_scatterOne h) _ h)
      fun t op ht => ?_
    split
    · exact ht
    · refine keeps_ite UnitRes.after (keeps_locusRead ht) (keeps_unitEvent ?_)
      refine Keeps.ite (keeps_raiseCell ?_) ?_ <;>
        exact (keeps_scratchWrite (keeps_insertOrder (keeps_locusRead ht))).ite (keeps_insertOrder (keeps_locusRead ht))

theorem keeps_doOp (h : Keeps o s) : Keeps o (doOp s slot g op bay).after := by
  unfold doOp
  split
  · exact keeps_doMlds h
  · exact keeps_doMacc h
  · exact keeps_doVacc h
  · exact keeps_doDrain h
  · exact keeps_doDrain h
  · exact keeps_doMsto h
  · exact keeps_doVtest h
  · exact keeps_doTkins h

theorem keeps_onUnit {u} (h : Keeps o s) : Keeps o (onUnit s bay u) := keeps_setUnit h

theorem keeps_unitFails {fl} (h : Keeps o s) : Keeps o (unitFails s slot bay op fl) := by
  unfold unitFails
  dsimp only
  split
  · exact keeps_onUnit h
  · split
    · exact keeps_takeFault (keeps_onUnit h)
    · exact keeps_setGang (keeps_onUnit h)

theorem keeps_execMatrixOpComplete (h : Keeps o s) : KeepsNext o (execMatrixOpComplete bay slot s) := by
  unfold execMatrixOpComplete
  split
  · split
    · exact h
    · split
      · next e => exact keeps_onUnit ((keeps_doOp h).along e)
      · next e => exact keeps_unitFails ((keeps_doOp h).along e)
      · next e => exact keeps_onGang (keeps_onUnit ((keeps_doOp h).along e))
  · exact h

end

/-! ## Matrix instructions -/

section
variable {o s : State} {g : Gang} {f : Fields} {x : BitVec 10} {kind : ChainKind} {slot opc : Nat}

theorem keeps_claimed {k : State → Res} (h : Keeps o s) (hk : ∀ t, Keeps o t → Keeps o (k t).after) :
    Keeps o (claimed s slot g k).after := by
  unfold claimed
  dsimp only
  split
  · exact keeps_ite Res.after h (hk _ (keeps_setUnit h))
  · exact hk _ (keeps_setUnit h)

theorem keeps_handUnit {op names} (h : Keeps o s) : Keeps o (handUnit s slot op names).after := by
  unfold handUnit
  split
  · exact h
  · exact (keeps_setGang (keeps_nextId h)).ite (keeps_onUnit (keeps_setGang (keeps_nextId h)))

theorem keeps_dropTile {k} (h : Keeps o s) : Keeps o (dropTile s slot k) := by
  unfold dropTile
  split
  · exact h
  · exact keeps_onUnit h

theorem keeps_unbindName (h : Keeps o s) : Keeps o (unbindName s slot g x) := keeps_dropTile (keeps_onGang h)

theorem keeps_takeTile {k} (h : Keeps o s) : Keeps o (takeTile s slot x kind k) := keeps_onGang (keeps_onUnit h)

theorem keeps_bindTile (h : Keeps o s) : Keeps o (bindTile s slot g x kind).1 := by
  unfold bindTile
  dsimp only
  split
  · exact keeps_unbindName h
  · exact keeps_takeTile (keeps_unbindName h)

theorem keeps_execMlds (h : Keeps o s) : KeepsNext o (execMlds f s) :=
  keeps_issueLane h fun _ _ => keeps_claimed h fun _ h => keeps_afterFront (keeps_frontAt h) fun _ _ h =>
    keeps_orTrap h (keeps_handUnit h)

theorem keeps_swapPlanes (h : Keeps o s) : KeepsNext o (swapPlanes opc f s) :=
  keeps_issueUniform h fun _ => keeps_claimed h fun _ h => keeps_ite Res.after h (keeps_setUnit h)

theorem keeps_cellAt {mask} (h : Keeps o s) : Keeps o (cellAt s slot g x mask).after := by
  unfold cellAt
  split
  · next e => exact (keeps_fetchDesc h).along e
  · next e => exact (keeps_fetchDesc h).along e
  · next e =>
    have hk := (keeps_fetchDesc h).along e
    exact keeps_ite Front.after hk (keeps_ite Front.after hk hk)

theorem keeps_thresholdOf {ts} {k : State → Word → Option (Desc × Nat) → Res} (h : Keeps o s)
    (hk : ∀ s t c, Keeps o s → Keeps o (k s t c).after) : Keeps o (thresholdOf f s g kind ts k).after := by
  unfold thresholdOf
  split
  · exact hk _ _ _ h
  · exact hk _ _ _ h
  · exact hk _ _ _ h
  · exact keeps_afterFront (keeps_cellAt h) fun _ _ h => hk _ _ _ h

theorem keeps_accTile {zero} {k : State → Nat → Res} (h : Keeps o s) (hk : ∀ s t, Keeps o s → Keeps o (k s t).after) :
    Keeps o (accTile f s g kind zero k).after := by
  unfold accTile
  split
  · split
    · next e => exact (keeps_bindTile h).along e
    · next e => exact hk _ _ ((keeps_bindTile h).along e)
  · exact hk _ _ h

theorem keeps_accumulateRows {zero ts} (h : Keeps o s) : Keeps o (accumulateRows f kind zero s g ts).after := by
  refine keeps_claimed h fun t ht => keeps_afterFront (keeps_frontAt ht) fun d t ht => ?_
  dsimp only
  split
  · exact ht
  · exact ht
  · exact keeps_ite Res.after ht (keeps_thresholdOf ht fun _ _ _ h => keeps_accTile h fun _ _ h => keeps_handUnit h)

theorem keeps_accumulating {zero} (h : Keeps o s) : KeepsNext o (accumulating opc kind zero f s) := by
  unfold accumulating
  split
  · trivial
  · refine keeps_finish (keeps_checked h fun t ht => ?_)
    split
    · exact keeps_ite Res.after (keeps_claimed ht fun _ h => keeps_accTile h fun _ _ h => h) ht
    · exact keeps_accumulateRows h

theorem keeps_onBound {fld} {k : Nat → Res} (h : Keeps o s) (hk : ∀ t, Keeps o (k t).after) :
    Keeps o (onBound s g x fld k).after := by
  unfold onBound
  split
  · exact h
  · exact hk _

theorem keeps_execMdrn (h : Keeps o s) : KeepsNext o (execMdrn f s) :=
  keeps_issueLane h fun _ _ => keeps_onBound h fun _ => keeps_handUnit h

theorem keeps_execMrd (h : Keeps o s) : KeepsNext o (execMrd f s) :=
  keeps_issueLane h fun _ _ => keeps_onBound h fun _ => keeps_handUnit h

theorem keeps_execMsto (h : Keeps o s) : KeepsNext o (execMsto f s) :=
  keeps_issueLane h fun _ _ => keeps_afterFront (keeps_frontAt h) fun _ _ h => keeps_orTrap h <|
    keeps_onBound h fun _ => keeps_handUnit (keeps_effectFlags ((keeps_sealGang h).ite h))

theorem keeps_execVtest (h : Keeps o s) : KeepsNext o (execVtest f s) :=
  keeps_issueLane h fun _ _ => keeps_onBound h fun _ => keeps_ite Res.after h (keeps_handUnit h)

theorem keeps_execTkins (h : Keeps o s) : KeepsNext o (execTkins f s) := by
  refine keeps_issueLane h fun _ _ => keeps_afterFront (keeps_frontAt h) fun _ _ h => keeps_ite Res.after h <|
    keeps_orTrap h <| keeps_afterFront (keeps_cellAt h) fun _ _ h => ?_
  dsimp only
  split
  · exact keeps_sealGang h
  · exact keeps_handUnit ((keeps_effectFlags (keeps_sealGang h)).ite (keeps_sealGang h))

theorem keeps_closeBatch (h : Keeps o s) : KeepsNext o (closeBatch opc f s) :=
  keeps_issueUniform h fun _ => keeps_ite Res.after h (keeps_gangResult h)

theorem keeps_execMrel (h : Keeps o s) : KeepsNext o (execMrel f s) := keeps_issueUniform h fun _ => keeps_unbindName h

end

end Sys2Proof.Machine
end

section
namespace Sys2Proof.Machine

/-! ## Copies -/

@[simp, inherit_doc Missed.after]
def CopyStep.after : CopyStep → State
  | .go s | .fail _ _ _ s _ => s

section
variable {o s : State} {g : Gang} {m : Mover} {d : Desc} {l : Locus} {acc : Access} {src : Source} {c : Copy} {x : Doer}
  {slot cell vf n k wg cid off : Nat}

theorem keeps_moverArrive (h : Keeps o m.s) : Keeps o (m.arrive k n).s := by
  unfold Mover.arrive
  refine keeps_ite Mover.s (keeps_free h) (keeps_ite Mover.s (keeps_free h) ?_)
  exact keeps_freeBytes (keeps_free h)

theorem keeps_reachFar {chip} (h : Keeps o s) : Keeps o ((reachFar s vf chip k n).after s) := by
  unfold reachFar
  split
  · exact h
  · split
    · exact h
    · exact h

theorem keeps_reachUnit {c1} (h : Keeps o s) : Keeps o ((reachUnit cell g d acc src s k c1 n).after s) :=
  keeps_ite (Reach.after s) (keeps_reachFar h) (keeps_reach h)

theorem keeps_readUnit {e} (h : Keeps o m.s) : Keeps o (readUnit cell g d src m e).s := by
  unfold readUnit
  split
  · exact h
  · refine keeps_ite Mover.s h (keeps_ite Mover.s (keeps_moverArrive h) ?_)
    split
    · next e => exact (keeps_reachUnit h).along e
    · next e => exact (keeps_reachUnit h).along e
    · exact keeps_ite Mover.s h (keeps_sendOver h)
    · have hs : ∀ l : Locus, Keeps o (match l with
          | .device p pas => touchLines (locusRead m.s l).2.2 (16 * cell) g.vf 0 false p pas
          | _ => (locusRead m.s l).2.2) := fun l => by
        split
        · exact keeps_touchLines (keeps_locusRead h)
        · exact keeps_locusRead h
      exact keeps_ite Mover.s (hs _) (hs _)

theorem keeps_writeInto {offs bytes} (h : Keeps o s) : Keeps o (writeInto cell wg offs bytes s k) := by
  unfold writeInto
  exact (keeps_scratchWrite h).ite (keeps_foldl id (fun _ _ h => (keeps_spadPut h).ite h) _ h)

theorem keeps_writeUnit {into bytes} (h : Keeps o s) : Keeps o (writeUnit cell g into s l bytes) := by
  unfold writeUnit
  split
  · exact keeps_foldl id (fun _ _ h => keeps_writeInto h) _ h
  · exact keeps_sendOver h
  · exact keeps_touchLines (keeps_locusWrite h)
  · exact keeps_locusWrite h

theorem keeps_answered (h : Keeps o m.s) : Keeps o m.answered.s := by
  refine keeps_foldl Mover.s (fun m e h => ?_) _ h
  exact keeps_ite Mover.s (keeps_free h) (keeps_free h)

theorem keeps_wrote {into va bytes} (h : Keeps o m.s) : Keeps o (m.wrote cell g into k va l bytes).s := keeps_writeUnit h

theorem keeps_goesAway {away sent} (h : Keeps o m.s) : Keeps o { m with away := away, sent := sent }.s := h

theorem keeps_putUnit {into e} (h : Keeps o m.s) : Keeps o (putUnit cell g d src into m e).s := by
  unfold putUnit
  split
  · exact h
  · refine keeps_ite Mover.s h ?_
    split
    · next e => exact (keeps_reachUnit h).along e
    · next e => exact (keeps_reachUnit h).along e
    · refine keeps_ite Mover.s h ?_
      exact keeps_goesAway (keeps_wrote h)
    · exact keeps_wrote h

theorem keeps_settled {before} (h : Keeps o m.s) : Keeps o (m.settled cell vf n before).s := keeps_charge (keeps_clearWhole h)

theorem keeps_lateFault {f} (h : Keeps o s) : Keeps o (lateFault s x f) := by
  unfold lateFault
  dsimp only
  split
  · exact keeps_abortLaunch h
  · split
    · exact (keeps_workgroups h (sortKept_mapSet _ _ sortKept_refl)).ite (keeps_abortLaunch h)
    · split
      · exact keeps_abortLaunch h
      · exact keeps_setGang h

/-! ## Barriers -/

theorem keeps_barPut (h : Keeps o s) : Keeps o (barPut s cell off k) := keeps_spadWrite h

theorem keeps_barOverrun (h : Keeps o s) : Keeps o (barOverrun s cell off x) := keeps_lateFault h

theorem keeps_broadcasts {b m} (h : Keeps o s) : Keeps o { s with broadcasts := b, leaves := m } := h.same rfl

theorem keeps_rootArrivals {a} (h : Keeps o s) : Keeps o { s with rootArrivals := a } := h.same rfl

theorem keeps_barEvaluate (h : Keeps o s) : Keeps o (barEvaluate s cell off k x) := by
  unfold barEvaluate
  dsimp only
  split
  · exact keeps_barPut h
  · split
    · exact keeps_barPut h
    · exact keeps_broadcasts (keeps_barPut h)
    · split
      · exact keeps_barPut h
      · exact keeps_rootArrivals (keeps_barPut h)
    · exact keeps_barPut h

theorem keeps_barArrive (h : Keeps o s) : Keeps o (barArrive s cell off x) :=
  (keeps_barOverrun (keeps_barEvaluate h)).ite (keeps_barEvaluate h)

theorem keeps_barCount (h : Keeps o s) : Keeps o (barCount s cell off n x) :=
  (keeps_barOverrun (keeps_barEvaluate h)).ite (keeps_barEvaluate h)

theorem keeps_execBarrierRootArrival (h : Keeps o s) : KeepsNext o (execBarrierRootArrival s) := by
  unfold execBarrierRootArrival
  split
  · exact h
  · exact keeps_barArrive (h.same rfl)

theorem keeps_execBarrierBroadcast (h : Keeps o s) : KeepsNext o (execBarrierBroadcast cell s) := by
  unfold execBarrierBroadcast
  split
  · exact h
  · split
    · exact h
    · exact keeps_barEvaluate (h.same rfl)

theorem keeps_execBarrierOverrun (h : Keeps o s) : KeepsNext o (execBarrierOverrun slot s) := keeps_onGang h

/-! ## The turn of a copy -/

theorem keeps_setRing {r} (h : Keeps o s) : Keeps o (setRing s cell n r) := h.same rfl

theorem keeps_readTile (h : Keeps o s) : Keeps o (readTile s cid c).s := by
  have hk := keeps_answered (m := Mover.start s c.sent c.fetched) h
  exact keeps_ite Mover.s hk (keeps_foldl Mover.s (fun _ _ h => keeps_readUnit h) _ hk)

theorem keeps_attemptCopy (h : Keeps o s) : Keeps o (attemptCopy s cid c).1.s := by
  unfold attemptCopy
  refine keeps_settled ?_
  split
  · exact keeps_readTile h
  · exact keeps_foldl Mover.s (fun _ _ h => keeps_putUnit h) _ (keeps_readTile h)

theorem keeps_countCopy {into} (h : Keeps o s) : Keeps o (countCopy s c into) := by
  unfold countCopy
  split
  · exact h
  · exact keeps_foldl id (fun _ _ h => keeps_barCount h) _ h

theorem keeps_copyEvent (h : Keeps o s) : Keeps o (copyEvent s c) := keeps_unitEvent h

theorem keeps_copies {m} (h : Keeps o s) : Keeps o { s with copies := m } := h.same rfl

theorem keeps_rings {m} (h : Keeps o s) : Keeps o { s with rings := m } := h.same rfl

theorem keeps_finishCopy (h : Keeps o s) : Keeps o (finishCopy s cid c) := by
  unfold finishCopy
  dsimp only
  split
  · exact keeps_copyEvent (keeps_copies h)
  · exact keeps_rings (keeps_copyEvent (keeps_copies h))

theorem keeps_failCopy {code detail source} (h : Keeps o s) : Keeps o (failCopy s cid c code detail source) := by
  unfold failCopy
  dsimp only
  split
  · exact keeps_copyEvent (keeps_copies h)
  · split
    · exact keeps_takeFault (keeps_copyEvent (keeps_copies h))
    · exact keeps_setGang (keeps_copyEvent (keeps_copies h))

theorem keeps_startCopy (h : Keeps o s) : Keeps o (startCopy s c) := h.same rfl

theorem keeps_wroteCells {into} (h : Keeps o s) : Keeps o (wroteCells s cid c into) :=
  (keeps_copies (keeps_countCopy h)).ite (keeps_finishCopy (keeps_countCopy h))

theorem keeps_turnCopy (h : Keeps o s) : Keeps o (turnCopy s cid c).after := by
  unfold turnCopy
  refine keeps_ite CopyStep.after (keeps_finishCopy h) ?_
  dsimp only
  split
  · exact keeps_leaveFailed (keeps_attemptCopy h)
  · exact keeps_ite CopyStep.after (keeps_copies (keeps_attemptCopy h)) (keeps_wroteCells (keeps_attemptCopy h))

theorem keeps_execCopyComplete (h : Keeps o s) : KeepsNext o (execCopyComplete cid s) := by
  unfold execCopyComplete
  split
  · exact h
  · split
    · exact h
    · split
      · next e => exact (keeps_turnCopy h).along e
      · exact h

theorem keeps_execCopyFault {why source} (h : Keeps o s) : KeepsNext o (execCopyFault cid why source s) := by
  unfold execCopyFault
  split
  · exact h
  · refine keepsNext_ite (keepsNext_ite (keeps_failCopy h) h) (keepsNext_ite h ?_)
    split
    · next e => exact keepsNext_ite (keeps_failCopy ((keeps_turnCopy h).along e)) h
    · exact h

end

/-! ## Copy, barrier and ring instructions -/

section
variable {o s : State} {g : Gang} {f : Fields} {ts : List Nat} {slot opc n k : Nat}

theorem keeps_raiseCopy {r : Res} (h : Keeps o s) (hr : Keeps o r.after) : Keeps o (raiseCopy s slot g r).after := by
  unfold raiseCopy
  split
  · exact keeps_onGang h
  · exact hr

theorem keeps_copyDesc {index} {k : State → Desc → Res} (h : Keeps o s) (hk : ∀ s d, Keeps o s → Keeps o (k s d).after) :
    Keeps o (copyDesc s slot g index k).after := by
  unfold copyDesc
  split
  · next e => exact (keeps_fetchDesc h).along e
  · next e => exact (keeps_fetchDesc h).along e
  · next e => exact keeps_ite Res.after (hk _ _ ((keeps_fetchDesc h).along e)) ((keeps_fetchDesc h).along e)

theorem keeps_copyRing {ring dd} {k : Option (Nat × Ring) → Desc → Res} (h : Keeps o s) (hk : ∀ r d, Keeps o (k r d).after) :
    Keeps o (copyRing s slot g ring dd k).after := by
  unfold copyRing
  split
  · exact hk _ _
  · split
    · exact h
    · exact keeps_ite Res.after h (hk _ _)

theorem keeps_copyChecks {ring bar dd ds dat sat} {k : Option (Nat × Ring) → Desc → Res} (h : Keeps o s)
    (hk : ∀ r d, Keeps o (k r d).after) : Keeps o (copyChecks s slot g ring bar dd ds dat sat k).after :=
  keeps_orTrap h (keeps_copyRing h fun _ _ => keeps_orTrap h (hk _ _))

theorem keeps_copyIssue {multicast} (h : Keeps o s) : KeepsNext o (copyIssue opc multicast f s) := by
  refine keeps_issueLane h fun g ts => ?_
  refine keeps_ite Res.after h (keeps_ite Res.after h (keeps_ite Res.after h ?_))
  refine keeps_copyDesc h fun s dd h => keeps_copyDesc h fun s ds h => ?_
  refine keeps_ite Res.after h ?_
  refine keeps_copyChecks h fun r target => ?_
  split
  · exact keeps_setRing h
  · refine keeps_ite Res.after h ?_
    cases r with
    | none =>
      exact keeps_ite Res.after (keeps_effectFlags ((keeps_sealGang h).ite h))
        (keeps_startCopy (keeps_effectFlags ((keeps_sealGang h).ite h)))
    | some e =>
      exact keeps_ite Res.after (keeps_setRing (keeps_effectFlags ((keeps_sealGang h).ite h)))
        (keeps_startCopy (keeps_setRing (keeps_effectFlags ((keeps_sealGang h).ite h))))

theorem keeps_barrierAt {k : State → Nat → Res} (h : Keeps o s) (hk : ∀ s n, Keeps o s → Keeps o (k s n).after) :
    Keeps o (barrierAt s slot g f ts k).after := by
  unfold barrierAt
  split
  · next e => exact (keeps_fetchDesc h).along e
  · next e => exact (keeps_fetchDesc h).along e
  · next e =>
    have ht := (keeps_fetchDesc h).along e
    refine keeps_ite Res.after ht (keeps_ite Res.after ht (keeps_ite Res.after ht (keeps_ite Res.after ht ?_)))
    exact hk _ _ ht

theorem keeps_leaves {m} (h : Keeps o s) : Keeps o { s with leaves := m } := h.same rfl

theorem keeps_execBinit (h : Keeps o s) : KeepsNext o (execBinit f s) :=
  keeps_issueLane h fun _ _ => keeps_ite Res.after h (keeps_barrierAt h fun _ _ h => keeps_leaves (keeps_barPut h))

theorem keeps_execBexp (h : Keeps o s) : KeepsNext o (execBexp f s) :=
  keeps_issueLane h fun _ _ => keeps_barrierAt h fun _ _ h =>
    keeps_ite Res.after (keeps_barOverrun (keeps_barPut h)) (keeps_barPut h)

theorem keeps_execBarv (h : Keeps o s) : KeepsNext o (execBarv f s) :=
  keeps_issueLane h fun _ _ => keeps_barrierAt h fun _ _ h => keeps_barArrive (keeps_onGang (keeps_sealGang h))

theorem keeps_execBwait (h : Keeps o s) : KeepsNext o (execBwait f s) :=
  keeps_issueLane h fun _ _ => keeps_raiseCopy h (keeps_barrierAt h fun _ _ h => keeps_ite Res.after h h)

theorem keeps_execBtry (h : Keeps o s) : KeepsNext o (execBtry f s) :=
  keeps_issueLane h fun _ _ => keeps_raiseCopy h (keeps_barrierAt h fun _ _ h => keeps_onGang h)

theorem keeps_ringInit (h : Keeps o s) : Keeps o (ringInit f s g ts).after := by
  unfold ringInit
  refine keeps_ite Res.after h (keeps_ite Res.after h ?_)
  split
  · exact keeps_setRing h
  · exact keeps_ite Res.after h (keeps_ite Res.after h (keeps_setRing h))

theorem keeps_tookSlot {r v} (h : Keeps o s) : Keeps o (tookSlot opc f s n r v ts).after := keeps_onGang (keeps_setRing h)

theorem keeps_failedTry (h : Keeps o s) : Keeps o (failedTry f s ts).after := keeps_onGang h

theorem keeps_missedReserve {r} (h : Keeps o s) : Keeps o (missedReserve f s g n r ts).after :=
  keeps_ite Res.after (keeps_failedTry (keeps_setRing h)) (keeps_setRing h)

theorem keeps_missedAcquire (h : Keeps o s) : Keeps o (missedAcquire f s n ts).after :=
  keeps_ite Res.after (keeps_failedTry h) h

theorem keeps_onRing {k : Ring → Res} (h : Keeps o s) (hk : ∀ r, Keeps o (k r).after) : Keeps o (onRing f s g k).after := by
  unfold onRing
  split
  · exact h
  · exact hk _

theorem keeps_reserveRing (h : Keeps o s) : KeepsNext o (reserveRing f s) :=
  keeps_issueLane h fun _ _ => keeps_raiseCopy h <| keeps_ite Res.after (keeps_ringInit h) <|
    keeps_onRing h fun _ => keeps_ite Res.after (keeps_tookSlot h) (keeps_missedReserve h)

theorem keeps_execRacq (h : Keeps o s) : KeepsNext o (execRacq f s) :=
  keeps_issueLane h fun _ _ => keeps_raiseCopy h <| keeps_onRing h fun _ =>
    keeps_ite Res.after (keeps_tookSlot h) (keeps_missedAcquire h)

theorem keeps_moveSlot {want new} (h : Keeps o s) : KeepsNext o (moveSlot opc want new f s) :=
  keeps_issueLane h fun _ _ => keeps_onRing h fun _ => keeps_ite Res.after h <|
    keeps_ite Res.after h (keeps_sealGang (keeps_setRing h))

theorem keeps_gangBarrier (h : Keeps o s) : KeepsNext o (gangBarrier f s) :=
  keeps_issueUniform h fun _ => keeps_raiseCopy h <|
    keeps_ite Res.after (keeps_setGang h) (keeps_gangResult (keeps_setGang h))

end

end Sys2Proof.Machine
end

section
namespace Sys2Proof.Machine

/-! ## Queues and records -/

@[simp, inherit_doc Missed.after]
def CellarRead.after : CellarRead → State
  | .ok _ s | .fail _ s | .stall s => s

@[simp, inherit_doc Missed.after]
def Placed.after (s : State) : Placed → State
  | .put s | .stall s => s
  | .full => s

@[simp, inherit_doc Missed.after]
def Inbox.after : Inbox → State
  | .accepted s | .rejected s | .full s => s

section
variable {o s t : State} {p : Partition} {l : Launch} {g : Gang} {f : Fields} {r : Rec} {x : CellarLine}
  {vf lo k line node stack n wg slot ref base count chip : Nat} {words : List Word}

theorem keeps_onLaunch {u} (h : Keeps o s) : Keeps o (onLaunch s k u) := h.same rfl

/-- The numbers of a bank's lines are generalised before the recursion is looked at: unfolding it by its equation evaluates the
2048 of them. -/
theorem keeps_lineInBanks {l} (h : Keeps o s) (e : lineInBanks s vf lo l = some (n, t)) : Keeps o t := by
  delta lineInBanks lineInBanks._f at e
  generalize List.range 2048 = lines at e
  induction l with
  | nil => cases e
  | cons b r ih =>
    dsimp only at e
    split at e
    · exact ih e
    · split at e
      · exact ih e
      · next hg =>
        cases e
        exact (keeps_grant h hg).same rfl

theorem keeps_takeLine (h : Keeps o s) (e : takeLine s vf stack lo = some (n, t)) : Keeps o t := by
  unfold takeLine at e
  split at e
  · cases e
  · split at e
    · exact keeps_lineInBanks h e
    · cases e

theorem keeps_quotaLine (h : Keeps o s) (e : quotaLine s k node stack lo = some (n, t)) : Keeps o t := by
  unfold quotaLine at e
  split at e
  · cases e
  · split at e
    · cases e
    · split at e
      · exact keeps_takeLine h e
      · cases e

theorem keeps_larderPlace (h : Keeps o s) (e : larderPlace s k node r stack = some t) : Keeps o t := by
  unfold larderPlace at e
  split at e
  · cases e
  · split at e
    · cases e
    · dsimp only at e
      split at e
      · cases e
        exact keeps_onLaunch h
      · split at e
        · cases e
        · next hq =>
          cases e
          exact keeps_onLaunch (keeps_quotaLine h hq)

theorem keeps_cellarWrite {va} (h : Keeps o s) : Keeps o (cellarWrite s k va n).after := by
  unfold cellarWrite
  have hb := keeps_freeBytes (n := n) h
  dsimp only
  split
  · next e => exact (keeps_schedWrite hb).along e
  · next e => exact (keeps_schedWrite hb).along e
  · next e => exact (keeps_schedWrite hb).along e

theorem keeps_freeWords (h : Keeps o s) : Keeps o (freeWords s n).2 := keeps_free h

theorem keeps_spoilRecs {l} (h : Keeps o s) : Keeps o (spoilRecs s l).2 := by
  induction l generalizing s with
  | nil => exact h
  | cons r l ih => exact ih (keeps_freeWords h)

theorem keeps_cellarRead (h : Keeps o s) : Keeps o (cellarRead s k l x).after := by
  unfold cellarRead
  split
  · next e => exact (keeps_schedRead h).along e
  · next e => exact (keeps_schedRead h).along e
  · next e =>
    have ht := (keeps_schedRead h).along e
    exact keeps_ite CellarRead.after ht (keeps_spoilRecs ht)

theorem keeps_schedFails {r} (h : Keeps o s) : Keeps o (schedFails s k r) := keeps_abortLaunch h

theorem keeps_cellarPut {d} (h : Keeps o s) : Keeps o ((cellarPut s k node stack l x r).after d) := by
  unfold cellarPut
  split
  · next e => exact (keeps_cellarWrite h).along e
  · next e => exact keeps_schedFails ((keeps_cellarWrite h).along e)
  · next e => exact keeps_onLaunch ((keeps_cellarWrite h).along e)

theorem keeps_cellarPlace {d} (hd : Keeps o d) (h : Keeps o s) : Keeps o ((cellarPlace s k node r stack).after d) := by
  unfold cellarPlace
  split
  · exact hd
  · split
    · exact hd
    · split
      · split
        · next e => exact (keeps_cellarRead h).along e
        · next e => exact keeps_schedFails ((keeps_cellarRead h).along e)
        · next e => exact keeps_cellarPut ((keeps_cellarRead h).along e)
      · exact keeps_ite (Placed.after d) (keeps_cellarPut h) hd

theorem keeps_firstSome {α : Type} {q : α → Option State} {l : List α} (hq : ∀ a t, q a = some t → Keeps o t)
    (e : firstSome q l = some t) : Keeps o t := by
  induction l with
  | nil => cases e
  | cons a r ih =>
    unfold firstSome at e
    split at e
    · exact ih e
    · next ha =>
      cases e
      exact hq a _ ha

theorem keeps_placeRecord (h : Keeps o s) : Keeps o ((placeRecord s k stack words).after s) := by
  unfold placeRecord
  split
  · exact h
  · have hn := keeps_nextId (n := s.nextId + 1) h
    dsimp only
    split
    · next e => exact keeps_firstSome (fun a t ha => keeps_larderPlace hn ha) e
    · exact keeps_ite (Placed.after s) (keeps_cellarPlace h hn) h

theorem keeps_placedResult {q : Placed} (h : Keeps o (q.after s)) : Keeps o (q.result s).2 := by
  cases q <;> exact h

theorem keeps_blockOn {nodes} (h : Keeps o s) : Keeps o (blockOn s slot k nodes) := h.same rfl

theorem keeps_joinRaise (h : Keeps o s) : Keeps o (joinRaise s ref) := h.same rfl

theorem keeps_makeJoin (h : Keeps o s) (e : makeJoin s k stack count words = some (n, t)) : Keeps o t := by
  unfold makeJoin at e
  split at e
  · cases e
  · next hq =>
    cases e
    exact (keeps_quotaLine h hq).same rfl

theorem keeps_joins {m n} (h : Keeps o s) : Keeps o { s with joins := m, nextId := n } := h.same rfl

theorem keeps_joinArrive (h : Keeps o s) : Keeps o (joinArrive s k ref) := by
  unfold joinArrive
  split
  · exact h
  · exact Keeps.ite (keeps_joins h) (keeps_onLaunch (keeps_joins h))

/-! ## Emissions -/

/-- An attempt to place an emission keeps the form. -/
def PlaceKeeps (one : PlaceOne) : Prop := ∀ ⦃o s : State⦄ ⦃t : Nat⦄ ⦃e : Emission⦄, Keeps o s → Keeps o (one s t e).2

variable {one : PlaceOne} {items : AMap (List Emission)}

theorem keeps_raised {e : Emission} (h : Keeps o s) : Keeps o (sealGang (if e.join = 0 then s else joinRaise s e.join) slot) :=
  keeps_sealGang (h.ite (keeps_joinRaise h))

theorem placeKeeps_emit : PlaceKeeps (placeEmit slot k) := by
  intro o s t e h
  unfold placeEmit
  refine keeps_ite Prod.snd h ?_
  have hp := keeps_placedResult (keeps_placeRecord (k := k) (stack := stackOf (cellOf slot)) (words := e.words) h)
  split
  · next he => exact hp.along he
  · next he => exact keeps_raised (hp.along he)

theorem placeKeeps_join : PlaceKeeps (placeJoin slot k) := by
  intro o s t e h
  unfold placeJoin
  refine keeps_ite Prod.snd h ?_
  split
  · exact h
  · next he => exact keeps_raised (keeps_onGang (keeps_makeJoin h he))

theorem keeps_placeSome {l} (hp : PlaceKeeps one) (h : Keeps o s) : Keeps o (placeSome one s n l).1 := by
  induction l generalizing s with
  | nil => exact h
  | cons e r ih =>
    unfold placeSome
    split
    · next he => exact (hp h).along he
    · next he => exact ih ((hp h).along he)

theorem keeps_placeAll {l} (hp : PlaceKeeps one) (h : Keeps o s) : Keeps o (placeAll one s n l).2 := by
  induction l generalizing s with
  | nil => exact h
  | cons e r ih =>
    unfold placeAll
    split
    · next he => exact (hp h).along he
    · next he =>
      have hu := ih ((hp h).along he)
      split
      · next hr => exact hu.along hr
      · exact h

theorem keeps_emitOrder (h : Keeps o s) : Keeps o (emitOrder s items).2 := keeps_free h

theorem keeps_pushAll {ts} (hp : PlaceKeeps one) (h : Keeps o s) : Keeps o (pushAll one items s ts).1 := by
  induction ts generalizing s items with
  | nil => exact h
  | cons t r ih => exact ih (keeps_placeSome hp h)

theorem keeps_tryAll {c ts} (hp : PlaceKeeps one) (h : Keeps o s) : Keeps o (tryAll one items slot c s ts) := by
  induction ts generalizing s with
  | nil => exact h
  | cons t r ih => exact ih (keeps_onGang (keeps_placeAll hp h))

theorem keeps_pushEmit {why queue ps} (hp : PlaceKeeps one) (h : Keeps o s) :
    Keeps o (pushEmit s slot one why queue items ps).after := by
  unfold pushEmit
  have hq := keeps_pushAll (items := items) (ts := (emitOrder s items).1) hp (keeps_emitOrder (items := items) h)
  cases queue with
  | none => exact keeps_ite Res.after hq (keeps_onGang hq)
  | some k => exact keeps_ite Res.after (keeps_blockOn hq) (keeps_onGang (keeps_blockOn hq))

theorem keeps_tryEmit {c ps} (hp : PlaceKeeps one) (h : Keeps o s) : Keeps o (tryEmit s slot one items c ps).after :=
  keeps_tryAll hp (keeps_emitOrder h)

theorem keeps_emission {opc why queue ps} {one : Gang → PlaceOne}
    {fresh : Gang → List Nat → (State → AMap (List Emission) → Res) → Res} (h : Keeps o s) (hp : ∀ g, PlaceKeeps (one g))
    (hf : ∀ g ts k, (∀ s m, Keeps o s → Keeps o (k s m).after) → Keeps o (fresh g ts k).after) :
    KeepsNext o (emission opc f s why queue one ps fresh) := by
  refine keeps_issueLane h fun g ts => ?_
  split
  · exact keeps_pushEmit (hp g) h
  · refine hf g ts _ fun s m h => ?_
    exact keeps_ite Res.after (keeps_tryEmit (hp g) h) (keeps_pushEmit (hp g) h)

theorem keeps_emitRecords {opc} {build : Gang → List Nat → (State → List (Nat × List Word) → Res) → Res} (h : Keeps o s)
    (hb : ∀ g ts k, (∀ s m, Keeps o s → Keeps o (k s m).after) → Keeps o (build g ts k).after) :
    KeepsNext o (emitRecords opc f s build) :=
  keeps_emission h (fun _ => placeKeeps_emit) fun g ts _ hk =>
    hb g ts _ fun _ _ h => keeps_orTrap h (hk _ _ h)

theorem keeps_execEmit (h : Keeps o s) : KeepsNext o (execEmit f s) := keeps_emitRecords h fun _ _ _ hk => hk _ _ h

theorem keeps_execEmith (h : Keeps o s) : KeepsNext o (execEmith f s) := by
  refine keeps_emitRecords h fun g ts k hk => ?_
  split
  · next e => exact (keeps_fetchDesc h).along e
  · next e => exact (keeps_fetchDesc h).along e
  · next e =>
    have ht := (keeps_fetchDesc h).along e
    exact keeps_orTrap ht (hk _ _ ht)

theorem keeps_execBisect (h : Keeps o s) : KeepsNext o (execBisect f s) :=
  keeps_emission h (fun _ => placeKeeps_emit) fun _ _ _ hk =>
    keeps_orTrap h (keeps_orTrap h (hk _ _ (keeps_onGang h)))

theorem keeps_execJinit (h : Keeps o s) : KeepsNext o (execJinit f s) :=
  keeps_emission h (fun _ => placeKeeps_join) fun _ _ _ hk => keeps_orTrap h (hk _ _ h)

theorem keeps_markArrived (h : Keeps o s) : Keeps o (markArrived s wg n) := by unfold markArrived; exact h.update rfl (by simp)

theorem keeps_applyArrivals {m} (h : Keeps o s) : Keeps o (applyArrivals s k wg m) := by
  induction m generalizing s with
  | nil => exact h
  | cons e r ih => exact ih (keeps_joinArrive (keeps_markArrived h))

theorem keeps_execJarr (h : Keeps o s) : KeepsNext o (execJarr f s) :=
  keeps_issueLane h fun _ _ => keeps_orTrap h (keeps_applyArrivals (h.ite (keeps_sealGang h)))

/-! ## Inboxes and remote records -/

theorem keeps_inboxWrite {l out} (h : Keeps o s) : Keeps o (inboxWrite s k base l out).after := by
  induction l generalizing s out with
  | nil => exact h
  | cons n r ih =>
    unfold inboxWrite
    split
    · next e => exact ih ((keeps_cellarWrite h).along e)
    · exact keeps_cellarWrite h

theorem keeps_inboxRead {l out} (h : Keeps o s) : Keeps o (inboxRead s k base l out).after := by
  induction l generalizing s out with
  | nil => exact h
  | cons n r ih =>
    unfold inboxRead
    split
    · next e => exact ih ((keeps_schedRead h).along e)
    · exact keeps_schedRead h

theorem keeps_inboxAccept {tag source link sender} (h : Keeps o s) :
    Keeps o (inboxAccept s p tag words source link sender).after := by
  unfold inboxAccept
  split
  · exact h
  · split
    · exact h
    · refine keeps_ite Inbox.after h (keeps_ite Inbox.after h ?_)
      dsimp only
      split
      · next e => exact (keeps_inboxWrite h).along e
      · next e => exact keeps_schedFails ((keeps_inboxWrite h).along e)
      · next e => exact keeps_onLaunch ((keeps_inboxWrite h).along e)

theorem keeps_windows {m} (h : Keeps o s) : Keeps o { s with windows := m } := h.same rfl

theorem keeps_takeWindow (h : Keeps o s) : Keeps o (takeWindow s vf k chip) := keeps_onLaunch (keeps_windows h)

theorem keeps_freeWindow {accepted} (h : Keeps o s) : Keeps o (freeWindow s vf k chip accepted) :=
  keeps_onLaunch (keeps_windows h)

theorem placeKeeps_remote : PlaceKeeps (placeRemote slot vf k) := by
  intro o s t e h
  unfold placeRemote
  refine keeps_ite Prod.snd h (keeps_ite Prod.snd ?_ ?_)
  · split
    · exact h
    · split
      · next e => exact (keeps_inboxAccept h).along e
      · next e => exact keeps_sealGang (keeps_onLaunch ((keeps_inboxAccept h).along e))
      · next e => exact keeps_sealGang (keeps_takeWindow ((keeps_inboxAccept h).along e))
  · split
    · exact h
    · exact keeps_sealGang (keeps_takeWindow (keeps_sends (keeps_sendOver h)))

theorem keeps_execEmitr (h : Keeps o s) : KeepsNext o (execEmitr f s) :=
  keeps_emission h (fun _ => placeKeeps_remote) fun _ _ _ hk => keeps_orTrap h (hk _ _ (keeps_onLaunch h))

theorem keeps_replaced {why queue} (hp : PlaceKeeps one) (h : Keeps o s) :
    KeepsNext o (match pushEmit s slot one why queue items [] with
      | .hold s _ => .next s
      | .done s _ => .next (onGang { s with agenda := .issue slot :: s.agenda } slot fun g => { g with emit := some [] })
      | _ => .next s) := by
  split
  · next e => exact (keeps_pushEmit hp h).along e
  · next e => exact keeps_onGang (keeps_agenda ((keeps_pushEmit hp h).along e))
  · exact h

theorem keeps_execEmissionReplace (h : Keeps o s) : KeepsNext o (execEmissionReplace slot s) := by
  unfold execEmissionReplace
  split
  · exact h
  · refine keepsNext_ite h ?_
    split
    · exact keeps_replaced placeKeeps_emit h
    · exact keeps_replaced placeKeeps_join h
    · exact keeps_replaced placeKeeps_remote h
    · exact h

/-! ## System instructions -/

theorem keeps_setQueue {q : Nat} {x : Queue} (h : Keeps o s) : Keeps o (setQueue s vf q x) := h.same rfl

variable {opc : Nat}

theorem keeps_flashback (h : Keeps o s) : KeepsNext o (flashback opc f s) := by
  refine keeps_issueUniform h fun g => ?_
  refine keeps_ite Res.after h ?_
  split
  · split
    · exact h
    · refine keeps_ite Res.after h ?_
      split
      · exact h
      · exact keeps_ite Res.after h (keeps_setGang h)
  · exact h

theorem keeps_softTrap (h : Keeps o s) : KeepsNext o (softTrap opc f s) := keeps_issueUniform h fun _ => h

theorem keeps_trapReturn (h : Keeps o s) : KeepsNext o (trapReturn opc f s) := by
  unfold trapReturn
  split
  · exact trivial
  · exact keepsNext_ite (keeps_setGang h) (keeps_finish h)

theorem keeps_plate (h : Keeps o s) : KeepsNext o (plate opc f s) :=
  keeps_issueUniform h fun _ => (keeps_plateTrigger h).ite h

theorem keeps_heldAtBrk {halts : Bool} (h : Keeps o s) : Keeps o (if halts then holdGang s slot .brk else s) :=
  (keeps_holdGang h).ite h

theorem keeps_breakpoint (h : Keeps o s) : KeepsNext o (breakpoint opc f s) := by
  unfold breakpoint
  split
  · exact trivial
  · have hi : ∀ (halts : Bool) (e : Gang → WatchEvent), KeepsNext o (issueUniform opc f s fun g =>
        .done (if halts then writeWatch s (e g) else s) []) := fun halts e =>
      keeps_issueUniform h fun _ => (keeps_writeWatch h).ite h
    dsimp only
    split
    · next e => exact keeps_heldAtBrk (show KeepsNext o (.next _) from e ▸ hi _ _)
    · exact hi _ _

theorem keeps_execBrkRelease (h : Keeps o s) : KeepsNext o (execBrkRelease slot s) :=
  keeps_gangs h (sortKept_mapUpdate _ _ sortKept_refl)

end

end Sys2Proof.Machine
end

section
namespace Sys2Proof.Machine

/-! ## Starts -/

@[simp, inherit_doc Missed.after]
def Head.after : Head → State
  | .none s | .packet _ _ s => s

@[simp, inherit_doc Missed.after]
def Got.after {α : Type} : Got α → State
  | .got _ s | .bad s | .stall s | .fail _ s => s

section
variable {o s : State} {p : Partition} {l : Launch} {w : Workgroup} {vf q k n cell wg node stack lslot : Nat}

theorem keeps_bellOrder (h : Keeps o s) : Keeps o { s with bellOrder := n } := h.same rfl

theorem keeps_execDoorbell {v} (h : Keeps o s) : KeepsNext o (execDoorbell vf q v s) := by
  unfold execDoorbell
  exact keepsNext_ite (keeps_setQueue (keeps_bellOrder h)) (keeps_setQueue h)

theorem keeps_endPacket {x fence} (h : Keeps o s) : Keeps o (endPacket s vf q x fence) := keeps_retireAll (keeps_setQueue h)

theorem keeps_queueHead (h : Keeps o s) : Keeps o (queueHead s vf q p).after := by
  unfold queueHead
  refine keeps_ite Head.after h ?_
  split
  · next e => exact (keeps_schedRead h).along e
  · next e => exact keeps_endPacket (keeps_free ((keeps_schedRead h).along e))
  · next e =>
    have ht := (keeps_schedRead h).along e
    exact keeps_ite Head.after ht (keeps_endPacket ht)

theorem keeps_candidates {l best} (h : Keeps o s) : Keeps o (candidates s vf p l best).1 := by
  induction l generalizing s best with
  | nil => exact h
  | cons q r ih =>
    unfold candidates
    split
    · next e => exact ih ((keeps_queueHead h).along e)
    · next e => exact ih ((keeps_queueHead h).along e)

variable {α β : Type}

theorem keeps_bind {x : Got α} {f : α → State → Got β} (hx : Keeps o x.after) (hf : ∀ a s, Keeps o s → Keeps o (f a s).after) :
    Keeps o (x.bind f).after := by
  cases x with
  | got a s => exact hf a s hx
  | bad s => exact hx
  | stall s => exact hx
  | fail r s => exact hx

theorem keeps_require {c : Bool} {x : Got β} (h : Keeps o s) (hx : Keeps o x.after) : Keeps o (require s c x).after :=
  keeps_ite Got.after hx h

theorem keeps_readImage {a} (h : Keeps o s) : Keeps o (readImage s k a n).after := by
  unfold readImage
  refine keeps_ite Got.after h ?_
  split
  · next e => exact (keeps_schedRead h).along e
  · next e => exact (keeps_schedRead h).along e
  · next e => exact (keeps_schedRead h).along e

theorem keeps_readRecipes {image off code} (h : Keeps o s) : Keeps o (readRecipes s k image off code).after :=
  keeps_ite Got.after h <| keeps_require h <| keeps_bind (keeps_readImage h) fun _ _ h =>
    keeps_require h <| keeps_bind (keeps_readImage h) fun _ _ h => h

theorem keeps_readNodes {image count codeOff codeSize l out} (h : Keeps o s) :
    Keeps o (readNodes k image count codeOff codeSize l out s).after := by
  induction l generalizing s out with
  | nil => exact h
  | cons x r ih =>
    exact keeps_require h <| keeps_bind (keeps_readImage h) fun _ _ h =>
      keeps_require h <| keeps_bind (keeps_readRecipes h) fun _ _ h => ih h

theorem keeps_readGraph {image} (h : Keeps o s) : Keeps o (readGraph s k image).after :=
  keeps_bind (keeps_readImage h) fun _ _ h => keeps_require h <| keeps_bind (keeps_readImage h) fun _ _ h =>
    keeps_bind (keeps_readNodes h) fun _ _ h => keeps_require h h

theorem keeps_failStart {status} (h : Keeps o s) : Keeps o (failStart s k status) := keeps_retireAll (keeps_onLaunch h)

theorem keeps_checkLaunch {nodes base size list} (h : Keeps o s) : Keeps o (checkLaunch s k l nodes base size list) := by
  unfold checkLaunch
  exact (keeps_failStart h).ite <| (keeps_failStart h).ite <| (keeps_failStart h).ite <|
    (keeps_failStart h).ite (keeps_onLaunch h)

theorem keeps_runChecks (h : Keeps o s) : Keeps o (runChecks s k) := by
  unfold runChecks
  split
  · exact h
  · refine h.ite ?_
    split
    · next e => exact keeps_failStart ((keeps_readGraph h).along e)
    · next e => exact (keeps_readGraph h).along e
    · next e => exact keeps_schedFails ((keeps_readGraph h).along e)
    · next e =>
      have ht := (keeps_readGraph h).along e
      split
      · next e => exact (keeps_readImage ht).along e
      · next e => exact (keeps_readImage ht).along e
      · next e => exact keeps_schedFails ((keeps_readImage ht).along e)
      · next e => exact keeps_checkLaunch ((keeps_readImage ht).along e)

theorem keeps_starts {e c d m} (h : Keeps o s) : Keeps o { s with events := e, startCycle := c, descs := d, launches := m } :=
  h.same rfl

theorem keeps_startLaunch {c} (h : Keeps o s) : Keeps o (startLaunch s vf k p c) :=
  keeps_runChecks (keeps_starts (keeps_setQueue h))

theorem keeps_execLaunchStart (h : Keeps o s) : KeepsNext o (execLaunchStart vf s) := by
  have hr := keeps_foldl id (f := runChecks) (fun _ _ h => keeps_runChecks h)
    ((s.launches.filter fun e => e.1 / 64 == vf).map (·.1)) h
  unfold execLaunchStart
  dsimp only
  split
  · exact hr
  · refine keepsNext_ite hr ?_
    split
    · next e => exact (keeps_candidates hr).along e
    · next e =>
      have hc := (keeps_candidates hr).along e
      split
      · exact hc
      · exact keeps_startLaunch hc

theorem keeps_blocked {b} (h : Keeps o s) : Keeps o { s with blocked := b } := h.same rfl

theorem keeps_execEntryEnqueue (h : Keeps o s) : KeepsNext o (execEntryEnqueue vf lslot s) := by
  unfold execEntryEnqueue
  dsimp only
  split
  · exact h
  · split
    · exact h
    · refine keepsNext_ite h ?_
      have hp : ∀ (c : Prop) [Decidable c] (k stack : Nat) (ws : List Word),
          Keeps o ((if c then placeRecord s k stack ws else .full).result s).2 := fun c _ k stack ws =>
        keeps_placedResult (keeps_ite (Placed.after s) (keeps_placeRecord h) h)
      split
      · next e => exact keeps_blockOn ((hp _ _ _ _).along e)
      · next e => exact keeps_onLaunch (keeps_blocked ((hp _ _ _ _).along e))

theorem keeps_execLaunchCompletion (h : Keeps o s) : KeepsNext o (execLaunchCompletion vf lslot s) := by
  unfold execLaunchCompletion
  dsimp only
  split
  · exact h
  · exact keepsNext_ite (keeps_retireAll (keeps_onLaunch (keeps_freeQueues h))) (keepsNext_ite h (keeps_retireAll h))

/-! ## Gathering -/

theorem keeps_fillWindow {l} (h : Keeps o s) : Keeps o (fillWindow s cell l) := by
  induction l generalizing s with
  | nil => exact h
  | cons r l ih => exact ih (keeps_spadWrite h)

theorem keeps_takeWindowSlots {l} (h : Keeps o s) : Keeps o (takeWindowSlots s cell wg l) := h.same rfl

theorem keeps_readLines {xs} (h : Keeps o s) :
    Keeps o (readLines s k l xs).2.2 ∧ ∀ t, (readLines s k l xs).2.1 = some t → Keeps o t := by
  induction xs generalizing s with
  | nil => exact ⟨h, fun _ e => (Option.some_ne_none _ e.symm).elim⟩
  | cons x r ih =>
    unfold readLines
    split
    · next e =>
      have ht := (keeps_cellarRead h).along e
      exact ⟨ht, fun _ e => Option.some.inj e ▸ ht⟩
    · next e =>
      have ht := (keeps_cellarRead h).along e
      exact ⟨ht, fun _ e => Option.some.inj e ▸ keeps_schedFails ht⟩
    · next e => exact ih ((keeps_cellarRead h).along e)

theorem keeps_larder {m n} (h : Keeps o s) : Keeps o { s with nextId := n, larder := m } := h.same rfl

theorem keeps_gatherRecs {x nd t} (h : Keeps o s) : Keeps o (gatherRecs s k node stack cell x nd t) := by
  unfold gatherRecs
  refine h.ite (keeps_fillWindow (keeps_takeWindowSlots (keeps_workgroups ?_ (sortKept_mapSet _ _ sortKept_refl))))
  exact keeps_onLaunch (keeps_larder h)

theorem keeps_gatherInto {nd t} (h : Keeps o s) : Keeps o (gatherInto s k node stack cell l nd t) := by
  unfold gatherInto
  refine Keeps.ite ?_ (keeps_gatherRecs h)
  have hl := keeps_readLines (k := k) (l := l) (xs := (shardOf l node stack).cellar) h
  split
  · next e => exact keeps_gatherRecs (by simpa [e] using hl.1)
  · next e => exact hl.2 _ (by simp [e])

theorem keeps_gather {allowed} (h : Keeps o s) : Keeps o (gather s vf lslot node stack cell allowed) := by
  unfold gather
  dsimp only
  split
  · split
    · exact h
    · split
      · exact h
      · exact (keeps_gatherInto h).ite h
  · exact h

/-! ## Prefetch -/

@[simp, inherit_doc Missed.after]
def TileFetch.after : TileFetch → State
  | .wait s _ | .fault _ s | .ok _ _ s _ => s

variable {g : Gang} {d : Desc}

theorem keeps_readPasses {read : Mover → Mover} {m : Mover} (hr : ∀ m, Keeps o m.s → Keeps o (read m).s) (h : Keeps o m.s) :
    Keeps o (readPasses read n m).s := by
  induction n generalizing m with
  | zero => exact hr m h
  | succ n ih =>
    have hp : Keeps o (read { m with missed := false, away := false }).s := hr _ h
    exact keeps_ite Mover.s hp (ih hp)

theorem keeps_fetchTile {c off got} (h : Keeps o s) : Keeps o (fetchTile s wg cell g d c off got).after := by
  unfold fetchTile
  have hm := keeps_readPasses (n := (tileUnits d c).length)
    (read := fun m => (numbered (tileUnits d c)).foldl (readUnit cell g d (.copy wg)) m)
    (fun m h => keeps_foldl Mover.s (fun _ _ h => keeps_readUnit h) _ h) (m := Mover.start s [] got) h
  dsimp only
  split
  · exact hm
  · exact keeps_ite TileFetch.after hm hm

theorem keeps_prefetchTile {entry j got} (h : Keeps o s) : Keeps o (prefetchTile s wg w entry j got).after := by
  unfold prefetchTile
  dsimp only
  have hf : ∀ (q : Option (List Byte)) (e : DescFetch), Keeps o e.after →
      Keeps o (match q with
        | some l => DescFetch.ok (bytesToWords l) s
        | none => e).after := by
    intro q e he
    cases q with
    | some l => exact h
    | none => exact he
  split
  · next e => exact (hf _ _ (keeps_fetchEntry h)).along e
  · next e => exact (hf _ _ (keeps_fetchEntry h)).along e
  · next e =>
    have ht := (hf _ _ (keeps_fetchEntry h)).along e
    exact keeps_ite TileFetch.after ht <| keeps_ite TileFetch.after ht <| keeps_ite TileFetch.after ht <|
      keeps_ite TileFetch.after ht (keeps_fetchTile ht)

theorem keeps_prefetchStep {e} {p : Prefetch} (h : Keeps o p.s) : Keeps o (prefetchStep wg w p e).s := by
  unfold prefetchStep
  dsimp only
  split
  · next e => exact (keeps_prefetchTile h).along e
  · next e => exact (keeps_prefetchTile h).along e
  · next e => exact (keeps_prefetchTile h).along e

theorem keeps_putTile {t} (h : Keeps o s) : Keeps o (putTile vf cell s t) := keeps_charge (keeps_spadWrite h)

theorem keeps_prefetchAll {jobs : List (((Nat × Nat) × Nat) × Nat)} {p : Prefetch} (h : Keeps o p.s) :
    Keeps o (jobs.foldl (prefetchStep wg w) p).s :=
  keeps_foldl Prefetch.s (fun _ _ h => keeps_prefetchStep h) _ h

theorem keeps_putTiles {tiles : List (Nat × List Byte)} (h : Keeps o s) : Keeps o (tiles.foldl (putTile vf cell) s) :=
  keeps_foldl id (fun _ _ h => keeps_putTile h) _ h

theorem keeps_execShadowPrefetchComplete (h : Keeps o s) : KeepsNext o (execShadowPrefetchComplete wg s) := by
  unfold execShadowPrefetchComplete
  split
  · exact h
  · split
    · exact h
    · refine keepsNext_ite h (keepsNext_ite ?_ ?_)
      · exact keeps_workgroups (keeps_prefetchAll h) (sortKept_mapSet _ _ sortKept_refl)
      · exact keeps_workgroups (keeps_putTiles (keeps_leaveFailed (keeps_leaveFailed (keeps_prefetchAll h))))
          (sortKept_mapSet _ _ sortKept_refl)

/-! ## Placement, the governor and the end of a workgroup -/

theorem keeps_putGangs {nd l'} (h : Keeps o s) : Keeps o (putGangs s l nd w wg l') := by
  induction l' generalizing s with
  | nil => exact h
  | cons e r ih => exact ih (keeps_setGang h)

theorem keeps_execWorkgroupLaunch {slots} (h : Keeps o s) : KeepsNext o (execWorkgroupLaunch wg slots s) := by
  unfold execWorkgroupLaunch
  split
  · exact h
  · split
    · exact h
    · split
      · exact h
      · exact keepsNext_ite (keeps_putGangs (keeps_workgroups h (sortKept_mapSet _ _ sortKept_refl))) h

theorem keeps_governor {m} (h : Keeps o s) : Keeps o { s with governor := m } := h.same rfl

theorem keeps_execGovernorReassign (h : Keeps o s) : KeepsNext o (execGovernorReassign cell vf lslot node s) := by
  unfold execGovernorReassign
  dsimp only
  split
  · exact h
  · exact keepsNext_ite (keeps_governor h) h

theorem keeps_freeEnded (h : Keeps o s) : Keeps o (freeEnded s wg) := by unfold freeEnded; exact h.update rfl (by simp)

theorem keeps_endArrivals {refs} (h : Keeps o s) : Keeps o (endArrivals s k w refs).1 := by
  induction refs generalizing s with
  | nil => exact h
  | cons ref r ih =>
    unfold endArrivals
    split
    · exact keeps_abortLaunch h
    · exact ih (keeps_joinArrive h)

theorem keeps_execWorkgroupEnd (h : Keeps o s) : KeepsNext o (execWorkgroupEnd wg s) := by
  have hf := keeps_freeEnded (wg := wg) h
  unfold execWorkgroupEnd
  split
  · exact h
  · refine keepsNext_ite h ?_
    dsimp only
    split
    · exact hf
    · exact keepsNext_ite hf (keepsNext_ite (keeps_discardWorkgroups (keeps_endArrivals hf)) (keeps_endArrivals hf))

end

end Sys2Proof.Machine
end

section
namespace Sys2Proof.Machine

/-! ## Partitions and tokens -/

section
variable {o s t : State} {p : Partition} {l : Launch} {w : Workgroup} {g : Gang} {vf q k n cell wg node stack lslot slot kind unit
  part link rlc chip : Nat}

theorem keeps_partstat {v} (h : Keeps o s) : Keeps o { s with partstat := v } := h.same rfl

theorem keeps_partResult {r} (h : Keeps o s) : Keeps o (partResult s r kind unit) := keeps_partstat h

theorem keeps_clearReservations {cs} (h : Keeps o s) : Keeps o (clearReservations s cs) :=
  keeps_foldl id (fun _ _ h => keeps_regPut (keeps_governor h)) _ h

theorem keeps_execCellresWrite {v} (h : Keeps o s) : KeepsNext o (execCellresWrite cell v s) :=
  keepsNext_ite (keeps_partResult h) (keeps_regPut h)

theorem keeps_fillBuckets {depth units} (h : Keeps o s) : Keeps o (fillBuckets s vf kind depth units) := h.same rfl

theorem keeps_addRefill (h : Keeps o s) : Keeps o (addRefill s vf kind) := h.same rfl

theorem keeps_execBktProfileWrite {v} (h : Keeps o s) : KeepsNext o (execBktProfileWrite vf kind v s) := by
  unfold execBktProfileWrite
  refine keepsNext_ite h (keepsNext_ite (keeps_partResult h) (keepsNext_ite (keeps_partResult h) ?_))
  split
  · exact keeps_partResult (keeps_regPut h)
  · exact keepsNext_ite (keeps_partResult (keeps_addRefill (keeps_regPut h))) (keeps_partResult h)

theorem keeps_execPolicyWrite {v} (h : Keeps o s) : KeepsNext o (execPolicyWrite vf v s) := keeps_regPut h

theorem keeps_execQassignWrite {v} (h : Keeps o s) : KeepsNext o (execQassignWrite vf q v s) :=
  keepsNext_ite (keeps_partResult h) (keeps_regPut h)

theorem keeps_accrueAt {vfs} (h : Keeps o s) : Keeps o (accrueAt kind vfs s unit) := h.same rfl

theorem keeps_accruePart (h : Keeps o s) : Keeps o (accruePart s p) :=
  keeps_foldl id (fun _ _ h => keeps_foldl id (fun _ _ h => keeps_accrueAt h) _ h) _ h

theorem keeps_accrueWalker (h : Keeps o s) : Keeps o (accrueWalker s stack) := by
  unfold accrueWalker
  exact h.ite (keeps_accrueAt h)

theorem keeps_accrueAll (h : Keeps o s) : Keeps o (accrueAll s) :=
  keeps_foldl id (fun _ _ h => keeps_accrueWalker h) _ (keeps_foldl id (fun _ _ h => keeps_accruePart h) _ h)

theorem keeps_arithCycle (h : Keeps o s) : Keeps o (arithCycle s) := by unfold arithCycle; exact h.update rfl (by simp)

theorem keeps_clock {c f a} (h : Keeps o s) : Keeps o { s with clock := c, fresh := f, aphase := a } := h.same rfl

theorem keeps_passCycle (h : Keeps o s) : Keeps o (passCycle s) := (keeps_arithCycle (keeps_clock h)).ite (keeps_clock h)

theorem keeps_retryPreempt (h : Keeps o s) : Keeps o (retryPreempt s) := keeps_foldl id (fun _ _ h => keeps_actPreempt h) _ h

theorem keeps_refills {l} (h : Keeps o s) : Keeps o { s with refills := l } := h.same rfl

theorem keeps_fillDue (h : Keeps o s) : Keeps o (fillDue s) := by
  refine keeps_foldl id (fun s r h => ?_) _ (keeps_refills h)
  dsimp only [id]
  split
  · exact h
  · exact keeps_fillBuckets h

theorem keeps_owed {l} (h : Keeps o s) : Keeps o { s with owed := l } := h.same rfl

theorem keeps_payOwed (h : Keeps o s) : Keeps o (payOwed s) := by
  refine keeps_owed (keeps_foldl Prod.fst (fun a e h => ?_) _ h)
  split
  · next hg => exact keeps_grant h hg
  · exact h

theorem keeps_execBucketAccrual (h : Keeps o s) : KeepsNext o (execBucketAccrual s) :=
  keeps_releaseTokens (keeps_payOwed (keeps_accrueAll (keeps_fillDue (keeps_retryPreempt (keeps_passCycle h)))))

theorem keeps_grantOne {r} (h : Keeps o s) : Keeps o (grantOne kind unit s r) := by
  unfold grantOne
  cases e : grant s kind unit r.vf r.tokens with
  | none => exact h
  | some t => exact keeps_grant h e

theorem keeps_execArbitrationRound {rs} (h : Keeps o s) : KeepsNext o (execArbitrationRound kind unit rs s) :=
  keeps_foldl id (fun _ _ h => keeps_grantOne h) _ h

theorem keeps_preemptAll {mine} (h : Keeps o s) : Keeps o (preemptAll s mine) :=
  keeps_foldl id (fun _ _ h => keeps_requestPreempt h) _ h

theorem keeps_execCellReclaim (h : Keeps o s) : KeepsNext o (execCellReclaim cell s) := by
  unfold execCellReclaim
  split
  · exact h
  · exact keepsNext_ite (keeps_preemptAll h) h

/-! ## Pre-emption and resuming -/

theorem keeps_execMarkOverdueCount (h : Keeps o s) : KeepsNext o (execMarkOverdueCount slot s) := by
  unfold execMarkOverdueCount
  split
  · exact h
  · exact keepsNext_ite (keeps_takeFault h) h

theorem keeps_execMarkOverdueHeld (h : Keeps o s) : KeepsNext o (execMarkOverdueHeld slot s) := by
  unfold execMarkOverdueHeld
  split
  · exact h
  · exact keepsNext_ite (keeps_takeFault h) h

theorem keeps_execSliceExpiry (h : Keeps o s) : KeepsNext o (execSliceExpiry wg s) := by
  unfold execSliceExpiry
  split
  · exact h
  · split
    · exact h
    · exact keepsNext_ite (keeps_requestPreempt h) h

theorem keeps_execPreemptVf (h : Keeps o s) : KeepsNext o (execPreemptVf vf s) := keeps_preemptAll h

theorem keeps_execPreemptPartition (h : Keeps o s) : KeepsNext o (execPreemptPartition part s) := by
  unfold execPreemptPartition
  split
  · exact h
  · exact keeps_preemptAll h

theorem keeps_saveLine {pa} (h : Keeps o s) : Keeps o (saveLine p vf wg rlc s pa) := by
  unfold saveLine
  exact (keeps_l2Lock h).ite h

theorem keeps_saveLines {l : List Nat} (h : Keeps o s) : Keeps o (l.foldl (saveLine p vf wg rlc) s) :=
  keeps_foldl id (f := saveLine p vf wg rlc) (fun _ _ h => keeps_saveLine h) l h

theorem keeps_saveInto (h : Keeps o s) : Keeps o (saveInto p vf wg rlc s k) := by
  have hb : Keeps o (freeBytes s 65536).2 := keeps_freeBytes h
  unfold saveInto
  generalize freeBytes s 65536 = b at hb
  exact Keeps.ite ((keeps_saveLines (keeps_paStore hb)).ite h) (keeps_hostPut hb)

theorem keeps_saveShelves (h : Keeps o s) : Keeps o (saveShelves s wg w) := by
  unfold saveShelves
  split
  · exact h
  · exact keeps_foldl id (fun _ _ h => keeps_saveInto h) _ h

theorem keeps_execSaveComplete (h : Keeps o s) : KeepsNext o (execSaveComplete wg s) := by
  unfold execSaveComplete
  split
  · exact h
  · refine keepsNext_ite h ?_
    exact (keeps_saveShelves h).update rfl (by simp)

theorem keeps_restoreShared {x} (h : Keeps o s) : Keeps o (restoreShared s cell x) :=
  keeps_rings (keeps_foldl id (fun _ _ h => keeps_spadWrite h) _ (keeps_foldl id (fun _ _ h => keeps_spadWrite h) _ h))

theorem keeps_reissueCopies {l} (h : Keeps o s) : Keeps o (reissueCopies s slot cell l) := by
  induction l generalizing s with
  | nil => exact h
  | cons c r ih => exact ih (keeps_startCopy h)

theorem keeps_restoreGang {nd e} (h : Keeps o s) : Keeps o (restoreGang l nd w wg s e) := by
  unfold restoreGang
  dsimp only
  split
  · exact keeps_setGang h
  · exact keeps_slotRestored (keeps_setGang (keeps_setUnit h))

theorem keeps_restoreWindow {l} (h : Keeps o s) : Keeps o (restoreWindow s cell l) :=
  keeps_foldl id (fun _ _ h => keeps_spadWrite h) _ h

theorem keeps_execWorkgroupResume {slots} (h : Keeps o s) : KeepsNext o (execWorkgroupResume wg cell slots s) := by
  unfold execWorkgroupResume
  split
  · exact h
  · split
    · exact h
    · split
      · exact h
      · refine keepsNext_ite ?_ h
        refine keeps_foldl id (fun _ _ h => keeps_restoreGang h) _ (keeps_foldl id (fun _ _ h => keeps_reissueCopies h) _ ?_)
        refine keeps_foldl id (fun _ _ h => keeps_restoreShared h) _ (keeps_restoreWindow (keeps_takeWindowSlots ?_))
        exact keeps_workgroups h (sortKept_mapSet _ _ sortKept_refl)

/-! ## Hangs and links -/

theorem keeps_execHangRuntime (h : Keeps o s) : KeepsNext o (execHangRuntime vf lslot s) := by
  unfold execHangRuntime
  dsimp only
  split
  · exact keepsNext_ite (keeps_partitionReset h) h
  · exact h

theorem keeps_execHangUnitTimeout (h : Keeps o s) : KeepsNext o (execHangUnitTimeout part s) := keeps_partitionReset h

theorem keeps_links {m} (h : Keeps o s) : Keeps o { s with links := m } := h.same rfl

theorem keeps_setLink {st peer} (h : Keeps o s) : Keeps o (setLink s link st peer) := keeps_notify (keeps_links h)

theorem keeps_loseAccess {m late addr} (h : Keeps o s) : Keeps o (loseAccess s slot m late addr) := by
  unfold loseAccess
  dsimp only
  split
  · exact keeps_putLate (keeps_free h)
  · exact keeps_takeFault (keeps_putLate (keeps_free h))

theorem keeps_loseOp {e} (h : Keeps o s) : Keeps o (loseOp link s e) := keeps_unitFails h

theorem keeps_loseLink {peer} (h : Keeps o s) : Keeps o (loseLink s link peer) := by
  have ht := keeps_setLink (link := link) (st := .failed) (peer := peer) h
  unfold loseLink
  dsimp only
  split
  · exact keeps_loseAccess ht
  · split
    · exact keeps_partitionReset ht
    · exact keeps_foldl id (fun _ _ h => keeps_loseOp h) _ (keeps_free (keeps_foldl id (fun _ _ h => keeps_failCopy h) _ ht))

theorem keeps_execLinkFailure (h : Keeps o s) : KeepsNext o (execLinkFailure link s) := keeps_loseLink h

/-! ## Errors, poison, temperature and watch events -/

theorem keeps_quietEntry {detail} (h : Keeps o s) : Keeps o (quietEntry s kind detail part) := keeps_logAppend (keeps_free h)

theorem keeps_execSramUncorrectable {part : Option Nat} {die detail : Nat} (h : Keeps o s) :
    KeepsNext o (execSramUncorrectable part die detail s) := by
  unfold execSramUncorrectable
  refine keepsNext_ite ?_ h
  cases part with
  | some p => exact keeps_partitionReset (keeps_healthAdd h)
  | none => exact keeps_resetAll (keeps_healthAdd h)

theorem keeps_execSoftErrorCorrected {die} (h : Keeps o s) : KeepsNext o (execSoftErrorCorrected die kind s) :=
  keepsNext_ite (keeps_healthAdd h) h

theorem keeps_repaired {l} (h : Keeps o s) : Keeps o { s with repaired := l } := h.same rfl

theorem keeps_execL2LineRepair {line} (h : Keeps o s) : KeepsNext o (execL2LineRepair line s) := by
  unfold execL2LineRepair
  split
  · exact h
  · have hk : Keeps o (healthAdd { s with l2 := mapErase s.l2 line } (healthUncorrected (line / 2 ^ 36 / 16) 2)) :=
      keeps_healthAdd (keeps_l2 h)
    refine keepsNext_ite h (keepsNext_ite hk ?_)
    dsimp only
    split
    · exact keeps_repaired hk
    · exact keeps_quietEntry (keeps_repaired hk)

theorem keeps_quarantined {a b} (h : Keeps o s) : Keeps o { s with quarantinedPages := a, quarantined := b } := h.same rfl

theorem keeps_quarantine {l} (h : Keeps o s) : Keeps o { s with quarantine := l } := h.same rfl

theorem keeps_quarantinePage {page} (h : Keeps o s) : Keeps o (quarantinePage s part page) := by
  unfold quarantinePage
  exact h.ite ((keeps_quarantined h).ite (keeps_quarantine (keeps_quarantined h)))

theorem keeps_poison {l} (h : Keeps o s) : Keeps o { s with poison := l } := h.same rfl

theorem keeps_execLinePoison {line} (h : Keeps o s) : KeepsNext o (execLinePoison line s) := by
  unfold execLinePoison
  refine keepsNext_ite h ?_
  dsimp only
  split
  · exact keeps_poison h
  · exact keeps_quarantinePage (keeps_quietEntry (keeps_poison h))

theorem keeps_trip {b} (h : Keeps o s) : Keeps o { s with trip := b } := h.same rfl

theorem keeps_execThermalTrip (h : Keeps o s) : KeepsNext o (execThermalTrip s) :=
  keepsNext_ite (keeps_trip (keeps_resetAll h)) h

theorem keeps_execThermalTripRelease (h : Keeps o s) : KeepsNext o (execThermalTripRelease s) :=
  keepsNext_ite h (keeps_trip h)

theorem keeps_sense {r} (h : Keeps o s) : Keeps o (sense s r) := h.same rfl

theorem keeps_freq {n} (h : Keeps o s) : Keeps o { s with freq := n } := h.same rfl

theorem keeps_execThrottleChange {r} (h : Keeps o s) : KeepsNext o (execThrottleChange r s) :=
  keepsNext_ite (keepsNext_ite (keeps_notify (keeps_freq (keeps_sense h))) (keeps_sense h)) h

theorem keeps_watchList {l} (h : Keeps o s) : Keeps o { s with watch := l } := h.same rfl

theorem keeps_execWatchEventWrite (h : Keeps o s) : KeepsNext o (execWatchEventWrite s) := by
  unfold execWatchEventWrite
  split
  · exact h
  · exact keeps_writeWatch (keeps_watchList h)

theorem keeps_execWeqstatClear (h : Keeps o s) : KeepsNext o (execWeqstatClear vf s) := keeps_regPut h

theorem keeps_execPlateFire (h : Keeps o s) : KeepsNext o (execPlateFire s) := keeps_plateTrigger h

/-! ## Other packages -/

theorem keeps_answerRecord {accepted} (h : Keeps o s) : Keeps o (answerRecord s link chip accepted) := keeps_outbox h

theorem keeps_execRemoteRecordArrival {source tag words} (h : Keeps o s) :
    KeepsNext o (execRemoteRecordArrival link source tag words s) := by
  unfold execRemoteRecordArrival
  split
  · exact keeps_answerRecord h
  · refine keepsNext_ite (keeps_answerRecord h) ?_
    split
    · next e => exact (keeps_inboxAccept h).along e
    · next e => exact keeps_answerRecord ((keeps_inboxAccept h).along e)
    · next e => exact (keeps_inboxAccept h).along e

theorem keeps_acknowledge {r} (h : Keeps o s) : Keeps o (acknowledge s r) := by
  unfold acknowledge
  split
  · exact keeps_freeWindow h
  · exact keeps_answerRecord h

theorem keeps_spoilWords {words} (h : Keeps o s) : Keeps o (spoilWords s words).2 := keeps_freeWords h

theorem keeps_execInboxTransfer {index} (h : Keeps o s) : KeepsNext o (execInboxTransfer vf lslot index s) := by
  unfold execInboxTransfer
  dsimp only
  split
  · exact h
  · split
    · exact h
    · refine keepsNext_ite h ?_
      split
      · next e => exact (keeps_inboxRead h).along e
      · next e => exact keeps_schedFails ((keeps_inboxRead h).along e)
      · next e =>
        have hr := (keeps_inboxRead h).along e
        have hw : ∀ (c : Prop) [Decidable c] (ws : List Word), Keeps o (if c then (ws, _) else spoilWords _ ws).2 :=
          fun c _ ws => keeps_ite Prod.snd hr (keeps_spoilWords hr)
        split
        · exact hr
        · next e => exact (keeps_placeRecord (hw _ _)).along e
        · next e => exact keeps_acknowledge (keeps_onLaunch ((keeps_placeRecord (hw _ _)).along e))

theorem keeps_execRemoteAck {accepted} (h : Keeps o s) : KeepsNext o (execRemoteAck vf lslot chip accepted s) := by
  unfold execRemoteAck
  exact keepsNext_ite (keeps_freeWindow (keeps_sends h)) <| keepsNext_ite (keeps_sends h) <|
    keepsNext_ite (keeps_freeWindow (keeps_sends h)) (keeps_freeWindow (keeps_sends h))

@[simp, inherit_doc Missed.after]
def RemoteAt.after (s : State) : RemoteAt → State
  | .wait => s
  | .fail s | .ok _ s => s

variable {acc : Access}

theorem keeps_remotePage {va} (h : Keeps o s) : Keeps o (remotePage s vf va acc).2 := by
  unfold remotePage
  refine keeps_ite Prod.snd h ?_
  dsimp only
  split
  · exact keeps_cacheWalk h
  · exact keeps_cacheWalk h

theorem keeps_remoteParts {l out} (h : Keeps o s) : Keeps o (remoteParts s vf acc l out).2 := by
  induction l generalizing s out with
  | nil => exact h
  | cons e r ih =>
    unfold remoteParts
    split
    · next e => exact (keeps_remotePage h).along e
    · next e => exact ih ((keeps_remotePage h).along e)

theorem keeps_remoteBytes {va} (h : Keeps o s) : Keeps o ((remoteBytes s vf va n acc).after s) := by
  unfold remoteBytes
  refine keeps_ite (RemoteAt.after s) h ?_
  split
  · next e => exact (keeps_remoteParts h).along e
  · next e => exact (keeps_remoteParts h).along e

theorem keeps_touchHome {pas store} (h : Keeps o s) : Keeps o (touchHome s vf p pas store) := keeps_touchIn h

theorem keeps_uncharged (h : Keeps o t) : Keeps o (uncharged s t) := h.same rfl

theorem keeps_serveRemote {a pas} (h : Keeps o s) : Keeps o (serveRemote s vf p a pas).1 := by
  unfold serveRemote
  split
  · exact keeps_touchHome (keeps_locusRead h)
  · exact keeps_touchHome (keeps_locusWrite h)
  · dsimp only
    split
    · exact keeps_touchHome (keeps_locusWrite (keeps_locusRead h))
    · exact keeps_watchList (keeps_touchHome (keeps_locusWrite (keeps_locusRead h)))

theorem keeps_answerAccess {source ok poison data} (h : Keeps o s) : Keeps o (answerAccess s link source ok poison data) :=
  keeps_outbox h

theorem keeps_execRemoteAccessArrival {a} (h : Keeps o s) : KeepsNext o (execRemoteAccessArrival a s) := by
  unfold execRemoteAccessArrival
  dsimp only
  split
  · exact keeps_answerAccess h
  · refine keepsNext_ite (keeps_answerAccess h) ?_
    split
    · exact keeps_answerAccess h
    · refine keepsNext_ite (keeps_answerAccess h) ?_
      split
      · exact h
      · next e => exact keeps_answerAccess (keeps_uncharged ((keeps_remoteBytes h).along e))
      · next e => exact keeps_answerAccess (keeps_uncharged (keeps_serveRemote ((keeps_remoteBytes h).along e)))

theorem keeps_execUetWriteArrival {port tenant va bytes} (h : Keeps o s) :
    KeepsNext o (execUetWriteArrival port tenant va bytes s) := by
  unfold execUetWriteArrival
  dsimp only
  split
  · exact keeps_answerAccess h
  · refine keepsNext_ite (keeps_answerAccess h) ?_
    split
    · exact keeps_answerAccess h
    · refine keepsNext_ite (keeps_answerAccess h) ?_
      split
      · exact h
      · next e => exact keeps_answerAccess (keeps_uncharged ((keeps_remoteBytes h).along e))
      · next e => exact keeps_answerAccess (keeps_uncharged (keeps_touchHome (keeps_locusWrite ((keeps_remoteBytes h).along e))))

end

end Sys2Proof.Machine
end

section
namespace Sys2Proof.Machine

/-! ## What the host does -/

section
variable {o s t : State} {p : Partition} {op : BarOp} {scope : DrainScope} {vf q k n page off size addr stack link target : Nat}

theorem keeps_writeQring {v} (h : Keeps o s) : Keeps o (writeQring s vf q v) := by
  unfold writeQring
  dsimp only
  split
  · exact h
  · exact keeps_setQueue h
  · exact keeps_setQueue h
  · exact h.ite (keeps_setQueue h)

theorem keeps_execQringEnable {v} (h : Keeps o s) : KeepsNext o (execQringEnable vf q v s) :=
  keepsNext_ite (keeps_writeQring h) h

theorem keeps_execQringDisable {v} (h : Keeps o s) : KeepsNext o (execQringDisable vf q v s) :=
  keepsNext_ite h (keeps_writeQring h)

theorem keeps_execQueueResume (h : Keeps o s) : KeepsNext o (execQueueResume vf q s) := keeps_retireAll (keeps_setQueue h)

theorem keeps_events {e} (h : Keeps o s) : Keeps o { s with events := e } := h.same rfl

theorem keeps_execEventSet {v} (h : Keeps o s) : KeepsNext o (execEventSet vf n v s) := keeps_events h

theorem keeps_execEventClear {v} (h : Keeps o s) : KeepsNext o (execEventClear vf n v s) := keeps_events h

theorem keeps_putDrain {d} (h : Keeps o s) : Keeps o (putDrain s scope target d) := by
  cases scope <;> exact h.same rfl

theorem keeps_takePolicy (h : Keeps o s) : Keeps o (takePolicy s vf) := h.same rfl

theorem keeps_settlePolicies {vfs} (h : Keeps o t) : Keeps o (settlePolicies s t vfs) :=
  keeps_foldl id (fun _ _ h => keeps_takePolicy h) _ h

theorem keeps_execDrainReturn (h : Keeps o s) : KeepsNext o (execDrainReturn scope target s) :=
  keeps_settlePolicies (keeps_putDrain h)

theorem keeps_execDrainComplete (h : Keeps o s) : KeepsNext o (execDrainComplete scope target s) :=
  keepsNext_ite h (keeps_settlePolicies (keeps_putDrain h))

theorem keeps_execDrainEnter (h : Keeps o s) : KeepsNext o (execDrainEnter scope target s) :=
  keepsNext_ite (keeps_putDrain h) (keeps_settlePolicies (keeps_putDrain h))

theorem keeps_apertureAt {r w} (h : Keeps o s) : Keeps o (apertureAt s vf p r w addr).2 := by
  unfold apertureAt
  refine keeps_ite Prod.snd h ?_
  dsimp only
  split
  · exact keeps_cacheWalk (keeps_charge h)
  · exact keeps_cacheWalk (keeps_charge h)

theorem keeps_apertureParts {r w l out} (h : Keeps o s) : Keeps o (apertureParts s vf p r w l out).2 := by
  induction l generalizing s out with
  | nil => exact h
  | cons e l ih =>
    unfold apertureParts
    split
    · next e => exact (keeps_apertureAt h).along e
    · next e => exact ih ((keeps_apertureAt h).along e)

theorem keeps_answerBar {f data} (h : Keeps o s) : Keeps o (answerBar s f data) := keeps_outbox h

theorem keeps_missBar {f data} (h : Keeps o s) : Keeps o (missBar s f op data) := (keeps_answerBar h).ite h

theorem keeps_failBar (h : Keeps o s) : Keeps o (failBar s vf size op) := keeps_missBar (keeps_healthAdd h)

theorem keeps_serveBar {f pas} (h : Keeps o s) : Keeps o (serveBar s vf f p pas op) := by
  unfold serveBar
  split
  · exact keeps_touchHome (keeps_locusWrite h)
  · exact keeps_answerBar (keeps_touchHome (keeps_locusRead h))
  · exact keeps_answerBar (keeps_touchHome (keeps_locusWrite (keeps_locusRead h)))

theorem keeps_execBar2Access (h : Keeps o s) : KeepsNext o (execBar2Access vf addr size op s) := by
  unfold execBar2Access
  split
  · exact keeps_failBar h
  · refine keepsNext_ite (keeps_failBar h) (keepsNext_ite h ?_)
    split
    · next e => exact keeps_failBar ((keeps_apertureParts h).along e)
    · next e => exact keeps_serveBar ((keeps_apertureParts h).along e)

theorem keeps_untouched {a b c d} (h : Keeps o s) : Keeps o { s with l2 := a, buckets := b, pools := c, owed := d } := h.same rfl

theorem keeps_execPfBar2Access (h : Keeps o s) : KeepsNext o (execPfBar2Access addr size op s) := by
  unfold execPfBar2Access
  dsimp only
  split
  · exact keepsNext_ite (keeps_untouched (keeps_serveBar h)) (keeps_missBar (keeps_freeBytes h))
  · exact keeps_missBar (keeps_freeBytes h)

theorem keeps_survey {a b} (h : Keeps o s) : Keeps o { s with survey := a, surveyGen := b } := h.same rfl

theorem keeps_execSurveyRefresh (h : Keeps o s) : KeepsNext o (execSurveyRefresh page s) :=
  keepsNext_ite h (keeps_survey h)

theorem keeps_execLinkStateChange {st peer} (h : Keeps o s) : KeepsNext o (execLinkStateChange link st peer s) :=
  keepsNext_ite (keeps_loseLink h) (keeps_setLink h)

theorem keeps_blockFour (h : Keeps o s) : Keeps o (blockFour s n).2 := by
  unfold blockFour
  split
  · exact h
  · exact keeps_free h

theorem keeps_execSpdmRequest {block} (h : Keeps o s) : KeepsNext o (execSpdmRequest n block s) := by
  unfold execSpdmRequest
  refine keepsNext_ite h ?_
  split
  · exact keeps_outbox h
  · exact keeps_outbox h
  · exact keeps_outbox h
  · exact keeps_outbox (keeps_blockFour h)
  · exact h

theorem keeps_staged {m} (h : Keeps o s) : Keeps o { s with staged := m } := h.same rfl

theorem keeps_execManifestUpdate {m} (h : Keeps o s) : KeepsNext o (execManifestUpdate m s) := keeps_staged h

theorem keeps_zeroStack (h : Keeps o s) : Keeps o (zeroStack s stack) := by unfold zeroStack; exact h.update rfl (by simp)

theorem keeps_ready {a b c} (h : Keeps o s) : Keeps o { s with ready := a, bringup := b, freq := c } := h.same rfl

theorem keeps_execStackGroupReady (h : Keeps o s) : KeepsNext o (execStackGroupReady stack s) :=
  keepsNext_ite ((keeps_notify (keeps_ready (keeps_zeroStack h))).ite (keeps_ready (keeps_zeroStack h))) h

theorem keeps_maskedPut {mask v} (h : Keeps o s) : Keeps o (maskedPut s k mask v) := keeps_regPut h

theorem keeps_writeQueuePage {v} (h : Keeps o s) : Keeps o (writeQueuePage s vf q off v) :=
  (keeps_writeQring h).ite ((keeps_setQueue h).ite h)

theorem keeps_tlbErr {l} (h : Keeps o s) : Keeps o { s with tlbErr := l } := h.same rfl

theorem keeps_writeVf {v} (h : Keeps o s) : Keeps o (writeVf s vf off v) :=
  (keeps_maskedPut h).ite <| ((keeps_tlbErr h).ite h).ite <| (keeps_maskedPut h).ite <| (keeps_maskedPut h).ite <|
    (keeps_maskedPut h).ite <| (keeps_maskedPut h).ite <| (keeps_writeQueuePage h).ite h

theorem keeps_clamped {l} (h : Keeps o s) : Keeps o { s with clamped := l } := h.same rfl

theorem keeps_writePage {v} (h : Keeps o s) : Keeps o (writePage s vf off v) :=
  (keeps_writeVf h).ite <| ((keeps_clamped h).ite h).ite <| (keeps_maskedPut h).ite <| (keeps_maskedPut h).ite <|
    (keeps_maskedPut h).ite <| (keeps_writeVf h).ite h

theorem keeps_writePf {v} (h : Keeps o s) : Keeps o (writePf s off v) :=
  (keeps_maskedPut h).ite <| ((keeps_plateTrigger (keeps_maskedPut h)).ite (keeps_maskedPut h)).ite <|
    ((keeps_partResult h).ite h).ite <| (keeps_maskedPut h).ite <| (keeps_maskedPut h).ite <| (keeps_writePage h).ite h

theorem keeps_execRegisterWrite {f v} (h : Keeps o s) : KeepsNext o (execRegisterWrite f off v s) := by
  cases f with
  | none => exact keeps_writePf h
  | some vf => exact keepsNext_ite (keeps_writeVf h) h

end

/-! ## Translation events -/

section
variable {o s : State} {m : Miss} {a : AtsMiss} {vf k n page stack : Nat}

theorem keeps_wake {l} (h : Keeps o s) : Keeps o (wake s l) :=
  keeps_foldl id (fun _ _ h => keeps_retireAll h) _ (keeps_agenda h)

theorem keeps_misses {l} (h : Keeps o s) (hl : SortKept o.misses l) : Keeps o { s with misses := l } :=
  { h with misses := hl }

theorem keeps_setMiss {m} (h : Keeps o s) : Keeps o { s with misses := mapSet s.misses k m } :=
  keeps_misses h (sortKept_mapSet _ _ h.misses)

theorem keeps_startWalk {e} (h : Keeps o s) : Keeps o (startWalk s stack e) := by
  unfold startWalk
  split
  · exact h
  · next hg =>
    have ht := keeps_grant h hg
    exact keeps_misses (keeps_cacheWalk ht) (sortKept_mapSet _ _ ht.misses)

theorem keeps_execTranslationWalk (h : Keeps o s) : KeepsNext o (execTranslationWalk k s) := by
  unfold execTranslationWalk
  split
  · exact h
  · refine keepsNext_ite h ?_
    split
    · exact h
    · exact keeps_startWalk h

theorem keeps_eraseMiss {c : Prop} [Decidable c] (h : Keeps o s) :
    Keeps o { s with misses := if c then mapErase s.misses k else mapSet s.misses k m } :=
  keeps_misses h (sortKept_ite (sortKept_mapErase _ h.misses) (sortKept_mapSet _ _ h.misses))

theorem keeps_failMiss {r} (h : Keeps o s) : Keeps o (failMiss s k m r) := keeps_wake (keeps_eraseMiss h)

theorem keeps_fillCells {e l} (h : Keeps o s) : Keeps o (fillCells e l s) := keeps_foldl id (fun _ _ h => keeps_fillTlb h) _ h

theorem keeps_servedMiss (h : Keeps o s) : Keeps o (servedMiss s k m) := keeps_eraseMiss h

theorem keeps_endWalk (h : Keeps o s) : Keeps o (endWalk s k m) := by
  unfold endWalk
  split
  · exact keeps_wake (keeps_fillCells (keeps_servedMiss h))
  · split
    · exact keeps_failMiss h
    · refine Keeps.ite (keeps_failMiss h) ?_
      split
      · exact keeps_failMiss h
      · exact keeps_setMiss h
      · next e => exact keeps_wake (keeps_setMiss ((keeps_postRequest h).along e))

theorem keeps_tlbBusy {b} (h : Keeps o s) : Keeps o { s with tlbBusy := b } := h.same rfl

theorem keeps_execWalkComplete (h : Keeps o s) : KeepsNext o (execWalkComplete k s) := by
  unfold execWalkComplete
  split
  · exact h
  · exact keepsNext_ite h (keepsNext_ite (keeps_setMiss (keeps_tlbBusy h)) (keeps_endWalk (keeps_tlbBusy h)))

theorem keeps_replyMiss {failed e} (h : Keeps o s) : Keeps o (replyMiss failed vf n s e) := by
  unfold replyMiss
  exact ((keeps_failMiss h).ite (keeps_setMiss h)).ite h

theorem keeps_requests {l} (h : Keeps o s) : Keeps o { s with requests := l } := h.same rfl

theorem keeps_execPrreply {v} (h : Keeps o s) : KeepsNext o (execPrreply v s) :=
  keepsNext_ite (keeps_foldl id (fun _ _ h => keeps_replyMiss h) _ (keeps_requests h)) (keeps_healthAdd h)

theorem keeps_atsPut {b} (h : Keeps o s) : Keeps o (atsPut s a b) := h.same rfl

theorem keeps_priNext (h : Keeps o s) : Keeps o (priNext s vf) := by
  unfold priNext
  split
  · exact h
  · exact Keeps.ite (keeps_outbox (keeps_atsPut h)) h

theorem keeps_atsMisses {l} (h : Keeps o s) : Keeps o { s with atsMisses := l } := h.same rfl

theorem keeps_atsDeny {pri} (h : Keeps o s) : Keeps o (atsDeny s a pri) := by
  unfold atsDeny
  exact (keeps_priNext (keeps_atsPut h)).ite (keeps_wake ((keeps_atsMisses h).ite (keeps_atsPut h)))

theorem keeps_execAtsCompletion {answer} (h : Keeps o s) : KeepsNext o (execAtsCompletion vf page answer s) := by
  unfold execAtsCompletion
  split
  · exact h
  · split
    · have hf := fun e (l : List Nat) => keeps_foldl id (f := fillAts e) (fun _ _ h => keeps_fillAts h) l h
      exact keepsNext_ite (keeps_wake (keeps_atsDeny (hf _ _))) (keeps_wake (keeps_atsMisses (hf _ _)))
    · exact keeps_atsDeny h
    · exact keeps_atsDeny h

theorem keeps_atsDropped {a b} (h : Keeps o s) : Keeps o { s with ats := a, outbox := b } := h.same rfl

theorem keeps_execAtsInvalidateRequest (h : Keeps o s) : KeepsNext o (execAtsInvalidateRequest vf page n s) :=
  keeps_atsDropped h

theorem keeps_execPriResponse {success} (h : Keeps o s) : KeepsNext o (execPriResponse vf page success s) := by
  unfold execPriResponse
  split
  · exact h
  · exact keepsNext_ite (keeps_priNext (keeps_outbox (keeps_atsPut h))) (keeps_priNext (keeps_atsDeny h))

theorem keeps_tlbinv {allowed gone} (h : Keeps o s) : Keeps o (tlbinv s vf allowed gone) := by
  unfold tlbinv
  exact (keeps_tlbErr h).ite (h.update rfl (by simp))

theorem keeps_execTlbinvComplete (h : Keeps o s) : KeepsNext o (execTlbinvComplete vf s) := by
  unfold execTlbinvComplete
  split
  · exact keeps_tlbBusy h
  · exact h

theorem keeps_execPrqbaseWrite {v} (h : Keeps o s) : KeepsNext o (execPrqbaseWrite vf v s) := keepsNext_ite h (keeps_regPut h)

end

end Sys2Proof.Machine
end

section
namespace Sys2Proof.Machine
open Sys2Proof.Claims

/-! ## Every instruction and every event -/

/-- The rows that change the partitions: the partition commands (R356) and the cold reset (R408). -/
def SetsPartitions : Instr → Prop
  | .partcmdDefine _ | .partcmdDelete _ | .coldReset => True
  | _ => False

section
variable {o s t : State} {i : Instr} {part : Nat}

/-- Each row goes on to the operation whose lemma stands above; rows that share an operation stand together. -/
theorem keeps_exec (h : Keeps o s) (hi : ¬ SetsPartitions i) : KeepsNext o (exec i s) := by
  unfold exec
  cases i with
  | smov _ | snot _ | sclz _ | spopc _ | sbfx _ => exact keeps_uniUnary h
  | smovi _ | ssel _ | sbfi _ | emget _ | rdsr _ => exact keeps_issueUniform h fun _ => keeps_uniformResult h
  | sadd _ | ssub _ | smul _ | smulh _ | sand _ | sor _ | sxor _ | sshl _ | sshr _ | ssar _ | smin _ | smax _ =>
    exact keeps_uniBinary h
  | sdiv _ | srem _ => exact keeps_uniDivide h
  | scmp _ => exact keeps_issueUniform h fun _ => keeps_condResult h
  | imov _ | imovShort _ | inot _ | inotShort _ | iclz _ | iclzShort _ | ipopc _ | ipopcShort _ | ibfx _ | iabs _
  | iabsShort _ | ineg _ | inegShort _ => exact keeps_laneUnary h
  | imovi _ | imoviShort _ => exact keeps_laneConst h
  | iadd _ | iaddShort _ | isub _ | isubShort _ | imul _ | imulShort _ | imulh _ | iand _ | iandShort _ | ior _
  | iorShort _ | ixor _ | ixorShort _ | ishl _ | ishlShort _ | ishr _ | ishrShort _ | isar _ | isarShort _ | imin _
  | iminShort _ | imax _ | imaxShort _ | irot _ => exact keeps_laneBinary h
  | idiv _ | irem _ => exact keeps_laneDivide h
  | icmp _ | pset _ => exact keeps_issueLane h fun _ _ => keeps_predResult h
  | isel _ | ibfi _ | imad _ | ptoi _ | fclass _ => exact keeps_issueLane h fun _ _ => keeps_laneResult h
  | sfrom _ => exact keeps_issueLane h fun _ _ => keeps_uniformResult h
  | pmov _ | pnot _ => exact keeps_predUnary h
  | pand _ | por _ | pxor _ | pdec _ => exact keeps_predBinary h
  | vote _ => exact keeps_execVote h
  | bra _ | braShort _ => exact keeps_branch h
  | brv _ => exact keeps_execBrv h
  | jmpi _ | ret _ | nop _ | nopShort _ => exact keeps_issueUniform h fun _ => h
  | call _ => exact keeps_execCall h
  | sloop _ => exact keeps_execSloop h
  | rcv _ | rcvShort _ => exact keeps_reconverge h
  | exit _ | exitShort _ => exact keeps_exitThreads h
  | quit _ | quitShort _ => exact keeps_issueUniform h fun _ => keeps_quitGang h
  | emset _ | wrsr _ => exact keeps_issueUniform h fun _ => keeps_gangResult h
  | fmov _ | fmovShort _ => exact keeps_floatMove h
  | fadd _ | faddShort _ => exact keeps_floatAdd h
  | fsub _ | fsubShort _ => exact keeps_floatSub h
  | fmul _ | fmulShort _ => exact keeps_floatMul h
  | ffma _ => exact keeps_execFfma h
  | fdiv _ => exact keeps_arith2 h
  | fsqrt _ | frnd _ | fexp2 _ | flog2 _ | frcpa _ => exact keeps_arith1 h
  | fmin _ | fminShort _ | fmax _ | fmaxShort _ => exact keeps_floatPick h
  | fabs _ | fabsShort _ => exact keeps_floatAbs h
  | fneg _ | fnegShort _ => exact keeps_floatNeg h
  | fcmp _ | fcmpIv _ | ivin _ | ivchk _ => exact keeps_issueLane h fun _ _ => keeps_orTrap h (keeps_predResult h)
  | fscale _ => exact keeps_issueLane h fun _ _ => keeps_orTrap h (keeps_flaggedResult h)
  | fmovIv _ => exact keeps_issueLane h fun _ _ => keeps_ivResult h
  | faddIv _ | fsubIv _ | fmulIv _ | fdivIv _ | fminIv _ | fmaxIv _ | ivhull _ => exact keeps_ivOp2 h
  | ffmaIv _ | ivmk _ => exact keeps_issueLane h fun _ _ => keeps_orTrap h (keeps_ivResult h)
  | fsqrtIv _ | fabsIv _ | fnegIv _ => exact keeps_ivOp1 h
  | ivlo _ | ivhi _ | ivmid _ | ivwid _ => exact keeps_ivQuery h
  | ivmeet _ => exact keeps_execIvmeet h
  | ivsplit _ | bxpk _ => exact keeps_issueLane h fun _ _ => keeps_orTrap h (keeps_setGang h)
  | bisect _ => exact keeps_execBisect h
  | cvt _ => exact keeps_execCvt h
  | bxupk _ | shfx _ | rebal _ => exact keeps_issueLane h fun _ _ => keeps_setGang h
  | ldt _ => exact keeps_execLdt h
  | stt _ => exact keeps_execStt h
  | ldu _ => exact keeps_execLdu h
  | stu _ => exact keeps_execStu h
  | line _ => exact keeps_execLine h
  | gath _ => exact keeps_execGath h
  | scat _ => exact keeps_execScat h
  | pref _ => exact keeps_execPref h
  | cflush _ | cinv _ => exact keeps_cacheOp h
  | tdset _ => exact keeps_execTdset h
  | tdget _ => exact keeps_execTdget h
  | tdinv _ => exact keeps_execTdinv h
  | atomAdd _ | atomMin _ | atomMax _ | atomAnd _ | atomOr _ | atomXor _ | atomExch _ => exact keeps_atom h
  | acas _ => exact keeps_execAcas h
  | fence _ => exact keeps_execFence h
  | wait _ => exact keeps_execWait h
  | mlds _ => exact keeps_execMlds h
  | mswap _ | mswapShort _ => exact keeps_swapPlanes h
  | maccz _ | macc _ | vacczSign _ | vacczGt _ | vacczTopk _ | vaccSign _ | vaccGt _ | vaccTopk _ =>
    exact keeps_accumulating h
  | mdrn _ => exact keeps_execMdrn h
  | msto _ => exact keeps_execMsto h
  | mrd _ => exact keeps_execMrd h
  | mfence _ | mfenceShort _ => exact keeps_closeBatch h
  | mrel _ => exact keeps_execMrel h
  | vtest _ => exact keeps_execVtest h
  | tkins _ => exact keeps_execTkins h
  | cpy _ | cpym _ => exact keeps_copyIssue h
  | binit _ => exact keeps_execBinit h
  | bexp _ => exact keeps_execBexp h
  | barv _ => exact keeps_execBarv h
  | bwait _ => exact keeps_execBwait h
  | btry _ => exact keeps_execBtry h
  | rresInit _ | rres _ => exact keeps_reserveRing h
  | rcmt _ | rrel _ => exact keeps_moveSlot h
  | racq _ => exact keeps_execRacq h
  | gbar _ | gbarShort _ => exact keeps_gangBarrier h
  | emit _ => exact keeps_execEmit h
  | emith _ => exact keeps_execEmith h
  | emitr _ => exact keeps_execEmitr h
  | jinit _ => exact keeps_execJinit h
  | jarr _ => exact keeps_execJarr h
  | fbm _ | fbmShort _ => exact keeps_flashback h
  | trap _ | trapShort _ => exact keeps_softTrap h
  | tret _ | tretShort _ => exact keeps_trapReturn h
  | plate _ | plateShort _ => exact keeps_plate h
  | brk _ | brkShort _ => exact keeps_breakpoint h
  | rcvTimeout _ => exact keeps_execRcvTimeout h
  | loadComplete _ => exact keeps_execLoadComplete h
  | storeComplete _ => exact keeps_execStoreComplete h
  | matrixOpComplete _ _ => exact keeps_execMatrixOpComplete h
  | markOverdueCount _ => exact keeps_execMarkOverdueCount h
  | markOverdueHeld _ => exact keeps_execMarkOverdueHeld h
  | copyComplete _ => exact keeps_execCopyComplete h
  | copyFault _ _ _ => exact keeps_execCopyFault h
  | barrierRootArrival => exact keeps_execBarrierRootArrival h
  | barrierBroadcast _ => exact keeps_execBarrierBroadcast h
  | barrierOverrun _ => exact keeps_execBarrierOverrun h
  | doorbell _ _ _ => exact keeps_execDoorbell h
  | launchStart _ => exact keeps_execLaunchStart h
  | entryEnqueue _ _ => exact keeps_execEntryEnqueue h
  | launchCompletion _ _ => exact keeps_execLaunchCompletion h
  | workgroupGather _ _ _ _ _ | flushTimeout _ _ _ _ _ => exact keeps_gather h
  | shadowPrefetchComplete _ => exact keeps_execShadowPrefetchComplete h
  | workgroupLaunch _ _ => exact keeps_execWorkgroupLaunch h
  | governorReassign _ _ _ _ => exact keeps_execGovernorReassign h
  | emissionReplace _ => exact keeps_execEmissionReplace h
  | workgroupEnd _ => exact keeps_execWorkgroupEnd h
  | remoteRecordArrival _ _ _ _ => exact keeps_execRemoteRecordArrival h
  | inboxTransfer _ _ _ => exact keeps_execInboxTransfer h
  | remoteAck _ _ _ _ => exact keeps_execRemoteAck h
  | remoteAccessArrival _ => exact keeps_execRemoteAccessArrival h
  | uetWriteArrival _ _ _ _ => exact keeps_execUetWriteArrival h
  | translationWalk _ => exact keeps_execTranslationWalk h
  | walkComplete _ => exact keeps_execWalkComplete h
  | prreply _ => exact keeps_execPrreply h
  | atsCompletion _ _ _ => exact keeps_execAtsCompletion h
  | atsInvalidateRequest _ _ _ => exact keeps_execAtsInvalidateRequest h
  | priResponse _ _ _ => exact keeps_execPriResponse h
  | tlbinvStage1Range _ _ _ _ | tlbinvStage1All _ _ | tlbinvStage2Range _ _ _ _ | tlbinvAll _ _ => exact keeps_tlbinv h
  | tlbinvComplete _ => exact keeps_execTlbinvComplete h
  | s1rootWrite _ _ | s2rootWrite _ _ => exact keeps_regPut h
  | prqbaseWrite _ _ => exact keeps_execPrqbaseWrite h
  | partcmdDefine _ | partcmdDelete _ | coldReset => exact (hi trivial).elim
  | cellresWrite _ _ => exact keeps_execCellresWrite h
  | bktProfileWrite _ _ _ => exact keeps_execBktProfileWrite h
  | policyWrite _ _ => exact keeps_execPolicyWrite h
  | qassignWrite _ _ _ => exact keeps_execQassignWrite h
  | bucketAccrual => exact keeps_execBucketAccrual h
  | arbitrationRound _ _ _ => exact keeps_execArbitrationRound h
  | cellReclaim _ => exact keeps_execCellReclaim h
  | sliceExpiry _ => exact keeps_execSliceExpiry h
  | preemptVf _ => exact keeps_execPreemptVf h
  | preemptPartition _ => exact keeps_execPreemptPartition h
  | saveComplete _ => exact keeps_execSaveComplete h
  | workgroupResume _ _ _ => exact keeps_execWorkgroupResume h
  | hangRuntime _ _ => exact keeps_execHangRuntime h
  | hangUnitTimeout _ => exact keeps_execHangUnitTimeout h
  | linkFailure _ => exact keeps_execLinkFailure h
  | sramUncorrectable _ _ _ => exact keeps_execSramUncorrectable h
  | softErrorCorrected _ _ => exact keeps_execSoftErrorCorrected h
  | l2LineRepair _ => exact keeps_execL2LineRepair h
  | linePoison _ => exact keeps_execLinePoison h
  | thermalTrip => exact keeps_execThermalTrip h
  | throttleChange _ => exact keeps_execThrottleChange h
  | watchEventWrite => exact keeps_execWatchEventWrite h
  | weqstatClear _ => exact keeps_execWeqstatClear h
  | plateFire => exact keeps_execPlateFire h
  | qringEnable _ _ _ => exact keeps_execQringEnable h
  | qringDisable _ _ _ => exact keeps_execQringDisable h
  | queueResume _ _ => exact keeps_execQueueResume h
  | eventSet _ _ _ => exact keeps_execEventSet h
  | eventClear _ _ _ => exact keeps_execEventClear h
  | drainEnter _ _ => exact keeps_execDrainEnter h
  | drainReturn _ _ => exact keeps_execDrainReturn h
  | drainComplete _ _ => exact keeps_execDrainComplete h
  | bar2Access _ _ _ _ => exact keeps_execBar2Access h
  | pfBar2Access _ _ _ => exact keeps_execPfBar2Access h
  | surveyRefresh _ => exact keeps_execSurveyRefresh h
  | linkStateChange _ _ _ => exact keeps_execLinkStateChange h
  | spdmRequest _ _ => exact keeps_execSpdmRequest h
  | manifestUpdate _ => exact keeps_execManifestUpdate h
  | stackGroupReady _ => exact keeps_execStackGroupReady h
  | registerWrite _ _ _ => exact keeps_execRegisterWrite h
  | brkRelease _ => exact keeps_execBrkRelease h
  | thermalTripRelease => exact keeps_execThermalTripRelease h

/-! ## The rows that change the partitions -/

/-- What a next state keeps, its partitions aside. -/
def KeepsButParts (s : State) : Host.Outcome State Fault Refusal → Prop
  | .next t => Keeps s { t with parts := s.parts }
  | _ => True

theorem Keeps.butParts (h : Keeps o s) : Keeps o { s with parts := o.parts } := { h with parts := rfl }

theorem keepsButParts_ite {c : Prop} [Decidable c] {x y : Host.Outcome State Fault Refusal} (hx : KeepsButParts o x)
    (hy : KeepsButParts o y) : KeepsButParts o (if c then x else y) := by
  split <;> assumption

theorem KeepsNext.butParts {x : Host.Outcome State Fault Refusal} (h : KeepsNext o x) : KeepsButParts o x := by
  cases x with
  | next t => exact Keeps.butParts h
  | _ => exact trivial

theorem keepsButParts_execPartcmdDefine (h : Keeps o s) : KeepsButParts o (execPartcmdDefine part s) := by
  refine keepsButParts_ite h.butParts (keepsButParts_ite (keeps_partResult h).butParts ?_)
  exact (keeps_clearReservations (keeps_partResult h)).butParts

theorem keepsButParts_execPartcmdDelete (h : Keeps o s) : KeepsButParts o (execPartcmdDelete part s) := by
  refine keepsButParts_ite h.butParts (keepsButParts_ite (keeps_partResult h).butParts
    (keepsButParts_ite (keeps_partResult h).butParts ?_))
  exact (keeps_partResult (keeps_clearReservations h)).butParts

/-- A cold reset leaves HBM4E and the host's memory as they were, and every other table empty (R410). -/
theorem keepsButParts_execColdReset (h : Keeps o s) : KeepsButParts o (execColdReset s) := by
  have hr : Keeps o { afterColdReset s with parts := o.parts } :=
    ⟨h.dram, fun _ => rfl, h.host, fun _ => rfl, fun _ => rfl, fun _ => rfl, rfl⟩
  exact keepsButParts_ite (hr.same rfl) (hr.same rfl)

theorem keepsButParts_exec (h : Keeps o s) : KeepsButParts o (exec i s) := by
  by_cases hi : SetsPartitions i
  · cases i with
    | partcmdDefine part => exact keepsButParts_execPartcmdDefine h
    | partcmdDelete part => exact keepsButParts_execPartcmdDelete h
    | coldReset => exact keepsButParts_execColdReset h
    | _ => exact hi.elim
  · exact (keeps_exec h hi).butParts

theorem keepsButParts_step : KeepsButParts s (step s) := by
  have hm := keeps_selectMove (Keeps.refl s)
  unfold step
  split
  · next e => exact keepsButParts_exec (hm.along e)
  · next e => exact (hm.along e).butParts

theorem Keeps.memoryInForm (h : Keeps s t) (hs : MemoryInForm s) : MemoryInForm t := by
  obtain ⟨hd, hp, hh⟩ := (memory_wf_iff s).mp hs
  exact (memory_wf_iff t).mpr ⟨h.dram hd, h.spad hp, h.host hh⟩

/-- Settles O59: what a step keeps of the three memories, `keepsButParts_step`, which is shown operation by operation. -/
theorem memoryStaysCanonical : Obligations.MemoryStaysCanonical := by
  intro s t hs e
  have hk : Keeps s { t with parts := s.parts } := show KeepsButParts s (.next t) from e ▸ keepsButParts_step
  exact hk.memoryInForm hs

end

end Sys2Proof.Machine
end

section
namespace Sys2Proof.Machine
open Sys2Proof.Claims

/-! ## Registers without a row of their own -/

section
variable {s : State} {i : Instr} {vf off q r mask : Nat} {v : BitVec 64}

/-- A write under a mask keeps the bits of the mask and changes no other register (R5, R6). -/
theorem writesRegister_of_maskedPut (he : exec i s = .next (maskedPut s r mask v.toNat)) :
    WritesRegister i s r (v &&& BitVec.ofNat 64 mask) := by
  have hv : BitVec.ofNat 64 (Nat.land v.toNat mask) = v &&& BitVec.ofNat 64 mask := by
    apply BitVec.eq_of_toNat_eq
    show (v.toNat &&& mask) % 2 ^ 64 = v.toNat &&& mask % 2 ^ 64
    rw [Nat.and_mod_two_pow, Nat.mod_eq_of_lt v.isLt]
  refine ⟨_, ⟨he, rfl⟩, fun k => ?_⟩
  rw [maskedPut, regPut_hreg, wordGet_wordSet, hv]

/-- A write to a VF's BAR0 goes to `writeVf` (R396). -/
theorem exec_registerWrite_vf (hvf : vf < 1024) (ho : off < 2 ^ 21) :
    exec (.registerWrite (some vf) off v) s = .next (writeVf s vf off v) := if_pos ⟨hvf, ho⟩

/-- The page of a VF stands in the physical function's BAR0 (R397). -/
theorem exec_registerWrite_page (hvf : vf < 1024) (ho : off < 0x10000) :
    exec (.registerWrite none (0x4000000 + 0x10000 * vf + off) v) s = .next (writePage s vf off v) := by
  have hpf : writePf s (0x4000000 + 0x10000 * vf + off) v = writePage s vf off v := by
    unfold writePf
    dsimp only
    rw [if_neg (by omega), if_neg (by omega), if_neg (by omega), if_neg (by omega), if_neg (by omega), if_pos (by omega),
      show (0x4000000 + 0x10000 * vf + off - 0x4000000) / 0x10000 = vf by omega,
      show (0x4000000 + 0x10000 * vf + off) % 0x10000 = off by omega]
  exact congrArg Host.Outcome.next hpf

/-- A VF's BAR0 is mirrored in its page (R397). -/
theorem writePage_mirror : writePage s vf (0x1000 + off) v = writeVf s vf off v := by
  unfold writePage
  dsimp only
  rw [if_neg (by omega), if_neg (by omega), if_neg (by omega), if_neg (by omega), if_neg (by omega), if_pos (by omega),
    Nat.add_sub_cancel_left]

/-- A register of a VF is written through its own BAR0 and through its page alike. -/
theorem writesRegister_vf (hvf : vf < 1024) (ho : off < 0xF000)
    (hw : writeVf s vf off v = maskedPut s (vfReg vf off) mask v.toNat) :
    WritesRegister (.registerWrite (some vf) off v) s (vfReg vf off) (v &&& BitVec.ofNat 64 mask) ∧
      WritesRegister (.registerWrite none (0x4000000 + 0x10000 * vf + 0x1000 + off) v) s (vfReg vf off)
        (v &&& BitVec.ofNat 64 mask) := by
  constructor
  · exact writesRegister_of_maskedPut (by rw [exec_registerWrite_vf hvf (by omega), hw])
  · exact writesRegister_of_maskedPut (by
      rw [show 0x4000000 + 0x10000 * vf + 0x1000 + off = 0x4000000 + 0x10000 * vf + (0x1000 + off) by omega,
        exec_registerWrite_page hvf (by omega), writePage_mirror, hw])

theorem writesRegister_page (hvf : vf < 1024) (ho : off < 0x10000)
    (hw : writePage s vf off v = maskedPut s (pageReg vf off) mask v.toNat) :
    WritesRegister (.registerWrite none (0x4000000 + 0x10000 * vf + off) v) s (pageReg vf off) (v &&& BitVec.ofNat 64 mask) :=
  writesRegister_of_maskedPut (by rw [exec_registerWrite_page hvf ho, hw])

theorem writesRegister_pf (hw : writePf s off v = maskedPut s (pfReg off) mask v.toNat) :
    WritesRegister (.registerWrite none off v) s (pfReg off) (v &&& BitVec.ofNat 64 mask) :=
  writesRegister_of_maskedPut (congrArg Host.Outcome.next hw)

/-! ### Which mask stands at which offset -/

theorem writeVf_watchAddress {k : Nat} (hk : k < 4) : writeVf s vf (0x100 + 16 * k) v =
    maskedPut s (vfReg vf (0x100 + 16 * k)) 0xE1FFFFFFFFFFFFF0 v.toNat := by
  unfold writeVf
  dsimp only
  rw [if_neg (by omega), if_neg (by omega), if_pos (by omega)]

theorem writeVf_watchMask {k : Nat} (hk : k < 4) : writeVf s vf (0x108 + 16 * k) v =
    maskedPut s (vfReg vf (0x108 + 16 * k)) 0xFFFFFFFFFFFFFFFF v.toNat := by
  unfold writeVf
  dsimp only
  rw [if_neg (by omega), if_neg (by omega), if_neg (by omega), if_pos (by omega)]

theorem writePage_saveArea {k : Nat} (hk : k < 4) : writePage s vf (0x40 + 8 * k) v =
    maskedPut s (pageReg vf (0x40 + 8 * k)) 0x1FFFFFFFFFFFFFF v.toNat := by
  unfold writePage
  dsimp only
  rw [if_neg (by omega), if_neg (by omega), if_neg (by omega), if_pos (by omega)]

theorem writePf_partdesc {k : Nat} (hk : k < 64) : writePf s (8 * k) v =
    maskedPut s (pfReg (8 * k)) 0xFFFFFFFFFFFFFFFF v.toNat := if_pos (by omega)

theorem writePf_hangLimit {k : Nat} (hk : k < 32) : writePf s (0x1000 + 8 * k) v =
    maskedPut s (pfReg (0x1000 + 8 * k)) 0x80000000FFFFFFFF v.toNat := by
  unfold writePf
  dsimp only
  rw [if_neg (by omega), if_neg (by omega), if_neg (by omega), if_neg (by omega), if_pos (by omega)]

/-- PLATECTL, where FIRE is not written (R387). -/
theorem writePf_platectl (hv : v.getLsbD 8 = false) : writePf s 0x220 v = maskedPut s (pfReg 0x220) 0x8F v.toNat := by
  unfold writePf
  simp only [hv]
  rfl

/-! ### Queue pages -/

theorem exec_registerWrite_queuePage (hvf : vf < 1024) (hq : q < 64) (ho : off < 0x1000) :
    exec (.registerWrite (some vf) (0x10000 + 0x1000 * q + off) v) s = .next (writeQueuePage s vf q off v) := by
  have hw : writeVf s vf (0x10000 + 0x1000 * q + off) v = writeQueuePage s vf q off v := by
    unfold writeVf
    dsimp only
    rw [if_neg (by omega), if_neg (by omega), if_neg (by omega), if_neg (by omega), if_neg (by omega), if_neg (by omega),
      if_pos (by omega), show (0x10000 + 0x1000 * q + off - 0x10000) / 0x1000 = q by omega,
      show (0x10000 + 0x1000 * q + off) % 0x1000 = off by omega]
  rw [exec_registerWrite_vf hvf (by omega), hw]

theorem queueBecomes_setQueue (x : Queue) : QueueBecomes s (setQueue s vf q x) vf q x := fun k => mapGet_mapSet _ _ k x

/-- QLOG of a disabled queue is kept under its mask (R398). -/
theorem writeQueuePage_qlog (hd : (queueAt s vf q).qring.getLsbD 61 = false) : writeQueuePage s vf q 8 v =
    setQueue s vf q { queueAt s vf q with qlog := v &&& 0x01FFFFFFFFFFFFF0 } := by
  unfold writeQueuePage
  exact (if_neg fun h => absurd h.1 (by decide)).trans (if_pos ⟨rfl, hd⟩)

/-- QRING of a disabled queue is kept under its mask by a write that does not enable it (R398). -/
theorem writeQueuePage_qring (hd : (queueAt s vf q).qring.getLsbD 61 = false) (hv : v.getLsbD 61 = false) :
    writeQueuePage s vf q 0 v = setQueue s vf q { queueAt s vf q with qring := v &&& 0xE1FFFFFFFFFFFF9F } := by
  have hd' : (queueOf s vf q).enabled = false := hd
  have hv' : setsEn v = false := hv
  unfold writeQueuePage
  dsimp only
  rw [if_pos ⟨rfl, hd', hv'⟩]
  unfold writeQring
  dsimp only
  rw [hd', hv']
  rfl

end

end Sys2Proof.Machine
end

section
namespace Sys2Proof.Machine
open Sys2Proof.Claims

/-! ## Bring-up -/

section
variable {s : State} {stack : Nat}

theorem mapGet_mapFilter_ne {α : Type} (f : Nat → Nat) (c : Nat) (m : AMap α) (k : Nat) :
    mapGet (mapFilter (fun j _ => f j != c) m) k = if f k = c then none else mapGet m k := by
  rw [mapGet_mapFilter_key fun j => f j != c]
  by_cases h : f k = c <;> simp [h]

theorem mapGet_joins_zeroStack (k : Nat) :
    mapGet (zeroStack s stack).joins k = if k / 32768 = stack then none else mapGet s.joins k :=
  mapGet_mapFilter_ne (fun k => k / 32768) stack s.joins k

theorem mapGet_voids_zeroStack (x : Nat) :
    mapGet (zeroStack s stack).voids x = if x / 2 ^ 29 = stack then none else mapGet s.voids x := by
  rw [show x / 2 ^ 29 = x / 2 ^ 24 / 32 by omega]
  exact mapGet_mapFilter_ne (fun l => l / 2 ^ 24 / 32) stack s.voids x

theorem mapGet_dram_zeroStack (k : Nat) :
    mapGet (zeroStack s stack).dram k = if k / 2 ^ 36 = stack then none else mapGet s.dram k := by
  rw [show k / 2 ^ 36 = k / 2 ^ 31 / 32 by omega]
  exact mapGet_mapFilter_ne (fun k => k / 2 ^ 31 / 32) stack s.dram k

theorem mem_poison_zeroStack (x : Nat) : x ∈ (zeroStack s stack).poison ↔ x ∈ s.poison ∧ x / 2 ^ 29 ≠ stack := by
  simp [zeroStack, Nat.div_div_eq_div_mul]

/-- A stack group that comes up reads zero, and every other byte of HBM4E reads as before (R410). -/
theorem dramByte_zeroStack (k : Nat) :
    dramByte (zeroStack s stack) k = if k / 2 ^ 36 = stack then 0 else dramByte s k := by
  have hline : k / 128 / 2 ^ 29 = k / 2 ^ 36 := by omega
  unfold dramByte dramMask wordGet
  rw [mapGet_dram_zeroStack, mapGet_voids_zeroStack, hline]
  split
  · exact BitVec.xor_zero
  · rfl

theorem nextStack_of (hb : s.bringup = 2 ∨ s.bringup = 3) (h8 : stack < 8) (hr : s.ready.getLsbD stack = false)
    (hall : ∀ k < stack, s.ready.getLsbD k = true) : nextStack s stack = true := by
  simpa [nextStack, h8] using ⟨⟨hb, hr⟩, hall⟩

/-- The device once a stack group has come up, but for the message of it (R410). -/
def stackUp (s : State) (stack : Nat) : State :=
  { zeroStack s stack with ready := s.ready ||| (1 <<< stack), bringup := if stack = 7 then 4 else 3
                           freq := if stack = 7 then clockFor s else s.freq }

theorem exec_stackGroupReady (h : nextStack s stack = true) : exec (.stackGroupReady stack) s = .next { stackUp s stack with
    messages := s.messages ++ if stack = 0 ∨ stack = 7 then [⟨none, 3⟩] else [] } := by
  refine (if_pos h).trans (congrArg Host.Outcome.next ?_)
  split
  · rfl
  · exact congrArg (fun l => { stackUp s stack with messages := l }) (List.append_nil _).symm

theorem ready_stackUp {k : Nat} (hk : k < 8) :
    (stackUp s stack).ready.getLsbD k = (s.ready.getLsbD k || decide (k = stack)) := by
  show (s.ready ||| (1 <<< stack)).getLsbD k = _
  rw [BitVec.getLsbD_or]
  congr 1
  show (BitVec.ofNat 8 (1 <<< stack)).getLsbD k = _
  rw [BitVec.getLsbD_ofNat, Nat.one_shiftLeft, Nat.testBit_two_pow]
  simp [hk, eq_comm]

theorem freq_stackUp : (stackUp s stack).freq =
    if stack ≠ 7 then s.freq else if s.deep then 350 else if s.warm || s.overPower then 525 else 700 := by
  by_cases h : stack = 7 <;> simp [stackUp, clockFor, h]

end

/-! ## What the register writes of VFs and queues leave -/

section
variable {s : State} {vf q : Nat} {v : BitVec 64}

theorem tlbErr_cleared (hvf : vf < 1024) (hv : v.getLsbD 1 = true) :
    ∃ t, Happens (.registerWrite (some vf) 0x18 v) s t { s with tlbErr := t.tlbErr } ∧
      ∀ x, x ∈ t.tlbErr ↔ x ∈ s.tlbErr ∧ x ≠ vf := by
  have hw : writeVf s vf 0x18 v = { s with tlbErr := s.tlbErr.filter fun x => x != vf } := by simp [writeVf, hv]
  exact ⟨_, ⟨(exec_registerWrite_vf hvf (by decide)).trans (congrArg _ hw), rfl⟩, fun x => by simp⟩

theorem clamped_cleared (hvf : vf < 1024) (hv : v.getLsbD 0 = true) :
    ∃ t, Happens (.registerWrite none (0x4000000 + 0x10000 * vf + 0x28) v) s t { s with clamped := t.clamped } ∧
      ∀ x, x ∈ t.clamped ↔ x ∈ s.clamped ∧ x ≠ vf := by
  have hw : writePage s vf 0x28 v = { s with clamped := s.clamped.filter fun x => x != vf } := by simp [writePage, hv]
  exact ⟨_, ⟨(exec_registerWrite_page hvf (by decide)).trans (congrArg _ hw), rfl⟩, fun x => by simp⟩

/-- A write to a queue page that puts a queue changes that queue alone (R398). -/
theorem queueBecomes_of_write {off : Nat} {x : Queue} (hvf : vf < 1024) (hq : q < 64) (ho : off < 0x1000)
    (hw : writeQueuePage s vf q off v = setQueue s vf q x) :
    ∃ t, Happens (.registerWrite (some vf) (0x10000 + 0x1000 * q + off) v) s t { s with queues := t.queues } ∧
      QueueBecomes s t vf q x :=
  ⟨_, ⟨(exec_registerWrite_queuePage hvf hq ho).trans (congrArg _ hw), rfl⟩, queueBecomes_setQueue x⟩

end

/-- Settles O54: clause by clause, the masks of a VF's registers and of the physical function's by the lemmas on where each stands,
then the manifest, the cold reset and the stack groups. -/
theorem registerAndBringupEvents : Obligations.RegisterAndBringupEvents := by
  refine ⟨fun s vf v hvf => ?_, fun s v => ?_, fun s m => rfl, fun s => ⟨fun hs hr => ?_, fun hm => ?_⟩,
    fun s stack hb h8 hr hall => ?_⟩
  · refine ⟨?_, ?_, ?_, fun k hk => ⟨?_, ?_⟩, ?_, ?_, fun k hk => ?_, tlbErr_cleared hvf, clamped_cleared hvf,
      fun q hq hd => ⟨?_, fun hv => ?_⟩⟩
    · exact writesRegister_vf hvf (by decide) (by simp [writeVf])
    · exact writesRegister_vf hvf (by decide) (by simp [writeVf])
    · exact writesRegister_vf hvf (by decide) (by simp [writeVf])
    · exact writesRegister_vf hvf (by omega) (writeVf_watchAddress hk)
    · exact writesRegister_vf hvf (by omega) (writeVf_watchMask hk)
    · exact writesRegister_page hvf (by decide) (by simp [writePage])
    · exact writesRegister_page hvf (by decide) (by simp [writePage])
    · exact writesRegister_page hvf (by omega) (writePage_saveArea hk)
    · exact queueBecomes_of_write hvf hq (by decide) (writeQueuePage_qlog hd)
    · exact queueBecomes_of_write (off := 0) hvf hq (by decide) (writeQueuePage_qring hd hv)
  · exact ⟨fun k hk => writesRegister_pf (writePf_partdesc hk), writesRegister_pf (by simp [writePf]),
      fun k hk => writesRegister_pf (writePf_hangLimit hk), fun hv => writesRegister_pf (writePf_platectl hv)⟩
  · exact if_pos (by simp [manifestOk, hs, hr])
  · have hok : manifestOk s (s.staged.getD s.manifest) = false := by
      rcases hm with hm | hm <;> simp [manifestOk, hm]
    exact if_neg (by simp [hok])
  · exact ⟨_, exec_stackGroupReady (nextStack_of hb h8 hr hall), fun k hk => ready_stackUp hk, rfl, freq_stackUp,
      dramByte_zeroStack, mem_poison_zeroStack, mapGet_joins_zeroStack, mapGet_voids_zeroStack, rfl, rfl⟩

end Sys2Proof.Machine
end

section
namespace Sys2Proof.Machine
open Sys2Proof.Claims

/-! ## A store that its window forbids, while the walker is busy -/

/-- A partition of one station and one VF, and of nothing that has to be readied (R411). -/
def stationPartition : Partition where
  clusters := []
  banks := []
  channels := []
  larder := []
  copy := []
  fabric := []
  stations := [0]
  ports := []
  vfs := [0]

/-- A miss of the first page of VF 0 whose walk has still to start (R344). -/
def queuedMiss : Miss where
  vf := 0
  page := 0
  va := 0
  source := .gang 0
  cell := 0
  acc := 1
  phase := .queued
  result := .none
  waiters := [.gang 0]
  cells := [0]

/-- VF 0 enables its remote window for tenant 0 with atomics and without stores (R407); its first page is about to be walked. -/
def atomicsOnly : State :=
  { State.reset with
    parts := [(0, stationPartition)], hreg := [(pageReg 0 0xC0, 0xA000000000000000)], misses := [(0, queuedMiss)] }

/-- A store of four bytes, which is the size of an atomic, by tenant 0 over station 0. -/
def forbiddenStore : RemoteAccess where
  station := 0
  source := 0
  tenant := 0
  op := .store
  signed := false
  va := 0
  size := 4
  data := [0, 0, 0, 0]
  compare := []

theorem linkServes_atomicsOnly : LinkServes atomicsOnly 0 stationPartition :=
  ⟨⟨0, rfl⟩, fun _ h => nomatch h⟩

theorem servedBy_atomicsOnly : ServedBy atomicsOnly stationPartition 0 0 :=
  ⟨by decide, by decide, by decide, fun v hv => absurd hv (by omega)⟩

/-- The walker is about to walk the page, so an access that the window allowed would wait (R344). -/
theorem remoteBytes_atomicsOnly : remoteBytes atomicsOnly 0 0 4 .write = .wait := by decide

/-- The window of VF 0 is the one that tenant 0 matches (R407). -/
theorem windowOwner_atomicsOnly : windowOwner atomicsOnly stationPartition 0 = some 0 :=
  List.find?_range_eq_some.2 ⟨by decide, List.mem_range.2 (by decide), fun v hv => absurd hv (by omega)⟩

/-- The model rejects the store: REMWIN permits no stores (R407). -/
theorem exec_forbiddenStore : exec (.remoteAccessArrival forbiddenStore) atomicsOnly
    = .next { atomicsOnly with outbox := [.response 0 0 false false []] } := by
  show execRemoteAccessArrival forbiddenStore atomicsOnly = _
  have howner : linkOwner atomicsOnly 0 = some (0, stationPartition) := rfl
  have hopen : (linkRefuses atomicsOnly 0 || !partReady atomicsOnly stationPartition || !remoteAligned forbiddenStore) = false := by
    decide
  have hforbids : windowAllows (remwin atomicsOnly 0) .store = false := by decide
  simp only [execRemoteAccessArrival, forbiddenStore, howner, windowOwner_atomicsOnly, hforbids] at hopen ⊢
  rw [hopen]
  rfl

/-- Refutes O47: among the accesses that wait while the walker is busy the statement counts those of 4 or 8 bytes for which the
window permits atomics, stores among them; the store of `forbiddenStore` is one, and is rejected at once, as R407 and the clause
before say. -/
theorem not_remoteEvents : ¬ Obligations.RemoteEvents := by
  rintro ⟨-, -, -, -, haccess, -⟩
  obtain ⟨-, hwait, -⟩ := haccess atomicsOnly forbiddenStore stationPartition 0 [] linkServes_atomicsOnly (by decide) (by decide)
    (by decide) rfl servedBy_atomicsOnly
  have hstays : exec (.remoteAccessArrival forbiddenStore) atomicsOnly = .next atomicsOnly :=
    hwait (.inr (.inr ⟨.inl rfl, by decide⟩)) remoteBytes_atomicsOnly
  rw [exec_forbiddenStore] at hstays
  injection hstays with h
  exact absurd (congrArg (·.outbox) h) (by decide)

end Sys2Proof.Machine
end

section
namespace Sys2Proof.Machine

/-! ## Keys and entries of tables -/

section
variable {α : Type} {m : AMap α} {k : Nat} {a : α}

theorem mem_of_mapGet (h : mapGet m k = some a) : (k, a) ∈ m := by
  induction m with
  | nil => cases h
  | cons e r ih =>
    obtain ⟨j, b⟩ := e
    by_cases hj : j = k
    · subst hj
      simp only [mapGet, if_true, Option.some.injEq] at h
      exact h ▸ List.mem_cons_self
    · rw [mapGet, if_neg hj] at h
      exact List.mem_cons_of_mem _ (ih h)

theorem mapGet_eq_none_of (h : ∀ e ∈ m, e.1 ≠ k) : mapGet m k = none := by
  cases hg : mapGet m k with
  | none => rfl
  | some a => exact absurd rfl (h _ (mem_of_mapGet hg))

theorem mapGet_ne_none_of_mem {e : Nat × α} (h : e ∈ m) : mapGet m e.1 ≠ none := by
  induction m with
  | nil => cases h
  | cons x r ih =>
    obtain ⟨j, b⟩ := x
    rcases List.mem_cons.1 h with rfl | h
    · simp [mapGet]
    · by_cases hj : j = e.1
      · simp [mapGet, hj]
      · rw [mapGet, if_neg hj]; exact ih h

/-- Where no key stands twice, an entry is what its key reads. -/
theorem mapGet_of_mem_nodup (hm : (m.map (·.1)).Nodup) (h : (k, a) ∈ m) : mapGet m k = some a := by
  induction m with
  | nil => cases h
  | cons x r ih =>
    obtain ⟨j, b⟩ := x
    rw [List.map_cons, List.nodup_cons] at hm
    rcases List.mem_cons.1 h with h | h
    · cases h; simp [mapGet]
    · have hj : j ≠ k := fun e => hm.1 (List.mem_map.2 ⟨(k, a), h, e.symm⟩)
      rw [mapGet, if_neg hj]; exact ih hm.2 h

theorem wordGet_eq_zero_of {w : Nat} {m : Sparse w} (h : ∀ e ∈ m, e.1 ≠ k) : wordGet m k = 0 := by
  rw [wordGet, mapGet_eq_none_of h]; rfl

/-- Setting one entry at many keys. -/
theorem mapGet_foldl_mapSet (l : List Nat) : mapGet (l.foldl (fun m j => mapSet m j a) m) k
    = if k ∈ l then some a else mapGet m k := by
  induction l generalizing m with
  | nil => simp
  | cons j r ih =>
    rw [List.foldl_cons, ih, mapGet_mapSet]
    by_cases hj : k = j <;> by_cases hr : k ∈ r <;> simp [hj, hr]

theorem mapGet_foldl_mapErase (l : List Nat) : mapGet (l.foldl mapErase m) k = if k ∈ l then none else mapGet m k := by
  induction l generalizing m with
  | nil => simp
  | cons j r ih =>
    rw [List.foldl_cons, ih, mapGet_mapErase]
    by_cases hj : k = j <;> by_cases hr : k ∈ r <;> simp [hj, hr]

end

end Sys2Proof.Machine
end

section
namespace Sys2Proof.Machine
open Sys2Proof.Claims

/-! ## What entries of the fault log leave -/

/-- From `s` to `t` entries have been written into fault logs: the logs and the messages have grown, and a plate may have been
taken (R375, R387). -/
structure Logs (s t : State) : Prop where
  frame : t = { s with log := t.log, logSeq := t.logSeq, messages := t.messages, hreg := t.hreg, plates := t.plates
                       platestat := t.platestat }
  hreg : ∀ r, r ≠ pfReg 0x220 → wordGet t.hreg r = wordGet s.hreg r
  messages : s.messages <+: t.messages
  log : ∀ part e, e ∈ (mapGet s.log part).getD [] → e ∈ (mapGet t.log part).getD []

section
variable {s t u : State} {part k : Nat} {e : LogEntry}

theorem Logs.refl (s : State) : Logs s s := ⟨rfl, fun _ _ => rfl, List.prefix_rfl, fun _ _ h => h⟩

theorem Logs.trans (h : Logs s t) (g : Logs t u) : Logs s u :=
  ⟨g.frame.trans (by rw [h.frame]), fun r hr => (g.hreg r hr).trans (h.hreg r hr), h.messages.trans g.messages,
    fun _ _ he => g.log _ _ (h.log _ _ he)⟩

theorem Logs.clock (h : Logs s t) : t.clock = s.clock := congrArg (·.clock) h.frame
theorem Logs.launches (h : Logs s t) : t.launches = s.launches := congrArg (·.launches) h.frame

/-- An entry of a log is there still after others have been written. -/
theorem Logs.logged (g : Logs t u) (he : Logged s t part e) : Logged s u part e := ⟨g.log _ _ he.1, he.2⟩

/-- An entry written later bears the same time: no cycle passes between. -/
theorem Logs.logged_after (h : Logs s t) (he : Logged t u part e) : Logged s u part e :=
  ⟨he.1, he.2.1.trans h.clock, he.2.2⟩

theorem logs_notify (f : Option Nat) (v : Nat) : Logs s (notify s f v) :=
  ⟨rfl, fun _ _ => rfl, List.prefix_append _ _, fun _ _ h => h⟩

theorem logs_plate (l : List PlateRec) (x : Word) (v : Nat) :
    Logs s (regPut { s with plates := l, platestat := x } (pfReg 0x220) v) :=
  ⟨rfl, fun _ hr => (wordGet_wordSet _ _ _ _).trans (if_neg hr), List.prefix_rfl, fun _ _ h => h⟩

theorem logs_plateTrigger (src : Nat) : Logs s (plateTrigger s src) := by
  unfold plateTrigger
  split
  · exact logs_plate _ _ _
  · exact .refl s

/-- The entry as the log holds it: with the next SEQ of its partition, and the time (R375). -/
def entryOf (s : State) (e : LogEntry) : LogEntry := { e with seq := nextSeq s.logSeq e.part, time := s.clock }

/-- The state with one entry more in a log. -/
def withEntry (s : State) (e : LogEntry) : State :=
  { s with log := mapSet s.log e.part ((mapGet s.log e.part).getD [] ++ [entryOf s e])
           logSeq := mapSet s.logSeq e.part (nextSeq s.logSeq e.part) }

theorem logs_withEntry (e : LogEntry) : Logs s (withEntry s e) := by
  refine ⟨rfl, fun _ _ => rfl, List.prefix_rfl, fun p x hx => ?_⟩
  show x ∈ (mapGet (mapSet _ _ _) p).getD []
  rw [mapGet_mapSet]
  split
  · subst p; exact List.mem_append_left _ hx
  · exact hx

theorem logged_withEntry (e : LogEntry) : Logged s (withEntry s e) e.part (entryOf s e) := by
  refine ⟨?_, rfl, rfl⟩
  show _ ∈ (mapGet (mapSet _ _ _) _).getD []
  rw [mapGet_mapSet, if_pos rfl]
  exact List.mem_append_right _ (List.mem_singleton.2 rfl)

/-- The messages of an entry (R375, R395). -/
def signalled (s : State) (e : LogEntry) : State :=
  if e.kind = 3 ∨ e.kind = 4 then notify (withEntry s e) none 2 else notify (notify (withEntry s e) none 2) (some e.vf) 3

theorem logs_signalled (e : LogEntry) : Logs (withEntry s e) (signalled s e) := by
  unfold signalled
  split
  · exact logs_notify _ _
  · exact (logs_notify _ _).trans (logs_notify _ _)

theorem logAppend_eq (e : LogEntry) :
    logAppend s e = if e.kind = 0 ∨ e.kind = 1 then plateTrigger (signalled s e) 3 else signalled s e := rfl

/-- Beside its entry, a fault's report sends messages and may take a plate (R375, R387, R395). -/
theorem logs_logAppend_withEntry (e : LogEntry) : Logs (withEntry s e) (logAppend s e) := by
  rw [logAppend_eq]
  split
  · exact (logs_signalled e).trans (logs_plateTrigger 3)
  · exact logs_signalled e

theorem logs_logAppend (e : LogEntry) : Logs s (logAppend s e) := (logs_withEntry e).trans (logs_logAppend_withEntry e)

theorem logged_logAppend (e : LogEntry) : Logged s (logAppend s e) e.part (entryOf s e) :=
  (logs_logAppend_withEntry e).logged (logged_withEntry e)

/-- A fold that writes entries at each of its steps. -/
theorem logs_foldl {α : Type} {f : State → α → State} (hf : ∀ s x, Logs s (f s x)) (l : List α) : Logs s (l.foldl f s) := by
  induction l generalizing s with
  | nil => exact .refl s
  | cons x r ih => exact (hf s x).trans ih

/-- What each step of such a fold writes is in the log after it. -/
theorem logged_foldl {α : Type} {f : State → α → State} (hf : ∀ s x, Logs s (f s x)) {l : List α} {x : α} (hx : x ∈ l)
    {P : LogEntry → Prop} (hP : ∀ t, Logs s t → ∃ e, Logged t (f t x) part e ∧ P e) : ∃ e, Logged s (l.foldl f s) part e ∧ P e := by
  induction l generalizing s with
  | nil => cases hx
  | cons y r ih =>
    rcases List.mem_cons.1 hx with rfl | hx
    · obtain ⟨e, he, hp⟩ := hP s (.refl s)
      exact ⟨e, (logs_foldl hf r).logged he, hp⟩
    · obtain ⟨e, he, hp⟩ := ih hx fun t ht => hP t ((hf s y).trans ht)
      exact ⟨e, (hf s y).logged_after he, hp⟩

/-! ## The entries of a reset -/

variable {code : BitVec 8} {detail : Nat} {met : Option Met} {l : Launch}

theorem logs_logDiscarded (k : Nat) : Logs s (logDiscarded s part code detail met k) := by
  unfold logDiscarded
  split
  · exact .refl s
  · exact logs_logAppend _

/-- An entry of a reset about a launch: its kind, what was at fault, and whose launch it was (R377 step 4). -/
def Reports (e : LogEntry) (kind : Nat) (code : BitVec 8) (detail k fence : Nat) : Prop :=
  e.kind = kind ∧ e.code = code ∧ e.detail = detail ∧ e.vf = k / 64 ∧ e.lslot = k % 64 ∧ e.fence = fence

/-- A launch that a reset discards has its entry: KIND 001 for the one that met the fault, 010 for another (R377 step 4). -/
theorem logged_logDiscarded (h : mapGet s.launches k = some l) : ∃ e, Logged s (logDiscarded s part code detail met k) part e ∧
    Reports e (if met.map (·.launch) = some k then 1 else 2) code detail k l.fence := by
  unfold logDiscarded
  rw [h]
  dsimp only
  cases met with
  | none => exact ⟨_, logged_logAppend _, rfl, rfl, rfl, rfl, rfl, rfl⟩
  | some m =>
    dsimp only [Option.map_some]
    by_cases hm : m.launch = k
    · rw [if_pos hm, if_pos (congrArg some hm)]
      exact ⟨_, logged_logAppend _, rfl, rfl, rfl, rfl, rfl, rfl⟩
    · rw [if_neg hm, if_neg fun h => hm (Option.some.inj h)]
      exact ⟨_, logged_logAppend _, rfl, rfl, rfl, rfl, rfl, rfl⟩

end

end Sys2Proof.Machine
end

section
namespace Sys2Proof.Machine
open Sys2Proof.Claims

/-! ## What discarding work leaves -/

/-- From `s` to `t` what is resident has only fallen away: the tables of gangs, joins and units hold no entry that they did not
hold, the workgroups of the gangs that are left are left, and no line has become dirty. -/
structure Wanes (s t : State) : Prop where
  gangs : t.gangs ⊆ s.gangs
  workgroups : ∀ e ∈ t.gangs, ∀ w, (e.2.wg, w) ∈ s.workgroups → (e.2.wg, w) ∈ t.workgroups
  joins : t.joins ⊆ s.joins
  matrix : ∀ e ∈ t.matrix, ∃ m, (e.1, m) ∈ s.matrix
  bregs : t.bregs ⊆ s.bregs
  spad : t.spad ⊆ s.spad
  rings : t.rings ⊆ s.rings
  descs : t.descs ⊆ s.descs
  governor : t.governor ⊆ s.governor
  window : t.window ⊆ s.window
  copies : t.copies ⊆ s.copies
  l2 : ∀ e ∈ t.l2, ∃ x ∈ s.l2, x.2.bank = e.2.bank ∧ (x.2.dirty = false → e.2.dirty = false)

section
variable {s t u : State} {vf lslot part k : Nat}

theorem Wanes.refl (s : State) : Wanes s s :=
  ⟨fun _ h => h, fun _ _ _ h => h, fun _ h => h, fun e h => ⟨e.2, h⟩, fun _ h => h, fun _ h => h, fun _ h => h, fun _ h => h,
    fun _ h => h, fun _ h => h, fun _ h => h, fun e h => ⟨e, h, rfl, id⟩⟩

theorem Wanes.trans (h : Wanes s t) (g : Wanes t u) : Wanes s u where
  gangs := List.Subset.trans g.gangs h.gangs
  workgroups e he w hw := g.workgroups e he w (h.workgroups e (g.gangs he) w hw)
  joins := List.Subset.trans g.joins h.joins
  matrix e he := let ⟨m, hm⟩ := g.matrix e he; h.matrix (e.1, m) hm
  bregs := List.Subset.trans g.bregs h.bregs
  spad := List.Subset.trans g.spad h.spad
  rings := List.Subset.trans g.rings h.rings
  descs := List.Subset.trans g.descs h.descs
  governor := List.Subset.trans g.governor h.governor
  window := List.Subset.trans g.window h.window
  copies := List.Subset.trans g.copies h.copies
  l2 e he := by
    obtain ⟨x, hx, hb, hd⟩ := g.l2 e he
    obtain ⟨y, hy, hb', hd'⟩ := h.l2 x hx
    exact ⟨y, hy, hb'.trans hb, hd ∘ hd'⟩

/-- A change of any other field is of this kind: `t` with the tables of `s` put into it is `t`. -/
theorem Wanes.same (e : { t with
    gangs := s.gangs, workgroups := s.workgroups, joins := s.joins, matrix := s.matrix, bregs := s.bregs, spad := s.spad
    rings := s.rings, descs := s.descs, governor := s.governor, window := s.window, copies := s.copies, l2 := s.l2 } = t) :
    Wanes s t := by
  rw [← e]
  exact ⟨fun _ h => h, fun _ _ _ h => h, fun _ h => h, fun e h => ⟨e.2, h⟩, fun _ h => h, fun _ h => h, fun _ h => h,
    fun _ h => h, fun _ h => h, fun _ h => h, fun _ h => h, fun e h => ⟨e, h, rfl, id⟩⟩

theorem Logs.wanes (h : Logs s t) : Wanes s t := .same (by rw [h.frame])

/-- An entry that a filter has kept. -/
theorem mapFilter_subset {α : Type} (p : Nat → α → Bool) (m : AMap α) : mapFilter p m ⊆ m :=
  fun _ h => List.mem_of_mem_filter h

/-- From `s` to `t` work of launches has been discarded (R62, R88). -/
structure Discards (s t : State) : Prop where
  frame : t = { s with
    atsMisses := t.atsMisses, l2 := t.l2, gangs := t.gangs, workgroups := t.workgroups, window := t.window, rings := t.rings
    copies := t.copies, blocked := t.blocked, misses := t.misses, matrix := t.matrix, joins := t.joins, larder := t.larder
    launches := t.launches, icache := t.icache }
  wanes : Wanes s t

theorem Discards.refl (s : State) : Discards s s := ⟨rfl, .refl s⟩

theorem Discards.trans (h : Discards s t) (g : Discards t u) : Discards s u :=
  ⟨g.frame.trans (by rw [h.frame]), h.wanes.trans g.wanes⟩

theorem mem_unlockLines {mine : Nat → Bool} {m : AMap L2Line} {e : Nat × L2Line} (h : e ∈ unlockLines mine m) :
    ∃ x ∈ m, x.2.bank = e.2.bank ∧ x.2.dirty = e.2.dirty := by
  obtain ⟨x, hx, rfl⟩ := List.mem_map.1 h
  refine ⟨x, hx, ?_⟩
  dsimp only
  split
  · split <;> exact ⟨rfl, rfl⟩
  · exact ⟨rfl, rfl⟩

theorem discards_discardWorkgroups (mine : Nat → Bool) : Discards s (discardWorkgroups s mine) := by
  refine ⟨rfl, ?_⟩
  exact {
    gangs := mapFilter_subset (fun _ (g : Gang) => !mine g.wg) s.gangs
    workgroups := fun e he w hw => (mem_mapFilter (fun k _ => !mine k) s.workgroups _).2
      ⟨hw, ((mem_mapFilter (fun _ (g : Gang) => !mine g.wg) s.gangs e).1 he).2⟩
    joins := fun _ h => h
    matrix := fun e he => by
      obtain ⟨x, hx, rfl⟩ := List.mem_map.1 he
      exact ⟨x.2, hx⟩
    bregs := fun _ h => h
    spad := fun _ h => h
    rings := mapFilter_subset (fun _ (r : Ring) => !mine r.wg) s.rings
    descs := fun _ h => h
    governor := fun _ h => h
    window := mapFilter_subset (fun _ w => !mine w) s.window
    copies := mapFilter_subset (fun _ (c : Copy) => !mine c.wg) s.copies
    l2 := fun e he => by
      obtain ⟨x, hx, hb, hd⟩ := mem_unlockLines he
      exact ⟨x, hx, hb, fun h => hd ▸ h⟩ }

theorem discards_freeQueues : Discards s (freeQueues s vf lslot).1 :=
  ⟨rfl, { Wanes.refl s with joins := mapFilter_subset (fun _ (j : Join) => !(j.vf == vf && j.lslot == lslot)) s.joins }⟩

/-- The workgroups of a launch. -/
def workgroupsOf (s : State) (vf lslot : Nat) : List Nat :=
  (s.workgroups.filter fun e => e.2.vf == vf && e.2.lslot == lslot).map (·.1)

/-- The state in which a launch has lost its workgroups and waits on no miss (R62). -/
def withoutWork (s : State) (vf lslot : Nat) : State :=
  let t := discardWorkgroups s fun w => (workgroupsOf s vf lslot).contains w
  let waits := fun (x : Source) => x == .scheduler (launchKey vf lslot)
  { t with misses := dropWaiters waits t.misses, atsMisses := dropAts waits t.atsMisses }

theorem discardLaunch_eq : (discardLaunch s vf lslot).1 = (freeQueues (withoutWork s vf lslot) vf lslot).1 := rfl

theorem discards_withoutWork : Discards s (withoutWork s vf lslot) :=
  (discards_discardWorkgroups _).trans ⟨rfl, .same rfl⟩

theorem discards_discardLaunch : Discards s (discardLaunch s vf lslot).1 := by
  rw [discardLaunch_eq]
  exact discards_withoutWork.trans discards_freeQueues

/-- No gang of a launch's workgroups is left (R62). -/
theorem gangs_discardLaunch (e : Nat × Gang) (he : e ∈ (discardLaunch s vf lslot).1.gangs) (w : Workgroup)
    (hw : (e.2.wg, w) ∈ s.workgroups) : ¬(w.vf = vf ∧ w.lslot = lslot) := by
  rintro ⟨hv, hl⟩
  have hkept : (workgroupsOf s vf lslot).contains e.2.wg = false := by
    simpa using ((mem_mapFilter (fun _ (g : Gang) => !(workgroupsOf s vf lslot).contains g.wg) s.gangs e).1 he).2
  have hin : e.2.wg ∈ workgroupsOf s vf lslot :=
    List.mem_map.2 ⟨_, List.mem_filter.2 ⟨hw, by simp [hv, hl]⟩, rfl⟩
  simp [hin] at hkept

/-- No join entry of a launch is left (R88). -/
theorem joins_discardLaunch (e : Nat × Join) (he : e ∈ (discardLaunch s vf lslot).1.joins) :
    ¬(e.2.vf = vf ∧ e.2.lslot = lslot) := by
  rintro ⟨hv, hl⟩
  have hkept := ((mem_mapFilter (fun _ (j : Join) => !(j.vf == vf && j.lslot == lslot)) (withoutWork s vf lslot).joins e).1 he).2
  simp [hv, hl] at hkept

theorem launches_discardLaunch {j : Nat} (hj : j ≠ launchKey vf lslot) :
    mapGet (discardLaunch s vf lslot).1.launches j = mapGet s.launches j :=
  (mapGet_mapUpdate _ _ _ _).trans (if_neg hj)

/-! ## The launches of a partition -/

/-- Discards the work of the launches of some numbers. -/
def discardAll (s : State) (keys : List Nat) : State := keys.foldl (fun s k => (discardLaunch s (k / 64) (k % 64)).1) s

theorem discards_discardAll (keys : List Nat) : Discards s (discardAll s keys) := by
  induction keys generalizing s with
  | nil => exact .refl s
  | cons j r ih => exact discards_discardLaunch.trans ih

theorem gangs_discardAll {keys : List Nat} (hk : k ∈ keys) (e : Nat × Gang) (he : e ∈ (discardAll s keys).gangs) (w : Workgroup)
    (hw : (e.2.wg, w) ∈ s.workgroups) : ¬(w.vf = k / 64 ∧ w.lslot = k % 64) := by
  induction keys generalizing s with
  | nil => cases hk
  | cons j r ih =>
    have hj : e ∈ (discardLaunch s (j / 64) (j % 64)).1.gangs := (discards_discardAll r).wanes.gangs he
    rcases List.mem_cons.1 hk with rfl | hk
    · exact gangs_discardLaunch e hj w hw
    · exact ih hk he (discards_discardLaunch.wanes.workgroups e hj w hw)

theorem joins_discardAll {keys : List Nat} (hk : k ∈ keys) (e : Nat × Join) (he : e ∈ (discardAll s keys).joins) :
    ¬(e.2.vf = k / 64 ∧ e.2.lslot = k % 64) := by
  induction keys generalizing s with
  | nil => cases hk
  | cons j r ih =>
    rcases List.mem_cons.1 hk with rfl | hk
    · exact joins_discardLaunch e ((discards_discardAll r).wanes.joins he)
    · exact ih hk he

theorem launches_discardAll {keys : List Nat} (hk : k ∉ keys) :
    mapGet (discardAll s keys).launches k = mapGet s.launches k := by
  induction keys generalizing s with
  | nil => rfl
  | cons j r ih =>
    rw [List.mem_cons, not_or] at hk
    refine (ih hk.2).trans (launches_discardLaunch ?_)
    rw [launchKey, Nat.div_add_mod]
    exact hk.1

/-- The launches of some numbers leave their slots. -/
def eraseAll (s : State) (keys : List Nat) : State := keys.foldl eraseLaunch s

theorem discards_eraseAll (keys : List Nat) : Discards s (eraseAll s keys) := by
  induction keys generalizing s with
  | nil => exact .refl s
  | cons j r ih => exact Discards.trans ⟨rfl, .same rfl⟩ ih

theorem eraseAll_eq (keys : List Nat) : eraseAll s keys
    = { s with launches := (eraseAll s keys).launches, icache := (eraseAll s keys).icache } := by
  induction keys generalizing s with
  | nil => rfl
  | cons j r ih => exact ih

theorem launches_eraseAll (keys : List Nat) : (eraseAll s keys).launches = keys.foldl mapErase s.launches := by
  induction keys generalizing s with
  | nil => rfl
  | cons j r ih => exact ih

/-- The launches of some numbers are gone, and every other is as before (R377). -/
theorem mapGet_launches_gone (keys : List Nat) (k : Nat) :
    mapGet (eraseAll (discardAll s keys) keys).launches k = if k ∈ keys then none else mapGet s.launches k := by
  rw [launches_eraseAll, mapGet_foldl_mapErase]
  split
  · rfl
  · next hk => exact launches_discardAll hk

end

end Sys2Proof.Machine
end

section
namespace Sys2Proof.Machine
open Sys2Proof.Claims

/-! ## Queues, registers, messages and units of a reset -/

section
variable {s t u : State} {part k vf : Nat} {p : Partition}

/-- Every queue of the VFs rewinds and stops, one that nothing has been written to where it is assigned (R378). -/
theorem mapGet_rewindQueues (vfs : List Nat) (k : Nat) : mapGet (rewindQueues s vfs).queues k =
    if k / 64 ∈ vfs then
      ((mapGet s.queues k).map rewindQueue).or (if queueAssigned s k then some { Queue.fresh with stopped := true } else none)
    else mapGet s.queues k := by
  have hlisted : mapGet (mapAll (fun k q => if vfs.contains (k / 64) then rewindQueue q else q) s.queues) k
      = (mapGet s.queues k).map fun q => if vfs.contains (k / 64) then rewindQueue q else q :=
    mapGet_mapAll (fun k q => if vfs.contains (k / 64) then rewindQueue q else q) s.queues k
  have hkeys : k ∈ (vfs.flatMap fun v => (List.range 64).map (queueKey v)) ↔ k / 64 ∈ vfs := by
    simp only [List.mem_flatMap, List.mem_map, List.mem_range, queueKey]
    constructor
    · rintro ⟨v, hv, i, hi, rfl⟩
      rwa [show (64 * v + i) / 64 = v by omega]
    · exact fun h => ⟨k / 64, h, k % 64, by omega, by omega⟩
  show mapGet (List.foldl _ (mapAll _ s.queues) (List.filter _ _)) k = _
  simp only [mapGet_foldl_mapSet, List.mem_filter, hkeys, hlisted]
  by_cases hv : k / 64 ∈ vfs
  · cases hq : mapGet s.queues k <;> simp [hv]
  · simp [hv]

/-- The registers of some VFs that a partition reset clears, cleared. -/
def clearedRegs (m : Sparse 64) (vfs : List Nat) : Sparse 64 :=
  vfs.foldl (fun m v => [0x30, 0x40, 0x48, 0x50, 0x58].foldl (fun m o => wordSet m (pageReg v o) 0) m) m

theorem foldl_regPut_zero (f : Nat → Nat) (l : List Nat) : l.foldl (fun s o => regPut s (f o) 0) s
    = { s with hreg := l.foldl (fun m o => wordSet m (f o) 0) s.hreg } := by
  induction l generalizing s with
  | nil => rfl
  | cons o r ih => exact ih

theorem foldl_regPut_pages (l vfs : List Nat) : vfs.foldl (fun s v => l.foldl (fun s o => regPut s (pageReg v o) 0) s) s
    = { s with hreg := vfs.foldl (fun m v => l.foldl (fun m o => wordSet m (pageReg v o) 0) m) s.hreg } := by
  induction vfs generalizing s with
  | nil => rfl
  | cons v r ih => rw [List.foldl_cons, foldl_regPut_zero, ih, List.foldl_cons]

theorem resetRegs_eq (vfs : List Nat) : resetRegs s vfs = { s with hreg := clearedRegs s.hreg vfs } :=
  foldl_regPut_pages [0x30, 0x40, 0x48, 0x50, 0x58] vfs

theorem wordGet_foldl_wordSet_zero (l : List Nat) (m : Sparse 64) (r : Nat) :
    wordGet (l.foldl (fun m k => wordSet m k 0) m) r = if r ∈ l then 0 else wordGet m r := by
  induction l generalizing m with
  | nil => simp
  | cons k l ih =>
    rw [List.foldl_cons, ih, wordGet_wordSet]
    by_cases hk : r = k <;> by_cases hl : r ∈ l <;> simp [hk, hl]

theorem wordGet_clearedRegs (m : Sparse 64) (vfs : List Nat) (r : Nat) : wordGet (clearedRegs m vfs) r =
    if r ∈ vfs.flatMap (fun v => [0x30, 0x40, 0x48, 0x50, 0x58].map (pageReg v)) then 0 else wordGet m r := by
  rw [← wordGet_foldl_wordSet_zero, List.foldl_flatMap]
  rfl

theorem foldl_notify (l : List Nat) (v : Nat) :
    l.foldl (fun s f => notify s (some f) v) s = { s with messages := s.messages ++ l.map fun f => ⟨some f, v⟩ } := by
  induction l generalizing s with
  | nil => rw [List.foldl_nil, List.map_nil, List.append_nil]
  | cons f r ih =>
    rw [List.foldl_cons, ih, List.map_cons, notify, List.append_assoc]
    rfl

theorem mem_partCells {cell : Nat} : cell ∈ partCells p ↔ cell / 8 ∈ p.clusters := by
  simp only [partCells, List.mem_flatMap, List.mem_map, List.mem_range]
  constructor
  · rintro ⟨c, hc, i, hi, rfl⟩
    rwa [show (8 * c + i) / 8 = c by omega]
  · exact fun h => ⟨cell / 8, h, cell % 8, by omega, by omega⟩

theorem wanes_resetCells (cells : List Nat) : Wanes s (resetCells s cells) :=
  { Wanes.refl s with
    matrix := fun e he => ⟨e.2, List.mem_of_mem_filter he⟩
    bregs := fun _ he => List.mem_of_mem_filter he
    spad := fun _ he => List.mem_of_mem_filter he
    rings := fun _ he => List.mem_of_mem_filter he
    descs := fun _ he => List.mem_of_mem_filter he
    governor := fun _ he => List.mem_of_mem_filter he
    window := fun _ he => List.mem_of_mem_filter he
    copies := fun _ he => List.mem_of_mem_filter he }

/-- Nothing of the partition's bays and cells is listed, and no listed line of its banks is dirty (R377). -/
structure Cleared (t : State) (p : Partition) : Prop where
  matrix : ∀ e ∈ t.matrix, e.1 / 4 / 8 ∉ p.clusters
  bregs : ∀ e ∈ t.bregs, e.1 / 64 / 8 ∉ p.clusters
  spad : ∀ e ∈ t.spad, e.1 / 2 ^ 20 / 8 ∉ p.clusters
  rings : ∀ e ∈ t.rings, e.1 / 16 / 8 ∉ p.clusters
  descs : ∀ e ∈ t.descs, e.1 / 2 ^ 20 / 8 ∉ p.clusters
  governor : ∀ e ∈ t.governor, e.1 / 8 ∉ p.clusters
  window : ∀ e ∈ t.window, e.1 / 1536 / 8 ∉ p.clusters
  copies : ∀ e ∈ t.copies, e.2.cell / 8 ∉ p.clusters
  l2 : ∀ e ∈ t.l2, e.2.bank ∈ p.banks → e.2.dirty = false

/-- What has been cleared stays so while things fall away. -/
theorem Cleared.of_wanes (h : Cleared s p) (g : Wanes s t) : Cleared t p where
  matrix e he := let ⟨m, hm⟩ := g.matrix e he; h.matrix (e.1, m) hm
  bregs e he := h.bregs e (g.bregs he)
  spad e he := h.spad e (g.spad he)
  rings e he := h.rings e (g.rings he)
  descs e he := h.descs e (g.descs he)
  governor e he := h.governor e (g.governor he)
  window e he := h.window e (g.window he)
  copies e he := h.copies e (g.copies he)
  l2 e he hb := let ⟨x, hx, hxb, hd⟩ := g.l2 e he; hd (h.l2 x hx (hxb ▸ hb))

/-- An unlisted unit or byte reads as nothing. -/
theorem Cleared.cellsCleared (h : Cleared t p) : CellsCleared t p := by
  intro cell hc
  refine ⟨fun bay hb => ?_, fun j hj => ?_, fun j hj => ?_, fun j hj => ?_, fun j hj => ?_, ?_, fun j hj => ?_,
    fun j c hg e => ?_, fun j e hg hb => h.l2 _ (mem_of_mapGet hg) hb⟩
  · exact mapGet_eq_none_of fun e he hk => h.matrix e he (by rwa [hk, hb])
  · exact wordGet_eq_zero_of fun e he hk => h.bregs e he (by rwa [hk, hj])
  · exact wordGet_eq_zero_of fun e he hk => h.spad e he (by rwa [hk, hj])
  · exact mapGet_eq_none_of fun e he hk => h.rings e he (by rwa [hk, hj])
  · exact mapGet_eq_none_of fun e he hk => h.descs e he (by rwa [hk, hj])
  · exact mapGet_eq_none_of fun e he hk => h.governor e he (by rwa [hk])
  · exact mapGet_eq_none_of fun e he hk => h.window e he (by rwa [hk, hj])
  · exact h.copies _ (mem_of_mapGet hg) (by rwa [e])

/-- What a test on the cell keeps lies outside the partition. -/
theorem outside_of_filter {α : Type} (f : α → Nat) {l : List α} {e : α}
    (he : e ∈ l.filter fun e => !(partCells p).contains (f e)) : f e / 8 ∉ p.clusters := by
  rw [← mem_partCells]
  simpa using (List.mem_filter.1 he).2

theorem cleared_resetCells (hl : ∀ e ∈ s.l2, e.2.bank ∈ p.banks → e.2.dirty = false) :
    Cleared (resetCells s (partCells p)) p where
  matrix _ he := outside_of_filter (fun e : Nat × Matrix => e.1 / 4) he
  bregs _ he := outside_of_filter (fun e : Nat × BitVec 64 => e.1 / 64) he
  spad _ he := outside_of_filter (fun e : Nat × BitVec 8 => e.1 / 2 ^ 20) he
  rings _ he := outside_of_filter (fun e : Nat × Ring => e.1 / 16) he
  descs _ he := outside_of_filter (fun e : Nat × List Word => e.1 / 2 ^ 20) he
  governor _ he := outside_of_filter (fun e : Nat × Nat × Nat × Nat => e.1) he
  window _ he := outside_of_filter (fun e : Nat × Nat => e.1 / 1536) he
  copies _ he := outside_of_filter (fun e : Nat × Copy => e.2.cell) he
  l2 := hl

end

end Sys2Proof.Machine
end

section
namespace Sys2Proof.Machine
open Sys2Proof.Claims

/-! ## The reset of one partition (R377, R378) -/

/-- The launches of a partition's VFs. -/
def resetKeys (s : State) (p : Partition) : List Nat := (s.launches.filter fun e => p.vfs.contains (e.1 / 64)).map (·.1)

/-- Whether the launch that met the fault is among those that the reset discards. -/
def metKnown (s : State) (p : Partition) (met : Option Met) : Bool :=
  (met.map fun m => (resetKeys s p).contains m.launch).getD false

/-- The reset's own entry, where no launch of the partition met the fault (R377). -/
def resetOpens (s : State) (p : Partition) (part : Nat) (code : BitVec 8) (detail : Nat) (met : Option Met) : State :=
  if metKnown s p met then s else
    logAppend s ⟨1, code, if code = FaultCode.uncorrectable.code ∨ detail = 1 then 3 else 0, detail, 0, part, 0, 0,
      0, 0, 0, 0, (met.map (·.tval)).getD 0, 0, 0⟩

/-- The reset once its entries are written (R377 step 4). -/
def resetLogs (s : State) (p : Partition) (part : Nat) (code : BitVec 8) (detail : Nat) (met : Option Met) : State :=
  (resetKeys s p).foldl (fun s k => logDiscarded s part code detail met k) (resetOpens s p part code detail met)

/-- The launches leave their slots, and with them the windows and the dirty lines of the partition go (R377). -/
def resetErases (s : State) (p : Partition) (keys : List Nat) : State :=
  { eraseAll s keys with
    windows := mapFilter (fun k _ => !p.vfs.contains (k / 2 ^ 21)) s.windows
    sends := s.sends.filter fun x => !keys.contains (x.1 % 65536)
    l2 := mapAll (fun _ e => if p.banks.contains e.bank then { e with dirty := false } else e) s.l2 }

/-- Queues, registers, translations and units of a reset partition (R377, R378). -/
def resetUnits (s : State) (p : Partition) : State :=
  resetCells (resetTranslation { rewindQueues s p.vfs with hreg := clearedRegs s.hreg p.vfs } p.vfs) (partCells p)

/-- The work of a reset, before the messages that end it. -/
def resetWork (s : State) (p : Partition) (keys : List Nat) : State :=
  resetUnits (resetErases (discardAll s keys) p keys) p

section
variable {s t u : State} {part k vf : Nat} {p : Partition} {code : BitVec 8} {detail : Nat} {met : Option Met} {l : Launch}

theorem mem_resetKeys : k ∈ resetKeys s p ↔ mapGet s.launches k ≠ none ∧ k / 64 ∈ p.vfs := by
  constructor
  · intro h
    obtain ⟨e, he, rfl⟩ := List.mem_map.1 h
    obtain ⟨hm, hv⟩ := List.mem_filter.1 he
    exact ⟨mapGet_ne_none_of_mem hm, by simpa using hv⟩
  · rintro ⟨hg, hv⟩
    obtain ⟨l, hl⟩ := Option.ne_none_iff_exists'.1 hg
    exact List.mem_map.2 ⟨(k, l), List.mem_filter.2 ⟨mem_of_mapGet hl, by simpa using hv⟩, rfl⟩

/-- The stages of a partition reset, and the messages that end it (R395). -/
theorem partitionReset_eq (h : mapGet s.parts part = some p) :
    partitionReset s part code detail met
      = { resetWork (resetLogs s p part code detail met) p (resetKeys s p) with
          messages := (resetWork (resetLogs s p part code detail met) p (resetKeys s p)).messages
            ++ ⟨none, 1⟩ :: p.vfs.map fun v => ⟨some v, 2⟩ } := by
  have hstages : partitionReset s part code detail met
      = p.vfs.foldl (fun s v => notify s (some v) 2) (notify (resetCells (resetTranslation (resetRegs (rewindQueues
          (resetErases (discardAll (resetLogs s p part code detail met) (resetKeys s p)) p (resetKeys s p))
          p.vfs) p.vfs) p.vfs) (partCells p)) none 1) := by
    unfold partitionReset
    rw [h]
    rfl
  rw [hstages, resetRegs_eq, foldl_notify, notify, List.append_assoc]
  rfl

theorem logs_resetOpens : Logs s (resetOpens s p part code detail met) := by
  unfold resetOpens
  split
  · exact .refl s
  · exact logs_logAppend _

theorem logs_resetLogs : Logs s (resetLogs s p part code detail met) :=
  logs_resetOpens.trans (logs_foldl (fun _ _ => logs_logDiscarded _) _)

/-- Every launch of the partition has its entry (R377 step 4). -/
theorem logged_resetLogs (hl : mapGet s.launches k = some l) (hv : k / 64 ∈ p.vfs) :
    ∃ e, Logged s (resetLogs s p part code detail met) part e ∧
      Reports e (if met.map (·.launch) = some k then 1 else 2) code detail k l.fence := by
  have hk : k ∈ resetKeys s p := mem_resetKeys.2 ⟨by simp [hl], hv⟩
  obtain ⟨e, he, hr⟩ := logged_foldl (s := resetOpens s p part code detail met) (part := part)
    (fun _ k => logs_logDiscarded k) hk (fun t ht =>
      logged_logDiscarded (s := t) (part := part) (code := code) (detail := detail) (met := met)
        (by rw [ht.launches, logs_resetOpens.launches]; exact hl))
  exact ⟨e, logs_resetOpens.logged_after he, hr⟩

/-- A reset whose fault no launch of the partition met has an entry of KIND 001 that names none (R377). -/
theorem logged_resetOpens (h : metKnown s p met = false) :
    ∃ e, Logged s (resetLogs s p part code detail met) part e ∧ e.kind = 1 ∧ e.code = code ∧ e.detail = detail ∧
      e.lslot = 0 ∧ e.fence = 0 := by
  have ho : resetOpens s p part code detail met = logAppend s ⟨1, code,
      if code = FaultCode.uncorrectable.code ∨ detail = 1 then 3 else 0, detail, 0, part, 0, 0, 0, 0, 0, 0,
      (met.map (·.tval)).getD 0, 0, 0⟩ := by
    rw [resetOpens, h]; rfl
  refine ⟨_, Logs.logged (logs_foldl (fun _ _ => logs_logDiscarded _) _) (ho ▸ logged_logAppend _), rfl, rfl, rfl, rfl, rfl⟩

end

end Sys2Proof.Machine
end

section
namespace Sys2Proof.Machine
open Sys2Proof.Claims

/-! ## What a partition reset leaves -/

/-- One bit of a word, read as a field and as a bit. -/
theorem bits_one_eq_one {w : Nat} (x : BitVec w) (k : Nat) : bits x.toNat k 1 = 1 ↔ x.getLsbD k = true := by
  rw [bits, BitVec.getLsbD, Nat.testBit_eq_decide_div_mod_eq, Nat.shiftRight_eq_div_pow, decide_eq_true_eq, pow_one]

theorem pageReg_inj {v u o r : Nat} (ho : o < 0x10000) (hr : r < 0x10000) : pageReg v o = pageReg u r ↔ v = u ∧ o = r := by
  unfold pageReg pfReg
  omega

theorem pageReg_ne_platectl (v o : Nat) : pageReg v o ≠ pfReg 0x220 := by
  unfold pageReg pfReg
  omega

section
variable {s t u : State} {part k vf : Nat} {p : Partition} {code : BitVec 8} {detail : Nat} {met : Option Met} {l : Launch}

/-- The registers that a reset of a partition clears (R377 step 6). -/
theorem mem_clearedPages {vfs : List Nat} {r : Nat} :
    r ∈ vfs.flatMap (fun v => [0x30, 0x40, 0x48, 0x50, 0x58].map (pageReg v))
      ↔ ∃ v ∈ vfs, ∃ o ∈ [0x30, 0x40, 0x48, 0x50, 0x58], pageReg v o = r := by
  simp only [List.mem_flatMap, List.mem_map]

theorem queueAssigned_eq : queueAssigned s k = (wordGet s.hreg (pageReg (k / 64) (0x100 + 8 * (k % 64)))).getLsbD 63 := by
  unfold queueAssigned regGet
  rw [Bool.eq_iff_iff, beq_iff_eq, bits_one_eq_one]

/-- A queue assignment lies in no register that a reset clears. -/
theorem qassign_ne_cleared {v o i : Nat} (ho : o ∈ [0x30, 0x40, 0x48, 0x50, 0x58]) (hi : i < 64) (w : Nat) :
    pageReg w (0x100 + 8 * i) ≠ pageReg v o := by
  have h58 : o ≤ 0x58 := by fin_cases ho <;> decide
  rw [Ne, pageReg_inj (by omega) (by omega)]
  omega

/-- As `resetWork`, but for what a reset changes the state is as before. -/
theorem resetWork_frame (h : Logs s t) (keys : List Nat) : ∃ e, e = resetErases (discardAll t keys) p keys ∧
    resetWork t p keys = resetUnits e p ∧
    e = { s with
      log := t.log, logSeq := t.logSeq, messages := t.messages, hreg := t.hreg, plates := t.plates, platestat := t.platestat
      atsMisses := e.atsMisses, l2 := e.l2, gangs := e.gangs, workgroups := e.workgroups, window := e.window, rings := e.rings
      copies := e.copies, blocked := e.blocked, misses := e.misses, matrix := e.matrix, joins := e.joins, larder := e.larder
      launches := e.launches, icache := e.icache, sends := e.sends
      windows := mapFilter (fun k _ => !p.vfs.contains (k / 2 ^ 21)) s.windows } := by
  refine ⟨_, rfl, rfl, ?_⟩
  unfold resetErases
  rw [eraseAll_eq, (discards_discardAll keys).frame, h.frame]

end

end Sys2Proof.Machine
end

section
namespace Sys2Proof.Machine
open Sys2Proof.Claims

section
variable {s t u : State} {part k vf : Nat} {p : Partition} {code : BitVec 8} {detail : Nat} {met : Option Met} {l : Launch}

/-- A filter on an owner keeps the entries of other VFs. -/
theorem mem_filter_not_contains {α : Type} (f : α → Nat) (vfs : List Nat) (l : List α) (e : α) :
    e ∈ l.filter (fun e => !vfs.contains (f e)) ↔ e ∈ l ∧ ¬f e ∈ vfs := by
  simp

/-- The queues of the partition's VFs are rewound and stopped; every other queue is as before (R378). -/
theorem queues_resetUnits (hq : t.queues = s.queues) (hr : ∀ r, r ≠ pfReg 0x220 → wordGet t.hreg r = wordGet s.hreg r) (k : Nat) :
    (¬k / 64 ∈ p.vfs → mapGet (resetUnits t p).queues k = mapGet s.queues k) ∧
    (k / 64 ∈ p.vfs → (∀ q, mapGet s.queues k = some q →
        mapGet (resetUnits t p).queues k = some { q with sp := q.rp, stopped := true, ended := [] }) ∧
      (mapGet s.queues k = none → mapGet (resetUnits t p).queues k =
        if (wordGet s.hreg (pageReg (k / 64) (0x100 + 8 * (k % 64)))).getLsbD 63 then some ⟨0, 0, 0, 0, 0, true, 0, [], []⟩
        else none)) := by
  have hget : mapGet (resetUnits t p).queues k = _ := mapGet_rewindQueues p.vfs k
  rw [hq, queueAssigned_eq, hr _ (pageReg_ne_platectl _ _)] at hget
  rw [hget]
  refine ⟨fun hv => if_neg hv, fun hv => ⟨fun q h => ?_, fun h => ?_⟩⟩
  · rw [if_pos hv, h]; rfl
  · rw [if_pos hv, h]; rfl

/-- SLICE and the save areas of the partition's VFs are at Reset, and every other register but PLATECTL as before (R377). -/
theorem hreg_resetUnits (hr : ∀ r, r ≠ pfReg 0x220 → wordGet t.hreg r = wordGet s.hreg r) :
    (∀ v ∈ p.vfs, ∀ o ∈ [0x30, 0x40, 0x48, 0x50, 0x58], wordGet (resetUnits t p).hreg (pageReg v o) = 0) ∧
    ∀ r, r ≠ pfReg 0x220 → (∀ v ∈ p.vfs, ∀ o ∈ [0x30, 0x40, 0x48, 0x50, 0x58], r ≠ pageReg v o) →
      wordGet (resetUnits t p).hreg r = wordGet s.hreg r := by
  have hget : ∀ r, wordGet (resetUnits t p).hreg r = _ := wordGet_clearedRegs t.hreg p.vfs
  refine ⟨fun v hv o ho => ?_, fun r h220 hne => ?_⟩
  · rw [hget, if_pos (mem_clearedPages.2 ⟨v, hv, o, ho, rfl⟩)]
  · rw [hget, if_neg, hr r h220]
    rintro hin
    obtain ⟨v, hv, o, ho, rfl⟩ := mem_clearedPages.1 hin
    exact hne v hv o ho rfl

theorem wanes_resetErases (keys : List Nat) : Wanes s (resetErases s p keys) := by
  refine (discards_eraseAll keys).wanes.trans { Wanes.refl (eraseAll s keys) with l2 := fun e he => ?_ }
  have hl2 : (eraseAll s keys).l2 = s.l2 := congrArg (·.l2) (eraseAll_eq keys)
  obtain ⟨x, hx, rfl⟩ := List.mem_map.1 he
  refine ⟨x, hl2 ▸ hx, ?_⟩
  dsimp only
  split
  · exact ⟨rfl, fun _ => rfl⟩
  · exact ⟨rfl, id⟩

theorem wanes_resetWork (keys : List Nat) : Wanes s (resetWork s p keys) :=
  ((discards_discardAll keys).wanes.trans (wanes_resetErases keys)).trans
    (Wanes.trans (t := resetTranslation { rewindQueues (resetErases (discardAll s keys) p keys) p.vfs with
      hreg := clearedRegs (resetErases (discardAll s keys) p keys).hreg p.vfs } p.vfs) (.same rfl) (wanes_resetCells _))

theorem wanes_partitionReset : Wanes s (partitionReset s part code detail met) := by
  cases h : mapGet s.parts part with
  | none =>
    rw [show partitionReset s part code detail met = s by rw [partitionReset, h]]
    exact .refl s
  | some p =>
    rw [partitionReset_eq h]
    exact (logs_resetLogs.wanes.trans (wanes_resetWork _)).trans (.same rfl)

/-- The lines of some banks, written back, are not dirty. -/
theorem dirty_of_mem_cleaned {banks : List Nat} {m : AMap L2Line} {e : Nat × L2Line}
    (he : e ∈ mapAll (fun _ e => if banks.contains e.bank then { e with dirty := false } else e) m) (hb : e.2.bank ∈ banks) :
    e.2.dirty = false := by
  obtain ⟨x, -, rfl⟩ := List.mem_map.1 he
  by_cases hx : x.2.bank ∈ banks
  · simp [hx]
  · simp [hx] at hb

/-- Nothing of the partition's units is left after its reset (R377). -/
theorem cleared_partitionReset (h : mapGet s.parts part = some p) : Cleared (partitionReset s part code detail met) p := by
  rw [partitionReset_eq h]
  refine (cleared_resetCells fun e he hb => ?_ : Cleared (resetWork _ p _) p).of_wanes (.same rfl)
  exact dirty_of_mem_cleaned (m := (discardAll _ _).l2) he hb

theorem launches_resetUnits : (resetUnits s p).launches = s.launches := rfl

theorem launches_resetErases (keys : List Nat) : (resetErases s p keys).launches = (eraseAll s keys).launches := rfl

theorem gangs_resetErases (keys : List Nat) : (resetErases s p keys).gangs = s.gangs := congrArg (·.gangs) (eraseAll_eq keys)

theorem joins_resetErases (keys : List Nat) : (resetErases s p keys).joins = s.joins := congrArg (·.joins) (eraseAll_eq keys)

theorem gangs_resetUnits : (resetUnits s p).gangs = s.gangs := rfl

theorem joins_resetUnits : (resetUnits s p).joins = s.joins := rfl

/-- No gang of a launch of the partition is left. -/
theorem gangs_resetWork (h : Logs s t) (g : Nat × Gang) (hg : g ∈ (resetWork t p (resetKeys s p)).gangs) (w : Workgroup)
    (hw : (g.2.wg, w) ∈ s.workgroups) (hl : mapGet s.launches (64 * w.vf + w.lslot) ≠ none) (h64 : w.lslot < 64) :
    w.vf ∉ p.vfs := by
  intro hv
  have hdiv : (64 * w.vf + w.lslot) / 64 = w.vf := by omega
  have hmod : (64 * w.vf + w.lslot) % 64 = w.lslot := by omega
  have hkey : 64 * w.vf + w.lslot ∈ resetKeys s p := mem_resetKeys.2 ⟨hl, hdiv.symm ▸ hv⟩
  have hwt : (g.2.wg, w) ∈ t.workgroups := h.wanes.workgroups g ((wanes_resetWork _).gangs hg) w hw
  rw [resetWork, gangs_resetUnits, gangs_resetErases] at hg
  exact gangs_discardAll hkey g hg w hwt ⟨hdiv.symm, hmod.symm⟩

/-- No join entry of a launch of the partition is left. -/
theorem joins_resetWork (j : Nat × Join) (hj : j ∈ (resetWork t p (resetKeys s p)).joins)
    (hl : mapGet s.launches (64 * j.2.vf + j.2.lslot) ≠ none) (h64 : j.2.lslot < 64) : j.2.vf ∉ p.vfs := by
  intro hv
  have hdiv : (64 * j.2.vf + j.2.lslot) / 64 = j.2.vf := by omega
  have hmod : (64 * j.2.vf + j.2.lslot) % 64 = j.2.lslot := by omega
  have hkey : 64 * j.2.vf + j.2.lslot ∈ resetKeys s p := mem_resetKeys.2 ⟨hl, hdiv.symm ▸ hv⟩
  rw [resetWork, joins_resetUnits, joins_resetErases] at hj
  exact joins_discardAll hkey j hj ⟨hdiv.symm, hmod.symm⟩

/-- Memory, events, partitions, policies, drain states, buckets and the clock stay (R377). -/
theorem kept_resetWork (h : Logs s t) (keys : List Nat) :
    (resetWork t p keys).clamped = s.clamped ∧ (resetWork t p keys).dram = s.dram ∧ (resetWork t p keys).voids = s.voids ∧
    (resetWork t p keys).host = s.host ∧ (resetWork t p keys).events = s.events ∧ (resetWork t p keys).parts = s.parts ∧
    (resetWork t p keys).policy = s.policy ∧ (resetWork t p keys).drainVf = s.drainVf ∧
    (resetWork t p keys).buckets = s.buckets ∧ (resetWork t p keys).clock = s.clock := by
  obtain ⟨e, -, hw, hf⟩ := resetWork_frame (p := p) h keys
  rw [hw, hf]
  exact ⟨rfl, rfl, rfl, rfl, rfl, rfl, rfl, rfl, rfl, rfl⟩

/-- The translations, the requests and the send windows of the partition's VFs are gone, and those of others stay (R377). -/
theorem filtered_resetWork (h : Logs s t) (keys : List Nat) :
    (resetWork t p keys).walkCache = s.walkCache.filter (fun x => !p.vfs.contains x.vf) ∧
    (resetWork t p keys).windows = mapFilter (fun k _ => !p.vfs.contains (k / 2 ^ 21)) s.windows ∧
    (resetWork t p keys).tlb = s.tlb.filter (fun x => !p.vfs.contains x.vf) ∧
    (resetWork t p keys).requests = s.requests.filter (fun x => !p.vfs.contains x.vf) ∧
    (resetWork t p keys).tlbErr = s.tlbErr.filter (fun x => !p.vfs.contains x) := by
  obtain ⟨e, -, hw, hf⟩ := resetWork_frame (p := p) h keys
  rw [hw, hf]
  exact ⟨rfl, rfl, rfl, rfl, rfl⟩

theorem mapGet_launches_resetWork (h : Logs s t) (keys : List Nat) (k : Nat) :
    mapGet (resetWork t p keys).launches k = if k ∈ keys then none else mapGet s.launches k := by
  rw [resetWork, launches_resetUnits, launches_resetErases, mapGet_launches_gone, h.launches]

/-- The queues and the registers of the partition's VFs, and those of others. -/
theorem registers_resetWork (h : Logs s t) (keys : List Nat) : ∃ e, resetWork t p keys = resetUnits e p ∧
    e.queues = s.queues ∧ ∀ r, r ≠ pfReg 0x220 → wordGet e.hreg r = wordGet s.hreg r := by
  obtain ⟨e, -, hw, hf⟩ := resetWork_frame (p := p) h keys
  refine ⟨e, hw, ?_, ?_⟩ <;> rw [hf]
  exact h.hreg

/-- The reset of a partition does to its VFs what R377 and R378 say, and to no other. -/
theorem resetsPartitions_resetWork (h : Logs s t) : ResetsPartitions s (resetWork t p (resetKeys s p)) (· ∈ p.vfs) := by
  obtain ⟨e, hw, hq, hr⟩ := registers_resetWork (p := p) h (resetKeys s p)
  obtain ⟨hwalk, hwin, htlb, hreq, herr⟩ := filtered_resetWork (p := p) h (resetKeys s p)
  have hqueues := queues_resetUnits (p := p) hq hr
  have hregs := hreg_resetUnits (p := p) hr
  rw [← hw] at hqueues hregs
  have hwindows : ∀ k, mapGet (resetWork t p (resetKeys s p)).windows k
      = if k / 2 ^ 21 ∈ p.vfs then none else mapGet s.windows k := fun k => by
    rw [hwin, mapGet_mapFilter_key fun k => !p.vfs.contains (k / 2 ^ 21)]
    simp
  have hwanes : Wanes s (resetWork t p (resetKeys s p)) := h.wanes.trans (wanes_resetWork _)
  have hlaunches := mapGet_launches_resetWork (p := p) h (resetKeys s p)
  refine ⟨fun k => ⟨fun hk => ?_, fun hk => ?_⟩, hqueues, hregs.1, hregs.2, fun x => ?_,
    fun k => ⟨fun hk => (hwindows k).trans (if_pos hk), fun hk => (hwindows k).trans (if_neg hk)⟩, fun x => ?_, fun x => ?_,
    fun x => ?_, (kept_resetWork h _).1, fun g hg => ⟨hwanes.gangs hg, gangs_resetWork h g hg⟩,
    fun j hj => ⟨hwanes.joins hj, joins_resetWork j hj⟩, (kept_resetWork h _).2⟩
  · rw [hlaunches]
    split
    · rfl
    · next hk' => exact not_not.1 fun hg => hk' (mem_resetKeys.2 ⟨hg, hk⟩)
  · rw [hlaunches, if_neg fun hk' => hk (mem_resetKeys.1 hk').2]
  · rw [hwalk]; exact mem_filter_not_contains (fun x : WalkEntry => x.vf) _ _ _
  · rw [htlb]; exact mem_filter_not_contains (fun x : TlbEntry => x.vf) _ _ _
  · rw [hreq]; exact mem_filter_not_contains (fun x : PageRequest => x.vf) _ _ _
  · rw [herr]; exact mem_filter_not_contains id _ _ _

end

end Sys2Proof.Machine
end

section
namespace Sys2Proof.Machine
open Sys2Proof.Claims

section
variable {s t u : State} {part k vf : Nat} {p : Partition} {code : BitVec 8} {detail : Nat} {met : Option Met} {l : Launch}

theorem resetsPartitions_partitionReset (h : mapGet s.parts part = some p) :
    ResetsPartitions s (partitionReset s part code detail met) (· ∈ p.vfs) := by
  rw [partitionReset_eq h]
  exact resetsPartitions_resetWork logs_resetLogs

/-- A reset touches no health counter and no link; what it logs is what `resetLogs` wrote, and its messages follow those of the
entries (R377, R395). -/
theorem reports_partitionReset (h : mapGet s.parts part = some p) :
    (partitionReset s part code detail met).health = s.health ∧ (partitionReset s part code detail met).links = s.links ∧
    (partitionReset s part code detail met).log = (resetLogs s p part code detail met).log ∧
    (partitionReset s part code detail met).messages
      = (resetLogs s p part code detail met).messages ++ ⟨none, 1⟩ :: p.vfs.map fun v => ⟨some v, 2⟩ := by
  obtain ⟨e, -, hw, hf⟩ := resetWork_frame (p := p) logs_resetLogs (resetKeys s p)
  rw [partitionReset_eq h, hw, hf]
  exact ⟨rfl, rfl, rfl, rfl⟩

theorem logged_partitionReset (h : mapGet s.parts part = some p) {e : LogEntry}
    (he : Logged s (resetLogs s p part code detail met) part e) : Logged s (partitionReset s part code detail met) part e := by
  obtain ⟨-, -, hlog, -⟩ := reports_partitionReset (code := code) (detail := detail) (met := met) h
  rw [Logged, hlog]
  exact he

/-- The physical function hears of a reset by vector 1, and each VF by vector 2 (R395). -/
theorem messages_partitionReset (h : mapGet s.parts part = some p) :
    ⟨none, 1⟩ ∈ (partitionReset s part code detail met).messages.drop s.messages.length ∧
    ∀ v ∈ p.vfs, ⟨some v, 2⟩ ∈ (partitionReset s part code detail met).messages.drop s.messages.length := by
  obtain ⟨-, -, -, hm⟩ := reports_partitionReset (code := code) (detail := detail) (met := met) h
  obtain ⟨l, hl⟩ := (logs_resetLogs (s := s) (p := p) (part := part) (code := code) (detail := detail) (met := met)).messages
  rw [hm, ← hl, List.append_assoc, List.drop_left]
  exact ⟨by simp, fun v hv => by simp [hv]⟩

/-! ## Several partitions in turn -/

/-- Nothing has been reset. -/
theorem resetsPartitions_none {mine : Nat → Prop} (h : ∀ v, ¬mine v) : ResetsPartitions s s mine := by
  refine ⟨fun k => ⟨fun hk => absurd hk (h _), fun _ => rfl⟩, fun k => ⟨fun _ => rfl, fun hk => absurd hk (h _)⟩,
    fun v hv => absurd hv (h v), fun _ _ _ => rfl, fun e => ⟨fun he => ⟨he, h _⟩, And.left⟩,
    fun k => ⟨fun hk => absurd hk (h _), fun _ => rfl⟩, fun e => ⟨fun he => ⟨he, h _⟩, And.left⟩,
    fun e => ⟨fun he => ⟨he, h _⟩, And.left⟩, fun e => ⟨fun he => ⟨he, h _⟩, And.left⟩, rfl,
    fun e he => ⟨he, fun w _ _ _ => h _⟩, fun e he => ⟨he, fun _ _ => h _⟩, rfl, rfl, rfl, rfl, rfl, rfl, rfl, rfl, rfl⟩

/-- What two filters in turn keep. -/
theorem mem_of_neither {α : Type} {x y z : List α} {one two : Nat → Prop} (f : α → Nat) (hy : ∀ e, e ∈ y ↔ e ∈ x ∧ ¬one (f e))
    (hz : ∀ e, e ∈ z ↔ e ∈ y ∧ ¬two (f e)) (e : α) : e ∈ z ↔ e ∈ x ∧ ¬(one (f e) ∨ two (f e)) := by
  rw [hz, hy, not_or, and_assoc]

/-- The resets of two sets of VFs, one after the other, are the reset of both. -/
theorem resetsPartitions_trans {one two : Nat → Prop} (h : ResetsPartitions s t one) (g : ResetsPartitions t u two)
    (hw : Wanes s t) (hdis : ∀ v, one v → ¬two v) : ResetsPartitions s u fun v => one v ∨ two v := by
  obtain ⟨hl, hq, hz, hr, hwc, hwin, htlb, hreq, herr, hcl, hg, hj, hsame⟩ := h
  obtain ⟨gl, gq, gz, gr, gwc, gwin, gtlb, greq, gerr, gcl, gg, gj, gsame⟩ := g
  obtain ⟨h1, h2, h3, h4, h5, h6, h7, h8, h9⟩ := hsame
  obtain ⟨g1, g2, g3, g4, g5, g6, g7, g8, g9⟩ := gsame
  have hlaunch : ∀ k, ¬one (k / 64) → mapGet s.launches k ≠ none → mapGet t.launches k ≠ none := fun k hk h => (hl k).2 hk ▸ h
  have hdiv : ∀ v i : Nat, i < 64 → (64 * v + i) / 64 = v := fun v i hi => by omega
  refine ⟨fun k => ⟨?_, fun hk => ?_⟩, fun k => ⟨fun hk => ?_, ?_⟩, ?_, fun r h220 hne => ?_,
    mem_of_neither (fun x : WalkEntry => x.vf) hwc gwc, fun k => ⟨?_, fun hk => ?_⟩, mem_of_neither (fun x : TlbEntry => x.vf) htlb gtlb, mem_of_neither (fun x : PageRequest => x.vf) hreq greq,
    mem_of_neither id herr gerr,
    gcl.trans hcl, fun e he => ⟨(hg e (gg e he).1).1, fun w hew hkl h64 => ?_⟩,
    fun e he => ⟨(hj e (gj e he).1).1, fun hkl h64 => ?_⟩,
    g1.trans h1, g2.trans h2, g3.trans h3, g4.trans h4, g5.trans h5, g6.trans h6, g7.trans h7, g8.trans h8, g9.trans h9⟩
  · rintro (hk | hk)
    · exact ((gl k).2 (hdis _ hk)).trans ((hl k).1 hk)
    · exact (gl k).1 hk
  · exact ((gl k).2 fun h => hk (.inr h)).trans ((hl k).2 fun h => hk (.inl h))
  · exact ((gq k).1 fun h => hk (.inr h)).trans ((hq k).1 fun h => hk (.inl h))
  · rintro (hk | hk)
    · rw [(gq k).1 (hdis _ hk)]
      exact (hq k).2 hk
    · have hne : ¬one (k / 64) := fun h => hdis _ h hk
      have hreg : wordGet t.hreg (pageReg (k / 64) (0x100 + 8 * (k % 64))) = wordGet s.hreg (pageReg (k / 64) (0x100 + 8 * (k % 64))) :=
        hr _ (pageReg_ne_platectl _ _) fun v _ o ho => qassign_ne_cleared ho (by omega) _
      rw [← (hq k).1 hne, ← hreg]
      exact (gq k).2 hk
  · rintro v (hv | hv) o ho
    · have hkept : wordGet u.hreg (pageReg v o) = wordGet t.hreg (pageReg v o) := by
        refine gr _ (pageReg_ne_platectl _ _) fun x hx y hy e => ?_
        have hlt : ∀ i ∈ [0x30, 0x40, 0x48, 0x50, 0x58], i < 0x10000 := by decide
        obtain ⟨rfl, -⟩ := (pageReg_inj (hlt o ho) (hlt y hy)).1 e
        exact hdis _ hv hx
      exact hkept.trans (hz v hv o ho)
    · exact gz v hv o ho
  · exact (gr r h220 fun v hv => hne v (.inr hv)).trans (hr r h220 fun v hv => hne v (.inl hv))
  · rintro (hk | hk)
    · exact ((gwin k).2 (hdis _ hk)).trans ((hwin k).1 hk)
    · exact (gwin k).1 hk
  · exact ((gwin k).2 fun h => hk (.inr h)).trans ((hwin k).2 fun h => hk (.inl h))
  · have h1 : ¬one w.vf := (hg e (gg e he).1).2 w hew hkl h64
    have h2 : ¬two w.vf := (gg e he).2 w (hw.workgroups e (gg e he).1 w hew) (hlaunch _ (by rwa [hdiv _ _ h64]) hkl) h64
    exact not_or.2 ⟨h1, h2⟩
  · have h1 : ¬one e.2.vf := (hj e (gj e he).1).2 hkl h64
    have h2 : ¬two e.2.vf := (gj e he).2 (hlaunch _ (by rwa [hdiv _ _ h64]) hkl) h64
    exact not_or.2 ⟨h1, h2⟩

/-- The reset of the partitions of a list, one after the other (R377). -/
theorem resets_foldl (l : List (Nat × Partition)) (hget : ∀ e ∈ l, mapGet s.parts e.1 = some e.2)
    (hdis : l.Pairwise fun a b => ∀ v ∈ a.2.vfs, v ∉ b.2.vfs) :
    ResetsPartitions s ((l.map (·.1)).foldl (fun s k => partitionReset s k code detail none) s) (fun v => ∃ e ∈ l, v ∈ e.2.vfs) ∧
    Wanes s ((l.map (·.1)).foldl (fun s k => partitionReset s k code detail none) s) ∧
    ∀ e ∈ l, Cleared ((l.map (·.1)).foldl (fun s k => partitionReset s k code detail none) s) e.2 := by
  induction l generalizing s with
  | nil => exact ⟨resetsPartitions_none fun v ⟨e, he, _⟩ => (List.not_mem_nil he).elim, .refl s, fun e he => (List.not_mem_nil he).elim⟩
  | cons x r ih =>
    have hx : mapGet s.parts x.1 = some x.2 := hget x List.mem_cons_self
    have h1 := resetsPartitions_partitionReset (code := code) (detail := detail) (met := none) hx
    have hparts : (partitionReset s x.1 code detail none).parts = s.parts := by
      obtain ⟨-, -, -, -, -, -, -, -, -, -, -, -, -, -, -, -, hp, -⟩ := h1
      exact hp
    rw [List.pairwise_cons] at hdis
    obtain ⟨hr, hw, hc⟩ := ih (s := partitionReset s x.1 code detail none)
      (fun e he => hparts ▸ hget e (List.mem_cons_of_mem _ he)) hdis.2
    have hboth := resetsPartitions_trans h1 hr wanes_partitionReset fun v hv ⟨e, he, hve⟩ => hdis.1 e he v hv hve
    refine ⟨?_, wanes_partitionReset.trans hw, fun e he => ?_⟩
    · have hset : (fun v => ∃ e ∈ x :: r, v ∈ e.2.vfs) = fun v => v ∈ x.2.vfs ∨ ∃ e ∈ r, v ∈ e.2.vfs :=
        funext fun v => propext (by simp)
      rw [hset]
      exact hboth
    · rcases List.mem_cons.1 he with rfl | he
      · exact (cleared_partitionReset hx).of_wanes hw
      · exact hc e he

/-- What partitions own is apart: in particular their VFs. -/
theorem vfs_disjoint (h : PartitionsDisjoint s) : s.parts.Pairwise fun a b => ∀ v ∈ a.2.vfs, v ∉ b.2.vfs :=
  h.2.2.imp fun hab => hab 8 (by decide)

/-- A reset of every partition (R377). -/
theorem resets_resetAll (h : PartitionsDisjoint s) : ResetsPartitions s (resetAll s code detail) (fun v => ∃ e ∈ s.parts, v ∈ e.2.vfs) ∧
    ∀ e ∈ s.parts, CellsCleared (resetAll s code detail) e.2 := by
  obtain ⟨hr, -, hc⟩ := resets_foldl (code := code) (detail := detail) s.parts
    (fun e he => mapGet_of_mem_nodup h.1 he) (vfs_disjoint h)
  exact ⟨hr, fun e he => (hc e he).cellsCleared⟩

end

end Sys2Proof.Machine
end

section
namespace Sys2Proof.Machine
open Sys2Proof.Claims

/-! ## MARK_OVERDUE (R323, R380) -/

section
variable {s : State} {slot part vf lslot die detail : Nat} {g : Gang} {w : Workgroup} {p : Partition} {l : Launch}

theorem markOverdueCount_next (hg : mapGet s.gangs slot = some g) (he : g.ended = false) (hs : g.stopped = false)
    (hseal : g.sealed = true) (hc : g.charged = false) (hm : 4096 ≤ g.markCount) :
    exec (.markOverdueCount slot) s = .next (takeFault s slot g (lenAt s slot g) (precise .markOverdue 4096)) := by
  show execMarkOverdueCount slot s = _
  simp [execMarkOverdueCount, hg, he, hs, hseal, hc, hm]

/-- A gang that is sealed or in a handler, and held otherwise than by BRK, counts its cycles once its workgroup's pre-emption has
been acted on (R380). -/
theorem heldUnder_of (hw : mapGet s.workgroups g.wg = some w) (ha : w.acted = true) (hp : w.phase = .running) (hh : g.hold ≠ none)
    (hb : g.hold ≠ some .brk) (hseal : g.sealed = true ∨ g.tcause.getLsbD 63 = true) (he : g.ended = false)
    (hs : g.stopped = false) : heldUnder s g = true := by
  have hsome : g.hold.isSome = true := Option.isSome_iff_ne_none.2 hh
  have hmark : (g.sealed || inHandler g) = true := Bool.or_eq_true_iff.2 hseal
  simp [heldUnder, sealedForPreempt, hw, ha, hp, hsome, hb, hmark, he, hs]

theorem markOverdueHeld_next (hg : mapGet s.gangs slot = some g) (hu : heldUnder s g = true) (hm : 65536 ≤ g.heldCycles) :
    exec (.markOverdueHeld slot) s = .next (takeFault s slot g (lenAt s slot g) (precise .markOverdue 65536)) := by
  show execMarkOverdueHeld slot s = _
  simp [execMarkOverdueHeld, hg, hu, hm]

/-! ## HANG (R376) -/

/-- The partition of a VF is in the table, and lists it. -/
theorem partOf_eq_some (h : PartitionsDisjoint s) (hp : partOf s vf = some (part, p)) :
    mapGet s.parts part = some p ∧ vf ∈ p.vfs :=
  ⟨mapGet_of_mem_nodup h.1 (List.mem_of_find?_eq_some hp), by simpa using List.find?_some hp⟩

theorem hangRuntime_next (hl : mapGet s.launches (64 * vf + lslot) = some l) (hp : partOf s vf = some (part, p))
    (hv : (wordGet s.hreg (pfReg (0x1000 + 8 * part))).getLsbD 63 = true)
    (h0 : (wordGet s.hreg (pfReg (0x1000 + 8 * part))).toNat % 2 ^ 32 ≠ 0)
    (hc : l.started + 1400000 * ((wordGet s.hreg (pfReg (0x1000 + 8 * part))).toNat % 2 ^ 32) ≤ s.clock)
    (hr : l.phase = .running) :
    exec (.hangRuntime vf lslot) s = .next (partitionReset s part FaultCode.hang.code 0 (some ⟨64 * vf + lslot, 0, 0, 0, 0⟩)) := by
  show execHangRuntime vf lslot s = _
  have hlimit : bits (regGet s (pfReg (0x1000 + 8 * part))) 0 32
      = (wordGet s.hreg (pfReg (0x1000 + 8 * part))).toNat % 2 ^ 32 := by
    simp [bits, regGet]
  have hvalid : bits (regGet s (pfReg (0x1000 + 8 * part))) 63 1 = 1 := (bits_one_eq_one _ 63).2 hv
  have hwaits : entryWaits s (launchKey vf lslot) l = false := by simp [entryWaits, hr]
  rw [launchKey] at hwaits
  unfold execHangRuntime
  simp only [launchKey, hl, hp]
  exact if_pos ⟨hvalid, hlimit ▸ h0, hlimit ▸ hc, hwaits⟩

/-- A partition whose unit failed, without a launch that met it, has an entry of its own and one for each launch (R377). -/
theorem logged_reset_none {code : BitVec 8} (h : mapGet s.parts part = some p) :
    (∃ e, Logged s (partitionReset s part code detail none) part e ∧ e.kind = 1 ∧ e.code = code ∧ e.detail = detail ∧
      e.lslot = 0 ∧ e.fence = 0) ∧
    ∀ k o, mapGet s.launches k = some o → k / 64 ∈ p.vfs →
      ∃ x, Logged s (partitionReset s part code detail none) part x ∧ Reports x 2 code detail k o.fence := by
  constructor
  · obtain ⟨e, he, hr⟩ := logged_resetOpens (s := s) (p := p) (part := part) (code := code) (detail := detail) (met := none) rfl
    exact ⟨e, logged_partitionReset h he, hr⟩
  · intro k o ho hk
    obtain ⟨x, hx, hr⟩ := logged_resetLogs (part := part) (code := code) (detail := detail) (met := none) ho hk
    exact ⟨x, logged_partitionReset h hx, hr⟩

/-! ## UNCORRECTABLE and the thermal trip (R377, R392, R412) -/

theorem counted_healthAdd (n : Nat) : Counted s (healthAdd s n) n := by
  intro k
  rw [healthAdd, mapGet_mapSet]
  split
  · subst k; rfl
  · rfl

/-- The reset of a state in which a counter rose is a reset of the state before (R401). -/
theorem resetsPartitions_healthAdd {t : State} {mine : Nat → Prop} {n : Nat} (h : ResetsPartitions (healthAdd s n) t mine) :
    ResetsPartitions s t mine := h

theorem errorPlace_some (hd : die < 4) (hs : detail < 5) (h2 : detail ≠ 2) (h : mapGet s.parts part = some p)
    (ho : if detail = 3 then ∃ b ∈ p.larder, b / 32 = die else ∃ c ∈ p.clusters, c / 16 = die) :
    errorPlace s (some part) die detail = true := by
  have h5 : detail ≠ 5 := by omega
  have hown : ownsOn p die detail = true := by
    by_cases h3 : detail = 3
    · simpa [ownsOn, h3] using ho
    · simpa [ownsOn, h3, h2] using ho
  simp [errorPlace, dieCarries, hd, hs, h2, h5, h, hown]

theorem errorPlace_none (h : (detail = 5 ∧ die < 6) ∨ (die < 4 ∧ detail < 5 ∧ detail ≠ 2)) : errorPlace s none die detail = true := by
  rcases h with ⟨rfl, hd⟩ | ⟨hd, hs, h2⟩
  · simp [errorPlace, dieCarries, hd]
  · have h5 : detail ≠ 5 := by omega
    simp [errorPlace, dieCarries, hd, hs, h2, h5]

theorem sramUncorrectable_some (h : errorPlace s (some part) die detail = true) : exec (.sramUncorrectable (some part) die detail) s
    = .next (partitionReset (healthAdd s (8192 + 16 * die + detail)) part FaultCode.uncorrectable.code detail none) := by
  show execSramUncorrectable _ die detail s = _
  rw [execSramUncorrectable, if_pos h]
  rfl

theorem sramUncorrectable_none (h : errorPlace s none die detail = true) : exec (.sramUncorrectable none die detail) s
    = .next (resetAll (healthAdd s (8192 + 16 * die + detail)) FaultCode.uncorrectable.code detail) := by
  show execSramUncorrectable _ die detail s = _
  rw [execSramUncorrectable, if_pos h]
  rfl

theorem anyDie_eq {n : Nat} : anyDie s n = true ↔ ∃ e ∈ s.temps, n ≤ e.2 := by simp [anyDie]

theorem not_anyDie {n : Nat} (h : ∀ e ∈ s.temps, e.2 < n) : anyDie s n = false := by
  rw [← Bool.not_eq_true, anyDie_eq]
  rintro ⟨e, he, hn⟩
  exact absurd (h e he) (by omega)

theorem thermalTrip_resets (htrip : s.trip = false) (h : ∃ e ∈ s.temps, 115 ≤ e.2) :
    exec .thermalTrip s = .next { resetAll s FaultCode.uncorrectable.code 5 with trip := true } := by
  show execThermalTrip s = _
  rw [execThermalTrip, anyDie_eq.2 h, htrip]
  rfl

theorem thermalTrip_same (h : ∀ e ∈ s.temps, e.2 < 115) : exec .thermalTrip s = .next s := by
  show execThermalTrip s = _
  rw [execThermalTrip, not_anyDie h]
  rfl

theorem thermalTripRelease_ends (h : ∀ e ∈ s.temps, e.2 < 95) : exec .thermalTripRelease s = .next { s with trip := false } := by
  show execThermalTripRelease s = _
  rw [execThermalTripRelease, not_anyDie h]
  rfl

theorem thermalTripRelease_same (h : ∃ e ∈ s.temps, 95 ≤ e.2) : exec .thermalTripRelease s = .next s := by
  show execThermalTripRelease s = _
  rw [execThermalTripRelease, anyDie_eq.2 h]
  rfl

/-- The latch of the trip is no part of what a reset says (R412). -/
theorem resetsPartitions_trip {t : State} {mine : Nat → Prop} (h : ResetsPartitions s t mine) :
    ResetsPartitions s { t with trip := true } mine := h

end

/-- Settles O51. A reset is taken apart into its stages (the entries of the log, the discard of the launches, the units); each stage
only removes what the partition owns, so that the resets of several disjoint partitions add up. -/
theorem uncontainedFaultEvents : Obligations.UncontainedFaultEvents := by
  refine ⟨fun s slot g hg he hs => ⟨markOverdueCount_next hg he hs, fun w hw ha hp hh hb hseal hm =>
      markOverdueHeld_next hg (heldUnder_of hw ha hp hh hb hseal he hs) hm⟩, ?_, ?_, ?_⟩
  · intro s vf lslot part p l hlt hdis hl hpart w limit hv h0 hc hr
    obtain ⟨hget, hmem⟩ := partOf_eq_some hdis hpart
    have hvf : (64 * vf + lslot) / 64 = vf := by omega
    have hslot : (64 * vf + lslot) % 64 = lslot := by omega
    obtain ⟨e, he, hrep⟩ := logged_resetLogs (part := part) (code := FaultCode.hang.code) (detail := 0)
      (met := some ⟨64 * vf + lslot, 0, 0, 0, 0⟩) hl (by rw [hvf]; exact hmem)
    rw [Option.map_some, if_pos rfl, Reports, hvf, hslot] at hrep
    obtain ⟨hk, hcode, hd, hevf, hes, hf⟩ := hrep
    obtain ⟨hpf, hvfs⟩ := messages_partitionReset (code := FaultCode.hang.code) (detail := 0)
      (met := some ⟨64 * vf + lslot, 0, 0, 0, 0⟩) hget
    refine ⟨_, e, hangRuntime_next hl hpart hv h0 hc hr, resetsPartitions_partitionReset hget,
      (cleared_partitionReset hget).cellsCleared, logged_partitionReset hget he, hk, hcode, hd, hevf, hes, hf, ?_, hpf, hvfs⟩
    intro k o ho hne hkv
    obtain ⟨x, hx, hrep⟩ := logged_resetLogs (part := part) (code := FaultCode.hang.code) (detail := 0)
      (met := some ⟨64 * vf + lslot, 0, 0, 0, 0⟩) ho hkv
    rw [Option.map_some, if_neg fun h => hne (Option.some.inj h).symm] at hrep
    exact ⟨x, logged_partitionReset hget hx, hrep⟩
  · intro s part p hdis hget
    constructor
    · obtain ⟨⟨e, he, hrep⟩, hall⟩ := logged_reset_none (code := FaultCode.hang.code) (detail := 1) hget
      obtain ⟨hk, hc, hd, hls, hf⟩ := hrep
      exact ⟨_, e, rfl, resetsPartitions_partitionReset hget, (cleared_partitionReset hget).cellsCleared, he, hk, hc, hd, hls, hf, hall⟩
    · intro die detail hd hs h2 ho
      have hget' : mapGet (healthAdd s (8192 + 16 * die + detail)).parts part = some p := hget
      obtain ⟨⟨e, he, hk, hc, hdet, -, -⟩, -⟩ := logged_reset_none (code := FaultCode.uncorrectable.code) (detail := detail) hget'
      obtain ⟨hh, -, -, -⟩ := reports_partitionReset (code := FaultCode.uncorrectable.code) (detail := detail) (met := none) hget'
      refine ⟨_, e, sramUncorrectable_some (errorPlace_some hd hs h2 hget ho),
        resetsPartitions_healthAdd (resetsPartitions_partitionReset hget'), (cleared_partitionReset hget').cellsCleared, ?_, he,
        hk, hc, hdet⟩
      rw [Counted, hh]
      exact counted_healthAdd _
  · intro s hdis owned
    refine ⟨fun htrip hhot => ?_, thermalTrip_same, fun die detail hplace => ?_, thermalTripRelease_ends, thermalTripRelease_same⟩
    · obtain ⟨hr, hc⟩ := resets_resetAll (code := FaultCode.uncorrectable.code) (detail := 5) hdis
      exact ⟨_, thermalTrip_resets htrip hhot, rfl, resetsPartitions_trip hr, hc⟩
    · obtain ⟨hr, hc⟩ := resets_resetAll (s := healthAdd s (8192 + 16 * die + detail)) (code := FaultCode.uncorrectable.code)
        (detail := detail) hdis
      exact ⟨_, sramUncorrectable_none (errorPlace_none hplace), resetsPartitions_healthAdd hr, hc⟩

end Sys2Proof.Machine
end

section
namespace Sys2Proof.Machine
open Sys2Proof.Claims

/-! ## Soft errors (R389) -/

section
variable {s t : State} {die kind line part : Nat} {x : L2Line} {p : Partition}

theorem dieCarries_eq : dieCarries die kind = true ↔ (kind = 5 ∧ die < 6) ∨ (die < 4 ∧ kind < 5) := by
  unfold dieCarries
  split
  · next h => simp [h]
  · next h => simp [h]

theorem softErrorCorrected_counts (h : dieCarries die kind = true) :
    exec (.softErrorCorrected die kind) s = .next (healthAdd s (4096 + 16 * die + kind)) := by
  show execSoftErrorCorrected die kind s = _
  rw [execSoftErrorCorrected, if_pos h]
  rfl

theorem softErrorCorrected_same (h : ¬dieCarries die kind = true) : exec (.softErrorCorrected die kind) s = .next s := by
  show execSoftErrorCorrected die kind s = _
  rw [execSoftErrorCorrected, if_neg h]

/-- A free code is one of those that are reported (R373). -/
theorem freeCode_mem (s : State) : freeCode s ∈ listedCodes := by
  have hpos : 0 < listedCodes.length := by decide
  rw [freeCode, List.getElem?_eq_getElem (Nat.mod_lt _ hpos), Option.getD_some]
  exact List.getElem_mem _

/-- An entry of KIND 011 or 100 sends one message, to the physical function, and takes no plate (R375, R387, R395). -/
theorem quietEntry_eq {detail : Nat} (hk : kind = 3 ∨ kind = 4) :
    quietEntry s kind detail part = notify (withEntry { s with free := s.free + 1 }
      ⟨kind, freeCode s, 0, detail, 0, part, 0, 0, 0, 0, 0, 0, 0, 0, 0⟩) none 2 := by
  have hplate : ¬(kind = 0 ∨ kind = 1) := by omega
  rw [quietEntry, logAppend_eq, if_neg hplate, signalled, if_pos hk]

theorem logged_quietEntry {detail : Nat} : ∃ e, Logged s (quietEntry s kind detail part) part e ∧ e.kind = kind ∧
    e.code ∈ listedCodes ∧ e.detail = detail := by
  refine ⟨_, logged_logAppend ⟨kind, freeCode s, 0, detail, 0, part, 0, 0, 0, 0, 0, 0, 0, 0, 0⟩, rfl, freeCode_mem s, rfl⟩

/-- The L2 line is gone, and the error counted (R389). -/
def lineDropped (s : State) (line : Nat) : State :=
  healthAdd { s with l2 := mapErase s.l2 line } (healthUncorrected (line / 2 ^ 36 / 16) 2)

theorem l2LineRepair_dirty (h : mapGet s.l2 line = some x) (hd : x.dirty = true) : exec (.l2LineRepair line) s = .next s := by
  show execL2LineRepair line s = _
  simp [execL2LineRepair, h, hd]

/-- The first error in a line of memory is logged, for the partition that owns the line; a later one is counted alone (R389). -/
theorem l2LineRepair_clean (h : mapGet s.l2 line = some x) (hd : x.dirty = false) : exec (.l2LineRepair line) s =
    .next (if line % 2 ^ 36 ∈ s.repaired then lineDropped s line
      else match lineOwner s (line % 2 ^ 36) with
        | none => { lineDropped s line with repaired := s.repaired ++ [line % 2 ^ 36] }
        | some (part, _) => quietEntry { lineDropped s line with repaired := s.repaired ++ [line % 2 ^ 36] } 3 2 part) := by
  show execL2LineRepair line s = _
  unfold execL2LineRepair
  rw [h]
  simp only [hd, Bool.false_eq_true, if_false]
  by_cases hr : line % 2 ^ 36 ∈ s.repaired
  · rw [if_pos hr]
    exact if_pos (List.contains_iff_mem.2 hr)
  · rw [if_neg hr]
    refine (if_neg fun hc => hr (List.contains_iff_mem.1 hc)).trans ?_
    show (match lineOwner s (line % 2 ^ 36) with
      | none => _
      | some (part, _) => _) = _
    cases lineOwner s (line % 2 ^ 36) <;> rfl

/-- What the repair of a line leaves, whether or not it is logged (R389). -/
def Repaired (s t : State) (line : Nat) : Prop :=
  t.l2 = mapErase s.l2 line ∧ t.dram = s.dram ∧ t.voids = s.voids ∧ t.poison = s.poison ∧
  t.health = (lineDropped s line).health

theorem repaired_lineDropped {l : List Nat} : Repaired s { lineDropped s line with repaired := l } line := ⟨rfl, rfl, rfl, rfl, rfl⟩

theorem Repaired.quietEntry {detail : Nat} (h : Repaired s t line) (hk : kind = 3 ∨ kind = 4) :
    Repaired s (quietEntry t kind detail part) line := by
  rw [quietEntry_eq hk]
  exact h

theorem counted_lineDropped : Counted s (lineDropped s line) (8192 + 16 * (line / 2 ^ 40) + 2) := by
  have hdie : line / 2 ^ 36 / 16 = line / 2 ^ 40 := by omega
  rw [← hdie]
  exact counted_healthAdd (s := { s with l2 := mapErase s.l2 line }) (8192 + 16 * (line / 2 ^ 36 / 16) + 2)

theorem Repaired.facts (h : Repaired s t line) : (∀ k, mapGet t.l2 k = if k = line then none else mapGet s.l2 k) ∧
    t.dram = s.dram ∧ t.voids = s.voids ∧ t.poison = s.poison ∧ Counted s t (8192 + 16 * (line / 2 ^ 40) + 2) := by
  obtain ⟨hl2, hdram, hvoids, hpoison, hhealth⟩ := h
  refine ⟨fun k => by rw [hl2, mapGet_mapErase], hdram, hvoids, hpoison, ?_⟩
  rw [Counted, hhealth]
  exact counted_lineDropped

/-- A clean line with an uncorrectable error: dropped, counted, and logged the first time (R389). -/
theorem l2LineRepair_holds (h : mapGet s.l2 line = some x) (hd : x.dirty = false) :
    ∃ t, exec (.l2LineRepair line) s = .next t ∧ Repaired s t line ∧
      (line % 2 ^ 36 ∈ s.repaired → t.log = s.log ∧ t.messages = s.messages) ∧
      ∀ part p, line % 2 ^ 36 ∉ s.repaired → lineOwner s (line % 2 ^ 36) = some (part, p) →
        ∃ e, Logged s t part e ∧ e.kind = 3 ∧ e.code ∈ listedCodes ∧ e.detail = 2 ∧ t.messages = s.messages ++ [⟨none, 2⟩] := by
  refine ⟨_, l2LineRepair_clean h hd, ?_⟩
  by_cases hr : line % 2 ^ 36 ∈ s.repaired
  · rw [if_pos hr]
    exact ⟨repaired_lineDropped, fun _ => ⟨rfl, rfl⟩, fun _ _ hn => absurd hr hn⟩
  · rw [if_neg hr]
    cases howner : lineOwner s (line % 2 ^ 36) with
    | none => exact ⟨repaired_lineDropped, fun hm => absurd hm hr, fun _ _ _ ho => by simp at ho⟩
    | some o =>
      obtain ⟨part, p⟩ := o
      refine ⟨repaired_lineDropped.quietEntry (.inl rfl), fun hm => absurd hm hr, fun part' p' _ ho => ?_⟩
      cases ho
      obtain ⟨e, he, hk, hc, hdet⟩ := logged_quietEntry (s := { lineDropped s line with repaired := s.repaired ++ [line % 2 ^ 36] })
        (kind := 3) (detail := 2) (part := part)
      refine ⟨e, he, hk, hc, hdet, ?_⟩
      dsimp only
      rw [quietEntry_eq (.inl rfl)]
      rfl

/-! ## Poison and quarantine (R390, R391) -/

/-- A list that fits is not coarsened (R391). -/
theorem coarsen_eq_self {n : Nat} {l : List Quarantine} (h : l.length ≤ 512) : coarsen n l = l := by
  cases n with
  | zero => rfl
  | succ n => rw [coarsen, if_pos h]

/-- A region that holds a page's address spans the page's first byte. -/
theorem span_of_holdsPage {pa : Nat} {q : Quarantine} (h : holdsPage part pa q = true) :
    q.part = part ∧ q.base ≤ pa ∧ pa < q.base + regionSize q.size := by
  rw [holdsPage, Bool.and_eq_true, beq_iff_eq, beq_iff_eq] at h
  obtain ⟨hpart, hbase⟩ := h
  have hpos : 0 < regionSize q.size := by
    unfold regionSize
    split
    · decide
    · split <;> decide
  have hdiv : regionSize q.size * (pa / regionSize q.size) + pa % regionSize q.size = pa := Nat.div_add_mod _ _
  have hlt : pa % regionSize q.size < regionSize q.size := Nat.mod_lt _ hpos
  rw [Nat.mul_comm] at hdiv
  exact ⟨hpart, by omega, by omega⟩

/-- What is said once a page is quarantined: it is listed, and, where it was not and the list is not full, counted and inside a
region (R390, R391). -/
theorem quarantinePage_holds (page : Nat) :
    (part, page) ∈ (quarantinePage s part page).quarantinedPages ∧
    ((part, page) ∉ s.quarantinedPages → s.quarantine.length < 512 →
      (quarantinePage s part page).quarantined = min (s.quarantined + 1) (2 ^ 32 - 1) ∧
      ∃ q ∈ (quarantinePage s part page).quarantine, q.part = part ∧ q.base ≤ page * 2 ^ 16 ∧
        page * 2 ^ 16 < q.base + regionSize q.size) := by
  unfold quarantinePage
  by_cases hc : (part, page) ∈ s.quarantinedPages
  · rw [if_pos (List.contains_iff_mem.2 hc)]
    exact ⟨hc, fun hn => absurd hc hn⟩
  · rw [if_neg fun h => hc (List.contains_iff_mem.1 h)]
    dsimp only
    split
    · next hany =>
      obtain ⟨q, hq, hh⟩ := List.any_eq_true.1 hany
      exact ⟨by simp, fun _ _ => ⟨rfl, q, hq, span_of_holdsPage hh⟩⟩
    · refine ⟨by simp, fun _ hlen => ⟨rfl, ⟨part, page * 2 ^ 16, 0⟩, ?_, rfl, Nat.le_refl _, ?_⟩⟩
      · rw [coarsen_eq_self (by rw [List.length_append, List.length_singleton]; omega)]
        simp
      · exact Nat.lt_add_of_pos_right (Nat.two_pow_pos 16)

/-- Beside its lists, the quarantine of a page changes nothing. -/
theorem quarantinePage_frame (page : Nat) : quarantinePage s part page = { s with
    quarantinedPages := (quarantinePage s part page).quarantinedPages, quarantined := (quarantinePage s part page).quarantined
    quarantine := (quarantinePage s part page).quarantine } := by
  unfold quarantinePage
  dsimp only
  split
  · rfl
  · split <;> rfl

/-- The state with one poisoned line more. -/
def poisoned (s : State) (line : Nat) : State := { s with poison := s.poison ++ [line] }

theorem linePoison_next (h : line ∉ s.poison) : exec (.linePoison line) s = .next (match lineOwner s line with
    | none => poisoned s line
    | some (part, p) => quarantinePage (quietEntry (poisoned s line) 4 0 part) part (paOf p (128 * line) / 2 ^ 16)) := by
  show execLinePoison line s = _
  unfold execLinePoison
  refine (if_neg fun hc => h (List.contains_iff_mem.1 hc)).trans ?_
  show (match lineOwner s line with
    | none => _
    | some (part, p) => _) = _
  cases lineOwner s line <;> rfl

/-- A line without a valid copy is poisoned, logged and its page quarantined (R390, R391). -/
theorem linePoison_holds (h : line ∉ s.poison) : ∃ t, exec (.linePoison line) s = .next t ∧ t.poison = s.poison ++ [line] ∧
    t.dram = s.dram ∧ t.voids = s.voids ∧ t.gangs = s.gangs ∧
    ∀ part p, lineOwner s line = some (part, p) →
      (∃ e, Logged s t part e ∧ e.kind = 4 ∧ e.code ∈ listedCodes) ∧
      (part, paOf p (128 * line) / 65536) ∈ t.quarantinedPages ∧
      ((part, paOf p (128 * line) / 65536) ∉ s.quarantinedPages → s.quarantine.length < 512 →
        t.quarantined = min (s.quarantined + 1) (2 ^ 32 - 1) ∧
        ∃ q ∈ t.quarantine, q.part = part ∧ q.base ≤ paOf p (128 * line) / 65536 * 65536 ∧
          paOf p (128 * line) / 65536 * 65536 < q.base + regionSize q.size) := by
  refine ⟨_, linePoison_next h, ?_⟩
  cases howner : lineOwner s line with
  | none => exact ⟨rfl, rfl, rfl, rfl, fun _ _ ho => by simp at ho⟩
  | some o =>
    obtain ⟨part, p⟩ := o
    dsimp only
    have hq := quarantinePage_holds (s := quietEntry (poisoned s line) 4 0 part) (part := part) (paOf p (128 * line) / 2 ^ 16)
    have hf := quarantinePage_frame (s := quietEntry (poisoned s line) 4 0 part) (part := part) (paOf p (128 * line) / 2 ^ 16)
    obtain ⟨e, he, hk, hc, -⟩ := logged_quietEntry (s := poisoned s line) (kind := 4) (detail := 0) (part := part)
    generalize quarantinePage (quietEntry (poisoned s line) 4 0 part) part (paOf p (128 * line) / 2 ^ 16) = u at hq hf ⊢
    have hlog : u.log = (quietEntry (poisoned s line) 4 0 part).log := congrArg (·.log) hf
    have hpoison : u.poison = (quietEntry (poisoned s line) 4 0 part).poison := congrArg (·.poison) hf
    have hdram : u.dram = (quietEntry (poisoned s line) 4 0 part).dram := congrArg (·.dram) hf
    have hvoids : u.voids = (quietEntry (poisoned s line) 4 0 part).voids := congrArg (·.voids) hf
    have hgangs : u.gangs = (quietEntry (poisoned s line) 4 0 part).gangs := congrArg (·.gangs) hf
    rw [quietEntry_eq (.inr rfl)] at hq hpoison hdram hvoids hgangs
    refine ⟨hpoison, hdram, hvoids, hgangs, fun part' p' ho => ?_⟩
    cases ho
    refine ⟨⟨e, ?_, hk, hc⟩, hq⟩
    obtain ⟨hm, htime, hpart⟩ := he
    exact ⟨hlog ▸ hm, htime, hpart⟩

/-! ## Clock and temperature (R17, R412) -/

/-- A report of a sensor enters the table, and engages or releases the two thresholds; from STATE 4 on the clock follows, and the
physical function hears of its change (R17, R395, R412). -/
theorem throttleChange_holds (temp : Nat) (high : Bool) (hd : die < 14) :
    ∃ t, Happens (.throttleChange ⟨die, temp, high⟩) s t
        { s with temps := t.temps, overPower := high, warm := t.warm, deep := t.deep, freq := t.freq, messages := t.messages } ∧
      (∀ k, mapGet t.temps k = if k = die then some temp else mapGet s.temps k) ∧
      (t.warm = true ↔ (∃ e ∈ t.temps, 95 ≤ e.2) ∨ (s.warm = true ∧ ∃ e ∈ t.temps, 90 ≤ e.2)) ∧
      (t.deep = true ↔ (∃ e ∈ t.temps, 105 ≤ e.2) ∨ (s.deep = true ∧ ∃ e ∈ t.temps, 100 ≤ e.2)) ∧
      (t.freq = if s.bringup ≠ 4 then s.freq else if t.deep then 350 else if t.warm || high then 525 else 700) ∧
      t.messages = s.messages ++ if t.freq = s.freq then [] else [⟨none, 3⟩] := by
  have hnext : exec (.throttleChange ⟨die, temp, high⟩) s
      = .next (if s.bringup = 4 ∧ clockFor (sense s ⟨die, temp, high⟩) ≠ s.freq
          then notify { sense s ⟨die, temp, high⟩ with freq := clockFor (sense s ⟨die, temp, high⟩) } none 3
          else sense s ⟨die, temp, high⟩) := by
    show execThrottleChange _ s = _
    rw [execThrottleChange, if_pos hd]
    split
    · next h => rw [if_pos h]
    · next h => rw [if_neg h]
  have htemps : ∀ k, mapGet (mapSet s.temps die temp) k = if k = die then some temp else mapGet s.temps k :=
    fun k => mapGet_mapSet _ _ _ _
  have hwarm : (sense s ⟨die, temp, high⟩).warm = true ↔ (∃ e ∈ mapSet s.temps die temp, 95 ≤ e.2) ∨
      (s.warm = true ∧ ∃ e ∈ mapSet s.temps die temp, 90 ≤ e.2) := by simp [sense, anyDie]
  have hdeep : (sense s ⟨die, temp, high⟩).deep = true ↔ (∃ e ∈ mapSet s.temps die temp, 105 ≤ e.2) ∨
      (s.deep = true ∧ ∃ e ∈ mapSet s.temps die temp, 100 ≤ e.2) := by simp [sense, anyDie]
  refine ⟨_, ⟨hnext, ?_⟩, ?_⟩
  · split <;> rfl
  · split
    · next h =>
      obtain ⟨hb, hf⟩ := h
      exact ⟨htemps, hwarm, hdeep, (if_neg (not_not.2 hb)).symm, congrArg (s.messages ++ ·) (if_neg hf).symm⟩
    · next h =>
      refine ⟨htemps, hwarm, hdeep, ?_, ((congrArg (s.messages ++ ·) (if_pos rfl)).trans (List.append_nil _)).symm⟩
      by_cases hb : s.bringup = 4
      · rw [if_neg (not_not.2 hb)]
        exact (not_not.1 fun hf => h ⟨hb, hf⟩).symm
      · rw [if_pos hb]
        rfl

/-! ## WEQSTAT and the management trigger (R386, R387) -/

theorem weqstatClear_writes (vf : Nat) : WritesRegister (.weqstatClear vf) s (vfReg vf 0x158) 0 :=
  ⟨regPut s (vfReg vf 0x158) 0, ⟨rfl, rfl⟩, fun k => wordGet_wordSet s.hreg _ k 0⟩

theorem armed_iff (src : Nat) : Armed s src ↔ bits (platectl s) 7 1 = 1 ∧ bits (platectl s) src 1 = 1 := by
  show _ ↔ bits (plateCtl s).toNat 7 1 = 1 ∧ bits (plateCtl s).toNat src 1 = 1
  rw [bits_one_eq_one, bits_one_eq_one, Armed]

/-- A trigger that is not armed takes no plate (R387). -/
theorem plateTrigger_unarmed {src : Nat} (h : ¬Armed s src) : plateTrigger s src = s :=
  if_neg fun hb => h ((armed_iff src).2 hb)

/-- PLATECTL once a plate is taken: bit 7, which was set, is clear (R387). -/
theorem disarmed_eq (w : BitVec 64) (h : w.getLsbD 7 = true) : BitVec.ofNat 64 (w.toNat - 2 ^ 7) = w &&& ~~~0x80#64 := by
  have hle : 2 ^ 7 ≤ w.toNat := Nat.ge_two_pow_of_testBit h
  have hor : (w &&& ~~~0x80#64) ||| 0x80#64 = w := by
    ext i hi
    have hbit : (0x80#64)[i] = decide (i = 7) := by
      rw [show (0x80#64) = BitVec.twoPow 64 7 from rfl, BitVec.getElem_twoPow]
    rw [BitVec.getElem_or, BitVec.getElem_and, BitVec.getElem_not, hbit]
    by_cases h7 : i = 7
    · subst i
      simpa using h.symm
    · simp [h7]
  have hadd : (w &&& ~~~0x80#64) + 0x80#64 = w := by
    rw [BitVec.add_eq_or_of_and_eq_zero, hor]
    rw [BitVec.and_assoc]
    simp
  generalize w &&& ~~~0x80#64 = y at hadd ⊢
  bv_omega

theorem plateFire_armed (h : Armed s 1) : exec .plateFire s = .next (regPut { s with
    plates := plateAll s, platestat := BitVec.ofNat 64 (2 ^ 61 + s.clock % 2 ^ 57) } (pfReg 0x220) (platectl s - 2 ^ 7)) := by
  show Host.Outcome.next (plateTrigger s 1) = _
  rw [plateTrigger, if_pos ((armed_iff 1).1 h)]

/-- Each gang slot has a record in a plate, which holds PC, EM and PM of its gang (R388; log 12). -/
theorem plateAll_slot {k : Nat} (hk : k < 8192) : ∃ r ∈ plateAll s, r.kind = 0 ∧ r.number = k ∧ ∀ g, mapGet s.gangs k = some g →
    r.words[1]? = some (BitVec.ofNat 64 g.pc) ∧ r.words[2]? = some (g.em.setWidth 64) ∧ r.words[3]? = some (g.pm.setWidth 64) := by
  refine ⟨plateSlot s k, ?_, ?_⟩
  · simp only [plateAll, List.mem_append, List.append_assoc]
    exact .inl (List.mem_map.2 ⟨k, List.mem_range.2 hk, rfl⟩)
  · unfold plateSlot
    cases hg : mapGet s.gangs k with
    | none => exact ⟨rfl, rfl, fun _ h => by cases h⟩
    | some g => exact ⟨rfl, rfl, fun _ h => by cases h; exact ⟨rfl, rfl, rfl⟩⟩

end

end Sys2Proof.Machine
end

section
namespace Sys2Proof.Machine
open Sys2Proof.Claims

/-! ## A link fails (R217, R270, R293, R405, R406) -/

/-- A load that waits for what a link carries. -/
def LoadLost (link : Nat) (l : OutLoad) : Prop := l.complete = false ∧ ∃ m, l.remote = some (link, m)

/-- A gang with a load or a store outstanding on a link. -/
def WaitsOn (link : Nat) (g : Gang) : Prop :=
  (∃ l ∈ g.loads, LoadLost link l) ∨ ∃ x ∈ g.stores, ∃ m, x.remote = some (link, m)

/-- The link is FAILED, and the physical function hears of it. -/
def linkFailed (s : State) (link : Nat) : State :=
  setLink s link .failed (((mapGet s.links link).map (·.peer)).getD 0)

section
variable {s : State} {link slot : Nat} {g : Gang} {m : BitVec 64} {late : List Late} {addr : Nat}

/-! ### The first that has something -/

theorem firstSome_eq_none {α β : Type} {f : α → Option β} {l : List α} (h : ∀ a ∈ l, f a = none) : firstSome f l = none := by
  induction l with
  | nil => rfl
  | cons a r ih =>
    obtain ⟨ha, hr⟩ := List.forall_mem_cons.1 h
    rw [firstSome, ha]
    exact ih hr

theorem firstSome_append {α β : Type} {f : α → Option β} {x y : List α} {a : α} {b : β} (hx : ∀ a ∈ x, f a = none)
    (ha : f a = some b) : firstSome f (x ++ a :: y) = some b := by
  induction x with
  | nil => rw [List.nil_append, firstSome, ha]
  | cons c r ih =>
    obtain ⟨hc, hr⟩ := List.forall_mem_cons.1 hx
    rw [List.cons_append, firstSome, hc]
    exact ih hr

/-! ### What is outstanding -/

theorem onLink_eq_none {r : Option (Nat × BitVec 64)} (h : ∀ m, r ≠ some (link, m)) : onLink link r = none := by
  cases r with
  | none => rfl
  | some x =>
    have hk : x.1 ≠ link := fun hk => h x.2 (hk ▸ rfl)
    exact if_neg hk

theorem onLink_self : onLink link (some (link, m)) = some m := if_pos rfl

theorem loadOnLink_eq_none {l : OutLoad} (h : ¬LoadLost link l) : loadOnLink link l = none := by
  unfold loadOnLink
  split
  · rfl
  · next hc => rw [onLink_eq_none fun m hm => h ⟨by simpa using hc, m, hm⟩]; rfl

theorem loadOnLink_lost {l : OutLoad} (hc : l.complete = false) (hr : l.remote = some (link, m)) :
    loadOnLink link l = some (m, l.late, l.addr) := by
  rw [loadOnLink, hc, hr, onLink_self]; rfl

theorem storeOnLink_eq_none {x : OutStore} (h : ∀ m, x.remote ≠ some (link, m)) : storeOnLink link x = none := by
  rw [storeOnLink, onLink_eq_none h]; rfl

theorem storeOnLink_lost {x : OutStore} (hr : x.remote = some (link, m)) : storeOnLink link x = some (m, [], x.addr) := by
  rw [storeOnLink, hr, onLink_self]; rfl

/-- Gangs that wait for nothing on the link are passed over. -/
theorem lostAccess_append {a b : AMap Gang} (h : ∀ e ∈ a, ¬WaitsOn link e.2) : lostAccess link (a ++ b) = lostAccess link b := by
  induction a with
  | nil => rfl
  | cons e r ih =>
    obtain ⟨hg, hr⟩ := List.forall_mem_cons.1 h
    obtain ⟨slot, g⟩ := e
    have hl : firstSome (loadOnLink link) g.loads = none :=
      firstSome_eq_none fun l hl => loadOnLink_eq_none fun hlost => hg (.inl ⟨l, hl, hlost⟩)
    have hs : firstSome (storeOnLink link) g.stores = none :=
      firstSome_eq_none fun x hx => storeOnLink_eq_none fun m hm => hg (.inr ⟨x, hx, m, hm⟩)
    rw [List.cons_append, lostAccess, hl, hs]
    exact ih hr

theorem lostAccess_eq_none (h : ∀ e ∈ s.gangs, ¬WaitsOn link e.2) : lostAccess link s.gangs = none := by
  rw [← List.append_nil s.gangs, lostAccess_append h, lostAccess]

theorem lostAccess_load {a b : AMap Gang} {x : Nat × BitVec 64 × List Late × Nat}
    (h : ∀ e ∈ a, ¬WaitsOn link e.2) (hf : firstSome (loadOnLink link) g.loads = some x.2) (hx : x.1 = slot) :
    lostAccess link (a ++ (slot, g) :: b) = some x := by
  rw [lostAccess_append h, lostAccess, hf, ← hx]

theorem lostAccess_store {a b : AMap Gang} {x : Nat × BitVec 64 × List Late × Nat} (h : ∀ e ∈ a, ¬WaitsOn link e.2)
    (hl : firstSome (loadOnLink link) g.loads = none) (hf : firstSome (storeOnLink link) g.stores = some x.2) (hx : x.1 = slot) :
    lostAccess link (a ++ (slot, g) :: b) = some x := by
  rw [lostAccess_append h, lostAccess, hl, hf, ← hx]

/-! ### The elements that are missing (R217; log 1) -/

theorem missingOf_ne_zero (h : m ≠ 0) : missingOf s m ≠ 0 := by
  unfold missingOf
  split
  · exact h
  · assumption

theorem missingOf_and : missingOf s m &&& m = missingOf s m := by
  unfold missingOf
  split
  · exact BitVec.and_self
  · rw [BitVec.and_assoc, BitVec.and_self]

/-! ### What the failure does -/

theorem mapGet_links_linkFailed (k : Nat) : mapGet (linkFailed s link).links k
    = if k = link then some ⟨.failed, ((mapGet s.links link).map (·.peer)).getD 0⟩ else mapGet s.links k :=
  mapGet_mapSet s.links link k _

/-- The first load or store that is outstanding on the link takes the fault (R217, R405). -/
theorem linkFailure_access (h : lostAccess link s.gangs = some (slot, m, late, addr)) :
    exec (.linkFailure link) s = .next (loseAccess (linkFailed s link) slot m late addr) := by
  show Host.Outcome.next (loseLink s link _) = _
  unfold loseLink
  rw [h]
  rfl

/-- Without one, the first record that nobody has acknowledged resets its partition (R86, R406). -/
theorem linkFailure_record {part : Nat} {k : Option Nat} (h : lostAccess link s.gangs = none)
    (hr : lostRecord s link = some (part, k)) : exec (.linkFailure link) s
      = .next (partitionReset (linkFailed s link) part FaultCode.fabricLoss.code 0 (k.map fun k => ⟨k, 0, 0, 0, 0⟩)) := by
  show Host.Outcome.next (loseLink s link _) = _
  unfold loseLink
  rw [h, hr]
  rfl

/-- Without either, copies and matrix operations keep the fault for their gangs (R270, R293). -/
theorem linkFailure_later (h : lostAccess link s.gangs = none) (hr : lostRecord s link = none) : exec (.linkFailure link) s
    = .next ((lostOps s link).foldl (loseOp link) { (lostCopies s link).foldl
        (fun t c => failCopy t c.1 c.2.1 .fabricLoss 0 c.2.2) (linkFailed s link) with
          free := ((lostCopies s link).foldl (fun t c => failCopy t c.1 c.2.1 .fabricLoss 0 c.2.2) (linkFailed s link)).free + 1 }) := by
  show Host.Outcome.next (loseLink s link _) = _
  unfold loseLink
  rw [h, hr]
  rfl

/-- The fault of a load or store: FABRIC_LOSS with a mask of some of its elements on the link, once those that arrived are written
(R217). -/
theorem loseAccess_holds (hm : m ≠ 0) : ∃ missing, missing ≠ 0 ∧ missing &&& m = missing ∧
    ∀ g, mapGet (putLate { s with free := s.free + 1 } slot (late.filter fun x => x.mask &&& missing == 0)).gangs slot = some g →
      loseAccess s slot m late addr
        = takeFault (putLate { s with free := s.free + 1 } slot (late.filter fun x => x.mask &&& missing == 0)) slot g
          (lenAt (putLate { s with free := s.free + 1 } slot (late.filter fun x => x.mask &&& missing == 0)) slot g)
          { precise .fabricLoss missing with logAddr := some addr } := by
  refine ⟨missingOf s m, missingOf_ne_zero hm, missingOf_and, fun g hg => ?_⟩
  simp only [loseAccess, hg]

/-- A matrix operation that is listed has a range outstanding on the link (R270). -/
theorem outstandingOn_ne_zero {e : Nat × MatOp} (h : e ∈ lostOps s link) : outstandingOn e.2 link ≠ 0 := by
  unfold lostOps at h
  obtain ⟨u, -, hu⟩ := List.mem_flatMap.1 h
  obtain ⟨o, -, ho⟩ := List.mem_filterMap.1 hu
  split at ho
  · next hc => cases ho; exact hc.1
  · cases ho

theorem lostRecord_eq_none (h : ¬∃ x ∈ s.sends, x.2.2 = link) : lostRecord s link = none := by
  have hfind : s.sends.find? (fun x => x.2.2 == link) = none :=
    List.find?_eq_none.2 fun x hx he => h ⟨x, hx, by simpa using he⟩
  unfold lostRecord
  rw [hfind]

theorem lostRecord_first {a b : List (Nat × Nat × Nat)} {k chip part : Nat} {p : Partition}
    (hs : s.sends = a ++ (k, chip, link) :: b) (ha : ∀ x ∈ a, x.2.2 ≠ link)
    (hp : partOf s (k % 65536 / 64) = some (part, p)) : lostRecord s link = some (part, if k < 65536 then some k else none) := by
  have hfind : s.sends.find? (fun x => x.2.2 == link) = some (k, chip, link) := by
    rw [hs, List.find?_append, List.find?_eq_none.2 fun x hx he => ha x hx (by simpa using he), List.find?_cons_of_pos (by simp)]
    rfl
  unfold lostRecord
  rw [hfind]
  simp only [hp, Option.map_some]

/-- A reset has an entry of KIND 001: that of the launch which met the fault, or one of its own (R377 step 4). -/
theorem logged_partitionReset_first {part detail : Nat} {p : Partition} {code : BitVec 8} {met : Option Met}
    (h : mapGet s.parts part = some p) :
    ∃ e, Logged s (partitionReset s part code detail met) part e ∧ e.kind = 1 ∧ e.code = code := by
  cases hk : metKnown s p met with
  | false =>
    obtain ⟨e, he, hkind, hcode, -⟩ := logged_resetOpens (part := part) (code := code) (detail := detail) hk
    exact ⟨e, logged_partitionReset h he, hkind, hcode⟩
  | true =>
    cases met with
    | none => cases hk
    | some x =>
      obtain ⟨hne, hv⟩ := mem_resetKeys.1 (List.contains_iff_mem.1 hk)
      obtain ⟨l, hl⟩ := Option.ne_none_iff_exists'.1 hne
      obtain ⟨e, he, hkind, hcode, -⟩ := logged_resetLogs (part := part) (code := code) (detail := detail) (met := some x) hl hv
      rw [Option.map_some, if_pos rfl] at hkind
      exact ⟨e, logged_partitionReset h he, hkind, hcode⟩

/-- The reset after a link has failed is a reset of the state before: links and messages are no part of it. -/
theorem resetsPartitions_linkFailed {t : State} {mine : Nat → Prop} (h : ResetsPartitions (linkFailed s link) t mine) :
    ResetsPartitions s t mine := h

end

end Sys2Proof.Machine
end

section
namespace Sys2Proof.Machine
open Sys2Proof.Claims

/-! ## A store of the device's own (R190, R363, R390) -/

/-- Only L2 and the tokens of its fills have changed. -/
def CachesOnly (s t : State) : Prop := t = { s with l2 := t.l2, buckets := t.buckets, pools := t.pools, owed := t.owed }

section
variable {s t u : State} {p : Partition} {vf pa : Nat} {x : LineAt}

theorem CachesOnly.refl (s : State) : CachesOnly s s := rfl

theorem CachesOnly.trans (h : CachesOnly s t) (g : CachesOnly t u) : CachesOnly s u := by
  unfold CachesOnly at h g ⊢
  exact g.trans (by rw [h])

theorem cachesOnly_charge (kind unit n : Nat) : CachesOnly s (charge s kind unit vf n) := by
  unfold charge grant
  split
  · rfl
  · split
    · next h =>
      split at h
      · cases h; rfl
      · split at h
        · cases h; rfl
        · cases h
    · rfl

theorem cachesOnly_l2 (l : AMap L2Line) (h : CachesOnly s t) : CachesOnly s { t with l2 := l } := h.trans rfl

theorem cachesOnly_chargeChannel (line n : Nat) : CachesOnly s (chargeChannel s line vf n) := cachesOnly_charge 2 _ n

theorem cachesOnly_l2Evict (k : Nat) : CachesOnly s (l2Evict s k) := by
  unfold l2Evict
  split
  · rfl
  · dsimp only
    split
    · exact cachesOnly_l2 _ (cachesOnly_chargeChannel k 2)
    · exact cachesOnly_l2 _ (.refl s)

theorem cachesOnly_l2Put (dirty early : Bool) : CachesOnly s (l2Put s x dirty early) :=
  cachesOnly_l2 _ ((cachesOnly_charge 1 x.bank 1).trans (cachesOnly_chargeChannel x.line 2))

theorem cachesOnly_l2Fill (dirty early : Bool) : CachesOnly s (l2Fill s x dirty early) := by
  unfold l2Fill
  split
  · exact cachesOnly_l2Put _ _
  · exact (cachesOnly_l2Evict _).trans (cachesOnly_l2Put _ _)
  · exact cachesOnly_chargeChannel x.line 1

theorem cachesOnly_l2Store (hint : Nat) : CachesOnly s (l2Store s x hint) := by
  unfold l2Store
  split
  · split
    · exact cachesOnly_l2 _ (.refl s)
    · split
      · exact (cachesOnly_l2 _ (.refl s)).trans (cachesOnly_chargeChannel x.line 1)
      · exact cachesOnly_l2 _ (.refl s)
  · split
    · exact cachesOnly_l2Fill _ _
    · split
      · exact cachesOnly_l2Fill _ _
      · exact cachesOnly_chargeChannel x.line 1

/-- Stores through the slices touch L2 and its tokens alone. -/
theorem cachesOnly_touchIn (slice : Nat → Nat) (hint : Nat) (pas : List Nat) :
    CachesOnly s (touchIn s p slice vf hint true pas) := by
  unfold touchIn
  induction lineHeads pas generalizing s with
  | nil => exact .refl s
  | cons a r ih => exact (cachesOnly_l2Store (x := lineIn p (slice a) vf a) hint).trans ih

/-- Fewer than 128 bytes are no whole line, so that no poison is cleared (R390). -/
theorem clearWhole_short {keys : List Nat} (h : keys.length < 128) : clearWhole s keys = s := by
  have hnone : keys.filter (fun k => k % 128 == 0 && (List.range 128).all fun i => keys.contains (k + i)) = [] := by
    refine List.filter_eq_nil_iff.2 fun k _ hk => ?_
    obtain ⟨-, hall⟩ := Bool.and_eq_true_iff.1 hk
    have hsub : (List.range 128).map (k + ·) ⊆ keys := by
      intro x hx
      obtain ⟨i, hi, rfl⟩ := List.mem_map.1 hx
      exact List.contains_iff_mem.1 (List.all_eq_true.1 hall i hi)
    have hnodup : ((List.range 128).map (k + ·)).Nodup := List.nodup_range.map fun a b e => Nat.add_left_cancel e
    have hle := (List.subperm_of_subset hnodup hsub).length_le
    simp at hle
    omega
  unfold clearWhole
  rw [hnone]
  split <;> rfl

/-- A short store writes its bytes; beside them only L2 and its tokens change. -/
theorem paStore_short {l : List Byte} (h : l.length < 128) : CachesOnly (paWrite s p pa l) (paStore s p vf pa l) := by
  have hc : clearWhole (paWrite s p pa l) ((consecutive pa l.length).map (dramKey p)) = paWrite s p pa l :=
    clearWhole_short (by simpa [consecutive] using h)
  unfold paStore
  rw [hc]
  exact cachesOnly_touchIn _ _ _

theorem paStore_frame {l : List Byte} (h : l.length < 128) : paStore s p vf pa l = { s with
    dram := (paStore s p vf pa l).dram, l2 := (paStore s p vf pa l).l2, buckets := (paStore s p vf pa l).buckets
    pools := (paStore s p vf pa l).pools, owed := (paStore s p vf pa l).owed } := by
  have hc : CachesOnly (paWrite s p pa l) (paStore s p vf pa l) := paStore_short h
  have hw := paWrite_eq s p pa l
  have hdram : (paStore s p vf pa l).dram = (paWrite s p pa l).dram := congrArg (·.dram) hc
  unfold CachesOnly at hc
  rw [hdram]
  rw [hw] at hc
  exact hc

/-- Where no byte of HBM4E stands twice under the addresses, a write is read back whole (R358). -/
theorem bytes_paWrite (l : List Byte) (h : ((consecutive pa l.length).map (dramKey p)).Nodup) :
    (consecutive pa l.length).map (fun a => dramByte (paWrite s p pa l) (dramKey p a)) = l := by
  induction l generalizing s pa with
  | nil => rfl
  | cons b r ih =>
    have hcons : consecutive pa (b :: r).length = pa :: consecutive (pa + 1) r.length := by
      simp only [consecutive, List.length_cons, List.range_succ_eq_map, List.map_cons, List.map_map, Nat.add_zero]
      congr 1
      exact List.map_congr_left fun i _ => by simp; omega
    rw [hcons, List.map_cons, List.nodup_cons] at h
    obtain ⟨hfirst, hrest⟩ := h
    rw [hcons, List.map_cons, paWrite, ih hrest, paWrite_frame, dramByte_dramPut, if_pos rfl]
    intro i hi he
    exact hfirst (he ▸ List.mem_map_of_mem (List.mem_map.2 ⟨i, List.mem_range.2 hi, rfl⟩))

theorem peek_paStore {l : List Byte} (h : l.length < 128) : peek (paStore s p vf pa l) = peek (paWrite s p pa l) := by
  have hc : CachesOnly (paWrite s p pa l) (paStore s p vf pa l) := paStore_short h
  unfold CachesOnly at hc
  rw [hc]
  rfl

/-- A short store is read back (R358). -/
theorem bytesAt_paStore {l : List Byte} (h : l.length < 128) (hnodup : (cells (.device p (consecutive pa l.length))).Nodup) :
    bytesAt (paStore s p vf pa l) (.device p (consecutive pa l.length)) = l := by
  have hkeys : ((consecutive pa l.length).map (dramKey p)).Nodup := by
    refine List.Nodup.of_map (fun k => (0, k)) ?_
    rw [List.map_map]
    exact hnodup
  rw [bytesAt, peek_paStore h, cells, List.map_map]
  exact bytes_paWrite l hkeys

/-- No byte beside those of a short store changes. -/
theorem peek_paStore_other {l : List Byte} (h : l.length < 128) {q : Nat × Nat}
    (hq : q ∉ cells (.device p (consecutive pa l.length))) : peek (paStore s p vf pa l) q = peek s q := by
  obtain ⟨space, k⟩ := q
  rw [peek_paStore h, peek]
  split
  · next h0 =>
    have hs : space = 0 := h0
    subst hs
    refine (paWrite_frame s p pa l k fun i hi he => hq ?_).trans (if_pos rfl).symm
    exact List.mem_map.2 ⟨pa + i, List.mem_map.2 ⟨i, List.mem_range.2 hi, rfl⟩, by rw [he]⟩
  · next h0 =>
    rw [peek, if_neg h0, paWrite_eq]
    rfl

/-- A short store of the device's own, said once: what it changes, what it leaves in memory, and that it leaves the rest. -/
theorem paStore_holds {l : List Byte} (h : l.length < 128) (hnodup : (cells (.device p (consecutive pa l.length))).Nodup) :
    ∃ u, paStore s p vf pa l = u ∧
      u = { s with dram := u.dram, l2 := u.l2, buckets := u.buckets, pools := u.pools, owed := u.owed } ∧
      bytesAt u (.device p (consecutive pa l.length)) = l ∧
      ∀ q, q ∉ cells (.device p (consecutive pa l.length)) → peek u q = peek s q :=
  ⟨_, rfl, paStore_frame h, bytesAt_paStore h hnodup, fun _ => peek_paStore_other h⟩

theorem peek_notify_regPut {r v f n} : peek (notify (regPut s r v) f n) = peek s := rfl

end

/-! ## A watch event enters its queue (R386) -/

section
variable {s : State} {e : WatchEvent} {p : Partition} {part : Nat}

/-- The next SEQ of a context's watch events is taken. -/
def seqTaken (s : State) (vf : Nat) : State := { s with watchSeq := mapSet s.watchSeq vf (nextSeq s.watchSeq vf) }

/-- Where the next event of a queue goes (R386). -/
def watchSlot (s : State) (vf : Nat) : Nat := bits (regGet s (vfReg vf 0x140)) 12 45 * 4096 + 32 * regGet s (vfReg vf 0x148)

theorem nextSeq_lt (m : AMap Nat) (vf : Nat) : nextSeq m vf < 65536 := by
  unfold nextSeq
  dsimp only
  split
  · decide
  · exact Nat.mod_lt _ (by decide)

theorem length_watchWords (seq : Nat) : (watchWords e seq).length = 32 := by simp [watchWords]

/-- A full queue drops the event, and counts it (R386). -/
theorem writeWatch_full (ha : ¬Armed s 2) (hp : partOf s e.vf = some (part, p))
    (hfull : (regGet s (vfReg e.vf 0x148) + 1) % 128 = regGet s (vfReg e.vf 0x150)) :
    writeWatch s e = regPut (seqTaken s e.vf) (vfReg e.vf 0x158)
      (2 ^ 32 + min (regGet s (vfReg e.vf 0x158) % 2 ^ 32 + 1) (2 ^ 32 - 1)) := by
  have hp' : partOf (seqTaken s e.vf) e.vf = some (part, p) := hp
  unfold writeWatch
  rw [plateTrigger_unarmed ha]
  show (match partOf (seqTaken s e.vf) e.vf with
    | none => _
    | some (_, p) => _) = _
  rw [hp']
  exact if_pos (.inl hfull)

/-- A queue with room takes the event; PROD advances, and the VF hears by vector 1 (R386, R395). -/
theorem writeWatch_room (ha : ¬Armed s 2) (hp : partOf s e.vf = some (part, p))
    (hroom : (regGet s (vfReg e.vf 0x148) + 1) % 128 ≠ regGet s (vfReg e.vf 0x150))
    (hmem : bits (regGet s (vfReg e.vf 0x140)) 12 45 * 4096 + 4096 ≤ memorySize p) :
    writeWatch s e = notify (regPut (paStore (seqTaken s e.vf) p e.vf (watchSlot s e.vf) (watchWords e (nextSeq s.watchSeq e.vf)))
      (vfReg e.vf 0x148) ((regGet s (vfReg e.vf 0x148) + 1) % 128)) (some e.vf) 1 := by
  have hp' : partOf (seqTaken s e.vf) e.vf = some (part, p) := hp
  unfold writeWatch
  rw [plateTrigger_unarmed ha]
  show (match partOf (seqTaken s e.vf) e.vf with
    | none => _
    | some (_, p) => _) = _
  rw [hp']
  refine if_neg fun h => ?_
  rcases h with h | h
  · exact hroom h
  · exact absurd h (Nat.not_lt.2 hmem)

/-- Fields that do not overlap add up as they are or-ed (R8). -/
theorem ofNat_add_eq_or {a b : Nat} {w i : Nat} (ha : a < 2 ^ i) (hb : b % 2 ^ i = 0) :
    BitVec.ofNat w (a + b) = BitVec.ofNat w b ||| BitVec.ofNat w a := by
  obtain ⟨c, rfl⟩ := Nat.dvd_of_mod_eq_zero hb
  rw [Nat.add_comm, Nat.two_pow_add_eq_or_of_lt ha]
  exact BitVec.ofNat_or

theorem ofNat_mul_two_pow {w : Nat} (a i : Nat) : BitVec.ofNat w (a * 2 ^ i) = BitVec.ofNat w a <<< i := by
  apply BitVec.eq_of_toNat_eq
  simp [Nat.shiftLeft_eq]

/-- The first word of a watch event, field by field (R386). -/
theorem watchWord_eq (seq : Nat) (hvf : e.vf < 1024) (hk : e.kind < 16) (hs : seq < 65536) :
    e.kind * 16 + e.wps.toNat * 2 ^ 12 + e.bytes.toNat * 2 ^ 16 + e.vf * 2 ^ 38 + seq * 2 ^ 48
      = (BitVec.ofNat 64 seq <<< 48 ||| BitVec.ofNat 64 e.vf <<< 38 ||| e.bytes.setWidth 64 <<< 16 |||
          e.wps.setWidth 64 <<< 12 ||| BitVec.ofNat 64 e.kind <<< 4).toNat := by
  have hw : e.wps.toNat < 16 := e.wps.isLt
  have hb : e.bytes.toNat < 65536 := e.bytes.isLt
  have hwide : ∀ {n : Nat} (x : BitVec n), x.setWidth 64 = BitVec.ofNat 64 x.toNat := fun x => by
    apply BitVec.eq_of_toNat_eq; simp
  rw [hwide, hwide, ← ofNat_mul_two_pow, ← ofNat_mul_two_pow, ← ofNat_mul_two_pow, ← ofNat_mul_two_pow, ← ofNat_mul_two_pow,
    BitVec.or_assoc, BitVec.or_assoc, BitVec.or_assoc, ← ofNat_add_eq_or (i := 12) (by omega) (by omega),
    ← ofNat_add_eq_or (i := 16) (by omega) (by omega), ← ofNat_add_eq_or (i := 38) (by omega) (by omega),
    ← ofNat_add_eq_or (i := 48) (by omega) (by omega), BitVec.toNat_ofNat, Nat.mod_eq_of_lt (by omega)]
  rfl

end

end Sys2Proof.Machine
end

section
namespace Sys2Proof.Machine
open Sys2Proof.Claims

/-! ## The clauses of O52 -/

section
variable {s : State} {e : WatchEvent} {r : List WatchEvent} {p : Partition} {part : Nat}

theorem watchEventWrite_next (hw : s.watch = e :: r) : exec .watchEventWrite s = .next (writeWatch { s with watch := r } e) := by
  show execWatchEventWrite s = _
  unfold execWatchEventWrite
  rw [hw]

/-- The event is dropped where its queue is full (R386). -/
theorem watchEventWrite_full (hw : s.watch = e :: r) (ha : ¬Armed s 2) (hp : partOf s e.vf = some (part, p))
    (hfull : (regGet s (vfReg e.vf 0x148) + 1) % 128 = regGet s (vfReg e.vf 0x150)) :
    ∃ t, Happens .watchEventWrite s t { s with watch := r, hreg := t.hreg, watchSeq := t.watchSeq } ∧
      (wordGet t.hreg (vfReg e.vf 0x158)).toNat
        = 2 ^ 32 + min ((wordGet s.hreg (vfReg e.vf 0x158)).toNat % 2 ^ 32 + 1) (2 ^ 32 - 1) ∧
      mapGet t.watchSeq e.vf = some (nextSeq s.watchSeq e.vf) := by
  have hnext := writeWatch_full (s := { s with watch := r }) ha hp hfull
  refine ⟨_, ⟨(watchEventWrite_next hw).trans (congrArg _ hnext), rfl⟩, ?_, (mapGet_mapSet _ _ _ _).trans (if_pos rfl)⟩
  rw [regPut_hreg, wordGet_wordSet, if_pos rfl, BitVec.toNat_ofNat]
  exact Nat.mod_eq_of_lt (by show _ + min _ _ < _; omega)

/-- The event enters its slot, and nothing else of memory changes (R386). -/
theorem watchEventWrite_room (hw : s.watch = e :: r) (ha : ¬Armed s 2) (hp : partOf s e.vf = some (part, p))
    (hroom : (regGet s (vfReg e.vf 0x148) + 1) % 128 ≠ regGet s (vfReg e.vf 0x150))
    (hmem : bits (regGet s (vfReg e.vf 0x140)) 12 45 * 4096 + 4096 ≤ memorySize p)
    (hnodup : (cells (.device p (consecutive (watchSlot s e.vf) 32))).Nodup) :
    ∃ t, Happens .watchEventWrite s t { s with watch := r, hreg := t.hreg, watchSeq := t.watchSeq, dram := t.dram, l2 := t.l2
                                               buckets := t.buckets, pools := t.pools, owed := t.owed
                                               messages := s.messages ++ [⟨some e.vf, 1⟩] } ∧
      (wordGet t.hreg (vfReg e.vf 0x148)).toNat = (regGet s (vfReg e.vf 0x148) + 1) % 128 ∧
      mapGet t.watchSeq e.vf = some (nextSeq s.watchSeq e.vf) ∧
      bytesAt t (.device p (consecutive (watchSlot s e.vf) 32)) = watchWords e (nextSeq s.watchSeq e.vf) ∧
      ∀ q, IsByte q → q ∉ cells (.device p (consecutive (watchSlot s e.vf) 32)) → peek t q = peek s q := by
  have hnext := writeWatch_room (s := { s with watch := r }) ha hp hroom hmem
  have hlen : (watchWords e (nextSeq s.watchSeq e.vf)).length = 32 := length_watchWords _
  obtain ⟨u, hu, hframe, hbytes, hothers⟩ := paStore_holds (s := seqTaken { s with watch := r } e.vf) (vf := e.vf)
    (l := watchWords e (nextSeq s.watchSeq e.vf)) (by omega) (by rw [hlen]; exact hnodup)
  rw [hlen] at hbytes hothers
  have hhreg : u.hreg = s.hreg := congrArg (·.hreg) hframe
  have hseq : u.watchSeq = mapSet s.watchSeq e.vf (nextSeq s.watchSeq e.vf) := congrArg (·.watchSeq) hframe
  refine ⟨notify (regPut u (vfReg e.vf 0x148) ((regGet s (vfReg e.vf 0x148) + 1) % 128)) (some e.vf) 1,
    ⟨(watchEventWrite_next hw).trans (congrArg _ (hnext.trans (congrArg
      (fun u => notify (regPut u (vfReg e.vf 0x148) ((regGet s (vfReg e.vf 0x148) + 1) % 128)) (some e.vf) 1) hu))), ?_⟩,
    ?_, ?_, ?_, fun q _ hq => ?_⟩
  · rw [hframe]
    rfl
  · rw [notify_hreg, regPut_hreg, wordGet_wordSet, if_pos rfl, BitVec.toNat_ofNat]
    exact Nat.mod_eq_of_lt (by omega)
  · rw [notify_watchSeq, regPut_watchSeq, hseq, mapGet_mapSet, if_pos rfl]
  · rw [bytesAt, peek_notify_regPut]
    exact hbytes
  · rw [peek_notify_regPut]
    exact hothers q hq

/-- A plate is a list of records, and the register write that disarms its trigger (R387). -/
theorem plate_frame (l : List PlateRec) (x : Word) (v : Nat) : ∀ t, t = regPut { s with plates := l, platestat := x } (pfReg 0x220) v →
    t = { s with hreg := t.hreg, plates := t.plates, platestat := t.platestat } := by
  rintro t rfl
  rfl

/-- The management trigger takes a plate, and disarms it (R387, R388). -/
theorem plateFire_holds (h : Armed s 1) :
    ∃ t, Happens .plateFire s t { s with hreg := t.hreg, plates := t.plates, platestat := t.platestat } ∧
      (∀ k, wordGet t.hreg k = if k = pfReg 0x220 then plateCtl s &&& ~~~0x80 else wordGet s.hreg k) ∧
      t.platestat = 1 <<< 61 ||| (BitVec.ofNat 57 s.clock).setWidth 64 ∧
      ∀ k < 8192, ∃ r ∈ t.plates, r.kind = 0 ∧ r.number = k ∧ ∀ g, mapGet s.gangs k = some g →
        r.words[1]? = some (BitVec.ofNat 64 g.pc) ∧ r.words[2]? = some (g.em.setWidth 64) ∧ r.words[3]? = some (g.pm.setWidth 64) := by
  refine ⟨_, ⟨plateFire_armed h, plate_frame _ _ _ _ rfl⟩, fun k => ?_, ?_, fun k hk => plateAll_slot hk⟩
  · rw [regPut_hreg, wordGet_wordSet]
    exact congrArg (fun x => if k = pfReg 0x220 then x else wordGet s.hreg k) (disarmed_eq (plateCtl s) h.1)
  · have hlt : s.clock % 2 ^ 57 < 2 ^ 61 := by omega
    have hclock : BitVec.ofNat 64 (s.clock % 2 ^ 57) = (BitVec.ofNat 57 s.clock).setWidth 64 := by
      apply BitVec.eq_of_toNat_eq
      simp
    have hstat := ofNat_add_eq_or (w := 64) (b := 2 ^ 61) hlt (Nat.mod_self _)
    rw [Nat.add_comm, hclock] at hstat
    exact hstat

end

section
variable {s : State} {link : Nat}

/-- A failing link on which nobody waits and no record is outstanding (R270, R293). -/
theorem linkFailure_quiet (hg : ∀ e ∈ s.gangs, ¬WaitsOn link e.2) (hr : ¬∃ x ∈ s.sends, x.2.2 = link) :
    (lostCopies s link = [] → lostOps s link = [] →
      exec (.linkFailure link) s = .next { linkFailed s link with free := s.free + 1 }) ∧
    (∀ id c source, lostCopies s link = [(id, c, source)] → lostOps s link = [] →
      exec (.linkFailure link) s = .next { failCopy (linkFailed s link) id c .fabricLoss 0 source with
        free := (failCopy (linkFailed s link) id c .fabricLoss 0 source).free + 1 }) ∧
    ∀ bay o, lostCopies s link = [] → lostOps s link = [(bay, o)] → ∃ missing, missing ≠ 0 ∧
      missing &&& outstandingOn o link = missing ∧ exec (.linkFailure link) s
        = .next (unitFails { linkFailed s link with free := s.free + 1 } o.slot bay o (unitFault o.addr o.td .fabricLoss 0 missing)) := by
  have hnext := linkFailure_later (lostAccess_eq_none hg) (lostRecord_eq_none hr)
  refine ⟨fun hc ho => ?_, fun id c source hc ho => ?_, fun bay o hc ho => ?_⟩
  · rw [hnext, hc, ho]
    rfl
  · rw [hnext, hc, ho]
    rfl
  · have hne : outstandingOn o link ≠ 0 := outstandingOn_ne_zero (e := (bay, o)) (ho ▸ List.mem_singleton.2 rfl)
    refine ⟨missingOf { linkFailed s link with free := s.free + 1 } (outstandingOn o link), missingOf_ne_zero hne, missingOf_and, ?_⟩
    rw [hnext, hc, ho]
    rfl

/-- A failing link on which nobody waits, but which carried a record (R86, R377, R406). -/
theorem linkFailure_sent {a b : List (Nat × Nat × Nat)} {k chip part : Nat} {p : Partition}
    (hg : ∀ e ∈ s.gangs, ¬WaitsOn link e.2) (hs : s.sends = a ++ (k, chip, link) :: b) (ha : ∀ x ∈ a, x.2.2 ≠ link)
    (hp : partOf s (k % 65536 / 64) = some (part, p)) (hdis : PartitionsDisjoint s) :
    ∃ t e, exec (.linkFailure link) s = .next t ∧
      (∀ k, mapGet t.links k = if k = link then some ⟨.failed, ((mapGet s.links link).map (·.peer)).getD 0⟩ else mapGet s.links k) ∧
      ResetsPartitions s t (· ∈ p.vfs) ∧ CellsCleared t p ∧ Logged s t part e ∧ e.kind = 1 ∧ e.code = FaultCode.fabricLoss.code := by
  have hget : mapGet (linkFailed s link).parts part = some p := (partOf_eq_some hdis hp).1
  have hnext := linkFailure_record (lostAccess_eq_none hg) (lostRecord_first hs ha hp)
  obtain ⟨e, he, hk, hc⟩ := logged_partitionReset_first (code := FaultCode.fabricLoss.code) (detail := 0)
    (met := (if k < 65536 then some k else none).map fun k => ⟨k, 0, 0, 0, 0⟩) hget
  obtain ⟨-, hlinks, -, -⟩ := reports_partitionReset (code := FaultCode.fabricLoss.code) (detail := 0)
    (met := (if k < 65536 then some k else none).map fun k => ⟨k, 0, 0, 0, 0⟩) hget
  refine ⟨_, e, hnext, fun j => ?_, resetsPartitions_linkFailed (resetsPartitions_partitionReset hget),
    (cleared_partitionReset hget).cellsCleared, he, hk, hc⟩
  rw [hlinks]
  exact mapGet_links_linkFailed j

/-- A failing link on which a gang waits: its first access there takes the fault (R217, R405). -/
theorem linkFailure_fault {slot : Nat} {m : BitVec 64} {late : List Late} {addr : Nat}
    (h : lostAccess link s.gangs = some (slot, m, late, addr)) (hm : m ≠ 0) :
    ∃ missing, missing ≠ 0 ∧ missing &&& m = missing ∧
      ∀ g, mapGet (putLate { linkFailed s link with free := s.free + 1 } slot
          (late.filter fun x => x.mask &&& missing == 0)).gangs slot = some g →
        exec (.linkFailure link) s = .next (takeFault (putLate { linkFailed s link with free := s.free + 1 } slot
            (late.filter fun x => x.mask &&& missing == 0)) slot g
          (lenAt (putLate { linkFailed s link with free := s.free + 1 } slot (late.filter fun x => x.mask &&& missing == 0)) slot g)
          { precise .fabricLoss missing with logAddr := some addr }) := by
  obtain ⟨missing, hne, hand, hfault⟩ := loseAccess_holds (s := linkFailed s link) (slot := slot) (late := late) (addr := addr) hm
  exact ⟨missing, hne, hand, fun g hg => (linkFailure_access h).trans (congrArg _ (hfault g hg))⟩

end

/-- Settles O52. The fault of a failed link is that of the first access, record, copy or operation which waits there; the other
events follow from what each does to the state, with the rules of partition reset, log and store that stand above. -/
theorem errorAndDebugEvents : Obligations.ErrorAndDebugEvents := by
  refine ⟨fun s link => ⟨mapGet_links_linkFailed, linkFailure_quiet, fun a b k chip part p hg hs ha hp hdis =>
      linkFailure_sent hg hs ha hp hdis, fun a b slot g hgangs ha => ⟨?_, ?_⟩⟩, ?_, ?_, fun s line => linePoison_holds,
    fun s die temp high hd => throttleChange_holds temp high hd, ?_, fun s vf => weqstatClear_writes vf,
    fun s => ⟨fun h => congrArg _ (plateTrigger_unarmed h), plateFire_holds⟩⟩
  · intro x l y m hl hx hc hr hm
    have hfirst : firstSome (loadOnLink link) g.loads = some (m, l.late, l.addr) := by
      rw [hl]
      exact firstSome_append (fun o ho => loadOnLink_eq_none (hx o ho)) (loadOnLink_lost hc hr)
    exact linkFailure_fault (hgangs ▸ lostAccess_load (x := (slot, m, l.late, l.addr)) ha hfirst rfl) hm
  · intro x o y m hl hs hx hr hm
    have hnone : firstSome (loadOnLink link) g.loads = none := firstSome_eq_none fun l h => loadOnLink_eq_none (hl l h)
    have hfirst : firstSome (storeOnLink link) g.stores = some (m, [], o.addr) := by
      rw [hs]
      exact firstSome_append (fun z hz => storeOnLink_eq_none (hx z hz)) (storeOnLink_lost hr)
    exact linkFailure_fault (hgangs ▸ lostAccess_store (x := (slot, m, [], o.addr)) ha hnone hfirst rfl) hm
  · exact fun s die kind => ⟨fun h => ⟨_, ⟨softErrorCorrected_counts (dieCarries_eq.2 h), rfl⟩, counted_healthAdd _⟩,
      fun h => softErrorCorrected_same fun hc => h (dieCarries_eq.1 hc)⟩
  · intro s line x hx
    refine ⟨l2LineRepair_dirty hx, fun hd => ?_⟩
    obtain ⟨t, hnext, hrep, hagain, hfirst⟩ := l2LineRepair_holds hx hd
    obtain ⟨hl2, hdram, hvoids, hpoison, hcount⟩ := hrep.facts
    exact ⟨t, hnext, hl2, hdram, hvoids, hpoison, hcount, hagain, hfirst⟩
  · intro s e r part p hw ha hp
    refine ⟨watchEventWrite_full hw ha hp, fun hroom hmem hnodup hvf hkind => ?_⟩
    obtain ⟨t, hnext, hprod, hseq, hbytes, hothers⟩ := watchEventWrite_room hw ha hp hroom hmem hnodup
    refine ⟨t, hnext, hprod, hseq, hbytes.trans ?_, hothers⟩
    rw [watchWords, watchWord_eq _ hvf hkind (nextSeq_lt _ _)]
    rfl

end Sys2Proof.Machine
end

section
namespace Sys2Proof.Machine
open Sys2Proof.Claims

/-! ## A cycle passes (R16, R17, R366) -/

/-- Only buckets and pools have changed. -/
def TokensOnly (s t : State) : Prop := t = { s with buckets := t.buckets, pools := t.pools }

section
variable {s t u : State} {kind unit vf : Nat} {vfs : List Nat} {p : Partition}

theorem TokensOnly.refl (s : State) : TokensOnly s s := rfl

theorem TokensOnly.trans (h : TokensOnly s t) (g : TokensOnly t u) : TokensOnly s u := by
  unfold TokensOnly at h g ⊢
  exact g.trans (by rw [h])

theorem tokensOnly_foldl {α : Type} {f : State → α → State} (hf : ∀ s x, TokensOnly s (f s x)) (l : List α) :
    TokensOnly s (l.foldl f s) := by
  induction l generalizing s with
  | nil => exact .refl s
  | cons x r ih => exact (hf s x).trans ih

theorem tokensOnly_accrueAt : TokensOnly s (accrueAt kind vfs s unit) := rfl

theorem tokensOnly_accruePart : TokensOnly s (accruePart s p) :=
  tokensOnly_foldl (fun _ kind => tokensOnly_foldl (fun _ _ => tokensOnly_accrueAt) (arbitersOf p kind)) _

theorem tokensOnly_accrueWalker : TokensOnly s (accrueWalker s unit) := by
  unfold accrueWalker
  dsimp only
  split <;> rfl

theorem tokensOnly_accrueAll : TokensOnly s (accrueAll s) :=
  (tokensOnly_foldl (fun _ _ => tokensOnly_accruePart) s.parts).trans (tokensOnly_foldl (fun _ _ => tokensOnly_accrueWalker) _)

theorem tokensOnly_grant {n : Nat} (h : grant s kind unit vf n = some t) : TokensOnly s t := by
  unfold grant at h
  split at h
  · cases h; rfl
  · split at h
    · cases h; rfl
    · cases h

theorem tokensOnly_fillDue : TokensOnly { s with refills := [] } (fillDue s) := by
  refine tokensOnly_foldl (fun s r => ?_) s.refills
  split <;> rfl

/-- The round over the transfers that wait changes tokens, and the list of those that go on waiting. -/
theorem payOwed_frame : payOwed s = { s with buckets := (payOwed s).buckets, pools := (payOwed s).pools, owed := (payOwed s).owed } := by
  have hround : ∀ (l : List (Owed × Nat)) (a : State × List Nat), TokensOnly s a.1 → TokensOnly s
      (l.foldl (fun (a : State × List Nat) e => match grant a.1 e.1.kind e.1.unit e.1.vf e.1.tokens with
        | some t => (t, a.2)
        | none => (a.1, a.2 ++ [e.2])) a).1 := by
    intro l
    induction l with
    | nil => exact fun a h => h
    | cons e r ih =>
      intro a h
      refine ih _ ?_
      dsimp only
      split
      · next hg => exact h.trans (tokensOnly_grant hg)
      · exact h
  have hall := hround (s.owed.zipIdx.foldr (insertOwed s) []) (s, []) (.refl s)
  unfold payOwed
  dsimp only
  generalize List.foldl _ _ _ = a at hall ⊢
  unfold TokensOnly at hall
  rw [hall]

/-- Acting on pending pre-emptions changes workgroups alone (R382). -/
theorem retryPreempt_frame : retryPreempt s = { s with workgroups := (retryPreempt s).workgroups } := by
  have hone : ∀ (s : State) (wg : Nat), actPreempt s wg = { s with workgroups := (actPreempt s wg).workgroups } := by
    intro s wg
    unfold actPreempt
    split
    · rfl
    · split
      · rfl
      · split
        · rfl
        · split <;> rfl
  have hall : ∀ (l : List Nat) (t : State), t = { s with workgroups := t.workgroups } →
      l.foldl actPreempt t = { s with workgroups := (l.foldl actPreempt t).workgroups } := by
    intro l
    induction l with
    | nil => exact fun t h => h
    | cons wg r ih =>
      intro t h
      refine ih _ ((hone t wg).trans ?_)
      rw [h]
  exact hall _ s rfl

/-- A gang with one cycle more of being held, where it is held so that this counts (R380). -/
def heldOnce (s : State) (g : Gang) : Gang := if heldUnder s g then { g with heldCycles := g.heldCycles + 1 } else g

theorem mapGet_gangs_arithCycle (k : Nat) : mapGet (arithCycle s).gangs k = (mapGet s.gangs k).map (heldOnce s) :=
  mapGet_mapAll (fun _ => heldOnce s) s.gangs k

theorem heldOnce_eq (g : Gang) : ∃ c, heldOnce s g = { g with heldCycles := c } := by
  unfold heldOnce
  split
  · exact ⟨_, rfl⟩
  · exact ⟨g.heldCycles, rfl⟩

/-- The state with its fabric cycle counted, before the arithmetic cycle that may come with it (R16, R17). -/
def fabricCycle (s : State) : State :=
  { s with clock := s.clock + 1, fresh := [], aphase := if s.aphase + s.freq < 1400 then s.aphase + s.freq else s.aphase + s.freq - 1400 }

theorem passCycle_eq : passCycle s = if s.aphase + s.freq < 1400 then fabricCycle s else arithCycle (fabricCycle s) := by
  unfold passCycle fabricCycle
  by_cases h : s.aphase + s.freq < 1400
  · have hn : ¬s.aphase + s.freq ≥ 1400 := by omega
    rw [if_pos h]
    simp only [if_pos h, if_neg hn]
  · have hn : s.aphase + s.freq ≥ 1400 := by omega
    rw [if_neg h]
    simp only [if_neg h, if_pos hn]

/-- What the passing of a cycle changes. -/
theorem passCycle_frame : passCycle s = { fabricCycle s with acycle := (passCycle s).acycle, gangs := (passCycle s).gangs } := by
  rw [passCycle_eq]
  split <;> rfl

theorem acycle_passCycle : (passCycle s).acycle = if s.aphase + s.freq < 1400 then s.acycle else s.acycle + 1 := by
  rw [passCycle_eq]
  split <;> rfl

theorem mapGet_gangs_passCycle {k : Nat} {g : Gang} (h : mapGet s.gangs k = some g) :
    ∃ c, mapGet (passCycle s).gangs k = some { g with heldCycles := c } := by
  rw [passCycle_eq]
  split
  · exact ⟨g.heldCycles, h⟩
  · have hg : mapGet (fabricCycle s).gangs k = some g := h
    obtain ⟨c, hc⟩ := heldOnce_eq (s := fabricCycle s) g
    rw [mapGet_gangs_arithCycle, hg, Option.map_some, hc]
    exact ⟨c, rfl⟩

/-- A gang that held for a token that is there now is ready (R31). -/
def released (s : State) (k : Nat) (g : Gang) : Gang :=
  if g.hold = some .token ∧ ((nextCost s k g).map (tokenServes s (bayOf k) g.vf)).getD false then
    { g with hold := none, ready := s.acycle } else g

/-- No other gang changes. -/
theorem mapGet_gangs_releaseTokens {k : Nat} {g : Gang} (h : mapGet s.gangs k = some g) :
    mapGet (releaseTokens s).gangs k = some g ∨
    (g.hold = some .token ∧ mapGet (releaseTokens s).gangs k = some { g with hold := none, ready := s.acycle }) := by
  have hget : mapGet (releaseTokens s).gangs k = (mapGet s.gangs k).map (released s k) := mapGet_mapAll (released s) s.gangs k
  rw [hget, h, Option.map_some]
  unfold released
  split
  · next hc => exact .inr ⟨hc.1, rfl⟩
  · exact .inl rfl

/-- The state in which the buckets accrue: a cycle has passed, and pending pre-emptions have been looked at. -/
def cycled (s : State) : State := retryPreempt (passCycle s)

theorem cycled_frame : cycled s = { fabricCycle s with acycle := (passCycle s).acycle, gangs := (passCycle s).gangs
                                                       workgroups := (cycled s).workgroups } := by
  have hr : cycled s = { passCycle s with workgroups := (cycled s).workgroups } := retryPreempt_frame
  rw [passCycle_frame] at hr
  exact hr

/-- The state after a fabric cycle's accrual and the transfers that it serves. -/
def paid (s : State) : State := payOwed (accrueAll (fillDue (cycled s)))

theorem bucketAccrual_next : exec .bucketAccrual s = .next (releaseTokens (paid s)) := rfl

/-- Beside tokens, the transfers that wait and the fills that are due, accrual changes nothing. -/
theorem paid_frame : paid s = { cycled s with buckets := (paid s).buckets, pools := (paid s).pools, owed := (paid s).owed
                                              refills := [] } := by
  have hfill : TokensOnly { cycled s with refills := [] } (fillDue (cycled s)) := tokensOnly_fillDue
  have hacc : TokensOnly { cycled s with refills := [] } (accrueAll (fillDue (cycled s))) := hfill.trans tokensOnly_accrueAll
  have hpay := payOwed_frame (s := accrueAll (fillDue (cycled s)))
  unfold paid
  generalize payOwed (accrueAll (fillDue (cycled s))) = u at hpay ⊢
  generalize accrueAll (fillDue (cycled s)) = t at hpay hacc
  unfold TokensOnly at hacc
  rw [hacc] at hpay
  exact hpay

end

end Sys2Proof.Machine
end

section
namespace Sys2Proof.Machine
open Sys2Proof.Claims

/-! ## Accrual at one arbiter (R366) -/

/-- What a bucket that holds `c` gives up beyond its depth in one cycle. -/
def spillOf (s : State) (kind vf : Nat) (c : Int) : Nat := (c + rate s vf kind - 1024 * (depth s vf kind : Int)).toNat

/-- The bucket of a VF in a table. -/
def held (m : AMap Int) (kind unit vf : Nat) : Int := (mapGet m (bucketKey kind unit vf)).getD 0

/-- What the buckets of some VFs give up under LEND. -/
def lentBy (s : State) (m : AMap Int) (kind unit : Nat) (vfs : List Nat) : Nat :=
  ((vfs.filter fun v => lends s v kind).map fun v => spillOf s kind v (held m kind unit v)).sum

/-- The sum of the rates of some VFs. -/
def rateSum (s : State) (kind : Nat) (vfs : List Nat) : Nat := (vfs.map fun v => rate s v kind).sum

section
variable {s t u : State} {m : AMap Int} {kind unit vf lent rates : Nat} {vfs : List Nat} {p : Partition}

theorem rateOf_profile : rateOf (profile s vf kind) = rate s vf kind := by simp [rateOf, profile, rate, bits, regGet]

theorem depthIn_profile : depthIn (profile s vf kind) = depth s vf kind := by simp [depthIn, profile, depth, bits, regGet]

theorem lend_profile : bits (profile s vf kind) 31 1 = 1 ↔ lends s vf kind = true := bits_one_eq_one _ 31

theorem rate_of_profile_zero (h : profile s vf kind = 0) : rate s vf kind = 0 := by rw [← rateOf_profile, h]; rfl
theorem depth_of_profile_zero (h : profile s vf kind = 0) : depth s vf kind = 0 := by rw [← depthIn_profile, h]; rfl

theorem bucketKey_inj {v w : Nat} : bucketKey kind unit v = bucketKey kind unit w ↔ v = w := by unfold bucketKey; omega

/-- A bucket of one VF after a cycle: the table, what is lent, and the rates so far. -/
def accrueStep (s : State) (kind unit v : Nat) (a : AMap Int × Nat × Nat) : AMap Int × Nat × Nat :=
  accrueVfs s kind unit [v] a

theorem accrueVfs_cons {v : Nat} {r : List Nat} (a : AMap Int × Nat × Nat) :
    accrueVfs s kind unit (v :: r) a = accrueVfs s kind unit r (accrueStep s kind unit v a) := by
  obtain ⟨m, lent, rates⟩ := a
  unfold accrueStep
  rw [accrueVfs, accrueVfs]
  dsimp only
  split <;> rfl

/-- One VF's accrual: its bucket, what it lends, its rate; no other bucket changes. A VF without a profile and a bucket has nothing
to accrue. -/
theorem accrueStep_holds (v : Nat) :
    (∀ key, key ≠ bucketKey kind unit v → mapGet (accrueStep s kind unit v (m, lent, rates)).1 key = mapGet m key) ∧
    held (accrueStep s kind unit v (m, lent, rates)).1 kind unit v
      = min (held m kind unit v + rate s v kind) (1024 * (depth s v kind : Int)) ∧
    (accrueStep s kind unit v (m, lent, rates)).2.1
      = lent + (if lends s v kind then spillOf s kind v (held m kind unit v) else 0) ∧
    (accrueStep s kind unit v (m, lent, rates)).2.2 = rates + rate s v kind := by
  unfold accrueStep
  rw [accrueVfs]
  dsimp only
  split
  · next h =>
    obtain ⟨hx, hnone⟩ := h
    have hheld : held m kind unit v = 0 := by rw [held, Option.isNone_iff_eq_none.1 hnone]; rfl
    rw [accrueVfs, spillOf, hheld, rate_of_profile_zero hx, depth_of_profile_zero hx]
    simp
  · rw [accrueVfs, rateOf_profile, depthIn_profile]
    have hspill : (if held m kind unit v + (rate s v kind : Int) > ((1024 * depth s v kind : Nat) : Int)
        then (held m kind unit v + (rate s v kind : Int) - ((1024 * depth s v kind : Nat) : Int)).toNat else 0)
        = spillOf s kind v (held m kind unit v) := by
      unfold spillOf
      split <;> omega
    refine ⟨fun key hk => by rw [mapGet_mapSet, if_neg hk], ?_, ?_, rfl⟩
    · rw [held, mapGet_mapSet, if_pos rfl]
      rfl
    · refine Eq.trans ?_ (congrArg (fun x => lent + if lends s v kind = true then x else 0) hspill)
      by_cases hl : lends s v kind = true
      · rw [if_pos hl, if_pos (lend_profile.2 hl)]
        rfl
      · rw [if_neg hl, if_neg fun h => hl (lend_profile.1 h)]
        rfl

/-- The accrual of several VFs. -/
theorem accrueVfs_holds (hn : vfs.Nodup) :
    (∀ key, (∀ v ∈ vfs, key ≠ bucketKey kind unit v) → mapGet (accrueVfs s kind unit vfs (m, lent, rates)).1 key = mapGet m key) ∧
    (∀ v ∈ vfs, held (accrueVfs s kind unit vfs (m, lent, rates)).1 kind unit v
      = min (held m kind unit v + rate s v kind) (1024 * (depth s v kind : Int))) ∧
    (accrueVfs s kind unit vfs (m, lent, rates)).2.1 = lent + lentBy s m kind unit vfs ∧
    (accrueVfs s kind unit vfs (m, lent, rates)).2.2 = rates + rateSum s kind vfs := by
  induction vfs generalizing m lent rates with
  | nil => exact ⟨fun _ _ => rfl, fun v hv => absurd hv List.not_mem_nil, rfl, rfl⟩
  | cons v r ih =>
    rw [List.nodup_cons] at hn
    obtain ⟨hvr, hr⟩ := hn
    obtain ⟨hother, hown, hlent, hrate⟩ := accrueStep_holds (s := s) (m := m) (kind := kind) (unit := unit) (lent := lent)
      (rates := rates) v
    rw [accrueVfs_cons]
    generalize accrueStep s kind unit v (m, lent, rates) = a at hother hown hlent hrate
    obtain ⟨m', lent', rates'⟩ := a
    dsimp only at hother hown hlent hrate
    obtain ⟨ihother, ihown, ihlent, ihrate⟩ := ih (m := m') (lent := lent') (rates := rates') hr
    have hkept : ∀ w ∈ r, held m' kind unit w = held m kind unit w := fun w hw => by
      rw [held, hother _ fun h => hvr (bucketKey_inj.1 h ▸ hw), held]
    have hlater : mapGet (accrueVfs s kind unit r (m', lent', rates')).1 (bucketKey kind unit v) = mapGet m' (bucketKey kind unit v) :=
      ihother _ fun x hx h => hvr (bucketKey_inj.1 h ▸ hx)
    refine ⟨fun key hk => ?_, fun w hw => ?_, ?_, ?_⟩
    · obtain ⟨hv, hrest⟩ := List.forall_mem_cons.1 hk
      rw [ihother key hrest, hother key hv]
    · rcases List.mem_cons.1 hw with rfl | hw
      · rw [held, hlater]
        exact hown
      · rw [ihown w hw, hkept w hw]
    · have hrest : lentBy s m' kind unit r = lentBy s m kind unit r :=
        congrArg List.sum (List.map_congr_left fun w hw => by rw [hkept w (List.mem_of_mem_filter hw)])
      rw [ihlent, hlent, hrest, lentBy, lentBy, List.filter_cons]
      split
      · rw [List.map_cons, List.sum_cons, Nat.add_assoc]
      · rfl
    · rw [ihrate, hrate, rateSum, rateSum, List.map_cons, List.sum_cons, Nat.add_assoc]

/-! ## What an arbiter sees of another's accrual -/

/-- The numbers of an arbiter and of a VF are in range (R363). -/
theorem bucketKey_eq {k u v k' u' v' : Nat} (hu : u < 2 ^ 14) (hv : v < 1024) (hu' : u' < 2 ^ 14) (hv' : v' < 1024)
    (h : bucketKey k u v = bucketKey k' u' v') : k = k' ∧ u = u' ∧ v = v' := by
  unfold bucketKey at h
  omega

theorem poolKey_eq {k u k' u' : Nat} (hu : u < 2 ^ 14) (hu' : u' < 2 ^ 14) (h : poolKey k u = poolKey k' u') : k = k' ∧ u = u' := by
  unfold poolKey at h
  omega

/-- The buckets and the pool of an arbiter, and what decides of them, are as before. -/
structure SameAt (kind unit : Nat) (s t : State) : Prop where
  parts : t.parts = s.parts
  hreg : t.hreg = s.hreg
  bucket : ∀ v < 1024, bucket t kind unit v = bucket s kind unit v
  pool : pool t kind unit = pool s kind unit

/-- The buckets of an arbiter and its pool have accrued one cycle's rates (R366). -/
structure AccruesAt (kind unit : Nat) (vfs : List Nat) (s t : State) : Prop where
  parts : t.parts = s.parts
  hreg : t.hreg = s.hreg
  bucket : ∀ v ∈ vfs, bucket t kind unit v = min (bucket s kind unit v + rate s v kind) (1024 * (depth s v kind : Int))
  pool : rateSum s kind vfs ≤ capacityOf kind → pool t kind unit
    = min (pool s kind unit + lentBy s s.buckets kind unit vfs + (capacityOf kind - rateSum s kind vfs)) (1024 * 65535)

theorem SameAt.refl (s : State) : SameAt kind unit s s := ⟨rfl, rfl, fun _ _ => rfl, rfl⟩

theorem SameAt.trans (h : SameAt kind unit s t) (g : SameAt kind unit t u) : SameAt kind unit s u :=
  ⟨g.parts.trans h.parts, g.hreg.trans h.hreg, fun v hv => (g.bucket v hv).trans (h.bucket v hv), g.pool.trans h.pool⟩

theorem rate_congr (h : t.hreg = s.hreg) (v k : Nat) : rate t v k = rate s v k := by rw [rate, h, rate]
theorem depth_congr (h : t.hreg = s.hreg) (v k : Nat) : depth t v k = depth s v k := by rw [depth, h, depth]
theorem lends_congr (h : t.hreg = s.hreg) (v k : Nat) : lends t v k = lends s v k := by rw [lends, h, lends]
theorem rateSum_congr (h : t.hreg = s.hreg) : rateSum t kind vfs = rateSum s kind vfs := by simp only [rateSum, rate_congr h]

theorem lentBy_congr (h : SameAt kind unit s t) (hlt : ∀ v ∈ vfs, v < 1024) :
    lentBy t t.buckets kind unit vfs = lentBy s s.buckets kind unit vfs := by
  unfold lentBy
  simp only [lends_congr h.hreg]
  refine congrArg List.sum (List.map_congr_left fun v hv => ?_)
  have hb : held t.buckets kind unit v = held s.buckets kind unit v := h.bucket v (hlt v (List.mem_of_mem_filter hv))
  rw [spillOf, spillOf, hb, rate_congr h.hreg, depth_congr h.hreg]

/-- Other arbiters may have their turn before. -/
theorem AccruesAt.after (g : AccruesAt kind unit vfs t u) (h : SameAt kind unit s t) (hlt : ∀ v ∈ vfs, v < 1024) :
    AccruesAt kind unit vfs s u where
  parts := g.parts.trans h.parts
  hreg := g.hreg.trans h.hreg
  bucket v hv := by rw [g.bucket v hv, h.bucket v (hlt v hv), rate_congr h.hreg, depth_congr h.hreg]
  pool hsum := by
    rw [← rateSum_congr h.hreg] at hsum
    rw [g.pool hsum, h.pool, lentBy_congr h hlt, rateSum_congr h.hreg]

/-- Other arbiters may have their turn after. -/
theorem AccruesAt.before (h : AccruesAt kind unit vfs s t) (g : SameAt kind unit t u) (hlt : ∀ v ∈ vfs, v < 1024) :
    AccruesAt kind unit vfs s u where
  parts := g.parts.trans h.parts
  hreg := g.hreg.trans h.hreg
  bucket v hv := (g.bucket v (hlt v hv)).trans (h.bucket v hv)
  pool hsum := g.pool.trans (h.pool hsum)

/-- The accrual of an arbiter. -/
theorem accruesAt_accrueAt (hn : vfs.Nodup) : AccruesAt kind unit vfs s (accrueAt kind vfs s unit) := by
  obtain ⟨-, hown, hlent, hrates⟩ := accrueVfs_holds (s := s) (m := s.buckets) (kind := kind) (unit := unit) (lent := 0) (rates := 0) hn
  refine ⟨rfl, rfl, hown, fun hsum => ?_⟩
  have hpool : pool (accrueAt kind vfs s unit) kind unit
      = min (pool s kind unit + (accrueVfs s kind unit vfs (s.buckets, 0, 0)).2.1 + capacityOf kind
        - (accrueVfs s kind unit vfs (s.buckets, 0, 0)).2.2) (1024 * 65535) := by
    show (mapGet (mapSet s.pools (poolKey kind unit) _) (poolKey kind unit)).getD 0 = _
    rw [mapGet_mapSet, if_pos rfl]
    rfl
  rw [hpool, hlent, hrates, Nat.zero_add, Nat.zero_add, Nat.add_sub_assoc hsum]

/-- The accrual of another arbiter. -/
theorem sameAt_accrueAt {k w : Nat} (hne : ¬(kind = k ∧ unit = w)) (hu : unit < 2 ^ 14) (hw : w < 2 ^ 14) (hn : vfs.Nodup)
    (hlt : ∀ v ∈ vfs, v < 1024) : SameAt kind unit s (accrueAt k vfs s w) := by
  obtain ⟨hother, -, -, -⟩ := accrueVfs_holds (s := s) (m := s.buckets) (kind := k) (unit := w) (lent := 0) (rates := 0) hn
  refine ⟨rfl, rfl, fun v hv => ?_, ?_⟩
  · show (mapGet (accrueVfs s k w vfs (s.buckets, 0, 0)).1 (bucketKey kind unit v)).getD 0 = _
    rw [hother]
    · rfl
    · intro x hx h
      obtain ⟨hk, huw, -⟩ := bucketKey_eq hu hv hw (hlt x hx) h
      exact hne ⟨hk, huw⟩
  · show (mapGet (mapSet s.pools (poolKey k w) _) (poolKey kind unit)).getD 0 = _
    rw [mapGet_mapSet, if_neg fun h => hne (poolKey_eq hu hw h)]
    rfl

end

end Sys2Proof.Machine
end

section
namespace Sys2Proof.Machine
open Sys2Proof.Claims

/-! ## The arbiters of a partition (R354, R363) -/

/-- The KIND of PARTSTAT whose units have the arbiters of a kind. -/
def ownerKind : Nat → Nat
  | 0 => 0 | 1 => 1 | 2 => 2 | 3 => 6 | 4 => 7 | 5 => 4 | _ => 3

/-- The unit that an arbiter belongs to: the 32 bays of a cluster have one each. -/
def ownerUnit (kind unit : Nat) : Nat := if kind = 0 then unit / 32 else unit

section
variable {s t : State} {kind unit vf : Nat} {vfs : List Nat} {p : Partition} {e x : Nat × Partition}

theorem mem_arbitersOf (hk : kind < 7) : unit ∈ arbitersOf p kind ↔ ownerUnit kind unit ∈ unitsOfKind p (ownerKind kind) := by
  cases kind with
  | zero =>
    simp only [arbitersOf, List.mem_flatMap, List.mem_map, List.mem_range, ownerUnit, if_true, ownerKind, unitsOfKind]
    constructor
    · rintro ⟨c, hc, i, hi, rfl⟩
      have hdiv : (32 * c + i) / 32 = c := by omega
      rwa [hdiv]
    · exact fun hc => ⟨unit / 32, hc, unit % 32, Nat.mod_lt _ (by decide), Nat.div_add_mod _ _⟩
  | succ k =>
    have hunits : arbitersOf p (k + 1) = unitsOfKind p (ownerKind (k + 1)) := by
      have hlt : k < 6 := by omega
      interval_cases k <;> rfl
    rw [hunits, ownerUnit, if_neg (Nat.succ_ne_zero k)]

theorem mem_unitsBounds (hk : kind < 7) : ∃ n ≤ 1024, (ownerKind kind, n) ∈
    [(0, 64), (1, 1024), (2, 256), (3, 128), (4, 512), (5, 8), (6, 24), (7, 4), (8, 1024)] ∧ (kind = 0 → n = 64) := by
  interval_cases kind
  · exact ⟨64, by decide, by decide, fun _ => rfl⟩
  · exact ⟨1024, by decide, by decide, by decide⟩
  · exact ⟨256, by decide, by decide, by decide⟩
  · exact ⟨24, by decide, by decide, by decide⟩
  · exact ⟨4, by decide, by decide, by decide⟩
  · exact ⟨512, by decide, by decide, by decide⟩
  · exact ⟨128, by decide, by decide, by decide⟩

theorem stack_lt (hu : unit ∈ arbitersOf p 7) : unit < 8 := by
  have hm : unit ∈ clusterStacks p := hu
  exact List.mem_range.1 (List.mem_of_mem_filter hm)

/-- An arbiter's number is in range. -/
theorem arbiter_lt (h : PartitionsDisjoint s) (he : e ∈ s.parts) (hk : kind < 8) (hu : unit ∈ arbitersOf e.2 kind) : unit < 2 ^ 14 := by
  by_cases h7 : kind = 7
  · subst h7
    have h8 : unit < 8 := stack_lt hu
    omega
  · have hk7 : kind < 7 := by omega
    obtain ⟨n, hn, hmem, hzero⟩ := mem_unitsBounds hk7
    have hlt : ownerUnit kind unit < n := (h.2.1 e he _ hmem).2 _ ((mem_arbitersOf hk7).1 hu)
    unfold ownerUnit at hlt
    split at hlt
    · next h0 => rw [hzero h0] at hlt; omega
    · omega

theorem nodup_arbitersOf (h : PartitionsDisjoint s) (he : e ∈ s.parts) (hk : kind < 7) : (arbitersOf e.2 kind).Nodup := by
  obtain ⟨n, -, hmem, -⟩ := mem_unitsBounds hk
  have hn : (unitsOfKind e.2 (ownerKind kind)).Nodup := (h.2.1 e he _ hmem).1
  cases kind with
  | zero =>
    refine List.nodup_flatMap.2 ⟨fun c _ => List.nodup_range.map fun a b hab => Nat.add_left_cancel hab,
      hn.imp fun {a b} hab x ha hb => hab ?_⟩
    obtain ⟨i, hi, rfl⟩ := List.mem_map.1 ha
    obtain ⟨j, hj, hij⟩ := List.mem_map.1 hb
    rw [List.mem_range] at hi hj
    omega
  | succ k =>
    have hlt : k < 6 := by omega
    interval_cases k <;> exact hn

theorem nodup_vfs (h : PartitionsDisjoint s) (he : e ∈ s.parts) : e.2.vfs.Nodup := (h.2.1 e he (8, 1024) (by decide)).1

theorem vfs_lt (h : PartitionsDisjoint s) (he : e ∈ s.parts) {v : Nat} (hv : v ∈ e.2.vfs) : v < 1024 :=
  (h.2.1 e he (8, 1024) (by decide)).2 v hv

theorem nodup_parts (h : PartitionsDisjoint s) : s.parts.Nodup := h.1.of_map

/-- Two partitions own nothing in common. -/
theorem units_disjoint (h : PartitionsDisjoint s) (he : e ∈ s.parts) (hx : x ∈ s.parts) (hne : e ≠ x) (hk : kind < 9)
    {u : Nat} (hu : u ∈ unitsOfKind e.2 kind) : u ∉ unitsOfKind x.2 kind := by
  have hsymm : Std.Symm fun a b : Nat × Partition => ∀ kind < 9, ∀ u ∈ unitsOfKind a.2 kind, u ∉ unitsOfKind b.2 kind :=
    ⟨fun _ _ hab k hk u hu hu' => hab k hk u hu' hu⟩
  exact h.2.2.forall he hx hne kind hk u hu

theorem ownerKind_lt (kind : Nat) : ownerKind kind < 9 := by
  unfold ownerKind
  split <;> decide

/-- An arbiter of a unit belongs to one partition. -/
theorem arbiter_unique (h : PartitionsDisjoint s) (he : e ∈ s.parts) (hx : x ∈ s.parts) (hk : kind < 7)
    (hu : unit ∈ arbitersOf e.2 kind) (hu' : unit ∈ arbitersOf x.2 kind) : x = e := by
  by_contra hne
  exact units_disjoint h hx he hne (ownerKind_lt kind) ((mem_arbitersOf hk).1 hu') ((mem_arbitersOf hk).1 hu)

/-- A VF belongs to one partition. -/
theorem vf_unique (h : PartitionsDisjoint s) (he : e ∈ s.parts) (hx : x ∈ s.parts) (hv : vf ∈ e.2.vfs) (hv' : vf ∈ x.2.vfs) : x = e := by
  by_contra hne
  exact units_disjoint h hx he hne (kind := 8) (by decide) hv' hv

/-- What `partOf` answers for a VF of a partition. -/
theorem partOf_of_mem (h : PartitionsDisjoint s) (he : e ∈ s.parts) (hv : vf ∈ e.2.vfs) : partOf s vf = some e := by
  unfold partOf
  cases hf : s.parts.find? fun e => e.2.vfs.contains vf with
  | none => exact absurd (List.contains_iff_mem.2 hv) (List.find?_eq_none.1 hf e he)
  | some x =>
    have hx : vf ∈ x.2.vfs := by simpa using List.find?_some hf
    rw [vf_unique h he (List.mem_of_find?_eq_some hf) hv hx]

theorem mem_arbiterVfs {v : Nat} : v ∈ arbiterVfs s kind unit ↔ ∃ e ∈ s.parts, unit ∈ arbitersOf e.2 kind ∧ v ∈ e.2.vfs := by
  simp only [arbiterVfs, List.mem_flatMap, List.mem_filter, List.contains_iff_mem, and_assoc]

theorem arbiterVfs_lt (h : PartitionsDisjoint s) : ∀ v ∈ arbiterVfs s kind unit, v < 1024 := by
  intro v hv
  obtain ⟨e, he, -, hve⟩ := mem_arbiterVfs.1 hv
  exact vfs_lt h he hve

theorem nodup_arbiterVfs (h : PartitionsDisjoint s) : (arbiterVfs s kind unit).Nodup := by
  refine List.nodup_flatMap.2 ⟨fun e he => nodup_vfs h (List.mem_of_mem_filter he), ?_⟩
  have hdis : s.parts.Pairwise fun a b => ∀ v ∈ a.2.vfs, v ∉ b.2.vfs := vfs_disjoint h
  exact (hdis.filter _).imp fun hab v ha hb => hab v ha hb

theorem filter_eq_singleton {α : Type} {l : List α} {a : α} {f : α → Bool} (hn : l.Nodup) (ha : a ∈ l) (hf : f a = true)
    (hone : ∀ b ∈ l, f b = true → b = a) : l.filter f = [a] := by
  refine List.Perm.eq_singleton ((List.perm_ext_iff_of_nodup (hn.filter f) (List.nodup_singleton a)).2 fun b => ?_)
  rw [List.mem_filter, List.mem_singleton]
  exact ⟨fun hb => hone b hb.1 hb.2, fun hb => hb ▸ ⟨ha, hf⟩⟩

/-- The arbiter of a unit holds buckets for the VFs of the partition that owns the unit. -/
theorem arbiterVfs_eq (h : PartitionsDisjoint s) (he : e ∈ s.parts) (hk : kind < 7) (hu : unit ∈ arbitersOf e.2 kind) :
    arbiterVfs s kind unit = e.2.vfs := by
  have hone : s.parts.filter (fun x => (arbitersOf x.2 kind).contains unit) = [e] :=
    filter_eq_singleton (nodup_parts h) he (List.contains_iff_mem.2 hu) fun x hx hux =>
      arbiter_unique h he hx hk hu (List.contains_iff_mem.1 hux)
  rw [arbiterVfs, hone, List.flatMap_singleton]

/-! ## The turns of the arbiters -/

theorem sameAt_foldl {α : Type} {f : State → α → State} {l : List α}
    (h : ∀ a ∈ l, ∀ t, t.parts = s.parts → SameAt kind unit t (f t a)) : SameAt kind unit s (l.foldl f s) := by
  induction l generalizing s with
  | nil => exact .refl s
  | cons a r ih =>
    obtain ⟨ha, hr⟩ := List.forall_mem_cons.1 h
    have h1 := ha s rfl
    exact h1.trans (ih fun b hb t ht => hr b hb t (ht.trans h1.parts))

/-- Where one turn of several is the arbiter's own. -/
theorem accruesAt_foldl {α : Type} {f : State → α → State} {l : List α} {a : α} (hlt : ∀ v ∈ vfs, v < 1024) (hn : l.Nodup)
    (ha : a ∈ l) (hother : ∀ b ∈ l, b ≠ a → ∀ t, t.parts = s.parts → SameAt kind unit t (f t b))
    (hown : ∀ t, t.parts = s.parts → AccruesAt kind unit vfs t (f t a)) : AccruesAt kind unit vfs s (l.foldl f s) := by
  induction l generalizing s with
  | nil => cases ha
  | cons b r ih =>
    rw [List.nodup_cons] at hn
    obtain ⟨hbr, hr⟩ := hn
    by_cases hb : b = a
    · subst hb
      have h1 := hown s rfl
      refine h1.before (sameAt_foldl fun c hc t ht => ?_) hlt
      exact hother c (List.mem_cons_of_mem _ hc) (fun h => hbr (h ▸ hc)) t (ht.trans h1.parts)
    · have h1 := hother b List.mem_cons_self hb s rfl
      refine (ih hr ((List.mem_cons.1 ha).resolve_left fun h => hb h.symm) (fun c hc hne t ht => ?_) fun t ht => ?_).after h1 hlt
      · exact hother c (List.mem_cons_of_mem _ hc) hne t (ht.trans h1.parts)
      · exact hown t (ht.trans h1.parts)

/-- The accrual of a partition's arbiters is not that of another's. -/
theorem sameAt_accruePart (h : PartitionsDisjoint s) (he : e ∈ s.parts) (hu : unit < 2 ^ 14)
    (hnot : ¬(kind < 7 ∧ unit ∈ arbitersOf e.2 kind)) (t : State) : SameAt kind unit t (accruePart t e.2) := by
  refine sameAt_foldl fun k hk t _ => sameAt_foldl fun w hw t _ => ?_
  have hk7 : k < 7 := List.mem_range.1 hk
  refine sameAt_accrueAt (fun hkw => hnot ?_) hu (arbiter_lt h he (by omega) hw) (nodup_vfs h he) fun v hv => vfs_lt h he hv
  obtain ⟨rfl, rfl⟩ := hkw
  exact ⟨hk7, hw⟩

theorem accruesAt_accruePart (h : PartitionsDisjoint s) (he : e ∈ s.parts) (hk : kind < 7) (hu : unit ∈ arbitersOf e.2 kind)
    (t : State) : AccruesAt kind unit e.2.vfs t (accruePart t e.2) := by
  have hlt : ∀ v ∈ e.2.vfs, v < 1024 := fun v hv => vfs_lt h he hv
  have hu14 : unit < 2 ^ 14 := arbiter_lt h he (by omega) hu
  refine accruesAt_foldl hlt List.nodup_range (List.mem_range.2 hk) (fun k hk' hne t _ => ?_) fun t _ => ?_
  · refine sameAt_foldl fun w hw t _ => sameAt_accrueAt (fun hkw => hne hkw.1.symm) hu14 ?_ (nodup_vfs h he) hlt
    have hk7 : k < 7 := List.mem_range.1 hk'
    exact arbiter_lt h he (by omega) hw
  · refine accruesAt_foldl hlt (nodup_arbitersOf h he hk) hu (fun w hw hne t _ => ?_) fun t _ => accruesAt_accrueAt (nodup_vfs h he)
    exact sameAt_accrueAt (fun hkw => hne hkw.2.symm) hu14 (arbiter_lt h he (by omega) hw) (nodup_vfs h he) hlt

/-- A walker's accrual is that of the VFs of all partitions with a cluster in its stack group (R363; log 27). -/
theorem accrueWalker_eq {stack : Nat} : accrueWalker s stack
    = if s.parts.filter (fun e => (arbitersOf e.2 7).contains stack) = [] then s
      else accrueAt 7 (arbiterVfs s 7 stack) s stack := by
  unfold accrueWalker
  dsimp only
  by_cases hempty : s.parts.filter (fun e => (arbitersOf e.2 7).contains stack) = []
  · rw [if_pos hempty]
    exact if_pos (List.isEmpty_iff.2 hempty)
  · rw [if_neg hempty]
    exact if_neg fun h => hempty (List.isEmpty_iff.1 h)

theorem arbiterVfs_congr (h : t.parts = s.parts) : arbiterVfs t kind unit = arbiterVfs s kind unit := by rw [arbiterVfs, h, arbiterVfs]

theorem sameAt_accrueWalker (h : PartitionsDisjoint s) (hu : unit < 2 ^ 14) {stack : Nat} (hs : stack < 8)
    (hne : ¬(kind = 7 ∧ unit = stack)) (ht : t.parts = s.parts) : SameAt kind unit t (accrueWalker t stack) := by
  rw [accrueWalker_eq]
  split
  · exact .refl t
  · rw [arbiterVfs_congr ht]
    exact sameAt_accrueAt hne hu (by omega) (nodup_arbiterVfs h) (arbiterVfs_lt h)

theorem accruesAt_accrueWalker (h : PartitionsDisjoint s) {stack : Nat} (hv : arbiterVfs s 7 stack ≠ []) (ht : t.parts = s.parts) :
    AccruesAt 7 stack (arbiterVfs s 7 stack) t (accrueWalker t stack) := by
  have hne : t.parts.filter (fun e => (arbitersOf e.2 7).contains stack) ≠ [] := fun hempty => hv (by
    rw [arbiterVfs, ← ht, hempty, List.flatMap_nil])
  rw [accrueWalker_eq, if_neg hne, arbiterVfs_congr ht]
  exact accruesAt_accrueAt (nodup_arbiterVfs h)

/-- Each arbiter that holds buckets accrues once in a cycle (R366). -/
theorem accruesAt_accrueAll (h : PartitionsDisjoint s) (hk : kind < 8) (hv : arbiterVfs s kind unit ≠ []) :
    AccruesAt kind unit (arbiterVfs s kind unit) s (accrueAll s) := by
  obtain ⟨v, hmem⟩ := List.exists_mem_of_ne_nil _ hv
  obtain ⟨e, he, hu, -⟩ := mem_arbiterVfs.1 hmem
  have hu14 : unit < 2 ^ 14 := arbiter_lt h he hk hu
  have hparts : (s.parts.foldl (fun s e => accruePart s e.2) s).parts = s.parts :=
    congrArg (·.parts) (tokensOnly_foldl (fun _ (e : Nat × Partition) => tokensOnly_accruePart (p := e.2)) s.parts)
  unfold accrueAll
  by_cases h7 : kind = 7
  · subst h7
    have hu8 : unit < 8 := stack_lt hu
    have hfirst : SameAt 7 unit s (s.parts.foldl (fun s e => accruePart s e.2) s) :=
      sameAt_foldl fun x hx t _ => sameAt_accruePart h hx hu14 (fun hc => absurd hc.1 (by decide)) t
    refine (accruesAt_foldl (arbiterVfs_lt h) List.nodup_range (List.mem_range.2 hu8) (fun st hst hne t ht => ?_) fun t ht => ?_).after
      hfirst (arbiterVfs_lt h)
    · exact sameAt_accrueWalker h hu14 (List.mem_range.1 hst) (fun hc => hne hc.2.symm) (ht.trans hparts)
    · exact accruesAt_accrueWalker h hv (ht.trans hparts)
  · have hk7 : kind < 7 := by omega
    have hlt : ∀ v ∈ e.2.vfs, v < 1024 := fun v hv => vfs_lt h he hv
    rw [arbiterVfs_eq h he hk7 hu]
    have hfirst : AccruesAt kind unit e.2.vfs s (s.parts.foldl (fun s e => accruePart s e.2) s) :=
      accruesAt_foldl hlt (nodup_parts h) he
        (fun x hx hne t _ => sameAt_accruePart h hx hu14 (fun hc => hne (arbiter_unique h he hx hk7 hu hc.2)) t)
        fun t _ => accruesAt_accruePart h he hk7 hu t
    exact hfirst.before (sameAt_foldl fun st hst t ht =>
      sameAt_accrueWalker h hu14 (List.mem_range.1 hst) (fun hc => h7 hc.1) (ht.trans hparts)) hlt

end

end Sys2Proof.Machine
end

section
namespace Sys2Proof.Machine
open Sys2Proof.Claims

/-! ## Buckets that start at DEPTH (R365, R372) -/

/-- One fill that is due: the buckets of a VF and kind at every arbiter of its partition. -/
def fillOne (s : State) (r : Nat × Nat) : State :=
  match partOf s r.1 with
  | none => s
  | some (_, p) => fillBuckets s r.1 r.2 (depthIn (profile s r.1 r.2)) (arbitersOf p r.2)

section
variable {s t : State} {kind unit v : Nat} {e : Nat × Partition} {r : Nat × Nat}

theorem fillDue_eq : fillDue s = s.refills.foldl fillOne { s with refills := [] } := rfl

theorem fillOne_none (h : partOf s r.1 = none) : fillOne s r = s := by
  unfold fillOne
  rw [h]

theorem fillOne_some (h : partOf s r.1 = some e) :
    fillOne s r = fillBuckets s r.1 r.2 (depth s r.1 r.2) (arbitersOf e.2 r.2) := by
  unfold fillOne
  rw [h]
  dsimp only
  rw [depthIn_profile]

theorem bucket_fillBuckets (d : Nat) (units : List Nat) {vf k : Nat} : bucket (fillBuckets s vf k d units) kind unit v
    = if ∃ u ∈ units, bucketKey kind unit v = bucketKey k u vf then 1024 * (d : Int) else bucket s kind unit v := by
  have hfold : (fillBuckets s vf k d units).buckets
      = (units.map fun u => bucketKey k u vf).foldl (fun m key => mapSet m key ((1024 * d : Nat) : Int)) s.buckets := by
    rw [List.foldl_map]; rfl
  have hmem : bucketKey kind unit v ∈ units.map (fun u => bucketKey k u vf) ↔ ∃ u ∈ units, bucketKey kind unit v = bucketKey k u vf := by
    simp only [List.mem_map, eq_comm]
  show (mapGet (fillBuckets s vf k d units).buckets (bucketKey kind unit v)).getD 0 = _
  rw [hfold, mapGet_foldl_mapSet]
  by_cases h : ∃ u ∈ units, bucketKey kind unit v = bucketKey k u vf
  · rw [if_pos h, if_pos (hmem.2 h), Option.getD_some]
    omega
  · rw [if_neg h, if_neg fun hm => h (hmem.1 hm)]
    rfl

/-- Arbiters of a refill's kind have numbers in range, also those of a kind that R364 does not have. -/
theorem arbiter_lt_any (h : PartitionsDisjoint s) (he : e ∈ s.parts) {k u : Nat} (hu : u ∈ arbitersOf e.2 k) : u < 2 ^ 14 := by
  by_cases hk : k < 8
  · exact arbiter_lt h he hk hu
  · have h7 : arbitersOf e.2 k = arbitersOf e.2 7 := by
      match k, hk with
      | 0, hk | 1, hk | 2, hk | 3, hk | 4, hk | 5, hk | 6, hk => exact absurd hk (by decide)
      | k + 7, _ => rfl
    have h8 : u < 8 := stack_lt (h7 ▸ hu)
    omega

/-- A fill raises the VF's bucket of the kind at the arbiters of its partition. -/
theorem bucket_fillOne (h : PartitionsDisjoint s) (hp : t.parts = s.parts) (hr : t.hreg = s.hreg) (hk : kind < 8)
    (hv : v ∈ arbiterVfs s kind unit) :
    bucket (fillOne t r) kind unit v = if r = (v, kind) then 1024 * (depth s v kind : Int) else bucket t kind unit v := by
  obtain ⟨e, he, hu, hve⟩ := mem_arbiterVfs.1 hv
  have hpart : ∀ x, partOf t x = partOf s x := fun x => by rw [partOf, hp, partOf]
  obtain ⟨vf, k⟩ := r
  by_cases heq : (vf, k) = (v, kind)
  · cases heq
    rw [if_pos rfl, fillOne_some (e := e) ((hpart _).trans (partOf_of_mem h he hve)), bucket_fillBuckets, if_pos ⟨unit, hu, rfl⟩,
      depth_congr hr]
  · rw [if_neg heq]
    cases hx : partOf t vf with
    | none => rw [fillOne_none (r := (vf, k)) hx]
    | some x =>
      have hxs : partOf s vf = some x := (hpart vf).symm.trans hx
      have hxmem : x ∈ s.parts := List.mem_of_find?_eq_some hxs
      have hvf : vf ∈ x.2.vfs := by simpa using List.find?_some hxs
      rw [fillOne_some (r := (vf, k)) hx, bucket_fillBuckets, if_neg]
      rintro ⟨u, hux, hkey⟩
      obtain ⟨rfl, -, rfl⟩ := bucketKey_eq (arbiter_lt h he hk hu) (vfs_lt h he hve) (arbiter_lt_any h hxmem hux)
        (vfs_lt h hxmem hvf) hkey
      exact heq rfl

theorem fillOne_frame : (fillOne t r).parts = t.parts ∧ (fillOne t r).hreg = t.hreg ∧ (fillOne t r).pools = t.pools := by
  unfold fillOne
  split <;> exact ⟨rfl, rfl, rfl⟩

theorem foldl_fillOne (h : PartitionsDisjoint s) (hk : kind < 8) (l : List (Nat × Nat)) (hp : t.parts = s.parts)
    (hr : t.hreg = s.hreg) : (l.foldl fillOne t).parts = s.parts ∧ (l.foldl fillOne t).hreg = s.hreg ∧
    (l.foldl fillOne t).pools = t.pools ∧ ∀ v ∈ arbiterVfs s kind unit, bucket (l.foldl fillOne t) kind unit v
      = if (v, kind) ∈ l then 1024 * (depth s v kind : Int) else bucket t kind unit v := by
  induction l generalizing t with
  | nil => exact ⟨hp, hr, rfl, fun v _ => (if_neg List.not_mem_nil).symm⟩
  | cons r l ih =>
    obtain ⟨hp1, hr1, hpool⟩ := fillOne_frame (t := t) (r := r)
    obtain ⟨ihp, ihr, ihpool, ihb⟩ := ih (hp1.trans hp) (hr1.trans hr)
    refine ⟨ihp, ihr, ihpool.trans hpool, fun v hv => ?_⟩
    rw [List.foldl_cons, ihb v hv, bucket_fillOne h hp hr hk hv]
    by_cases hl : (v, kind) ∈ l
    · rw [if_pos hl, if_pos (List.mem_cons_of_mem _ hl)]
    · by_cases hrv : r = (v, kind)
      · rw [if_neg hl, if_pos hrv, if_pos (hrv ▸ List.mem_cons_self)]
      · rw [if_neg hl, if_neg hrv, if_neg fun hm => (List.mem_cons.1 hm).elim (fun e => hrv e.symm) hl]

/-- The buckets of an arbiter once the fills that are due are made. -/
theorem fillDue_holds (h : PartitionsDisjoint s) (hk : kind < 8) : (fillDue s).parts = s.parts ∧ (fillDue s).hreg = s.hreg ∧
    (fillDue s).pools = s.pools ∧ ∀ v ∈ arbiterVfs s kind unit, bucket (fillDue s) kind unit v = filled s kind unit v := by
  rw [fillDue_eq]
  exact foldl_fillOne (t := { s with refills := [] }) h hk s.refills rfl rfl

/-! ## What a cycle adds (R366) -/

/-- The state in which the buckets have accrued. -/
def grown (s : State) : State := accrueAll (fillDue (cycled s))

theorem paid_eq : paid s = payOwed (grown s) := rfl

theorem grown_owed : (grown s).owed = s.owed := by
  have hfill : TokensOnly { cycled s with refills := [] } (fillDue (cycled s)) := tokensOnly_fillDue
  have hall : TokensOnly { cycled s with refills := [] } (grown s) := hfill.trans tokensOnly_accrueAll
  have h1 : (grown s).owed = (cycled s).owed := congrArg (·.owed) hall
  have h2 : (cycled s).owed = s.owed := congrArg (·.owed) cycled_frame
  exact h1.trans h2

/-- The passing of the cycle changes nothing that accrual depends on. -/
theorem cycled_same : (cycled s).parts = s.parts ∧ (cycled s).hreg = s.hreg ∧ (cycled s).pools = s.pools ∧
    (cycled s).buckets = s.buckets ∧ (cycled s).refills = s.refills :=
  ⟨congrArg (·.parts) cycled_frame, congrArg (·.hreg) cycled_frame, congrArg (·.pools) cycled_frame,
    congrArg (·.buckets) cycled_frame, congrArg (·.refills) cycled_frame⟩

theorem partitionsDisjoint_congr (hp : t.parts = s.parts) (h : PartitionsDisjoint s) : PartitionsDisjoint t := by
  unfold PartitionsDisjoint at h ⊢
  rwa [hp]

/-- Every bucket has what the cycle gives it, and the pool what overflows and what nobody holds (R366). -/
theorem grown_holds (h : PartitionsDisjoint s) (hk : kind < 8) (hne : arbiterVfs s kind unit ≠ []) :
    (∀ v ∈ arbiterVfs s kind unit, bucket (grown s) kind unit v = accrued s kind unit v) ∧
    (((arbiterVfs s kind unit).map fun v => rate s v kind).sum ≤ capacityOf kind → pool (grown s) kind unit = swollen s kind unit) := by
  obtain ⟨hcp, hcr, hcpool, hcb, hcf⟩ := cycled_same (s := s)
  have hcd : PartitionsDisjoint (cycled s) := partitionsDisjoint_congr hcp h
  obtain ⟨hfp, hfr, hfpool, hfb⟩ := fillDue_holds (unit := unit) hcd hk
  have hparts : (fillDue (cycled s)).parts = s.parts := hfp.trans hcp
  have hhreg : (fillDue (cycled s)).hreg = s.hreg := hfr.trans hcr
  have hvfs : arbiterVfs (fillDue (cycled s)) kind unit = arbiterVfs s kind unit := arbiterVfs_congr hparts
  have hfilled : ∀ v ∈ arbiterVfs s kind unit, bucket (fillDue (cycled s)) kind unit v = filled s kind unit v := by
    intro v hv
    rw [hfb v (arbiterVfs_congr hcp ▸ hv), filled, filled, hcf, depth_congr hcr, bucket, bucket, hcb]
  have hpool : pool (fillDue (cycled s)) kind unit = pool s kind unit := by rw [pool, hfpool, hcpool, pool]
  have hall := accruesAt_accrueAll (partitionsDisjoint_congr hparts h) hk (unit := unit) (by rwa [hvfs])
  rw [hvfs] at hall
  constructor
  · intro v hv
    refine (hall.bucket v hv).trans ?_
    rw [hfilled v hv, rate_congr hhreg, depth_congr hhreg, accrued]
  · intro hsum
    have hrates : rateSum (fillDue (cycled s)) kind (arbiterVfs s kind unit)
        = ((arbiterVfs s kind unit).map fun v => rate s v kind).sum := rateSum_congr hhreg
    have hlent : lentBy (fillDue (cycled s)) (fillDue (cycled s)).buckets kind unit (arbiterVfs s kind unit)
        = (((arbiterVfs s kind unit).filter fun v => lends s v kind).map fun v =>
          (filled s kind unit v + rate s v kind - 1024 * (depth s v kind : Int)).toNat).sum := by
      unfold lentBy
      simp only [lends_congr hhreg]
      refine congrArg List.sum (List.map_congr_left fun v hv => ?_)
      have hb : held (fillDue (cycled s)).buckets kind unit v = filled s kind unit v := hfilled v (List.mem_of_mem_filter hv)
      rw [spillOf, hb, rate_congr hhreg, depth_congr hhreg]
    refine (hall.pool (hrates ▸ hsum)).trans ?_
    rw [hpool, hlent, hrates, swollen]

/-! ## Transfers that wait for their tokens (R366, R367; log 59) -/

theorem payOwed_nil (h : s.owed = []) : payOwed s = { s with owed := [] } := by
  unfold payOwed
  rw [h]
  rfl

theorem payOwed_one {o : Owed} (h : s.owed = [o]) : payOwed s = match grant s o.kind o.unit o.vf o.tokens with
    | some t => { t with owed := [] }
    | none => s := by
  unfold payOwed
  rw [h]
  simp only [List.zipIdx_cons, List.zipIdx_nil, List.foldr_cons, List.foldr_nil, insertOwed, List.foldl_cons, List.foldl_nil]
  cases grant s o.kind o.unit o.vf o.tokens with
  | none =>
    have hs : { s with owed := [o] } = s := by rw [← h]
    simpa using hs
  | some t => simp

/-- An owner is served on one token (R366). -/
theorem grant_owner {n : Nat} (h : 1024 ≤ bucket s kind unit v) : grant s kind unit v n
    = some { s with buckets := mapSet s.buckets (bucketKey kind unit v) (bucket s kind unit v - 1024 * n) } := if_pos h

/-- A borrower is served by the pool (R366). -/
theorem grant_borrower {n : Nat} (h : ¬1024 ≤ bucket s kind unit v) (hp : 1024 * n ≤ pool s kind unit) : grant s kind unit v n
    = some { s with pools := mapSet s.pools (poolKey kind unit) (pool s kind unit - 1024 * n) } :=
  (if_neg h).trans (if_pos hp)

theorem grant_none {n : Nat} (h : ¬1024 ≤ bucket s kind unit v) (hp : ¬1024 * n ≤ pool s kind unit) :
    grant s kind unit v n = none := (if_neg h).trans (if_neg hp)

end

end Sys2Proof.Machine
end

section
namespace Sys2Proof.Machine
open Sys2Proof.Claims

/-! ## The order of a round (R367, R372) -/

theorem listBefore_trans {a b c : List Nat} (h : listBefore a b = true) (g : listBefore b c = true) : listBefore a c = true := by
  induction a generalizing b c with
  | nil =>
    cases b with
    | nil => cases h
    | cons y q =>
      cases c with
      | nil => cases g
      | cons z r => rfl
  | cons x p ih =>
    cases b with
    | nil => cases h
    | cons y q =>
      cases c with
      | nil => cases g
      | cons z r =>
        simp only [listBefore, Bool.or_eq_true, Bool.and_eq_true, decide_eq_true_eq, beq_iff_eq] at h g ⊢
        rcases h with h | ⟨rfl, h⟩
        · rcases g with g | ⟨rfl, -⟩
          · exact .inl (h.trans g)
          · exact .inl h
        · rcases g with g | ⟨rfl, g⟩
          · exact .inl g
          · exact .inr ⟨rfl, ih h g⟩

theorem listBefore_irrefl (a : List Nat) : listBefore a a = false := by
  induction a with
  | nil => rfl
  | cons x r ih => simp [listBefore, ih]

section
variable {s t : State} {kind unit : Nat} {a b : BucketRequest}

/-- The order of the model's sort is that of R367: owners by age, then borrowers by BPRIO and age; the lower VF of several. -/
theorem before_iff : before s kind unit a b
    ↔ listBefore (requestOrder s kind unit a) (requestOrder s kind unit b) = true := by
  have hprio : ∀ r : BucketRequest, bits (profile s r.vf kind) 29 2
      = ((wordGet s.hreg (pageReg r.vf (0x80 + 8 * kind))).extractLsb' 29 2).toNat := fun r => by simp [bits, profile, regGet]
  have hlt : ∀ r : BucketRequest, bits (profile s r.vf kind) 29 2 < 4 := fun r => Nat.mod_lt _ (by decide)
  have hbucket : ∀ r : BucketRequest, (mapGet s.buckets (bucketKey kind unit r.vf)).getD 0 = bucket s kind unit r.vf := fun _ => rfl
  have ha := hlt a
  have hb := hlt b
  unfold before requestOrder
  simp only [← hprio, hbucket, ge_iff_le]
  by_cases howner : 1024 ≤ bucket s kind unit a.vf
  · by_cases hother : 1024 ≤ bucket s kind unit b.vf
    · simp [howner, hother, listBefore]
    · simp [howner, hother, listBefore]
  · by_cases hother : 1024 ≤ bucket s kind unit b.vf
    · simp [howner, hother, listBefore]
    · have hless : 3 - bits (profile s a.vf kind) 29 2 < 3 - bits (profile s b.vf kind) 29 2
          ↔ bits (profile s b.vf kind) 29 2 < bits (profile s a.vf kind) 29 2 := by omega
      have heq : 3 - bits (profile s a.vf kind) 29 2 = 3 - bits (profile s b.vf kind) 29 2
          ↔ bits (profile s a.vf kind) 29 2 = bits (profile s b.vf kind) 29 2 := by omega
      simp [howner, hother, listBefore, hless, heq]

theorem before_trans {c : BucketRequest} (h : before s kind unit a b) (g : before s kind unit b c) : before s kind unit a c :=
  before_iff.2 (listBefore_trans (before_iff.1 h) (before_iff.1 g))

theorem before_asymm (h : before s kind unit a b) : ¬before s kind unit b a := fun g => by
  have hself := before_iff.1 (before_trans h g)
  rw [listBefore_irrefl] at hself
  cases hself

/-- No request stands behind one that it goes before. -/
def InOrder (s : State) (kind unit : Nat) (l : List BucketRequest) : Prop := l.Pairwise fun a b => ¬before s kind unit b a

theorem insertRequest_cons (r x : BucketRequest) (l : List BucketRequest) :
    (before s kind unit r x ∧ insertRequest s kind unit r (x :: l) = r :: x :: l) ∨
    (¬before s kind unit r x ∧ insertRequest s kind unit r (x :: l) = x :: insertRequest s kind unit r l) := by
  rw [insertRequest]
  by_cases h : before s kind unit r x
  · exact .inl ⟨h, if_pos (before_iff.1 h)⟩
  · exact .inr ⟨h, if_neg fun hb => h (before_iff.2 hb)⟩

theorem perm_insertRequest (r : BucketRequest) (l : List BucketRequest) : (insertRequest s kind unit r l).Perm (r :: l) := by
  induction l with
  | nil => exact .refl _
  | cons x l ih =>
    rcases insertRequest_cons (s := s) (kind := kind) (unit := unit) r x l with ⟨-, h⟩ | ⟨-, h⟩
    · rw [h]
    · rw [h]
      exact (ih.cons x).trans (.swap r x l)

theorem inOrder_insertRequest {r : BucketRequest} {l : List BucketRequest} (hl : InOrder s kind unit l) :
    InOrder s kind unit (insertRequest s kind unit r l) := by
  induction l with
  | nil => exact List.pairwise_singleton _ _
  | cons x l ih =>
    obtain ⟨hx, hrest⟩ := List.pairwise_cons.1 hl
    rcases insertRequest_cons (s := s) (kind := kind) (unit := unit) r x l with ⟨hb, h⟩ | ⟨hb, h⟩
    · rw [h]
      refine List.pairwise_cons.2 ⟨fun y hy => ?_, hl⟩
      rcases List.mem_cons.1 hy with rfl | hy
      · exact before_asymm hb
      · exact fun hyr => hx y hy (before_trans hyr hb)
    · rw [h]
      refine List.pairwise_cons.2 ⟨fun y hy => ?_, ih hrest⟩
      rcases List.mem_cons.1 ((perm_insertRequest r l).mem_iff.1 hy) with rfl | hy
      · exact hb
      · exact hx y hy

/-- The requests of a round in the order in which it serves them. -/
theorem sorted_requests (l : List BucketRequest) : (l.foldr (insertRequest s kind unit) []).Perm l ∧
    InOrder s kind unit (l.foldr (insertRequest s kind unit) []) := by
  induction l with
  | nil => exact ⟨.refl _, List.Pairwise.nil⟩
  | cons r l ih => exact ⟨(perm_insertRequest r _).trans (ih.1.cons r), inOrder_insertRequest ih.2⟩

/-- Whether an arbiter serves a request's VF (R363). -/
def serves (s : State) (kind unit : Nat) (r : BucketRequest) : Bool :=
  (partOf s r.vf).any fun e => (arbitersOf e.2 kind).contains unit

theorem arbiterServes_eq (r : BucketRequest) : arbiterServes s kind unit r.vf = serves s kind unit r := by
  unfold arbiterServes serves
  cases partOf s r.vf <;> rfl

theorem arbitrationRound_next (requests : List BucketRequest) : exec (.arbitrationRound kind unit requests) s
    = .next (((requests.filter (serves s kind unit)).foldr (insertRequest s kind unit) []).foldl (grantOne kind unit) s) := by
  show execArbitrationRound kind unit requests s = _
  have hfilter : (requests.filter fun r => arbiterServes s kind unit r.vf) = requests.filter (serves s kind unit) :=
    List.filter_congr fun r _ => arbiterServes_eq r
  unfold execArbitrationRound
  dsimp only
  rw [hfilter]

/-- A round with one request: its owner's bucket serves it, or the pool, or nothing (R366). -/
theorem grantOne_holds (r : BucketRequest) :
    grantOne kind unit s r = { s with buckets := (grantOne kind unit s r).buckets, pools := (grantOne kind unit s r).pools } ∧
    (∀ k, mapGet (grantOne kind unit s r).buckets k = if 1024 ≤ bucket s kind unit r.vf ∧ k = 2 ^ 24 * kind + 1024 * unit + r.vf
      then some (bucket s kind unit r.vf - 1024 * r.tokens) else mapGet s.buckets k) ∧
    ∀ k, mapGet (grantOne kind unit s r).pools k = if bucket s kind unit r.vf < 1024 ∧ 1024 * r.tokens ≤ pool s kind unit ∧
      k = 2 ^ 14 * kind + unit then some (pool s kind unit - 1024 * r.tokens) else mapGet s.pools k := by
  unfold grantOne
  by_cases howner : 1024 ≤ bucket s kind unit r.vf
  · have hnot : ¬bucket s kind unit r.vf < 1024 := by omega
    rw [grant_owner howner]
    refine ⟨rfl, fun k => (mapGet_mapSet _ _ _ _).trans ?_, fun k => (if_neg fun hc => hnot hc.1).symm⟩
    simp only [howner, true_and, bucketKey]
    rfl
  · have hless : bucket s kind unit r.vf < 1024 := by omega
    by_cases hp : 1024 * r.tokens ≤ pool s kind unit
    · rw [grant_borrower howner hp]
      refine ⟨rfl, fun k => (if_neg fun hc => howner hc.1).symm, fun k => (mapGet_mapSet _ _ _ _).trans ?_⟩
      simp only [hless, hp, true_and, poolKey]
      rfl
    · rw [grant_none howner hp]
      exact ⟨rfl, fun k => (if_neg fun hc => howner hc.1).symm, fun k => (if_neg fun hc => hp hc.2.1).symm⟩

/-! ## The clauses of O50 -/

/-- What a fabric cycle and its accrual leave of a state: `c` is the state with the cycle counted, `x` the one with the tokens. -/
theorem kept_of_frames {c x : State} {acycle : Nat} {gangs : AMap Gang} (hc : c = { fabricCycle s with
      acycle := acycle, gangs := gangs, workgroups := c.workgroups })
    (hx : x = { c with buckets := x.buckets, pools := x.pools, owed := x.owed, refills := [] }) :
    x.clock = s.clock + 1 ∧ x.fresh = [] ∧ x.hreg = s.hreg ∧ x.dram = s.dram ∧ x.spad = s.spad ∧ x.launches = s.launches ∧
    x.queues = s.queues ∧ x.freq = s.freq ∧ x.acycle = acycle ∧
    (x.aphase = if s.aphase + s.freq < 1400 then s.aphase + s.freq else s.aphase + s.freq - 1400) ∧ x.gangs = gangs ∧
    x.refills = [] := by
  rw [hx, hc]
  exact ⟨rfl, rfl, rfl, rfl, rfl, rfl, rfl, rfl, rfl, rfl, rfl, rfl⟩

/-- The gangs after a cycle: held one cycle longer, or ready for the token that is there now (R31, R380). -/
theorem gangs_releaseTokens {x : State} (hx : x.gangs = (passCycle s).gangs) {k : Nat} {g : Gang} (h : mapGet s.gangs k = some g) :
    ∃ c, mapGet (releaseTokens x).gangs k = some { g with heldCycles := c } ∨
      (g.hold = some .token ∧
        mapGet (releaseTokens x).gangs k = some { g with heldCycles := c, hold := none, ready := x.acycle }) := by
  obtain ⟨c, hc⟩ := mapGet_gangs_passCycle h
  exact ⟨c, mapGet_gangs_releaseTokens (hx ▸ hc)⟩

/-- A transfer that waits is paid by its owner's bucket. -/
theorem payOwed_owner {v n : Nat} (ho : s.owed = [⟨kind, unit, v, n⟩]) (hown : 1024 ≤ bucket s kind unit v) :
    (payOwed s).owed = [] ∧ bucket (payOwed s) kind unit v = bucket s kind unit v - 1024 * (n : Int) := by
  rw [payOwed_one ho, grant_owner hown]
  refine ⟨rfl, ?_⟩
  show (mapGet (mapSet _ (bucketKey kind unit v) _) (bucketKey kind unit v)).getD 0 = _
  rw [mapGet_mapSet, if_pos rfl, Option.getD_some]

/-- It is paid by the pool where that holds enough, and waits on where it does not. -/
theorem payOwed_borrower {v n : Nat} (ho : s.owed = [⟨kind, unit, v, n⟩]) (hless : bucket s kind unit v < 1024) :
    bucket (payOwed s) kind unit v = bucket s kind unit v ∧
    if 1024 * n ≤ pool s kind unit then (payOwed s).owed = [] ∧ pool (payOwed s) kind unit = pool s kind unit - 1024 * n
    else (payOwed s).owed = s.owed ∧ pool (payOwed s) kind unit = pool s kind unit := by
  have hnot : ¬1024 ≤ bucket s kind unit v := by omega
  rw [payOwed_one ho]
  by_cases henough : 1024 * n ≤ pool s kind unit
  · rw [if_pos henough, grant_borrower hnot henough]
    refine ⟨rfl, rfl, ?_⟩
    show (mapGet (mapSet _ (poolKey kind unit) _) (poolKey kind unit)).getD 0 = _
    rw [mapGet_mapSet, if_pos rfl, Option.getD_some]
  · rw [if_neg henough, grant_none hnot henough]
    exact ⟨rfl, rfl, rfl⟩

theorem payOwed_quiet (ho : s.owed = []) : (payOwed s).owed = [] ∧ (∀ v, bucket (payOwed s) kind unit v = bucket s kind unit v) ∧
    pool (payOwed s) kind unit = pool s kind unit := by
  rw [payOwed_nil ho]
  exact ⟨rfl, fun _ => rfl, rfl⟩

/-- Where nothing is owed, the cycle gives the buckets and the pool what it gives them. -/
theorem paid_quiet (h : PartitionsDisjoint s) (hk : kind < 8) (ho : s.owed = []) :
    (paid s).owed = [] ∧ (∀ v ∈ arbiterVfs s kind unit, bucket (paid s) kind unit v = accrued s kind unit v) ∧
    (arbiterVfs s kind unit ≠ [] → ((arbiterVfs s kind unit).map fun v => rate s v kind).sum ≤ capacityOf kind →
      pool (paid s) kind unit = swollen s kind unit) := by
  obtain ⟨howed, hbucket, hpool⟩ := payOwed_quiet (kind := kind) (unit := unit) (grown_owed.trans ho)
  rw [paid_eq]
  refine ⟨howed, fun v hv => ?_, fun hne hsum => ?_⟩
  · rw [hbucket v, (grown_holds h hk (List.ne_nil_of_mem hv)).1 v hv]
  · rw [hpool, (grown_holds h hk hne).2 hsum]

theorem paid_owner (h : PartitionsDisjoint s) (hk : kind < 8) {v n : Nat} (ho : s.owed = [⟨kind, unit, v, n⟩])
    (hv : v ∈ arbiterVfs s kind unit) (hown : 1024 ≤ accrued s kind unit v) :
    (paid s).owed = [] ∧ bucket (paid s) kind unit v = accrued s kind unit v - 1024 * (n : Int) := by
  have hb := (grown_holds h hk (List.ne_nil_of_mem hv)).1 v hv
  rw [← hb] at hown ⊢
  rw [paid_eq]
  exact payOwed_owner (grown_owed.trans ho) hown

theorem paid_borrower (h : PartitionsDisjoint s) (hk : kind < 8) {v n : Nat} (ho : s.owed = [⟨kind, unit, v, n⟩])
    (hv : v ∈ arbiterVfs s kind unit) (hless : accrued s kind unit v < 1024)
    (hsum : ((arbiterVfs s kind unit).map fun v => rate s v kind).sum ≤ capacityOf kind) :
    bucket (paid s) kind unit v = accrued s kind unit v ∧
    if 1024 * n ≤ swollen s kind unit then (paid s).owed = [] ∧ pool (paid s) kind unit = swollen s kind unit - 1024 * n
    else (paid s).owed = s.owed ∧ pool (paid s) kind unit = swollen s kind unit := by
  obtain ⟨hall, hpool⟩ := grown_holds h hk (List.ne_nil_of_mem hv)
  rw [← hall v hv] at hless ⊢
  rw [← hpool hsum, ← grown_owed (s := s), paid_eq]
  exact payOwed_borrower (grown_owed.trans ho) hless

/-- What a cycle and the round over the transfers that wait leave at an arbiter, where at most one waits (R366, R367). -/
def Pays (s x : State) (kind unit : Nat) : Prop :=
  (s.owed = [] → x.owed = [] ∧ (∀ v ∈ arbiterVfs s kind unit, bucket x kind unit v = accrued s kind unit v) ∧
    (arbiterVfs s kind unit ≠ [] → ((arbiterVfs s kind unit).map fun v => rate s v kind).sum ≤ capacityOf kind →
      pool x kind unit = swollen s kind unit)) ∧
  ∀ v n, s.owed = [⟨kind, unit, v, n⟩] → v ∈ arbiterVfs s kind unit →
    (1024 ≤ accrued s kind unit v → x.owed = [] ∧ bucket x kind unit v = accrued s kind unit v - 1024 * (n : Int)) ∧
    (accrued s kind unit v < 1024 → ((arbiterVfs s kind unit).map fun v => rate s v kind).sum ≤ capacityOf kind →
      bucket x kind unit v = accrued s kind unit v ∧
      if 1024 * n ≤ swollen s kind unit then x.owed = [] ∧ pool x kind unit = swollen s kind unit - 1024 * n
      else x.owed = s.owed ∧ pool x kind unit = swollen s kind unit)

theorem pays_paid (h : PartitionsDisjoint s) (hk : kind < 8) : Pays s (paid s) kind unit :=
  ⟨paid_quiet h hk, fun _ _ ho hv => ⟨paid_owner h hk ho hv, paid_borrower h hk ho hv⟩⟩

end

/-- Settles O50. Each arbiter has one turn in a cycle, and the turns of the others leave its buckets and its pool alone; a round
sorts its requests by an order that is `before`. -/
theorem tokenEvents : Obligations.TokenEvents := by
  refine ⟨fun s => ?_, fun s kind unit requests => ⟨fun r hr hserves => ?_, ?_⟩⟩
  · obtain ⟨hclock, hfresh, hhreg, hdram, hspad, hlaunches, hqueues, hfreq, hacycle, haphase, hgangs, hrefills⟩ :=
      kept_of_frames (s := s) (c := cycled s) (x := paid s) cycled_frame paid_frame
    have htokens : PartitionsDisjoint s → ∀ kind < 8, ∀ u, Pays s (paid s) kind u := fun hdis kind hk u => pays_paid hdis hk
    have hnext : exec .bucketAccrual s = .next (releaseTokens (paid s)) := bucketAccrual_next
    generalize paid s = x at *
    exact ⟨releaseTokens x, hnext, hclock, hfresh, hhreg, hdram, hspad, hlaunches, hqueues, hfreq, hacycle.trans acycle_passCycle,
      haphase, fun k g => gangs_releaseTokens hgangs, hrefills, htokens⟩
  · have hone : requests.filter (serves s kind unit) = [r] := by
      have hs : serves s kind unit r = true := hserves
      rw [hr, List.filter_cons_of_pos hs, List.filter_nil]
    have hnext := arbitrationRound_next (s := s) (kind := kind) (unit := unit) requests
    rw [hone] at hnext
    obtain ⟨hframe, hbuckets, hpools⟩ := grantOne_holds (s := s) (kind := kind) (unit := unit) r
    exact ⟨grantOne kind unit s r, ⟨hnext, hframe⟩, hbuckets, hpools⟩
  · obtain ⟨hperm, horder⟩ := sorted_requests (s := s) (kind := kind) (unit := unit) (requests.filter (serves s kind unit))
    exact ⟨_, hperm, horder, arbitrationRound_next requests⟩

end Sys2Proof.Machine
end
